-- ==== Sys2Proof/Word.lean ====
section
/-! DEFINITION. The plain word types of the MZD-9610 model: bytes, 32-bit register words, flow tags, and the index
ranges of the spec's identifiers ("Other identifiers" of 00_scope.md). -/

namespace Sys2Proof

/-- One byte. -/
abbrev Byte := BitVec 8
/-- One 32-bit control-window word (R4). -/
abbrev Word32 := BitVec 32
/-- A 192-bit flow tag (R47). -/
abbrev Tag := BitVec 192

/-- Island number, 0 to 27 (R31). -/
abbrev Isl := Fin 28
/-- Die number, 0 to 3,071. -/
abbrev Die := Fin 3072
/-- Flash channel, 0 to 95. -/
abbrev Chan := Fin 96
/-- Flash cluster, 0 to 11. -/
abbrev Clus := Fin 12
/-- Host port slot, 0 to 31 (R82). -/
abbrev PSlot := Fin 32
/-- Host port group, 0 to 7. -/
abbrev Grp := Fin 8
/-- Function number, 0 to 4,127. -/
abbrev Fn := Fin 4128
/-- Command slot, 0 to 65,535 (R120). -/
abbrev SlotId := Fin 65536
/-- Global zone number, 0 to 262,143. -/
abbrev ZoneId := Fin 262144
/-- Tenant, 0 to 4,095. -/
abbrev Ten := Fin 4096
/-- DRAM channel, 0 to 7. -/
abbrev DramCh := Fin 8
/-- Thermal diode, 0 to 39. -/
abbrev Diode := Fin 40
/-- Sequencer rail, 0 to 15. -/
abbrev Rail := Fin 16
/-- Stepesha sub-link, 0 or 1. -/
abbrev SubLink := Fin 2
/-- Vault key slot, 0 to 8,447. -/
abbrev KeySlotNo := Fin 8448

/-- The three requesters of the control window (R14, R17). -/
inductive Rq where
  | bar2
  | i3c
  | firmware
deriving DecidableEq, Repr

end Sys2Proof
end

