-- ==== Sys2Proof/Syntax.lean ====
section
/-! DEFINITION. The commands the block takes: one constructor for each row of the spec's table, and the operand types. -/

namespace Sys2Proof

/-- What a data completion brings (R94, R96): bytes, or the EP bit or a status of UR or CA. -/
inductive DataStatus where
  | ok
  | poisoned
deriving DecidableEq, Repr

/-- The reads a PCIe completion timeout can end (R95): of a command; of SQ entries, named by a slot its burst has reserved; of an image. -/
inductive CtoOf where
  | command (slot : SlotId)
  | sqFetch (slot : SlotId)
  | image
deriving DecidableEq, Repr

/-- What a port's training or idle time ends in (R84, R85): L0 in FLIT mode or not; or, of a link in L0, L1 by ASPM. -/
inductive LinkEnd where
  | l0 (flit : Bool)
  | l1
deriving DecidableEq, Repr

/-- Why a TLP is one of R101. -/
inductive TlpFault where
  | malformed
  | ecrc
  | undecoded
deriving DecidableEq, Repr

/-- A TLP of R101: why it is one, whether it is a request, and its header. -/
structure BadTlp where
  why : TlpFault
  isRequest : Bool
  header : List Byte
deriving DecidableEq, Repr

/-- An access to a function's BAR0 (R87, R89): its offset, and the data of a write or none of a read. -/
structure Bar0Access where
  off : Nat
  data : Option (BitVec 32)
deriving DecidableEq, Repr

/-- A tag beat at an island (R34, R50); `garbled`: its response code arrives at the sender as the reserved one. -/
structure Beat where
  tag : Tag
  garbled : Bool
deriving DecidableEq, Repr

/-- A substream of an IDE stream (R91). -/
structure SubStream where
  stream : Fin 9
  sub : Fin 6
deriving DecidableEq, Repr

/-- What a configuration request does (R85, R86, R91, R463): it reads what the function reports; writes a physical function's NumVFs, its payload and
read request sizes, its completion timeout range and disable, its link control, its MSI-X enable and mask, the association ranges of one of its port's
selective IDE streams (in routing numbers); or clears its port's AER log. -/
inductive CfgReq where
  | read
  | numVfs (n : Fin 4097)
  | deviceControl (mps mrrs : Fin 8)
  | deviceControl2 (range : Fin 16) (off : Bool)
  | linkControl (aspmL1 : Bool)
  | msixControl (on mask : Bool)
  | ideSelective (stream : Fin 8) (lo hi : Nat) (addrs : List (Nat × Nat))
  | aerClear
deriving DecidableEq, Repr

/-- The indirect windows whose copies end by themselves (R111, R175, R210, R246). -/
inductive Win where
  | qcx
  | zcx
  | dcx
  | tnt
  | ldg
  | blk
deriving DecidableEq, Repr

/-- How a training run ends (R224, R225): its narrowest eyes, or a finding that abandons it. -/
inductive TrainEnd where
  | eyes (rd wr : Nat)
  | busy
  | status
  | mode
  | noAnswer
deriving DecidableEq, Repr

/-- What a die reset ends with, and at start the identification with it (R216, R229): ready; ready, without program or erase suspend;
no answer; a parameter page that fails R216; not ready in time. -/
inductive DieReset where
  | ok
  | noSuspend
  | noAnswer
  | badGeometry
  | notReady
deriving DecidableEq, Repr

/-- What a deadline watch looks at (R205): a command, or a unit of the device's own. -/
inductive MissOf where
  | slot (slot : SlotId)
  | unit (id : Nat)
deriving DecidableEq, Repr

/-- An IDE_KM message (R91): a key of a substream for a key set, or a substream's switch to a key set. -/
inductive IdeKm where
  | keyProg (q : PSlot) (stream : SubStream) (keyset : Fin 2)
  | setGo (q : PSlot) (stream : SubStream) (keyset : Fin 2)
deriving DecidableEq, Repr

/-- A GCM message (R292): its use (0 Stepesha frame, 1 metadata record, 2 wrapped key record), key slot, length, deadline and
bytes done. -/
structure GcmMsg where
  use : Nat
  slot : Nat
  len : Nat
  deadline : Nat
  done : Nat
deriving DecidableEq, Repr

/-- Whose data a granule of SRAM or DRAM holds (R397): data of a command not yet folded; read, solve or transform output of a read's
part; a frame being received; management cells; a row's staging or accumulator at a codeword of a member, `lost` when two or more
units fail there; the twin's copy of a row at a codeword; a function's queue context; a zone's context, `lost` when no copy of it is
left; a row of a move; a free buffer. -/
inductive GOwner where
  | hostData (slot : SlotId)
  | readData (slot : SlotId) (part : Nat)
  | frame (sub : SubLink)
  | mgtCells
  | staging (zone : ZoneId) (row : Fin 1024) (member : Fin 18) (page : Fin 16) (cw : Fin 4) (lost : Bool)
  | mirror (zone : ZoneId) (row : Fin 1024) (member : Fin 18) (page : Fin 16) (cw : Fin 4)
  | queueCtx (fn : Fn)
  | zoneCtx (zone : ZoneId) (lost : Bool)
  | moveRow (zone : ZoneId) (member : Fin 18)
  | free
deriving DecidableEq, Repr

/-- A granule read in error (R393): the positions of the bits that are flipped in it as stored, check bits among them, and whose data it is. A DRAM burst
has beat b, device d and its line k at 40 b + 4 d + k. -/
structure MemErr where
  granule : Nat
  flips : List Nat
  owner : GOwner
deriving DecidableEq, Repr

/-- What every received Stepesha frame brings (R408 to R410): its sub-link, SEQ, XSEQ and KEYNUM, whether its tag (before keys its
CRC) verifies, its SLACK, and its ZONE, none with NOZONE. -/
structure RxFrame where
  sub : SubLink
  seq : Nat
  xseq : Nat
  keyNum : Nat
  tagOk : Bool
  slack : Nat
  zone : Option ZoneId
deriving DecidableEq, Repr

/-- What SPDM has found out of the twin where an attestation comes to its end (R345): its certificate chain, and the raw value of its measurement 5. -/
structure TwinEvidence where
  chain : List Byte
  index5 : List Byte
deriving DecidableEq, Repr

/-- What wakes the device from Lull (R483) besides the events that have rows of their own. -/
inductive LullSrc where
  | unit (i : Isl)
  | cw (i : Isl)
  | schedule
deriving DecidableEq, Repr

/-- The Calm wake sources (R487). -/
inductive CalmSrc where
  | i3c
  | smbus
  | perst (g : Grp)
  | twinHb
  | timer
deriving DecidableEq, Repr

/-- The die operation a FWDREQ asks for (R411). -/
structure FwdOp where
  flags : Fin 256
  die : Fin 65536
  block : Fin 65536
  row : Fin 65536
  page : Fin 256
  cw : Fin 256
  tenant : Fin 65536
  req : BitVec 32
deriving DecidableEq, Repr

/-- The register pairs with a shadow for each requester (R14). -/
inductive RegPair where
  | imgSrc
  | genUid
  | islDtc
  | cmpIn
  | cmpOut
  | cphXts
  | cphGcm
  | cphIv
  | scrubBase
  | drcRd (ch : DramCh)
  | drcWr (ch : DramCh)
deriving DecidableEq, Repr

/-- Device-originated work that is retried from its source (R39, R52, R360): an allocation by its request number, a die unit by its device slot, or
a transfer unit by the island that refused it and its tag. -/
inductive DevWork where
  | pool (id : Nat)
  | unit (slot : SlotId)
  | beat (i : Isl) (tag : Tag)
deriving DecidableEq, Repr

/-- The commands of the block, one for each row of the opcode table. -/
inductive Instr where
  /-- R6: A CW write to a register that has no row of its own takes effect by its access codes. -/
  | cwWrite (rq : Rq) (off : BitVec 26) (data : List (Option Byte))
  /-- R8: A read of a register holding an RC field returns it and clears the field. -/
  | rcFieldRead (rq : Rq) (off : BitVec 26) (len : Nat)
  /-- R14: A read of a _LO register latches the upper half into the requester's shadow. -/
  | loRegisterRead (rq : Rq) (p : RegPair)
  /-- R14: A read of a _HI register returns the requester's shadow after a _LO read, or the live half. -/
  | hiRegisterRead (rq : Rq) (p : RegPair)
  /-- R36: A CW access to an island that is off, waking or in reset is answered by its porter, with or without a wake. -/
  | porterCwAccess (rq : Rq) (off : BitVec 26) (data : Option (BitVec 32))
  /-- R31: An island finishes waking, loads its DTC and epoch tables, and opens its handshakes. -/
  | islandWakeDone (i : Isl)
  /-- R38: An island is not ON 2.5 µs after a stalled access or unit; WAKEFAIL is set and the access or unit fails. -/
  | wakeTimeout (i : Isl)
  /-- R50: A transfer unit arrives across a boundary link, its tag is checked and the unit is acted on. -/
  | unitReceive (i : Isl) (u : Beat)
  /-- R42: An island has had no use for 10 µs and enters DRAINING. -/
  | islandIdleTimeout (i : Isl)
  /-- R40: All boundary FIFOs of a draining island are empty and its switch opens. -/
  | islandDrainDone (i : Isl)
  /-- R42: A write of ISL_CTL.PWR_REQ keeps an island on or lets it drain when unused. -/
  | islandPwrReqWrite (rq : Rq) (i : Isl) (pwrReq autowake : Bool)
  /-- R474: ISL_CTL.RST resets one island with effects that depend on the island. -/
  | islandReset (rq : Rq) (i : Isl) (pwrReq autowake : Bool)
  /-- R44: AON broadcasts the master DTC every 1,024 ticks and replicas more than 2 ticks off reload and record a skew fault. -/
  | dtcBroadcast (dev : List (Isl × Int))
  /-- R52: A live command that is not waiting has had no progress for 200 ms and is ended, recording event 0x3005. -/
  | lostPartWatchdog (slot : SlotId)
  /-- R58: ISL_BARCTL.GO queues a barrier, starts it if none is in flight, or refuses it when the queue is full. -/
  | barrierRequest (rq : Rq) (snap twin : Bool)
  /-- R54: CMD holds every acknowledgement of a barrier and completes it, starting the next queued barrier. -/
  | barrierComplete
  /-- R57: The twin's barrier acknowledgement has not arrived 20 µs after the marker; the barrier completes with result 2. -/
  | pairBarrierTimeout
  /-- R176: The per-zone snapshot record of a snapshot barrier is written and ZNE_SNAPSTAT.READY is set. -/
  | snapshotRecordDone
  /-- R72: IMG_CMD with OP 0 clears GO with no effect. -/
  | imgNop (rq : Rq) (src : Bool)
  /-- R72: IMG_CMD VERIFY validates the delivered image with no other effect. -/
  | verify (rq : Rq) (src : Bool)
  /-- R72: IMG_CMD STORE validates a full image and writes it to the inactive bank. -/
  | store (rq : Rq) (src : Bool)
  /-- R72: IMG_CMD ACTIVATE points the activation flag at the inactive bank by one flag-cell write. -/
  | activate (rq : Rq) (src : Bool)
  /-- R72: IMG_CMD LIVE validates a live image and runs an epoch switch. -/
  | live (rq : Rq) (src : Bool)
  /-- R72: A write to IMG_DATA stores 4 image bytes at IMG_DATAPTR and advances it by 4. -/
  | imgDataWrite (rq : Rq) (v : BitVec 32)
  /-- R72: The DMA read of an image from a host buffer completes and validation proceeds. -/
  | imageDmaDone (bytes : List Byte)
  /-- R72: Writing a stored image to the inactive bank completes. -/
  | storeBankWriteDone
  /-- R76: An island reports LOADED for the new epoch tables; when all 28 have, CMD stamps E′ and sends the commit marker. -/
  | epochLoaded (i : Isl)
  /-- R76: An island acknowledges the epoch commit; when all 28 have, the switch completes and DRAINING is set. -/
  | epochCommitAck (i : Isl)
  /-- R78: An island has not acknowledged 10 ms after PREPARE and the switch rolls back. -/
  | epochSwitchTimeout
  /-- R76: No command stamped with the old epoch remains, the old tables are released and DRAINING clears. -/
  | epochDrainDone
  /-- R80: The twins' GEN_LIVEVER still differ 1 s after a switch and event 0x1003 is recorded. -/
  | liveverMismatchTimeout (twinVer : BitVec 32)
  /-- R83: PERST_nk asserts; the group's ports go to DETECT and their functions are reset as by R98. -/
  | perstAssert (g : Grp)
  /-- R464: PERST_nk deasserts and the group's ports train. -/
  | perstDeassert (g : Grp)
  /-- R84: A port finishes training at its negotiated rate and width, recording an event if narrower. -/
  | portTrainDone (q : PSlot) (rate width : Nat) (e : LinkEnd)
  /-- R98: A hot reset ends every command of the port's functions and resets their queue contexts. -/
  | hotReset (q : PSlot)
  /-- R98: A port's link goes down and its functions are handled as for a port reset. -/
  | linkDown (q : PSlot)
  /-- R98: A surprise link down is handled as a port reset and sets HPT_EVT.SURPRISE. -/
  | surpriseLinkDown (q : PSlot)
  /-- R100: An FLR resets one function, and for a physical function its virtual functions. -/
  | functionLevelReset (f : Fn)
  /-- R97: HPT_PCTL.RETRAIN directs the link into Recovery. -/
  | portRetrain (rq : Rq) (q : PSlot) (disable : Bool)
  /-- R98: HPT_PCTL.DISABLE holds the link in DISABLED, handled as a link down. -/
  | portDisable (rq : Rq) (q : PSlot) (disable : Bool)
  /-- R87, R89: A 32-bit access to a BAR0 offset of a function; outside the layout it reads 0 or is discarded, and is counted. -/
  | bar0UnmappedAccess (f : Fn) (a : Bar0Access)
  /-- R101: A malformed, ECRC-failing or undecoded TLP is dropped or completed UR and counted. -/
  | malformedTlp (q : PSlot) (t : BadTlp)
  /-- R92: A TLP for an IDE-required function arriving outside a Secure stream is discarded or completed UR. -/
  | nonsecureTlp (f : Fn) (isRead : Bool)
  /-- R93: An IDE stream leaves Secure; dependent functions end their commands and set CSTS.CFS. -/
  | ideStreamFail (q : PSlot) (stream : Fin 9)
  /-- R91: IDE_KM K_SET_GO switches a substream between key sets K0 and K1 without TLP loss. -/
  | kSetGo (q : PSlot) (stream : SubStream) (keyset : Fin 2)
  /-- R94: A PCIe completion carrying command data arrives and restarts the command's data-stall timer. -/
  | dataCompletion (slot : SlotId) (q : PSlot) (bytes : List Byte) (status : DataStatus)
  /-- R94: A command's data-stall timer reaches its limit and the command ends with Data Transfer Error. -/
  | dataStallTimeout (slot : SlotId)
  /-- R95: A PCIe completion timeout fires for a device memory read and ends the command, fetch or image operation. -/
  | completionTimeout (w : CtoOf)
  /-- R97: A port has held no posted credit for its limit; the link is directed into Recovery. -/
  | creditStallTimeout (q : PSlot)
  /-- R97: The link is not back in L0 100 ms after a credit stall and is handled as a surprise link down. -/
  | creditRecoveryTimeout (q : PSlot)
  /-- R114: An SQ tail doorbell write is checked and adds a doorbell time pair. -/
  | sqTailDoorbell (f : Fn) (y : Fin 65536) (v : BitVec 16)
  /-- R113: A CQ head doorbell write is checked and releases CQ entries. -/
  | cqHeadDoorbell (f : Fn) (y : Fin 65536) (v : BitVec 16)
  /-- R116: The HST island arbitrates eligible SQs and issues a fetch burst, reserving command slots. -/
  | sqFetch (h : Grp)
  /-- R119: Fetched SQ entries arrive and are passed to CMD for acceptance, stamping and checks. -/
  | sqEntryArrival (first : SlotId × List Byte) (more : List (SlotId × List Byte))
  /-- R127: A Read is checked and each LBA is classified to flash, write buffer, wait or unwritten. -/
  | read (slot : SlotId)
  /-- R131: A Write is checked, accepted at RWP, quota-charged and its data fetched. -/
  | write (slot : SlotId)
  /-- R145: A Write Zeroes is handled as a write of zeros under the sequential rules. -/
  | writeZeroes (slot : SlotId)
  /-- R131: A Zone Append is given the RWP as its first LBA and proceeds as a write. -/
  | zoneAppend (slot : SlotId)
  /-- R145: A Dataset Management deallocate completes successfully and changes no data. -/
  | datasetManagement (slot : SlotId)
  /-- R134: A Flush completes once every earlier write of its namespace or controller has committed or ended. -/
  | flush (slot : SlotId)
  /-- R135: A write or append meets all commit conditions; CWP advances and its completion is posted. -/
  | writeCommit (slot : SlotId)
  /-- R250: A command's data is folded into its row's P and Q accumulators once earlier writes are done. -/
  | parityFold (slot : SlotId)
  /-- R108: Create I/O Submission Queue creates an SQ or ends with a queue error. -/
  | createIoSubmissionQueue (slot : SlotId)
  /-- R108: Create I/O Completion Queue creates a CQ or ends with a queue error. -/
  | createIoCompletionQueue (slot : SlotId)
  /-- R139: Delete I/O Submission Queue stops fetch, aborts uncommitted commands and completes after their completions. -/
  | deleteIoSubmissionQueue (slot : SlotId)
  /-- R108: Delete I/O Completion Queue deletes a CQ unless an SQ still posts to it. -/
  | deleteIoCompletionQueue (slot : SlotId)
  /-- R138: Abort ends a command that has not committed, or reports that it runs on. -/
  | abort (slot : SlotId)
  /-- R205: An Asynchronous Event Request is held outstanding and receives pending events. -/
  | asynchronousEventRequest (slot : SlotId)
  /-- R107: Set Features Number of Queues returns QALLOC.COUNT − 1 or fails for a function with no I/O queues. -/
  | setFeaturesNumberOfQueues (slot : SlotId)
  /-- R107: Get Features Number of Queues returns QALLOC.COUNT − 1 or fails. -/
  | getFeaturesNumberOfQueues (slot : SlotId)
  /-- R116: Set Features Arbitration sets the burst and weights used for SQ fetch. -/
  | setFeaturesArbitration (slot : SlotId)
  /-- R116: Get Features Arbitration returns the current arbitration values. -/
  | getFeaturesArbitration (slot : SlotId)
  /-- R268: Set Features 0xC8 sets a compressed namespace's level. -/
  | setFeaturesCompressionLevel (slot : SlotId)
  /-- R268: Get Features 0xC8 returns a compressed namespace's level. -/
  | getFeaturesCompressionLevel (slot : SlotId)
  /-- R152: Identify returns controller and namespace data including MAR, MOR and atomicity values. -/
  | identify (slot : SlotId)
  /-- R143: Namespace Management create assigns zones, a data key and compression, or fails. -/
  | namespaceCreate (slot : SlotId)
  /-- R177: Namespace Management delete removes the tenant's namespace and clears its key slot. -/
  | namespaceDelete (slot : SlotId)
  /-- R559: Namespace Attachment attaches or detaches controllers named by CNTLID within the tenant. -/
  | namespaceAttachment (slot : SlotId)
  /-- R346: Format NVM with SES 1 or 2 replaces the namespace's data key, SES 1 also resetting its zones. -/
  | formatNvm (slot : SlotId)
  /-- R208: Get Log Page 0xC0 returns the requesting function's tenant context. -/
  | getLogPageTenant (slot : SlotId)
  /-- R520: Get Log Page 0xC1 returns up to 64 notices visible to the function. -/
  | getLogPageNotices (slot : SlotId)
  /-- R103: The ANA log page reports each group's state on this controller. -/
  | getLogPageAna (slot : SlotId)
  /-- R145: The Changed Zone List log page returns zones whose descriptors changed. -/
  | getLogPageChangedZoneList (slot : SlotId)
  /-- R327: The Firmware Slot Information log page reports the two firmware slots. -/
  | getLogPageFirmwareSlot (slot : SlotId)
  /-- R94: Firmware Image Download fetches a package part from host memory. -/
  | firmwareImageDownload (slot : SlotId)
  /-- R327: Firmware Commit action 000b verifies the package and writes it to the inactive bank. -/
  | firmwareCommitStore (slot : SlotId)
  /-- R327: Firmware Commit action 001b writes the package and activates its bank. -/
  | firmwareCommitStoreActivate (slot : SlotId)
  /-- R327: Firmware Commit action 010b names a bank for the next reset. -/
  | firmwareCommitActivate (slot : SlotId)
  /-- R327: Firmware Commit action 011b ends with Firmware Activation Requires Conventional Reset. -/
  | firmwareCommitImmediate (slot : SlotId)
  /-- R347: Sanitize Crypto Erase clears keys, raises DWK_GEN and returns every zone to Empty across the pair. -/
  | sanitizeCryptoErase (slot : SlotId)
  /-- R347: Sanitize Block Erase does a crypto erase and also erases every block of the claimed channels. -/
  | sanitizeBlockErase (slot : SlotId)
  /-- R347: Sanitize Exit Failure Mode leaves the sanitize failure state. -/
  | sanitizeExitFailureMode (slot : SlotId)
  /-- R347: Sanitize Overwrite is not supported and ends with an error. -/
  | sanitizeOverwrite (slot : SlotId)
  /-- R146: Open Zone makes a zone ZSEO or ends with a zone status. -/
  | openZone (slot : SlotId)
  /-- R146: Close Zone makes an open zone ZSC, or ZSE when it holds nothing. -/
  | closeZone (slot : SlotId)
  /-- R146: Finish Zone pads a partial row and makes the zone Full. -/
  | finishZone (slot : SlotId)
  /-- R146: Reset Zone returns a zone to ZSE and its blocks to awaiting erase after earlier reads. -/
  | resetZone (slot : SlotId)
  /-- R146: Offline Zone makes a Read Only zone Offline. -/
  | offlineZone (slot : SlotId)
  /-- R145: Set Zone Descriptor Extension ends with Invalid Field in Command. -/
  | setZoneDescriptorExtension (slot : SlotId)
  /-- R145: Report Zones returns zone descriptors with the CWP as write pointer. -/
  | reportZones (slot : SlotId)
  /-- R145: Extended Report Zones ends with Invalid Field in Command. -/
  | extendedReportZones (slot : SlotId)
  /-- R173: Zone Receive Action 0xF returns a header and the 128-byte context of each zone. -/
  | avfortZoneReport (slot : SlotId)
  /-- R111: A write to QCX_IDX starts a snapshot of a queue context into QCX_W. -/
  | qcxIdxWrite (rq : Rq) (v : BitVec 32)
  /-- R175: A write to ZNE_ZCX_IDX starts a copy of a zone context into ZNE_ZCX_W. -/
  | zneZcxIdxWrite (rq : Rq) (v : BitVec 32)
  /-- R210: A write to DLS_DCX_IDX starts a copy of a die context. -/
  | dlsDcxIdxWrite (rq : Rq) (v : BitVec 32)
  /-- R210: A write to TNT_IDX starts a copy of a tenant context. -/
  | tntIdxWrite (rq : Rq) (v : BitVec 32)
  /-- R210: A write to TNT_LDG_IDX brings a ledger entry up to date and copies it. -/
  | tntLdgIdxWrite (rq : Rq) (v : BitVec 32)
  /-- R246: A write to LDP_BLK_IDX starts a copy of a block context. -/
  | ldpBlkIdxWrite (rq : Rq) (v : BitVec 32)
  /-- R111: A context copy into an indirect window completes and READY is set. -/
  | windowCopyDone (w : Win)
  /-- R158: A partial row has received no data for AGE_MS and is spilled to the spill log. -/
  | spillAgeTimeout (z : ZoneId)
  /-- R158: A spill's programs end; the spill delta is sent and staging and partial parity are released. -/
  | spillProgramDone (z : ZoneId)
  /-- R169: A log block with the fewest valid units is compacted when fewer than 8 log blocks are free. -/
  | logCompaction
  /-- R169: A conventional zone holding over 1 GiB in log blocks is merged into a new data stripe. -/
  | zoneMerge (z : ZoneId)
  /-- R170: A stripe member scheduled for refresh or wear move is copied row by row to a new block. -/
  | memberRelocation (z : ZoneId) (i : Fin 18)
  /-- R183: A unit enters a die queue or its overflow list and the suspend decision is evaluated. -/
  | dieUnitEnqueue (d : Die)
  /-- R187: The die is ready after a suspend and serves queued reads until P resumes. -/
  | suspendReady (d : Die)
  /-- R184: A die operation ends, its charge is corrected and the next queue entry starts by deadline. -/
  | dieOperationDone (d : Die) (fail : Bool) (decodes : List (Option Nat)) (busy : Nat)
  /-- R196: Quota and gust buckets gain credit and held writes are released in acceptance order. -/
  | quotaBucketRefill (t : Ten) (us : Nat)
  /-- R205: A command's slack expires and the miss is counted, and aborted if ABORT_MISS is set. -/
  | deadlineMiss (w : MissOf)
  /-- R184: FCH_CTL.HOLD stops starting queue entries on a channel and resumes suspended operations. -/
  | channelHold (rq : Rq) (ch : Chan) (hold : Bool)
  /-- R229: FCH_CTL.RESETDIES resets every in-service die of the channel one after another. -/
  | channelResetDies (rq : Rq) (ch : Chan) (hold : Bool)
  /-- R222: FCH_CTL.TRAIN trains every populated CE of the channel. -/
  | channelTrain (rq : Rq) (ch : Chan) (hold : Bool)
  /-- R223: All dies of a CE are ready and a training run starts. -/
  | trainingRunStart (ch : Chan)
  /-- R223: A die is not ready for training in time and the run is refused with NOTREADY. -/
  | trainingNotreadyTimeout (ch : Chan)
  /-- R225: A training run ends, its eye result is accepted or rejected, or it is abandoned. -/
  | trainingRunDone (ch : Chan) (e : TrainEnd)
  /-- R224: A refused or abandoned training run is retried 10 ms later. -/
  | trainingRetryTimer (ch : Chan) (ce : Grp)
  /-- R227: No DQS beat has moved for 20 µs; the transfer ends and the die is reset. -/
  | dataPhaseWatchdog (d : Die) (dataIn : Bool)
  /-- R228: A die stays busy beyond twice nominal plus 1 ms and is reset. -/
  | dieOperationTimeout (d : Die)
  /-- R229: A die reset ends, offsets and interface values are restored, or the die is FAILED. -/
  | dieResetDone (d : Die) (r : DieReset)
  /-- R231: The soft decoder ends a codeword, decoding it or leaving it uncorrectable. -/
  | softDecodeDone (c : Clus) (decodes : List (Option Nat))
  /-- R235: The scrub schedule reads programmed blocks once per HOURS of power-on time. -/
  | scrubPassTimer
  /-- R240: Every 24 power-on hours static wear moves are started where the gap is reached. -/
  | wearLevelTimer
  /-- R242: LDP_DIECMD retire, or the bad-block count, puts a die in RETIRING. -/
  | dieRetire (rq : Rq) (die : Fin 4096)
  /-- R243: Every 50 ms each die's temperature is read and the media window judged. -/
  | dieTempPoll (d : Die) (temp : Option Int)
  /-- R215: ZQ CALIBRATION SHORT runs every 100 ms per target. -/
  | zqShortTimer (ch : Chan) (ce : Grp)
  /-- R255: The parity engine solves a codeword from 16 sources, or the codeword is unrecoverable. -/
  | rowSolveDone (id : Nat)
  /-- R262: The rebuild bucket gains rebuilt-data credit and the next rebuild row starts. -/
  | rebuildBucketRefill (us : Nat)
  /-- R264: Parity verify of every bound zone runs once per HOURS of power-on time. -/
  | parityVerifyTimer (found : List (Nat × Nat × List (Nat × Nat)))
  /-- R273: A compress engine finishes a block and emits it compressed or raw. -/
  | compressBlockDone (slot : SlotId) (payload : List Byte)
  /-- R283: A decompress engine decodes a block and verifies its CHECK. -/
  | decompressBlockDone (slot : SlotId) (part : Nat) (lbaOff : Fin 128) (stored : List Byte)
  /-- R290: An XTS lane finishes a data unit of a stored-data message. -/
  | xtsUnitDone (slot : SlotId) (units : Nat)
  /-- R295: A GCM lane finishes a message and releases its output only if the tag verifies. -/
  | gcmMessageDone (lane : Grp) (w : GcmMsg) (ok : Bool)
  /-- R298: A GCM lane suspends its message for an earlier-deadline message. -/
  | gcmSuspend (lane : Grp) (l w : GcmMsg)
  /-- R301: A key crosses the private key bus; a parity error resends or raises KEYBUS. -/
  | keyBusTransfer (i : KeySlotNo) (parityError : Bool)
  /-- R302: The last unit naming a CLEARING slot ends and the slot is cleared or reloaded. -/
  | keySlotClear (i : KeySlotNo)
  /-- R304: On-chip firmware unwraps a wrapped key record into its slot. -/
  | keyUnwrap (i : KeySlotNo) (tagOk : Bool)
  /-- R306: An island supply dips below 85 % for 2 ns and raises the VGLITCH alarm. -/
  | voltageGlitch (i : Isl)
  /-- R306: An island clock deviates beyond ±25 % and raises the CLKMON alarm. -/
  | clockMonitorFault (i : Isl)
  /-- R306: The shield mesh breaks and raises the SHIELD alarm. -/
  | shieldBreach
  /-- R306: The lockstep cores disagree and raise the LOCKSTEP alarm. -/
  | lockstepMismatch
  /-- R306: A write of 0x0A1A_0001 to KVT_FORCE raises the FORCE alarm. -/
  | kvtForce (rq : Rq) (v : BitVec 32)
  /-- R319: A write to NVA_KEY advances or fails the unlock sequence. -/
  | nvaKeyWrite (rq : Rq) (v : BitVec 32)
  /-- R319: A write to NVA_CMD names the operation of the unlocked sequence. -/
  | nvaCmdWrite (rq : Rq) (v : BitVec 32)
  /-- R319: A write to NVA_DATA supplies a program word; the eighth starts PROGRAM. -/
  | nvaDataWrite (rq : Rq) (v : BitVec 32)
  /-- R314: An ENVA program of one 32 B unit starts after the eighth data word. -/
  | program
  /-- R314: An ENVA sector erase starts at the address write. -/
  | erase
  /-- R319: An ENVA blank check of a sector starts at the address write. -/
  | blankcheck
  /-- R320: More than 1 ms passes between sequence steps and the sequence fails with TIMEOUT. -/
  | nvaSequenceTimeout
  /-- R314: An ENVA program or erase pulse ends and is verified. -/
  | nvaPulseDone (ok : Bool)
  /-- R316: A write to NVA_RADDR starts loading the CW read buffer line. -/
  | nvaRaddrWrite (rq : Rq) (v : BitVec 32)
  /-- R316: A read of NVA_RDATA returns the buffered word and advances, stalls or returns 0. -/
  | nvaRdataRead (rq : Rq)
  /-- R316: The CW read buffer line is loaded and RDVALID is set. -/
  | nvaLineLoadDone
  /-- R316: A stalled NVA_RDATA read is not served within 2 µs; it returns 0 and sets RDMISS. -/
  | nvaRdataStallTimeout
  /-- R321: The array supply falls below 95 %; no new pulse starts. -/
  | nvaBrownout
  /-- R321: The supply has stayed above threshold for 100 µs and pulses resume. -/
  | nvaBrownoutRecover
  /-- R340: TRS_CMD.NONCE draws a fresh nonce and cancels any earlier one. -/
  | nonce
  /-- R340: A nonce becomes invalid 60 s after it was drawn. -/
  | nonceExpiry
  /-- R341: Owner command TAKE makes KEY the owner key when no owner is held. -/
  | take (b : List Byte)
  /-- R341: Owner command TRANSFER replaces or removes the owner key and ends debug grants. -/
  | transfer (b : List Byte)
  /-- R341: Owner command SET_LEVEL raises the protection level or lowers 1 to 0 with whole-array erase. -/
  | setLevel (b : List Byte)
  /-- R341: Owner command IMGKEY_SET loads an image-signing key into a slot. -/
  | imgkeySet (b : List Byte)
  /-- R341: Owner command IMGKEY_REVOKE revokes an image-key slot. -/
  | imgkeyRevoke (b : List Byte)
  /-- R341: Owner command UNLOCK passes re-authentication after a vault alarm. -/
  | unlock (b : List Byte)
  /-- R341: Owner command DEBUG_GRANT grants debug scopes for a time at level 1. -/
  | debugGrant (b : List Byte)
  /-- R341: An owner command with an undefined OP ends with BADOP. -/
  | badop (b : List Byte)
  /-- R342: TRS_CMD.REVOKE ends all debug grants. -/
  | debugRevoke
  /-- R342: A debug grant's time runs out and its scopes end. -/
  | debugGrantExpiry
  /-- R335: TRS_CMD.FWLOAD in ROM recovery checks a package, writes it to bank A and restarts. -/
  | fwload (rq : Rq)
  /-- R343: SPDM GET_VERSION is answered with the supported version. -/
  | spdmGetVersion (p : Fin 35)
  /-- R343: SPDM GET_CAPABILITIES is answered. -/
  | spdmGetCapabilities (p : Fin 35)
  /-- R343: SPDM NEGOTIATE_ALGORITHMS selects P-384, SHA-384 and AES-256-GCM. -/
  | spdmNegotiateAlgorithms (p : Fin 35)
  /-- R343: SPDM GET_DIGESTS returns certificate chain digests. -/
  | spdmGetDigests (p : Fin 35)
  /-- R343: SPDM GET_CERTIFICATE returns the slot 0 chain. -/
  | spdmGetCertificate (p : Fin 35) (slot offset len : Nat)
  /-- R343: SPDM CHALLENGE is answered signed by the alias key. -/
  | spdmChallenge (p : Fin 35) (request : List Byte)
  /-- R344: SPDM GET_MEASUREMENTS returns the measurement indices 1 to 6. -/
  | spdmGetMeasurements (p : Fin 35) (index : Nat) (signed : Bool) (request : List Byte)
  /-- R343: SPDM KEY_EXCHANGE starts a session. -/
  | spdmKeyExchange (p : Fin 35) (id : Nat) (request : List Byte)
  /-- R343: SPDM FINISH completes session establishment. -/
  | spdmFinish (p : Fin 35) (id : Nat)
  /-- R343: SPDM KEY_UPDATE updates session keys. -/
  | spdmKeyUpdate (p : Fin 35) (id : Nat)
  /-- R343: SPDM HEARTBEAT keeps a session alive. -/
  | spdmHeartbeat (p : Fin 35) (id : Nat)
  /-- R343: SPDM END_SESSION ends a session. -/
  | spdmEndSession (p : Fin 35) (id : Nat)
  /-- R343: SPDM VENDOR_DEFINED carries IDE_KM messages. -/
  | spdmVendorDefined (p : Fin 35) (id : Nat) (km : IdeKm)
  /-- R346: Key store sectors holding superseded records are erased within 10 s with live records carried forward. -/
  | keyStoreErase
  /-- R355: A requester asks a pool for buffers and is granted, refused or queued. -/
  | poolAllocRequest (rq : Fin 64) (sizes : List Nat) (work deadline : Nat) (cls : Fin 8) (popped : Option (BitVec 64))
  /-- R359: A waiting allocation request is granted in deadline order when buffers free. -/
  | poolGrant (p : Fin 64) (popped : Option (BitVec 64))
  /-- R360: A request has waited 5 ms and is withdrawn with an outcome by requester. -/
  | poolAllocWatchdog (id : Nat)
  /-- R361: An owner releases a buffer; at count 0 it returns to its free list and merges. -/
  | bufferRelease (rq : Fin 64) (buf : Nat)
  /-- R361: An owner is added to a buffer without waiting, or refused. -/
  | bufferAddOwner (rq : Fin 64) (buf : Nat)
  /-- R363: A pool's free lists are rebuilt and waiting requests proceed. -/
  | freeListRebuildDone (p : Fin 64) (popped : Option (BitVec 64))
  /-- R356: A write to BPM_RQCFG sets quota and minimum, refused if minima would exceed 1,024. -/
  | bpmRqcfgWrite (rq : Rq) (r : Fin 64) (v : BitVec 32)
  /-- R368: A lottery arbiter draws the next grant from the active tickets of the requesters. -/
  | arbiterDraw (i : Fin 12) (reqs : List Nat) (withdrew : Bool)
  /-- R370: A granted transfer ends and the grant parks or a draw follows. -/
  | arbiterTransferEnd (i : Fin 12) (reqs : List Nat)
  /-- R371: A write to ARB_TKT changes the shadow tickets, copied at the next draw. -/
  | arbTktWrite (rq : Rq) (inst : Fin 12) (wd : Fin 16) (v : BitVec 32)
  /-- R379: A granted DRAM access enters its subchannel queue with read-after-write checks. -/
  | dramAccessArrive (addr len : Nat) (write : Bool) (tenant : Option Ten) (owner : GOwner)
  /-- R380: A DRAM access completes and its data is checked by the RS code. -/
  | dramAccessDone (ch : DramCh) (sub : SubLink) (errs : List MemErr)
  /-- R383: Every tREFI the refresh debt of each subchannel rises by 4 and refresh is placed. -/
  | refreshInterval (ch : DramCh) (sub : SubLink)
  /-- R385: ALERT_n is sampled asserted and the CA parity recovery and replay run; the command fails again in `again` replays in a row. -/
  | dramAlert (ch : DramCh) (sub : SubLink) (index : Fin 64) (readable : Bool) (again : Fin 3)
  /-- R375: MR4 is read every 16 ms and the refresh rate follows it. -/
  | mr4Poll (ch : DramCh) (sub : SubLink) (double : Bool)
  /-- R387: The DQS oscillator is read every 1 ms and write DQS delay adjusted on drift. -/
  | dqsOscillatorPoll (ch : DramCh) (drift : Nat)
  /-- R389: DRC_CTL.TRAIN with TRAIN_OP DQ starts or refuses a DQ training run. -/
  | dramDqRun (rq : Rq) (ch : DramCh) (quiesce : Bool)
  /-- R389: DRC_CTL.TRAIN with TRAIN_OP full starts or refuses a full training run. -/
  | dramFullRun (rq : Rq) (ch : DramCh) (quiesce : Bool)
  /-- R388: A DRAM training run ends and its eyes are accepted or rejected. -/
  | dramTrainDone (ch : DramCh) (present ranks2 gb32 : Bool) (rd wr : Fin 64)
  /-- R389: DRC_CTL.QUIESCE stops or resumes grants of the channel's arbiter. -/
  | dramQuiesce (rq : Rq) (ch : DramCh) (quiesce full : Bool)
  /-- R398: SDP_REMAPCMD.GO remaps the address of a log entry. -/
  | sdpRemap (rq : Rq)
  /-- R395: A write to SDP_LOG_IDX copies an error log entry into SDP_LOG_W. -/
  | sdpLogIdxWrite (rq : Rq) (v : BitVec 32)
  /-- R402: SDP_SCRUB_CTL.GO starts or refuses a scrub of a memory range. -/
  | memoryScrub (rq : Rq) (mem : Fin 4)
  /-- R402: SDP_SCRUB_CTL.ABORT ends the running scrub after its granule. -/
  | scrubAbort (rq : Rq) (mem : Fin 4)
  /-- R402: A scrub reads its last granule, records its summary and event 0x6806. -/
  | memoryScrubDone (errs : List MemErr)
  /-- R407: A Stepesha flit is received, FEC corrected and CRC checked. -/
  | flitReceive (sub : SubLink) (bytes : List Byte) (found : Option TwinEvidence)
  /-- R405: A sub-link finishes training and comes up. -/
  | sublinkUp (sub : SubLink) (full : Bool)
  /-- R420: A HELLO frame is received and checked against this side. -/
  | hello (r : RxFrame) (body : List Byte)
  /-- R412: An SPDM fragment frame is received and reassembled into its message. -/
  | spdmFrame (r : RxFrame) (msg index : Fin 65536) (last : Bool) (msgLen : BitVec 32) (fragLen : Fin 65536) (body : List Byte) (found : Option TwinEvidence)
  /-- R430: A verified HEARTBEAT frame counts for its window. -/
  | heartbeat (r : RxFrame) (dtc : BitVec 64) (state devbaro epoch : Fin 256)
  /-- R415: An ACK frame frees the replay buffer and credit, or a NAK starts replay. -/
  | ack (r : RxFrame) (ackSeq credSeq : BitVec 64) (nak : Bool)
  /-- R423: A MIRROR frame's stored data is held in the mirror-receive pool. -/
  | mirror (r : RxFrame) (row : Fin 1024) (offset : BitVec 32) (body : List Byte)
  /-- R423: A COMMIT frame advances the twin's copy of the zone pointers. -/
  | commit (r : RxFrame) (cwp rwp pfp : BitVec 32) (flags : Fin 65536) (body : List Byte)
  /-- R424: A RELEASE frame frees the twin's mirror copy of a row or aborted data. -/
  | release (r : RxFrame) (row : Fin 1024) (reason : Fin 256) (pwp from_ : BitVec 32)
  /-- R426: A DELTA frame's records are applied in order to the twin's contexts. -/
  | delta (r : RxFrame) (body : List Byte)
  /-- R424: A PARITY frame delivers a parity unit for a member on the receiver's channels. -/
  | parity (r : RxFrame) (row : Fin 1024) (member : Fin 18) (q : Bool) (offset : BitVec 32) (body : List Byte)
  /-- R429: A forwarded read becomes a die unit on the receiving controller. -/
  | fwdreqRead (r : RxFrame) (q : FwdOp)
  /-- R424: A forwarded program writes a member unit from the mirror copy. -/
  | fwdreqProgram (r : RxFrame) (q : FwdOp)
  /-- R429: A forwarded erase becomes a die unit on the receiving controller. -/
  | fwdreqErase (r : RxFrame) (q : FwdOp)
  /-- R427: A FWDDATA frame delivers stored data of a forwarded read or write. -/
  | fwddata (r : RxFrame) (req offset : BitVec 32) (body : List Byte)
  /-- R424: A FWDDONE frame reports a forwarded die operation's status and busy time. -/
  | fwddone (r : RxFrame) (req : BitVec 32) (status : Fin 256) (bits_ : Fin 65536) (busyUs : BitVec 32)
  /-- R427: A FWDCMD frame brings a host command into the home controller's acceptance order. -/
  | fwdcmd (r : RxFrame) (fn : Fn) (queue : BitVec 32) (slot : SlotId) (tenant : Ten) (cls : Grp) (flags level : Fin 256) (entry : List Byte)
  /-- R427: A FWDCPL frame ends a forwarded command and its completion is posted. -/
  | fwdcpl (r : RxFrame) (slot : SlotId) (status : Fin 65536) (dw0 : BitVec 32)
  /-- R57: A MARKER frame runs or acknowledges a pair barrier on the twin. -/
  | marker (r : RxFrame) (marker : Fin 65536) (snap ack : Bool)
  /-- R434: A verified FENCE frame fences this controller. -/
  | fence (r : RxFrame) (reason : Fin 256)
  /-- R433: A verified FENCEACK completes fencing. -/
  | fenceack (r : RxFrame)
  /-- R347: A CTRL sanitize relay makes the twin run the sanitize steps. -/
  | ctrlSanitizeRelay (r : RxFrame) (blocks : Bool)
  /-- R425: A CTRL resend row request makes the owner resend a row's MIRROR frames. -/
  | ctrlResendRow (r : RxFrame) (row : Fin 1024)
  /-- R440: A CTRL handover swaps mirror and staging roles for the zones of rejoining groups. -/
  | ctrlHandover (r : RxFrame)
  /-- R440: A CTRL state transfer carries context records to a rejoining twin. -/
  | ctrlStateTransfer (r : RxFrame) (body : List Byte)
  /-- R411: A frame of reserved type or CTRL operation is counted for sequencing and discarded. -/
  | reservedFrame (r : RxFrame)
  /-- R417: A frame is not complete 2 µs after its first bytes and is discarded with a NAK. -/
  | frameIncompleteTimeout (sub : SubLink)
  /-- R416: The oldest unacknowledged frame was sent REPLAY_US ago and frames are replayed. -/
  | replayTimer (sub : SubLink)
  /-- R415: An ACK is sent every 10 µs while the sub-link is otherwise idle. -/
  | ackIdleTimer (sub : SubLink)
  /-- R413: TWN_CTL.REKEY draws next keys on both sub-links. -/
  | rekey (rq : Rq)
  /-- R419: The twin handshake has not reached claims 2 s after it began and the controller proceeds as on suspicion. -/
  | handshakeTimeout
  /-- R430: Every 50 µs a HEARTBEAT is sent on each sub-link that is up. -/
  | heartbeatSendTimer
  /-- R431: After 50 µs plus a random delay this controller pulls TWIN_HB low for 1 µs. -/
  | twinHbPulseTimer
  /-- R431: A twin pulse is seen on TWIN_HB and HB_SEEN is set. -/
  | twinHbPulseDetect
  /-- R430: A 50 µs heartbeat window closes and is counted missed or not. -/
  | heartbeatWindowClose
  /-- R432: TWN_CTL.FENCE starts fencing the twin at once. -/
  | fenceRequest (rq : Rq)
  /-- R433: Side B's DEFER_US ends unfenced and it asserts TWIN_FENCE_n. -/
  | fenceDeferTimeout
  /-- R433: TWIN_FENCE_n has been asserted for 1 ms and fencing is complete. -/
  | fenceLineTimeout
  /-- R434: TWIN_FENCE_n is found asserted for 2 µs while not driven and this controller is fenced. -/
  | twinFenceAssert
  /-- R438: Mirror replay and accumulator recompute end and the controller becomes SURVIVOR. -/
  | mirrorReplayDone
  /-- R436: CLAIM_SEEN_nk asserts and the controller may drive the cluster's channels. -/
  | claimSeenAssert (k : Clus)
  /-- R436: SEEN deasserts under a held claim; channels go high-impedance and the claim is retried. -/
  | claimSeenDeassert (k : Clus)
  /-- R436: A claim has no SEEN 2 ms after assertion and is refused. -/
  | claimRefuseTimeout (k : Clus)
  /-- R437: Side A, refused at takeover, claims again every 100 µs. -/
  | claimRetryTimer
  /-- R437: Side A has no SEEN 10 ms after fence completion and the takeover fails. -/
  | takeoverClaimTimeout
  /-- R440: TWN_CTL.REJOIN on the survivor hands state and home clusters back to the restarted twin. -/
  | rejoin (rq : Rq)
  /-- R445: SEQ_SYNC rises and stays high 1 µs; every device counts one front. -/
  | seqFront
  /-- R446: SEQ_IN is asserted in UP and the state's rails are enabled. -/
  | seqInAssert
  /-- R443: The ADC samples each VS input every 10 µs and rails are judged good, lost or discharged. -/
  | vsSample (codes : List (Fin 1024))
  /-- R443: A PG input changes and its rail is judged good or lost. -/
  | pgChange (r : Rail) (v : Bool)
  /-- R447: A rail is not good within PG_TIMEOUT of its enable and a sequencer fault is raised. -/
  | pgTimeout (r : Rail)
  /-- R447: No front arrives within FRONT_US; UP raises a fault, DOWN counts the front itself. -/
  | frontTimeout
  /-- R448: SEQ_FLT_n is seen asserted for 1 µs and the device enters shutdown order. -/
  | seqFltAssert
  /-- R448: PSQ_CTL.DOWN asserts SEQ_FLT_n and enters shutdown order. -/
  | psqDown (rq : Rq)
  /-- R450: A rail is not discharged within DIS_TIMEOUT and is recorded stuck. -/
  | dischargeTimeout (r : Rail)
  /-- R453: A PFAIL input counts as asserted; the first starts the flush, the second commits. -/
  | pfailAssert (b : Bool)
  /-- R451: A PFAIL input has been high for 1 µs and counts as deasserted. -/
  | pfailDeassert (b : Bool)
  /-- R454: The discrepancy count reaches DISC_T with the second input deasserted. -/
  | discrepancyTimeout
  /-- R456: A PFLUSH unit's program ends; after the last, STATE becomes DONE. -/
  | flushUnitDone (d : Die) (fail : Bool)
  /-- R459: A flush has not ended at BUDGET_MS; OVERBUDGET is set and it runs on. -/
  | flushBudgetTimeout
  /-- R457: A write of PLP_CFG sets the dirty limit and budget if the budget is met. -/
  | plpCfgWrite (rq : Rq) (v : BitVec 32)
  /-- R461: PORST_n deasserts and the cold start sequence runs to readiness. -/
  | coldStart (side : Fin 2) (twinPres : Bool) (selfTest : Fin 8) (metaOk : Bool)
  /-- R472: PORST_n asserts and the device is reset except ENVA and fuses. -/
  | porstAssert
  /-- R473: WARMRST_n or another warm trigger resets every island but AON and restarts at step 3. -/
  | warmReset (selfTest : Fin 8) (metaOk : Bool)
  /-- R472: The MGT watchdog expires after 1 s without service and a warm reset follows. -/
  | mgtWatchdogExpiry
  /-- R472: NVM Subsystem Reset on function 0 causes a warm reset. -/
  | nvmSubsystemReset
  /-- R463: A configuration request before the structure is applied completes with Request Retry Status. -/
  | configRequest (f : Fn) (c : CfgReq)
  /-- R465: CC.EN written 1 is held until start completes, then CSTS.RDY is set. -/
  | controllerEnable (f : Fn) (asq acq : BitVec 64) (asqs acqs : Fin 4096) (wrr : Bool)
  /-- R465: Start has not completed within CAP.TO of CC.EN and CSTS.CFS is set. -/
  | controllerReadyTimeout (f : Fn)
  /-- R475: CC.EN written 1 to 0 resets the controller's queue contexts and ends its commands. -/
  | controllerReset (f : Fn)
  /-- R477: CC.SHN stops fetch and completes when every command of the function has ended. -/
  | shutdownNotification (f : Fn) (abrupt : Bool)
  /-- R478: All functions have shut down; rows are programmed or spilled and a clean checkpoint written. -/
  | cleanShutdown (twinShut : Bool)
  /-- R466: A metadata checkpoint is taken after 64 erases on a die or 60 s, ending with a root record. -/
  | checkpoint
  /-- R481: The idle conditions have held for IDLE_MS and Lull entry begins. -/
  | lullIdleTimeout
  /-- R482: Lull-off islands are off and DRAM in self-refresh; STATE becomes LULL. -/
  | lullEntryDone
  /-- R483: A Lull wake event wakes every Lull-off island. -/
  | lullWake (w : LullSrc)
  /-- R483: PWR_CTL.WAKE is a wake event. -/
  | pwrWake (rq : Rq) (trimEn lullEn : Bool)
  /-- R483: PWR_WAKETMR expires and wakes the device from Lull or Calm. -/
  | wakeTimerExpiry
  /-- R480: A write of PWR_CTL.TRIM_EN turns Trim gating on or off. -/
  | trimEnWrite (rq : Rq) (trimEn lullEn : Bool)
  /-- R484: PWR_CTL.CALM starts Calm entry or is refused with a code. -/
  | calmRequest (rq : Rq) (trimEn lullEn : Bool)
  /-- R485: All islands but AON are off and the matcher is armed; STATE becomes CALM. -/
  | calmEntryDone
  /-- R487: An enabled Calm wake source starts Calm exit. -/
  | calmWake (w : CalmSrc)
  /-- R488: Calm exit completes and the device returns to Trim or Active. -/
  | calmExitDone
  /-- R486: The pair Calm heartbeat hold ends 500 ms after Calm exit started. -/
  | pairHoldEnd
  /-- R492: Every 100 µs every enabled diode is sampled and cross-check, Tj, throttle, THERM_n and trip evaluated. -/
  | diodeSample (readings : List Int)
  /-- R496: The write cap bucket gains credit and held writes are released. -/
  | throttleBucketRefill (us : Nat)
  /-- R500: THM_CAL.GO starts a calibration of one diode against THM_CALREF. -/
  | diodeCalibrate (rq : Rq) (sensor : Fin 64)
  /-- R500: A calibration's 100 ms window ends and its result and offset are set. -/
  | calibrationDone (stable : Bool) (mean : Int)
  /-- R503: A canary fails at the guard setting; the island clock steps down and the island is measured. -/
  | canaryGuardFail (i : Isl)
  /-- R504: Every 1,024 power-on hours every ON island is measured. -/
  | ageMeasureTimer
  /-- R504: AGE_CTL.MEASURE measures every island that is ON. -/
  | ageMeasure (rq : Rq)
  /-- R507: An island measurement ends, a ledger record is written and the point re-planned. -/
  | islandMeasureDone (i : Isl) (canary : List (Fin 64)) (ro0 ro1 : BitVec 16) (written : Bool)
  /-- R507: An island whose point changed is measured again 1 s later. -/
  | remeasureTimer (i : Isl)
  /-- R506: Each power-on hour advances every island's equivalent stress hours. -/
  | powerOnHour
  /-- R515: An event reaches the recorder and updates its code's record, bucket and fault state. -/
  | eventRaise (i : Isl)
  /-- R518: A code's notice bucket gains one token every REFILL_US. -/
  | tokenRefill (code : Fin 65536)
  /-- R516: EVR_CTL.CLEAR zeroes the record named in EVR_IDX, keeping it allocated. -/
  | clear (rq : Rq)
  /-- R514: EVR_CTL.FREE releases every record but 0x7001 for reallocation. -/
  | free (rq : Rq)
  /-- R523: A write of FLT_MASK changes which pending groups assert FAULT_n. -/
  | fltMaskWrite (rq : Rq) (v : BitVec 32)
  /-- R526: PTB_CTL.ARM seeds the injection LFSRs and sets ARMED. -/
  | arm (rq : Rq)
  /-- R527: PTB_CTL.STOP, or another stop cause, ends perturbation and resets the PTB registers. -/
  | stop (rq : Rq)
  /-- R530: A write of PTB_CORE.HALT stops or resumes management cores 2 to 15. -/
  | coreHalt (rq : Rq) (v : BitVec 32)
  /-- R531: PTB_BIST.GO runs the checker self-test in service on the masked memories. -/
  | ondemandSelftest (rq : Rq) (mask : Fin 8)
  /-- R535: A 4-byte I3C window write sets the window pointer. -/
  | i3cWindowPointerWrite (off : BitVec 32)
  /-- R535: An 8-byte I3C window write sets the pointer and writes the register at it. -/
  | i3cWindowWrite (bytes : List Byte)
  /-- R535: An I3C window read returns registers from the pointer, advancing it. -/
  | i3cWindowRead (n : Nat)
  /-- R407: A Stepesha sub-link receiver loses block lock, the sub-link goes down and retrains, and its unacknowledged frames are re-sealed on the other sub-link. -/
  | sublinkBlockLockLoss (sub : SubLink)
  /-- R440: TWIN_FENCE_n is released by the fencer, letting the waiting twin claim its home clusters and train at rejoin step 5. -/
  | twinFenceRelease
  /-- R360: Device-originated work that failed by REFUSE, the lost-part watchdog or a withdrawn allocation is retried from its source 1 ms later. -/
  | deviceWorkRetry (work : DevWork)
  /-- R193: A tenant's die credit regains 0 with time, releasing a program or erase held by the ledger. -/
  | ledgerCreditRecovery (t : Ten) (d : Die)
  /-- R531: An on-demand checker self-test ends, sets PTB_BIST.RESULT, clears GO and records event 0x6F03. -/
  | ondemandSelftestDone (bad : Fin 8)
  /-- R319: A write to NVA_ADDR advances the unlocked PROGRAM sequence, or fails it with SEQERR, TIMEOUT or ALIGN. -/
  | nvaAddrWrite (rq : Rq) (v : BitVec 32)
  /-- R556: VDD_AON or VDD_IO is lost while PORST_n is deasserted; AON stops driving, the EN_RAIL outputs fall off through sled pull-downs and the shared lines are released. -/
  | standbyRailLoss
  /-- R97: HPT_PCTL.RETRAIN clears 100 ms after it was set when the link has not returned to L0. -/
  | retrainTimeout (q : PSlot)
deriving DecidableEq, Repr

end Sys2Proof
end

