-- ==== Sys2Proof/Decode.lean ====
section
/-! DEFINITION. Words of the opcode table. The block has no instruction words: no row of its table gives bits, and commands arrive as
such. -/

namespace Sys2Proof

/-- The command a word of the table spells: none, for no row gives bits. -/
def decodeTableWord (_nbits _w : Nat) : Option Instr := none

end Sys2Proof
end

