-- ==== Sys2Proof/Machine/Bits.lean ====
section
/-! DEFINITION. Bit fields, byte order, and the check codes the spec fixes: CRC-16 of the flow tag (R47) and the CRC-64 and
field arithmetic of later chapters. -/

namespace Sys2Proof.Machine

/-- Bits `[hi:lo]` of a number. -/
def bits (x hi lo : Nat) : Nat := (x >>> lo) % 2 ^ (hi - lo + 1)

/-- Bit `i` of a number, as a Bool. -/
def bitOf (x i : Nat) : Bool := (x >>> i) % 2 = 1

/-- 1 for true. -/
def b1 (b : Bool) : Nat := if b then 1 else 0

/-- The number a little-endian byte string spells. -/
def leNat : List Byte → Nat
  | [] => 0
  | b :: bs => b.toNat + 256 * leNat bs

/-- `n` bytes of a number, least significant first. -/
def leBytes : Nat → Nat → List Byte
  | 0, _ => []
  | n + 1, x => BitVec.ofNat 8 x :: leBytes n (x / 256)

/-- The number a big-endian byte string spells. -/
def beNat (bs : List Byte) : Nat := leNat bs.reverse

/-- `n` bytes from offset `o` of a byte string. -/
def slice (bs : List Byte) (o n : Nat) : List Byte := (bs.drop o).take n

/-- The little-endian field of `n` bytes at offset `o`. -/
def fieldAt (bs : List Byte) (o n : Nat) : Nat := leNat (slice bs o n)

/-- `x` rounded up to a multiple of `n`, in units of `n`. -/
def ceilDiv (x n : Nat) : Nat := (x + n - 1) / n

/-- A number of `w` bits read as two's complement. -/
def toSigned (w x : Nat) : Int := if x % 2 ^ w < 2 ^ (w - 1) then (x % 2 ^ w : Nat) else ((x % 2 ^ w : Nat) : Int) - 2 ^ w

/-- A signed number written in `w` bits. -/
def ofSigned (w : Nat) (x : Int) : Nat := (x % (2 ^ w : Nat)).toNat

/-- One byte through the CRC-16 of polynomial 0x1021, most significant bit first. -/
def crc16Byte (crc : Nat) (b : Byte) : Nat :=
  (List.range 8).foldl (fun c _ => if bitOf c 15 then ((c <<< 1) ^^^ 0x1021) % 65536 else (c <<< 1) % 65536)
    (crc ^^^ (b.toNat <<< 8))

/-- CRC-16, polynomial 0x1021, initial value 0xFFFF, no reflection, no final exclusive-or (R47). -/
def crc16 (bs : List Byte) : Nat := bs.foldl crc16Byte 0xFFFF

/-- The check of a flow tag: CRC-16 over tag bits [175:0] as 22 bytes, bits [7:0] first (R47). -/
def tagCheck (t : Nat) : Nat := crc16 (leBytes 22 t)

/-- One byte through the CRC-64 of polynomial 0x42F0_E1EB_A9EA_3693, most significant bit first. -/
def crc64Byte (crc : Nat) (b : Byte) : Nat :=
  (List.range 8).foldl
    (fun c _ => if bitOf c 63 then ((c <<< 1) ^^^ 0x42F0E1EBA9EA3693) % 2 ^ 64 else (c <<< 1) % 2 ^ 64)
    (crc ^^^ (b.toNat <<< 56))

/-- CRC-64 of R272. -/
def crc64 (bs : List Byte) : Nat := bs.foldl crc64Byte 0

/-- Bytes cut or filled up with zeros to a length. -/
def fit (n : Nat) (bs : List Byte) : List Byte := (bs ++ List.replicate n 0).take n

/-- Two byte strings combined bit by bit by exclusive-or. -/
def xorBytes (a b : List Byte) : List Byte := a.zipWith (· ^^^ ·) b

/-- Population count of a number's low `n` bits. -/
def popcount (n x : Nat) : Nat := ((List.range n).filter (bitOf x ·)).length

/-- The numbers below `n` whose bits are set in `x`, ascending. -/
def setBits (n x : Nat) : List Nat := (List.range n).filter (bitOf x ·)

end Sys2Proof.Machine
end

