-- ==== Sys2Proof/Machine/Compress.lean ====
section
/-! DEFINITION. The compressed block format (R271 to R280): headers, canonical codes, the payload decoder and the check of a
block. Of an engine's payload the codes are its choice (R280), the matches are those of R281; what it stores for it is R273 and R274. -/

namespace Sys2Proof.Machine

/-! ## Blocks as stored -/

/-- The 24-byte header of a block (R271). -/
def blockHeader (raw early : Bool) (level origLen storedLen check lbaOff : Nat) : List Byte :=
  let h := leBytes 1 1 ++ leBytes 1 (b1 raw + 2 * b1 early) ++ leBytes 1 level ++ leBytes 1 0 ++ leBytes 4 origLen ++
    leBytes 4 storedLen ++ leBytes 8 check ++ leBytes 2 lbaOff
  h ++ leBytes 2 (crc16 h)

/-- The block an engine stores for a piece of `orig` bytes and its compressed payload: raw when that is no shorter (R273), zeros
up to the next 256 B boundary (R274). The Bool says raw. -/
def makeBlock (level lbaOff : Nat) (early : Bool) (orig payload : List Byte) : List Byte × Bool :=
  let raw := decide (orig.length ≤ 24 + payload.length)
  let body := if raw then orig else payload
  let b := blockHeader raw early level orig.length body.length (crc64 orig) lbaOff ++ body
  (b ++ List.replicate (ceilDiv b.length 256 * 256 - b.length) 0, raw)

/-! ## Canonical codes (R276) -/

/-- One code of a table: length, code value, symbol. -/
structure Code where
  len : Nat
  code : Nat
  sym : Nat
deriving DecidableEq, Repr

/-- Give the ordered symbols their codes, from the previous code and its length on. -/
def assignCodes : Nat → Nat → List (Nat × Nat) → List Code
  | _, _, [] => []
  | code, len, (l, s) :: t => ⟨l, code * 2 ^ (l - len), s⟩ :: assignCodes (code * 2 ^ (l - len) + 1) l t

/-- Put a (length, symbol) pair in order of length, then symbol. -/
def insertLen (a : Nat × Nat) : List (Nat × Nat) → List (Nat × Nat)
  | [] => [a]
  | b :: t => if a.1 < b.1 ∨ (a.1 = b.1 ∧ a.2 ≤ b.2) then a :: b :: t else b :: insertLen a t

/-- The codes of a table of lengths; none where it breaks R276. -/
def codesOf (lens : List Nat) : Option (List Code) :=
  let used := (((List.range lens.length).map fun i => (lens.getD i 0, i)).filter fun e => decide (e.1 ≠ 0)).foldr insertLen []
  let kraft := (used.map fun e => 2 ^ (15 - e.1)).sum
  if used.length ≥ 2 ∧ kraft ≠ 32768 then none
  else if used.length = 1 ∧ (used.all fun e => decide (e.1 = 1)) = false then none
  else match used with
    | [] => some []
    | (l, s) :: t => some (⟨l, 0, s⟩ :: assignCodes 1 l t)

/-- Four-bit lengths packed two to a byte (R275). -/
def nibbles (bs : List Byte) : List Nat := bs.flatMap fun b => [b.toNat % 16, b.toNat / 16]

/-! ## The bit stream (R277) -/

/-- The bits of bytes, bit 0 of each first. -/
def streamBits (bs : List Byte) : List Bool := bs.flatMap fun b => (List.range 8).map fun i => bitOf b.toNat i

/-- `n` bits, least significant first. -/
def rawField : Nat → List Bool → Option (Nat × List Bool)
  | 0, bs => some (0, bs)
  | _ + 1, [] => none
  | n + 1, b :: bs => (rawField n bs).map fun (v, r) => (2 * v + b1 b, r)

/-- One symbol: code bits most significant first, at most 15. -/
def symbol (t : List Code) : Nat → Nat → Nat → List Bool → Option (Nat × List Bool)
  | 0, _, _, _ => none
  | _ + 1, _, _, [] => none
  | k + 1, len, v, b :: bs =>
    let v' := 2 * v + b1 b
    match t.find? fun c => c.len = len + 1 ∧ c.code = v' with
    | some c => some (c.sym, bs)
    | none => symbol t k (len + 1) v' bs

def nextSymbol (t : List Code) (bs : List Bool) : Option (Nat × List Bool) := symbol t 15 0 0 bs

/-- `n` literals. -/
def literals (t : List Code) : Nat → List Bool → Option (List Byte × List Bool)
  | 0, bs => some ([], bs)
  | n + 1, bs =>
    match nextSymbol t bs with
    | none => none
    | some (s, r) => (literals t n r).map fun (l, r') => (BitVec.ofNat 8 s :: l, r')

/-! ## Commands (R278, R279) -/

/-- Base length and extra bits of a length class. -/
def lengthClass (n : Nat) : Nat × Nat :=
  match n with
  | 8 => (12, 2) | 9 => (16, 3) | 10 => (24, 4) | 11 => (40, 5) | 12 => (72, 6) | 13 => (136, 7) | 14 => (264, 8)
  | 15 => (520, 16)
  | n => (n + 4, 0)

/-- What a command stream says: literal bytes one by one, and matches by length and distance. -/
inductive Token where
  | lit (b : Byte)
  | copy (len dist : Nat)
deriving DecidableEq, Repr

/-- The tokens of a stream up to its end symbol, and the bits left. -/
def readStream (ll cl : List Code) : Nat → List Bool → Option (List Token × List Bool)
  | 0, _ => none
  | k + 1, bs =>
    let run (n : Nat) (bs : List Bool) : Option (List Token × List Bool) :=
      match literals ll n bs with
      | none => none
      | some (l, r) => (readStream ll cl k r).map fun (t, r') => (l.map Token.lit ++ t, r')
    match nextSymbol cl bs with
    | none => none
    | some (c, r) =>
      if c ≤ 7 then run (c + 1) r
      else if c = 8 then (rawField 16 r).bind fun (e, r1) => run (9 + e) r1
      else if c < 15 then none
      else if c = 15 then some ([], r)
      else
        let (base, ex) := lengthClass (c - 16)
        (rawField ex r).bind fun (x, r1) => (rawField 4 r1).bind fun (kk, r2) => (rawField kk r2).bind fun (v, r3) =>
          (readStream ll cl k r3).map fun (t, r') => (Token.copy (base + x) (2 ^ kk + v) :: t, r')

/-- A match copies `n` bytes from `d` back, one at a time; `out` is held newest first. -/
def copyBack (d : Nat) : Nat → List Byte → List Byte
  | 0, out => out
  | n + 1, out => copyBack d n (out.getD (d - 1) 0 :: out)

/-- The bytes tokens give, newest first, behind those of `out`: none where a distance reaches before the block or more than `len` bytes come. -/
def expand (len : Nat) : List Byte → List Token → Option (List Byte)
  | out, [] => some out
  | out, .lit b :: t => if len ≤ out.length then none else expand len (b :: out) t
  | out, .copy n d :: t => if out.length < d ∨ len < out.length + n then none else expand len (copyBack d n out) t

/-- The tokens of a compressed payload (R275 to R278): none where its tables or its stream break the format. -/
def payloadTokens (payload : List Byte) : Option (List Token) :=
  match codesOf (nibbles (payload.take 128)), codesOf (nibbles (slice payload 128 16)) with
  | some ll, some cl =>
    match readStream ll cl (8 * payload.length + 1) (streamBits (payload.drop 144)) with
    | some (t, rest) => if rest.length < 8 ∧ rest.all (! ·) then some t else none
    | none => none
  | _, _ => none

/-- Decode a compressed payload of `len` original bytes (R275 to R280). -/
def decodePayload (payload : List Byte) (len : Nat) : Option (List Byte) :=
  ((payloadTokens payload).bind (expand len [])).bind fun out => if out.length = len then some out.reverse else none

/-! ## The match search (R281) -/

/-- The chain length of a level. -/
def chainLen (level : Nat) : Nat := 2 ^ (level + 1)

/-- How many bytes two byte strings begin with alike. -/
def commonLen : List Byte → List Byte → Nat
  | a :: s, b :: t => if a = b then commonLen s t + 1 else 0
  | _, _ => 0

/-- The lengths and distances of the matches at a position, from the nearest on: `back` holds the bytes before it newest first, `rest` those from it on,
`d` the distance so far; as many earlier places with the same 4-byte prefix are examined as the chain is long. -/
def matchesAt (rest : List Byte) : Nat → Nat → List Byte → List Byte → List (Nat × Nat)
  | 0, _, _, _ => []
  | _, _, [], _ => []
  | n + 1, d, b :: back, ahead =>
    let k := commonLen (b :: ahead) rest
    if 4 ≤ k then (k, d + 1) :: matchesAt rest n (d + 1) back (b :: ahead) else matchesAt rest (n + 1) (d + 1) back (b :: ahead)

/-- The longest of matches, the nearest of equal ones. -/
def longest (ms : List (Nat × Nat)) : Option (Nat × Nat) :=
  ms.foldl (fun best e => match best with
    | some b => if b.1 < e.1 then some e else best
    | none => some e) none

/-- What an engine makes of a block with a chain length: at each position its longest match, or the byte. -/
def searchTokens (chain : Nat) : Nat → List Byte → List Byte → List Token
  | 0, _, _ => []
  | _, _, [] => []
  | k + 1, back, b :: rest =>
    match longest (matchesAt (b :: rest) chain 0 back (b :: rest)) with
    | none => .lit b :: searchTokens chain k (b :: back) rest
    | some (n, d) => .copy n d :: searchTokens chain k (((b :: rest).take n).reverse ++ back) ((b :: rest).drop n)

/-- A payload that an engine of a level makes of a block: the codes are its choice, the matches are not (R281). -/
def mayEmit (level : Nat) (orig payload : List Byte) : Bool :=
  decide (payloadTokens payload = some (searchTokens (chainLen level) orig.length [] orig))

/-! ## The check of a block (R280, R283, R285) -/

/-- What decoding a stored block gives: its bytes, or the cause logged in CMP_LOG0. -/
inductive BlockResult where
  | good (orig : List Byte)
  | checkMismatch
  | decodeError
  | headerError
deriving DecidableEq, Repr

/-- Verify the header of a stored block, decode it and compare CHECK. -/
def openBlock (b : List Byte) : BlockResult :=
  let orig := fieldAt b 4 4
  let stored := fieldAt b 8 4
  let flags := fieldAt b 1 1
  let raw := bitOf flags 0
  if fieldAt b 22 2 ≠ crc16 (b.take 22) ∨ b.length < 24 then .headerError
  else if fieldAt b 0 1 ≠ 1 ∨ 4 ≤ flags ∨ fieldAt b 3 1 ≠ 0 ∨ orig < 512 ∨ 65536 < orig ∨ orig % 512 ≠ 0 ∨
      (raw ∧ stored ≠ orig) ∨ (!raw ∧ stored < 145) ∨ b.length < 24 + stored then .decodeError
  else
    let payload := slice b 24 stored
    match (if raw then some payload else decodePayload payload orig) with
    | none => .decodeError
    | some o => if crc64 o = fieldAt b 12 8 then .good o else .checkMismatch

end Sys2Proof.Machine
end

