-- ==== Sys2Proof/Machine/Parity.lean ====
section
/-! DEFINITION. The stripe parity code (R248, R249, R255, R265): the field GF(2^8) of polynomial 0x11D, the parity units P and
Q, the solution of erased data columns, and the location of a wrong member. -/

namespace Sys2Proof.Machine

/-- Multiplication by the generator g = 0x02 (R248). -/
def gfDouble (a : Nat) : Nat := if a < 128 then 2 * a else (2 * a) ^^^ 0x11D

/-- The product of two field elements: the terms of `b` from its highest bit down. -/
def gfMul (a b : Nat) : Nat := [7, 6, 5, 4, 3, 2, 1, 0].foldl (fun r i => gfDouble r ^^^ (if bitOf b i then a else 0)) 0

/-- g to the power `n`. -/
def gfPow : Nat → Nat
  | 0 => 1
  | n + 1 => gfDouble (gfPow n)

/-- The inverse of a nonzero element, its 254th power. -/
def gfInv (a : Nat) : Nat :=
  let a2 := gfMul a a
  let a4 := gfMul a2 a2
  let a8 := gfMul a4 a4
  let a16 := gfMul a8 a8
  let a32 := gfMul a16 a16
  let a64 := gfMul a32 a32
  let a128 := gfMul a64 a64
  gfMul a2 (gfMul a4 (gfMul a8 (gfMul a16 (gfMul a32 (gfMul a64 a128)))))

/-- P at one byte position: the sum of the columns' bytes (R249). -/
def parityPAt (ds : List Nat) : Nat := ds.foldl (· ^^^ ·) 0

/-- Q at one byte position: the sum of g^c times column c, from column `c` on (R249). -/
def parityQFrom : Nat → List Nat → Nat
  | _, [] => 0
  | c, d :: ds => gfMul (gfPow c) d ^^^ parityQFrom (c + 1) ds

def parityQAt (ds : List Nat) : Nat := parityQFrom 0 ds

/-- The bytes of the 16 columns of a row's data at position `j`. -/
def columnBytes (data : List Byte) (j : Nat) : List Nat := (List.range 16).map fun c => (data.getD (262144 * c + j) 0).toNat

/-- The P and Q units of a row's 4 MiB of stored data. -/
def parityUnitP (data : List Byte) : List Byte := (List.range 262144).map fun j => BitVec.ofNat 8 (parityPAt (columnBytes data j))
def parityUnitQ (data : List Byte) : List Byte := (List.range 262144).map fun j => BitVec.ofNat 8 (parityQAt (columnBytes data j))

/-- The data column x from P and the other columns, `ds` with 0 at x (R255). -/
def solveP (p : Nat) (ds : List Nat) : Nat := p ^^^ parityPAt ds

/-- The data column x from Q and the other columns, `ds` with 0 at x. -/
def solveQ (q x : Nat) (ds : List Nat) : Nat := gfMul (gfInv (gfPow x)) (q ^^^ parityQAt ds)

/-- The two data columns x < y from P and Q, with 0 at x and y in `ds`. -/
def solveXY (p q x y : Nat) (ds : List Nat) : Nat × Nat :=
  let p' := p ^^^ parityPAt ds
  let q' := q ^^^ parityQAt ds
  let g := gfPow (y - x)
  let dx := gfMul (gfMul g p' ^^^ gfMul (gfInv (gfPow x)) q') (gfInv (g ^^^ 1))
  (dx, p' ^^^ dx)

/-- Where the nonzero syndromes of a row put the wrong member (R265). -/
inductive Located where
  | clean
  | parityQ
  | parityP
  | column (x : Nat)
  | unlocated
deriving DecidableEq, Repr

/-- The verdict at one byte position. -/
def locateAt (sp sq : Nat) : Located :=
  if sp = 0 ∧ sq = 0 then .clean
  else if sp = 0 then .parityQ
  else if sq = 0 then .parityP
  else match (List.range 16).find? fun x => decide (sq = gfMul (gfPow x) sp) with
    | some x => .column x
    | none => .unlocated

/-- The verdict over every position: the same finding at each nonzero syndrome, or unlocated. -/
def locateAll (ss : List (Nat × Nat)) : Located :=
  ss.foldl (fun v s =>
    let w := locateAt s.1 s.2
    if w = .clean then v else if v = .clean ∨ v = w then w else .unlocated) .clean

end Sys2Proof.Machine
end

