-- ==== Sys2Proof/Config.lean ====
section
/-! DEFINITION. What one part or its surroundings fix and the spec does not: the fused identity, the results of the
cryptographic standards the spec names without giving their formulas, and the free values. None has a body: no proof can
see what it is. -/

namespace Sys2Proof.Config

/-- A value the spec leaves open, or draws at random (TRNG), one for each number of a counter in the state (log entry 1). -/
opaque freeValue : Nat → Nat
/-- The fused 64-bit unique identifier (GEN_UID). -/
opaque uid : BitVec 64
/-- GEN_ID.GRADE of the part: `false` is -C, `true` is -X. -/
opaque gradeX : Bool
/-- The two reference neighbours of each diode, by the die's layout (R493). -/
opaque neighbourA : Nat → Nat
opaque neighbourB : Nat → Nat
/-- The fused digests of the two firmware-signing keys, and whether each is revoked (R331). -/
opaque fwKeyDigest : Nat → List Byte
opaque fwKeyRevoked : Nat → Bool
/-- The unique device secret (R331). -/
opaque uds : List Byte
/-- SHA-384 of a byte string. -/
opaque sha384 : List Byte → List Byte
/-- ECDSA P-384 verification: key, message, r and s (R66, R340). -/
opaque ecdsaVerify : List Byte → List Byte → List Byte → List Byte → Bool
/-- ECDSA P-384 signature under a private scalar over a message (R343). -/
opaque ecdsaSign : Nat → List Byte → List Byte
/-- The order of the group of P-384 (R336). -/
opaque p384Order : Nat
/-- The certificates of slot 0 from the Avfort root down to that of the DeviceID key (R343), as kept since manufacture (R336). -/
opaque certChain : List Byte
/-- The certificate that the key of a private scalar signs of the key of another (R336). -/
opaque issueCert : Nat → Nat → List Byte
/-- The fused digest of the Avfort root public key (R331), whether a chain verifies to such a digest, and the DeviceID public key a chain holds
(R345). -/
opaque rootDigest : List Byte
opaque chainTrusts : List Byte → List Byte → Bool
opaque chainDeviceKey : List Byte → List Byte
/-- The SHA-384 digest of the boot ROM (R344). -/
opaque romDigest : List Byte

/-- The DNR bit of a completion status, by status code type and status code, where the spec states none (log entry 17). -/
opaque dnrOf : Nat → Nat → Bool

/-- AES-256-XTS of one 256-byte data unit under a key and a tweak (R291), and its inverse. -/
opaque xts : Nat → Nat → List Byte → List Byte
opaque xtsInverse : Nat → Nat → List Byte → List Byte

/-- AES-256-GCM under a key with an IV, over authenticated data and a message: the ciphertext and the tag (R292). -/
opaque gcmSeal : Nat → List Byte → List Byte → List Byte → List Byte

/-- The PCIe 6.0 FLIT-mode FEC of a flit's bytes 0 to 249, and what it makes of a flit as received (R406, R407). -/
opaque flitFec : List Byte → List Byte
opaque flitCorrect : List Byte → List Byte
/-- The bytes of an SPDM message (DSP0274), by its name, its fields and what it carries (log entry 183). -/
opaque spdmMessage : String → List (String × Nat) → List Byte → List Byte

/-- The ageing factor 2^((Tj − 80) / 10) in units of 2^-32, of an hour's readings in 0.5 °C by their sum and number, where it is no power
of two (R506). -/
opaque ageFactor : Int → Nat → Nat
/-- The MHz shown of a clock given in 1/16 MHz, where it is no whole number (R503, R507). -/
opaque wholeMhz : Nat → Nat
/-- Whether a mean that is no whole number of 0.5 °C is rounded up (R505). -/
opaque meanUp : Int → Nat → Bool
/-- The number event 0x6B05 gives a warm reset's trigger: 0 WARMRST_n, 1 the watchdog, 2 NVM Subsystem Reset, 3 ROM recovery, 4 an
island's reset, 5 code that cannot be read. -/
opaque triggerCode : Nat → Nat
/-- Whether a cluster diode's reading halfway between two whole degrees rounds up (R243). -/
opaque wholeUp : Int → Bool
/-- The latency class of a forwarded die operation (R429), and the bytes the commit records of a row take less one (R456): no rule gives
them. -/
opaque fwdClass : Fin 8
opaque commitRecordLen : Fin 4096
/-- The bytes of the commit records of a flush from an offset on (log entry 39). -/
opaque commitRecords : Nat → List Byte
/-- Whether a reading (in units of 0.125 °C) halfway between two half degrees rounds up (R492). -/
opaque tieUp : Int → Bool

/-- What the decoder of a memory makes of more flipped bits than its code is stated to detect (R393): nothing, or a correction at a location, or an
uncorrectable granule. -/
opaque manyFlips : Nat → List Nat → Option (Fin 256 × Bool)
/-- The location an error log holds of an uncorrectable granule (R395). -/
opaque lostLoc : Nat → List Nat → Fin 256

/-- A word of a function's BAR0 to which no rule gives a value: the bits of NVMe's controller registers that the spec leaves out, and what a doorbell
reads. -/
opaque nvmeReg : Nat → Nat → BitVec 32

/-- Where metadata record `n` lies (R466): the die among those in service, the block among the die's metadata blocks, the wordline and the page, by the
second argument. -/
opaque metaAt : Nat → Nat → Nat

end Sys2Proof.Config
end

