-- ==== Sys2Proof/Machine/Regs.lean ====
section
/-! DEFINITION. The control window's register fields, one definition per field, written from the register tables of the
spec's chapters (bits, access code, reset value; R4 to R6) and the block bases of R533. Where a table gives the reset
value as 'Per image', 'Per records', 'Per part', 'Per log' or 'Flag', the field is 0 here (log entry 3). -/

namespace Sys2Proof.Machine

/-- The access codes of R6. -/
inductive Acc where
  | rw | ro | w1c | w1s | wo | rc | rwl
deriving DecidableEq, Repr

/-- A reset value: one value for every element, or a list by index whose missing tail is 0. -/
inductive Rst where
  | const (v : Nat)
  | perIndex (vs : List Nat)
deriving DecidableEq, Repr

/-- A field of a register array: element `n` lies at CW offset `base + (n / m) * s1 + (n % m) * s2`; the field is bits
`[hi:lo]`; `vmin` to `vmax` are the values a write may give it (R12 and the range rules of the field tables). -/
structure Fld where
  base : Nat
  count : Nat
  m : Nat
  s1 : Nat
  s2 : Nat
  hi : Nat
  lo : Nat
  acc : Acc
  reset : Rst
  vmin : Nat
  vmax : Nat
deriving DecidableEq, Repr

def GEN_ID.PART : Fld := ⟨0x0, 1, 1, 4, 0, 31, 16, .ro, .const 0x9610, 0, 0xffff⟩
def GEN_ID.REV : Fld := ⟨0x0, 1, 1, 4, 0, 15, 8, .ro, .const 0xb1, 0, 0xff⟩
def GEN_ID.GRADE : Fld := ⟨0x0, 1, 1, 4, 0, 1, 0, .ro, .const 0, 0, 0x3⟩
def GEN_SIDE.SOLO : Fld := ⟨0x4, 1, 1, 4, 0, 2, 2, .ro, .const 0, 0, 0x1⟩
def GEN_SIDE.TWIN_PRES : Fld := ⟨0x4, 1, 1, 4, 0, 1, 1, .ro, .const 0, 0, 0x1⟩
def GEN_SIDE.SIDE : Fld := ⟨0x4, 1, 1, 4, 0, 0, 0, .ro, .const 0, 0, 0x1⟩
def GEN_STAT.LOADFAIL : Fld := ⟨0x8, 1, 1, 4, 0, 11, 8, .ro, .const 0, 0, 0xf⟩
def GEN_STAT.BANK : Fld := ⟨0x8, 1, 1, 4, 0, 7, 6, .ro, .const 0, 0, 0x3⟩
def GEN_STAT.FALLBACK : Fld := ⟨0x8, 1, 1, 4, 0, 5, 5, .ro, .const 0, 0, 0x1⟩
def GEN_STAT.RECOVERY : Fld := ⟨0x8, 1, 1, 4, 0, 4, 4, .ro, .const 0, 0, 0x1⟩
def GEN_STAT.STRUCT_OK : Fld := ⟨0x8, 1, 1, 4, 0, 0, 0, .ro, .const 0, 0, 0x1⟩
def GEN_EPOCH.SWITCHING : Fld := ⟨0xc, 1, 1, 4, 0, 9, 9, .ro, .const 0, 0, 0x1⟩
def GEN_EPOCH.DRAINING : Fld := ⟨0xc, 1, 1, 4, 0, 8, 8, .ro, .const 0, 0, 0x1⟩
def GEN_EPOCH.OLD : Fld := ⟨0xc, 1, 1, 4, 0, 7, 4, .ro, .const 0, 0, 0xf⟩
def GEN_EPOCH.CURRENT : Fld := ⟨0xc, 1, 1, 4, 0, 3, 0, .ro, .const 0, 0, 0xf⟩
def GEN_IMGVER.VERSION : Fld := ⟨0x10, 1, 1, 4, 0, 31, 0, .ro, .const 0, 0, 0xffffffff⟩
def GEN_LIVEVER.VERSION : Fld := ⟨0x14, 1, 1, 4, 0, 31, 0, .ro, .const 0, 0, 0xffffffff⟩
def GEN_FLOOR.VERSION : Fld := ⟨0x18, 1, 1, 4, 0, 31, 0, .ro, .const 0, 0, 0xffffffff⟩
def GEN_UID_LO.UID : Fld := ⟨0x20, 1, 1, 4, 0, 31, 0, .ro, .const 0, 0, 0xffffffff⟩
def GEN_UID_HI.UID : Fld := ⟨0x24, 1, 1, 4, 0, 31, 0, .ro, .const 0, 0, 0xffffffff⟩
def ISL_DTC_LO.DTC : Fld := ⟨0x1f000, 1, 1, 4, 0, 31, 0, .ro, .const 0, 0, 0xffffffff⟩
def ISL_DTC_HI.DTC : Fld := ⟨0x1f004, 1, 1, 4, 0, 31, 0, .ro, .const 0, 0, 0xffffffff⟩
def ISL_SKEW.WORST_ISL : Fld := ⟨0x1f008, 1, 1, 4, 0, 12, 8, .ro, .const 0, 0, 0x1f⟩
def ISL_SKEW.WORST_TICKS : Fld := ⟨0x1f008, 1, 1, 4, 0, 3, 0, .rc, .const 0, 0, 0xf⟩
def ISL_BARCTL.SNAP : Fld := ⟨0x1f010, 1, 1, 4, 0, 2, 2, .rw, .const 0, 0, 0x1⟩
def ISL_BARCTL.TWIN : Fld := ⟨0x1f010, 1, 1, 4, 0, 1, 1, .rw, .const 0, 0, 0x1⟩
def ISL_BARCTL.GO : Fld := ⟨0x1f010, 1, 1, 4, 0, 0, 0, .w1s, .const 0, 0, 0x1⟩
def ISL_BARSTAT.MARKER : Fld := ⟨0x1f014, 1, 1, 4, 0, 31, 16, .ro, .const 0, 0, 0xffff⟩
def ISL_BARSTAT.RESULT : Fld := ⟨0x1f014, 1, 1, 4, 0, 11, 8, .ro, .const 0, 0, 0xf⟩
def ISL_BARSTAT.PEND : Fld := ⟨0x1f014, 1, 1, 4, 0, 1, 1, .ro, .const 0, 0, 0x1⟩
def ISL_BARSTAT.BUSY : Fld := ⟨0x1f014, 1, 1, 4, 0, 0, 0, .ro, .const 0, 0, 0x1⟩
def ISL_BARTIME.TICKS : Fld := ⟨0x1f018, 1, 1, 4, 0, 15, 0, .ro, .const 0, 0, 0xffff⟩
def ISL_CTL.RST : Fld := ⟨0x10000, 28, 1, 0x400, 0, 7, 7, .w1s, .const 0, 0, 0x1⟩
def ISL_CTL.AUTOWAKE : Fld := ⟨0x10000, 28, 1, 0x400, 0, 1, 1, .rw, .const 0, 0, 0x1⟩
def ISL_CTL.PWR_REQ : Fld := ⟨0x10000, 28, 1, 0x400, 0, 0, 0, .rw, .perIndex [1], 0, 0x1⟩
def ISL_STAT.APPLIED_EPOCH : Fld := ⟨0x10004, 28, 1, 0x400, 0, 31, 28, .ro, .const 0, 0, 0xf⟩
def ISL_STAT.WAKEFAIL : Fld := ⟨0x10004, 28, 1, 0x400, 0, 10, 10, .w1c, .const 0, 0, 0x1⟩
def ISL_STAT.DOWNHIT : Fld := ⟨0x10004, 28, 1, 0x400, 0, 9, 9, .w1c, .const 0, 0, 0x1⟩
def ISL_STAT.TAGERR : Fld := ⟨0x10004, 28, 1, 0x400, 0, 8, 8, .w1c, .const 0, 0, 0x1⟩
def ISL_STAT.STATE : Fld := ⟨0x10004, 28, 1, 0x400, 0, 2, 0, .ro, .perIndex [2], 0, 0x7⟩
def ISL_DOWNADDR.WR : Fld := ⟨0x10008, 28, 1, 0x400, 0, 31, 31, .ro, .const 0, 0, 0x1⟩
def ISL_DOWNADDR.OFFSET : Fld := ⟨0x10008, 28, 1, 0x400, 0, 25, 0, .ro, .const 0, 0, 0x3ffffff⟩
def ISL_DOWNCNT.TAGERR_COUNT : Fld := ⟨0x1000c, 28, 1, 0x400, 0, 31, 16, .rc, .const 0, 0, 0xffff⟩
def ISL_DOWNCNT.DOWN_COUNT : Fld := ⟨0x1000c, 28, 1, 0x400, 0, 15, 0, .rc, .const 0, 0, 0xffff⟩
def ISL_CLKCFG.VPT : Fld := ⟨0x10010, 28, 1, 0x400, 0, 31, 24, .ro, .const 0, 0, 0xff⟩
def ISL_CLKCFG.FREQ_MHZ : Fld := ⟨0x10010, 28, 1, 0x400, 0, 11, 0, .ro, .perIndex [50, 2000, 1000, 1000, 1000, 1000, 1000, 1000, 1000, 1000, 1600, 1600, 1200, 1200, 1200, 1200, 1200, 1200, 1200, 1200, 1200, 1200, 1200, 1200, 1600, 1600, 1500, 1000], 0, 0xfff⟩
def IMG_CMD.GO : Fld := ⟨0x20000, 1, 1, 4, 0, 7, 7, .w1s, .const 0, 0, 0x1⟩
def IMG_CMD.SRC : Fld := ⟨0x20000, 1, 1, 4, 0, 4, 4, .rw, .const 0, 0, 0x1⟩
def IMG_CMD.OP : Fld := ⟨0x20000, 1, 1, 4, 0, 3, 0, .rw, .const 0, 0, 0x4⟩
def IMG_SRC_LO.ADDR : Fld := ⟨0x20004, 1, 1, 4, 0, 31, 2, .rw, .const 0, 0, 0x3fffffff⟩
def IMG_SRC_HI.ADDR_HI : Fld := ⟨0x20008, 1, 1, 4, 0, 31, 0, .rw, .const 0, 0, 0xffffffff⟩
def IMG_LEN.LEN : Fld := ⟨0x2000c, 1, 1, 4, 0, 22, 0, .rw, .const 0, 0, 0x400000⟩
def IMG_DATA.DATA : Fld := ⟨0x20010, 1, 1, 4, 0, 31, 0, .wo, .const 0, 0, 0xffffffff⟩
def IMG_DATAPTR.PTR : Fld := ⟨0x20014, 1, 1, 4, 0, 22, 2, .rw, .const 0, 0, 0x1fffff⟩
def IMG_STAT.BUSY : Fld := ⟨0x20018, 1, 1, 4, 0, 31, 31, .ro, .const 0, 0, 0x1⟩
def IMG_STAT.RESULT : Fld := ⟨0x20018, 1, 1, 4, 0, 27, 24, .ro, .const 0, 0, 0xf⟩
def IMG_STAT.SECTYPE : Fld := ⟨0x20018, 1, 1, 4, 0, 23, 16, .ro, .const 0, 0, 0xff⟩
def IMG_STAT.RECORD : Fld := ⟨0x20018, 1, 1, 4, 0, 15, 0, .ro, .const 0, 0, 0xffff⟩
def IMG_ACKMASK.ACK : Fld := ⟨0x2001c, 1, 1, 4, 0, 27, 0, .ro, .const 0, 0, 0xfffffff⟩
def IMG_SWTIME.TICKS : Fld := ⟨0x20020, 1, 1, 4, 0, 19, 0, .ro, .const 0, 0, 0xfffff⟩
def IMG_BANK.PENDING : Fld := ⟨0x20024, 1, 1, 4, 0, 3, 3, .ro, .const 0, 0, 0x1⟩
def IMG_BANK.ACTIVE : Fld := ⟨0x20024, 1, 1, 4, 0, 2, 2, .ro, .const 0, 0, 0x1⟩
def IMG_BANK.VALID_B : Fld := ⟨0x20024, 1, 1, 4, 0, 1, 1, .ro, .const 0, 0, 0x1⟩
def IMG_BANK.VALID_A : Fld := ⟨0x20024, 1, 1, 4, 0, 0, 0, .ro, .const 0, 0, 0x1⟩
def IMG_VER_A.VERSION : Fld := ⟨0x20028, 1, 1, 4, 0, 31, 0, .ro, .const 0, 0, 0xffffffff⟩
def IMG_VER_B.VERSION : Fld := ⟨0x2002c, 1, 1, 4, 0, 31, 0, .ro, .const 0, 0, 0xffffffff⟩
def HPT_ANA.STATE0 : Fld := ⟨0x38000, 16, 1, 0x4, 0, 3, 0, .ro, .const 0, 0, 0xf⟩
def HPT_ANA.STATE1 : Fld := ⟨0x38000, 16, 1, 0x4, 0, 7, 4, .ro, .const 0, 0, 0xf⟩
def HPT_ANA.STATE2 : Fld := ⟨0x38000, 16, 1, 0x4, 0, 11, 8, .ro, .const 0, 0, 0xf⟩
def HPT_ANA.STATE3 : Fld := ⟨0x38000, 16, 1, 0x4, 0, 15, 12, .ro, .const 0, 0, 0xf⟩
def HPT_ANA.STATE4 : Fld := ⟨0x38000, 16, 1, 0x4, 0, 19, 16, .ro, .const 0, 0, 0xf⟩
def HPT_ANA.STATE5 : Fld := ⟨0x38000, 16, 1, 0x4, 0, 23, 20, .ro, .const 0, 0, 0xf⟩
def HPT_ANA.STATE6 : Fld := ⟨0x38000, 16, 1, 0x4, 0, 27, 24, .ro, .const 0, 0, 0xf⟩
def HPT_ANA.STATE7 : Fld := ⟨0x38000, 16, 1, 0x4, 0, 31, 28, .ro, .const 0, 0, 0xf⟩
def HPT_PCFG.VALID : Fld := ⟨0x30000, 32, 4, 0x1000, 0x100, 31, 31, .ro, .const 0, 0, 0x1⟩
def HPT_PCFG.PORT : Fld := ⟨0x30000, 32, 4, 0x1000, 0x100, 20, 16, .ro, .const 0, 0, 0x1f⟩
def HPT_PCFG.MAX_GEN : Fld := ⟨0x30000, 32, 4, 0x1000, 0x100, 10, 8, .ro, .const 0, 0, 0x7⟩
def HPT_PCFG.WIDTH : Fld := ⟨0x30000, 32, 4, 0x1000, 0x100, 4, 0, .ro, .const 0, 0, 0x1f⟩
def HPT_PCTL.RETRAIN : Fld := ⟨0x30004, 32, 4, 0x1000, 0x100, 1, 1, .w1s, .const 0, 0, 0x1⟩
def HPT_PCTL.DISABLE : Fld := ⟨0x30004, 32, 4, 0x1000, 0x100, 0, 0, .rw, .const 0, 0, 0x1⟩
def HPT_PSTAT.FLIT : Fld := ⟨0x30008, 32, 4, 0x1000, 0x100, 12, 12, .ro, .const 0, 0, 0x1⟩
def HPT_PSTAT.SPEED : Fld := ⟨0x30008, 32, 4, 0x1000, 0x100, 11, 9, .ro, .const 0, 0, 0x7⟩
def HPT_PSTAT.NEG_WIDTH : Fld := ⟨0x30008, 32, 4, 0x1000, 0x100, 8, 4, .ro, .const 0, 0, 0x1f⟩
def HPT_PSTAT.STATE : Fld := ⟨0x30008, 32, 4, 0x1000, 0x100, 2, 0, .ro, .const 0, 0, 0x7⟩
def HPT_STALL.LIMIT : Fld := ⟨0x3000c, 32, 4, 0x1000, 0x100, 9, 0, .rwl, .const 0x32, 1, 0x3e8⟩
def HPT_CREDLIM.LIMIT : Fld := ⟨0x30010, 32, 4, 0x1000, 0x100, 9, 0, .rwl, .const 0x32, 1, 0x3e8⟩
def HPT_ERRCNT.UNMAPPED : Fld := ⟨0x30014, 32, 4, 0x1000, 0x100, 31, 22, .rc, .const 0, 0, 0x3ff⟩
def HPT_ERRCNT.POISONED : Fld := ⟨0x30014, 32, 4, 0x1000, 0x100, 21, 11, .rc, .const 0, 0, 0x7ff⟩
def HPT_ERRCNT.MALFORMED : Fld := ⟨0x30014, 32, 4, 0x1000, 0x100, 10, 0, .rc, .const 0, 0, 0x7ff⟩
def HPT_ABORTCNT.STALL : Fld := ⟨0x30018, 32, 4, 0x1000, 0x100, 31, 16, .rc, .const 0, 0, 0xffff⟩
def HPT_ABORTCNT.CTO : Fld := ⟨0x30018, 32, 4, 0x1000, 0x100, 15, 0, .rc, .const 0, 0, 0xffff⟩
def HPT_LATECNT.LATE : Fld := ⟨0x3001c, 32, 4, 0x1000, 0x100, 31, 0, .rc, .const 0, 0, 0xffffffff⟩
def HPT_DROPCNT.DROPS : Fld := ⟨0x30020, 32, 4, 0x1000, 0x100, 31, 0, .rc, .const 0, 0, 0xffffffff⟩
def HPT_IDESTAT.LINK_SECURE : Fld := ⟨0x30024, 32, 4, 0x1000, 0x100, 16, 16, .ro, .const 0, 0, 0x1⟩
def HPT_IDESTAT.SEL_SECURE : Fld := ⟨0x30024, 32, 4, 0x1000, 0x100, 15, 8, .ro, .const 0, 0, 0xff⟩
def HPT_IDESTAT.SEL_KEYSET : Fld := ⟨0x30024, 32, 4, 0x1000, 0x100, 7, 0, .ro, .const 0, 0, 0xff⟩
def HPT_EVT.IDEFAIL : Fld := ⟨0x30028, 32, 4, 0x1000, 0x100, 4, 4, .w1c, .const 0, 0, 0x1⟩
def HPT_EVT.CREDSTALL : Fld := ⟨0x30028, 32, 4, 0x1000, 0x100, 3, 3, .w1c, .const 0, 0, 0x1⟩
def HPT_EVT.SURPRISE : Fld := ⟨0x30028, 32, 4, 0x1000, 0x100, 2, 2, .w1c, .const 0, 0, 0x1⟩
def HPT_EVT.HOTRESET : Fld := ⟨0x30028, 32, 4, 0x1000, 0x100, 1, 1, .w1c, .const 0, 0, 0x1⟩
def HPT_EVT.LINKDOWN : Fld := ⟨0x30028, 32, 4, 0x1000, 0x100, 0, 0, .w1c, .const 0, 0, 0x1⟩
def QIE_CTL.FETCH_PAUSE : Fld := ⟨0x40000, 1, 1, 4, 0, 0, 0, .rwl, .const 0, 0, 0x1⟩
def QIE_STAT.HOST_FREE : Fld := ⟨0x40004, 1, 1, 4, 0, 31, 16, .ro, .const 0xf000, 0, 0xffff⟩
def QIE_STAT.ADMIN_FREE : Fld := ⟨0x40004, 1, 1, 4, 0, 15, 4, .ro, .const 0x800, 0, 0xfff⟩
def QIE_STAT.PAUSED : Fld := ⟨0x40004, 1, 1, 4, 0, 0, 0, .ro, .const 0, 0, 0x1⟩
def QIE_TSLOT.CAP : Fld := ⟨0x40008, 1, 1, 4, 0, 31, 16, .rwl, .const 0x2000, 1, 0xf000⟩
def QIE_TSLOT.LOWFREE : Fld := ⟨0x40008, 1, 1, 4, 0, 15, 0, .rwl, .const 0x400, 0, 0xf000⟩
def QIE_DBERR.REGISTER : Fld := ⟨0x4000c, 1, 1, 4, 0, 31, 16, .rc, .const 0, 0, 0xffff⟩
def QIE_DBERR.VALUE : Fld := ⟨0x4000c, 1, 1, 4, 0, 15, 0, .rc, .const 0, 0, 0xffff⟩
def QIE_DBLOG0.CQ : Fld := ⟨0x40010, 1, 1, 4, 0, 31, 31, .ro, .const 0, 0, 0x1⟩
def QIE_DBLOG0.REG : Fld := ⟨0x40010, 1, 1, 4, 0, 30, 30, .ro, .const 0, 0, 0x1⟩
def QIE_DBLOG0.FUNC : Fld := ⟨0x40010, 1, 1, 4, 0, 28, 16, .ro, .const 0, 0, 0x1fff⟩
def QIE_DBLOG0.QID : Fld := ⟨0x40010, 1, 1, 4, 0, 15, 0, .ro, .const 0, 0, 0xffff⟩
def QIE_DBLOG1.VALID : Fld := ⟨0x40014, 1, 1, 4, 0, 31, 31, .w1c, .const 0, 0, 0x1⟩
def QIE_DBLOG1.VALUE : Fld := ⟨0x40014, 1, 1, 4, 0, 15, 0, .ro, .const 0, 0, 0xffff⟩
def QIE_CMDERR0.OPCODE : Fld := ⟨0x40018, 1, 1, 4, 0, 31, 16, .rc, .const 0, 0, 0xffff⟩
def QIE_CMDERR0.FIELD : Fld := ⟨0x40018, 1, 1, 4, 0, 15, 0, .rc, .const 0, 0, 0xffff⟩
def QIE_CMDERR1.CIDCONF : Fld := ⟨0x4001c, 1, 1, 4, 0, 31, 16, .rc, .const 0, 0, 0xffff⟩
def QIE_CMDERR1.NSID : Fld := ⟨0x4001c, 1, 1, 4, 0, 15, 0, .rc, .const 0, 0, 0xffff⟩
def QIE_CMDERR2.LBARANGE : Fld := ⟨0x40020, 1, 1, 4, 0, 31, 16, .rc, .const 0, 0, 0xffff⟩
def QIE_CMDERR2.DESC : Fld := ⟨0x40020, 1, 1, 4, 0, 15, 0, .rc, .const 0, 0, 0xffff⟩
def QIE_WBHIT.COUNT : Fld := ⟨0x40024, 1, 1, 4, 0, 31, 0, .rc, .const 0, 0, 0xffffffff⟩
def QIE_OVLWAIT.COUNT : Fld := ⟨0x40028, 1, 1, 4, 0, 31, 0, .rc, .const 0, 0, 0xffffffff⟩
def QIE_CHAINABORT.COUNT : Fld := ⟨0x4002c, 1, 1, 4, 0, 31, 0, .rc, .const 0, 0, 0xffffffff⟩
def QIE_CQHOLD.COUNT : Fld := ⟨0x40030, 1, 1, 4, 0, 31, 0, .rc, .const 0, 0, 0xffffffff⟩
def QIE_TSKIP.COUNT : Fld := ⟨0x40034, 1, 1, 4, 0, 31, 0, .rc, .const 0, 0, 0xffffffff⟩
def QCX_IDX.INDEX : Fld := ⟨0x80000, 1, 1, 4, 0, 18, 0, .rw, .const 0, 0, 0x4101f⟩
def QCX_STAT.MISS : Fld := ⟨0x80004, 1, 1, 4, 0, 1, 1, .ro, .const 0, 0, 0x1⟩
def QCX_STAT.READY : Fld := ⟨0x80004, 1, 1, 4, 0, 0, 0, .ro, .const 0, 0, 0x1⟩
def QCX_W.WORD : Fld := ⟨0x80040, 16, 1, 0x4, 0, 31, 0, .ro, .const 0, 0, 0xffffffff⟩
def ZNE_STAT.ACTIVE : Fld := ⟨0x90000, 1, 1, 4, 0, 29, 16, .ro, .const 0, 0, 0x3fff⟩
def ZNE_STAT.OPEN : Fld := ⟨0x90000, 1, 1, 4, 0, 13, 0, .ro, .const 0, 0, 0x3fff⟩
def ZNE_LIMITS.ACTIVE_LIMIT : Fld := ⟨0x90004, 1, 1, 4, 0, 31, 16, .ro, .const 0, 0, 0xffff⟩
def ZNE_LIMITS.OPEN_LIMIT : Fld := ⟨0x90004, 1, 1, 4, 0, 15, 0, .ro, .const 0, 0, 0xffff⟩
def ZNE_PLACECFG.SPREAD : Fld := ⟨0x90008, 1, 1, 4, 0, 7, 0, .rwl, .const 4, 0, 0xff⟩
def ZNE_SPILLCFG.LEVEL : Fld := ⟨0x9000c, 1, 1, 4, 0, 18, 16, .rwl, .const 5, 1, 0x7⟩
def ZNE_SPILLCFG.AGE_MS : Fld := ⟨0x9000c, 1, 1, 4, 0, 15, 0, .rwl, .const 0x3e8, 1, 0xffff⟩
def ZNE_FREE.NOERASED : Fld := ⟨0x90010, 1, 1, 4, 0, 31, 16, .ro, .const 0, 0, 0xffff⟩
def ZNE_FREE.NOFREE : Fld := ⟨0x90010, 1, 1, 4, 0, 15, 0, .ro, .const 0, 0, 0xffff⟩
def ZNE_LOGSTAT.FREE : Fld := ⟨0x90014, 1, 1, 4, 0, 23, 16, .ro, .const 0x40, 0, 0xff⟩
def ZNE_LOGSTAT.HOT : Fld := ⟨0x90014, 1, 1, 4, 0, 15, 8, .ro, .const 0, 0, 0xff⟩
def ZNE_LOGSTAT.COLD : Fld := ⟨0x90014, 1, 1, 4, 0, 7, 0, .ro, .const 0, 0, 0xff⟩
def ZNE_ERR0.BOUNDARY : Fld := ⟨0x90018, 1, 1, 4, 0, 31, 16, .rc, .const 0, 0, 0xffff⟩
def ZNE_ERR0.INVWRITE : Fld := ⟨0x90018, 1, 1, 4, 0, 15, 0, .rc, .const 0, 0, 0xffff⟩
def ZNE_ERR1.FULL : Fld := ⟨0x9001c, 1, 1, 4, 0, 31, 16, .rc, .const 0, 0, 0xffff⟩
def ZNE_ERR1.STATETRANS : Fld := ⟨0x9001c, 1, 1, 4, 0, 15, 0, .rc, .const 0, 0, 0xffff⟩
def ZNE_ERR2.TOOACTIVE : Fld := ⟨0x90020, 1, 1, 4, 0, 31, 16, .rc, .const 0, 0, 0xffff⟩
def ZNE_ERR2.TOOOPEN : Fld := ⟨0x90020, 1, 1, 4, 0, 15, 0, .rc, .const 0, 0, 0xffff⟩
def ZNE_EVCNT.IMPCLOSE : Fld := ⟨0x90024, 1, 1, 4, 0, 31, 16, .rc, .const 0, 0, 0xffff⟩
def ZNE_EVCNT.EARLYFULL : Fld := ⟨0x90024, 1, 1, 4, 0, 15, 0, .rc, .const 0, 0, 0xffff⟩
def ZNE_MOVES.RELOC : Fld := ⟨0x90028, 1, 1, 4, 0, 31, 16, .rc, .const 0, 0, 0xffff⟩
def ZNE_MOVES.MERGE : Fld := ⟨0x90028, 1, 1, 4, 0, 15, 8, .rc, .const 0, 0, 0xff⟩
def ZNE_MOVES.PLACEFAIL : Fld := ⟨0x90028, 1, 1, 4, 0, 7, 0, .rc, .const 0, 0, 0xff⟩
def ZNE_SPILLCNT.SPILLS : Fld := ⟨0x9002c, 1, 1, 4, 0, 31, 0, .rc, .const 0, 0, 0xffffffff⟩
def ZNE_SNAPSTAT.MARKER : Fld := ⟨0x90030, 1, 1, 4, 0, 31, 16, .ro, .const 0, 0, 0xffff⟩
def ZNE_SNAPSTAT.READY : Fld := ⟨0x90030, 1, 1, 4, 0, 0, 0, .ro, .const 0, 0, 0x1⟩
def ZNE_SNAPIDX.ZONE : Fld := ⟨0x90034, 1, 1, 4, 0, 17, 0, .rw, .const 0, 0, 0x3ffff⟩
def ZNE_SNAPW.WORD : Fld := ⟨0x90038, 3, 1, 0x4, 0, 31, 0, .ro, .const 0, 0, 0xffffffff⟩
def ZNE_ZCX_IDX.ZONE : Fld := ⟨0x90080, 1, 1, 4, 0, 17, 0, .rw, .const 0, 0, 0x3ffff⟩
def ZNE_ZCX_STAT.UNUSED : Fld := ⟨0x90084, 1, 1, 4, 0, 1, 1, .ro, .const 0, 0, 0x1⟩
def ZNE_ZCX_STAT.READY : Fld := ⟨0x90084, 1, 1, 4, 0, 0, 0, .ro, .const 0, 0, 0x1⟩
def ZNE_ZCX_W.WORD : Fld := ⟨0x90100, 32, 1, 0x4, 0, 31, 0, .ro, .const 0, 0, 0xffffffff⟩
def DLS_CTL.RECON_EN : Fld := ⟨0xa0000, 1, 1, 4, 0, 1, 1, .rwl, .const 1, 0, 0x1⟩
def DLS_CTL.LEDGER_EN : Fld := ⟨0xa0000, 1, 1, 4, 0, 0, 0, .rwl, .const 1, 0, 0x1⟩
def DLS_PATH.PATH_US : Fld := ⟨0xa0004, 1, 1, 4, 0, 7, 0, .rwl, .const 8, 1, 0xff⟩
def DLS_SUSPCFG.MAX_READS : Fld := ⟨0xa0008, 1, 1, 4, 0, 3, 0, .rwl, .const 8, 1, 0xf⟩
def DLS_LEDGERCFG.WINDOW_MS : Fld := ⟨0xa000c, 1, 1, 4, 0, 7, 0, .rwl, .const 0x14, 1, 0xff⟩
def DLS_GUSTCFG.LEVEL : Fld := ⟨0xa0010, 1, 1, 4, 0, 2, 0, .rwl, .const 4, 1, 0x7⟩
def DLS_RECONCFG.GUARD_US : Fld := ⟨0xa0014, 1, 1, 4, 0, 15, 8, .rwl, .const 0xa, 0, 0xff⟩
def DLS_RECONCFG.PARITY_US : Fld := ⟨0xa0014, 1, 1, 4, 0, 7, 0, .rwl, .const 4, 1, 0xff⟩
def DLS_MISS.ODD : Fld := ⟨0xa0018, 4, 1, 0x4, 0, 31, 16, .rc, .const 0, 0, 0xffff⟩
def DLS_MISS.EVEN : Fld := ⟨0xa0018, 4, 1, 0x4, 0, 15, 0, .rc, .const 0, 0, 0xffff⟩
def DLS_ABORTCNT.COUNT : Fld := ⟨0xa0028, 1, 1, 4, 0, 31, 0, .rc, .const 0, 0, 0xffffffff⟩
def DLS_SUSPCNT.PROG : Fld := ⟨0xa002c, 1, 1, 4, 0, 31, 16, .rc, .const 0, 0, 0xffff⟩
def DLS_SUSPCNT.ERASE : Fld := ⟨0xa002c, 1, 1, 4, 0, 15, 0, .rc, .const 0, 0, 0xffff⟩
def DLS_SUSPLIMIT.COUNT : Fld := ⟨0xa0030, 1, 1, 4, 0, 31, 0, .rc, .const 0, 0, 0xffffffff⟩
def DLS_RECONCNT.COUNT : Fld := ⟨0xa0034, 1, 1, 4, 0, 31, 0, .rc, .const 0, 0, 0xffffffff⟩
def DLS_RECONDENY.BUDGET : Fld := ⟨0xa0038, 1, 1, 4, 0, 31, 16, .rc, .const 0, 0, 0xffff⟩
def DLS_RECONDENY.INFEASIBLE : Fld := ⟨0xa0038, 1, 1, 4, 0, 15, 0, .rc, .const 0, 0, 0xffff⟩
def DLS_LDGHOLD.COUNT : Fld := ⟨0xa003c, 1, 1, 4, 0, 31, 0, .rc, .const 0, 0, 0xffffffff⟩
def DLS_QUOTAHOLD.COUNT : Fld := ⟨0xa0040, 1, 1, 4, 0, 31, 0, .rc, .const 0, 0, 0xffffffff⟩
def DLS_DCX_IDX.DIE : Fld := ⟨0xa0044, 1, 1, 4, 0, 11, 0, .rw, .const 0, 0, 0xbff⟩
def DLS_DCX_STAT.OFF : Fld := ⟨0xa0048, 1, 1, 4, 0, 2, 2, .ro, .const 0, 0, 0x1⟩
def DLS_DCX_STAT.NOTOWNED : Fld := ⟨0xa0048, 1, 1, 4, 0, 1, 1, .ro, .const 0, 0, 0x1⟩
def DLS_DCX_STAT.READY : Fld := ⟨0xa0048, 1, 1, 4, 0, 0, 0, .ro, .const 0, 0, 0x1⟩
def DLS_DCX_W.WORD : Fld := ⟨0xa0060, 8, 1, 0x4, 0, 31, 0, .ro, .const 0, 0, 0xffffffff⟩
def TNT_IDX.TENANT : Fld := ⟨0xb0000, 1, 1, 4, 0, 11, 0, .rw, .const 0, 0, 0xfff⟩
def TNT_STAT.UNUSED : Fld := ⟨0xb0004, 1, 1, 4, 0, 1, 1, .ro, .const 0, 0, 0x1⟩
def TNT_STAT.READY : Fld := ⟨0xb0004, 1, 1, 4, 0, 0, 0, .ro, .const 0, 0, 0x1⟩
def TNT_W.WORD : Fld := ⟨0xb0040, 16, 1, 0x4, 0, 31, 0, .ro, .const 0, 0, 0xffffffff⟩
def TNT_LDG_IDX.TENANT : Fld := ⟨0xb0080, 1, 1, 4, 0, 23, 12, .rw, .const 0, 0, 0xfff⟩
def TNT_LDG_IDX.DIE : Fld := ⟨0xb0080, 1, 1, 4, 0, 11, 0, .rw, .const 0, 0, 0xfff⟩
def TNT_LDG_STAT.NOTOWNED : Fld := ⟨0xb0084, 1, 1, 4, 0, 1, 1, .ro, .const 0, 0, 0x1⟩
def TNT_LDG_STAT.READY : Fld := ⟨0xb0084, 1, 1, 4, 0, 0, 0, .ro, .const 0, 0, 0x1⟩
def TNT_LDG_W.WORD : Fld := ⟨0xb0088, 2, 1, 0x4, 0, 31, 0, .ro, .const 0, 0, 0xffffffff⟩
def FCH_CTL.RESETDIES : Fld := ⟨0x100000, 96, 1, 0x1000, 0, 2, 2, .w1s, .const 0, 0, 0x1⟩
def FCH_CTL.TRAIN : Fld := ⟨0x100000, 96, 1, 0x1000, 0, 1, 1, .w1s, .const 0, 0, 0x1⟩
def FCH_CTL.HOLD : Fld := ⟨0x100000, 96, 1, 0x1000, 0, 0, 0, .rwl, .const 0, 0, 0x1⟩
def FCH_STAT.OWNED : Fld := ⟨0x100004, 96, 1, 0x1000, 0, 31, 31, .ro, .const 0, 0, 0x1⟩
def FCH_STAT.HELD : Fld := ⟨0x100004, 96, 1, 0x1000, 0, 30, 30, .ro, .const 0, 0, 0x1⟩
def FCH_STAT.TRAINING : Fld := ⟨0x100004, 96, 1, 0x1000, 0, 29, 29, .ro, .const 0, 0, 0x1⟩
def FCH_STAT.RATE_MTS : Fld := ⟨0x100004, 96, 1, 0x1000, 0, 28, 16, .ro, .const 0, 0, 0x1fff⟩
def FCH_STAT.TRAINED : Fld := ⟨0x100004, 96, 1, 0x1000, 0, 15, 8, .ro, .const 0, 0, 0xff⟩
def FCH_STAT.SLOW : Fld := ⟨0x100004, 96, 1, 0x1000, 0, 3, 3, .ro, .const 0, 0, 0x1⟩
def FCH_STAT.MODE : Fld := ⟨0x100004, 96, 1, 0x1000, 0, 2, 0, .ro, .const 0, 0, 0x7⟩
def FCH_TRAIN.REASON : Fld := ⟨0x100008, 96, 1, 0x1000, 0, 31, 28, .ro, .const 0, 0, 0xf⟩
def FCH_TRAIN.CE : Fld := ⟨0x100008, 96, 1, 0x1000, 0, 26, 24, .ro, .const 0, 0, 0x7⟩
def FCH_TRAIN.FAILS : Fld := ⟨0x100008, 96, 1, 0x1000, 0, 15, 0, .rc, .const 0, 0, 0xffff⟩
def FCH_ERRCNT.PROGFAIL : Fld := ⟨0x10000c, 96, 1, 0x1000, 0, 31, 22, .rc, .const 0, 0, 0x3ff⟩
def FCH_ERRCNT.ERASEFAIL : Fld := ⟨0x10000c, 96, 1, 0x1000, 0, 21, 12, .rc, .const 0, 0, 0x3ff⟩
def FCH_ERRCNT.TIMEOUT : Fld := ⟨0x10000c, 96, 1, 0x1000, 0, 11, 0, .rc, .const 0, 0, 0xfff⟩
def FCH_WDOG.DATAIN : Fld := ⟨0x100010, 96, 1, 0x1000, 0, 31, 16, .rc, .const 0, 0, 0xffff⟩
def FCH_WDOG.DATAOUT : Fld := ⟨0x100010, 96, 1, 0x1000, 0, 15, 0, .rc, .const 0, 0, 0xffff⟩
def FCH_EYE.RD_PS : Fld := ⟨0x100040, 768, 8, 0x1000, 0x4, 31, 16, .ro, .const 0, 0, 0xffff⟩
def FCH_EYE.WR_PS : Fld := ⟨0x100040, 768, 8, 0x1000, 0x4, 15, 0, .ro, .const 0, 0, 0xffff⟩
def FCH_DIE.STATE : Fld := ⟨0x100100, 3072, 32, 0x1000, 0x4, 31, 29, .ro, .const 0, 0, 0x7⟩
def FCH_DIE.REASON : Fld := ⟨0x100100, 3072, 32, 0x1000, 0x4, 28, 25, .ro, .const 0, 0, 0xf⟩
def FCH_DIE.REBUILD : Fld := ⟨0x100100, 3072, 32, 0x1000, 0x4, 24, 24, .ro, .const 0, 0, 0x1⟩
def FCH_DIE.NOSUSP : Fld := ⟨0x100100, 3072, 32, 0x1000, 0x4, 23, 23, .ro, .const 0, 0, 0x1⟩
def FCH_DIE.SLOW : Fld := ⟨0x100100, 3072, 32, 0x1000, 0x4, 22, 22, .ro, .const 0, 0, 0x1⟩
def FCH_DIE.HOT : Fld := ⟨0x100100, 3072, 32, 0x1000, 0x4, 21, 21, .ro, .const 0, 0, 0x1⟩
def FCH_DIE.TEMP_C : Fld := ⟨0x100100, 3072, 32, 0x1000, 0x4, 20, 13, .ro, .const 0, 0, 0xff⟩
def FCH_DIE.BAD : Fld := ⟨0x100100, 3072, 32, 0x1000, 0x4, 12, 0, .ro, .const 0, 0, 0x1fff⟩
def LDP_RRCFG.SOFT_MV : Fld := ⟨0x160000, 1, 1, 4, 0, 15, 8, .rwl, .const 0x28, 0, 0xff⟩
def LDP_RRCFG.MAX_HARD : Fld := ⟨0x160000, 1, 1, 4, 0, 5, 0, .rwl, .const 8, 1, 0x3f⟩
def LDP_REFCFG.DISTURB_K : Fld := ⟨0x160004, 1, 1, 4, 0, 31, 16, .rwl, .const 0xc8, 1, 0xffff⟩
def LDP_REFCFG.BITS : Fld := ⟨0x160004, 1, 1, 4, 0, 8, 0, .rwl, .const 0xa0, 1, 0x1ff⟩
def LDP_WEARCFG.PE_LIMIT : Fld := ⟨0x160008, 1, 1, 4, 0, 31, 16, .rwl, .const 0xbb8, 1, 0xffff⟩
def LDP_WEARCFG.WEAR_GAP : Fld := ⟨0x160008, 1, 1, 4, 0, 15, 0, .rwl, .const 0x12c, 0, 0xffff⟩
def LDP_SCRUBCFG.HOURS : Fld := ⟨0x16000c, 1, 1, 4, 0, 31, 16, .rwl, .const 0xa8, 0, 0xffff⟩
def LDP_SCRUBCFG.STRIDE : Fld := ⟨0x16000c, 1, 1, 4, 0, 7, 0, .rwl, .const 0x10, 1, 0x40⟩
def LDP_DIECFG.BADMAX : Fld := ⟨0x160010, 1, 1, 4, 0, 31, 16, .rwl, .const 0x80, 1, 0x1400⟩
def LDP_DIECFG.WD_MAX : Fld := ⟨0x160010, 1, 1, 4, 0, 15, 8, .rwl, .const 8, 1, 0xff⟩
def LDP_TRAINCFG.RETRAIN_MIN : Fld := ⟨0x160014, 1, 1, 4, 0, 31, 16, .rwl, .const 0x3c, 1, 0xffff⟩
def LDP_TRAINCFG.RETRAIN_C : Fld := ⟨0x160014, 1, 1, 4, 0, 7, 0, .rwl, .const 0xa, 2, 0x32⟩
def LDP_DIECMD.GO : Fld := ⟨0x160018, 1, 1, 4, 0, 31, 31, .w1s, .const 0, 0, 0x1⟩
def LDP_DIECMD.OP : Fld := ⟨0x160018, 1, 1, 4, 0, 27, 24, .rw, .const 0, 0, 0x1⟩
def LDP_DIECMD.DIE : Fld := ⟨0x160018, 1, 1, 4, 0, 11, 0, .rw, .const 0, 0, 0xbff⟩
def LDP_RETRYCNT.COUNT : Fld := ⟨0x160020, 1, 1, 4, 0, 31, 0, .rc, .const 0, 0, 0xffffffff⟩
def LDP_SOFTCNT.COUNT : Fld := ⟨0x160024, 1, 1, 4, 0, 31, 0, .rc, .const 0, 0, 0xffffffff⟩
def LDP_UNCCNT.COUNT : Fld := ⟨0x160028, 1, 1, 4, 0, 31, 0, .rc, .const 0, 0, 0xffffffff⟩
def LDP_REFRESHCNT.COUNT : Fld := ⟨0x16002c, 1, 1, 4, 0, 31, 0, .rc, .const 0, 0, 0xffffffff⟩
def LDP_WEARCNT.COUNT : Fld := ⟨0x160030, 1, 1, 4, 0, 31, 0, .rc, .const 0, 0, 0xffffffff⟩
def LDP_BLK_IDX.BLOCK : Fld := ⟨0x160040, 1, 1, 4, 0, 24, 12, .rw, .const 0, 0, 0x1fff⟩
def LDP_BLK_IDX.DIE : Fld := ⟨0x160040, 1, 1, 4, 0, 11, 0, .rw, .const 0, 0, 0xfff⟩
def LDP_BLK_STAT.BEYOND : Fld := ⟨0x160044, 1, 1, 4, 0, 1, 1, .ro, .const 0, 0, 0x1⟩
def LDP_BLK_STAT.READY : Fld := ⟨0x160044, 1, 1, 4, 0, 0, 0, .ro, .const 0, 0, 0x1⟩
def LDP_BLK_W.WORD : Fld := ⟨0x160050, 4, 1, 0x4, 0, 31, 0, .ro, .const 0, 0, 0xffffffff⟩
def SPE_CTL.VERIFY_EN : Fld := ⟨0x170000, 1, 1, 4, 0, 1, 1, .rwl, .const 1, 0, 0x1⟩
def SPE_CTL.REBUILD_EN : Fld := ⟨0x170000, 1, 1, 4, 0, 0, 0, .rwl, .const 1, 0, 0x1⟩
def SPE_STAT.RB_DIE : Fld := ⟨0x170004, 1, 1, 4, 0, 27, 16, .ro, .const 0, 0, 0xfff⟩
def SPE_STAT.RB_MEMBERS : Fld := ⟨0x170004, 1, 1, 4, 0, 15, 8, .ro, .const 0, 0, 0xff⟩
def SPE_STAT.PAUSED : Fld := ⟨0x170004, 1, 1, 4, 0, 2, 2, .ro, .const 0, 0, 0x1⟩
def SPE_STAT.VERIFYING : Fld := ⟨0x170004, 1, 1, 4, 0, 1, 1, .ro, .const 0, 0, 0x1⟩
def SPE_STAT.REBUILDING : Fld := ⟨0x170004, 1, 1, 4, 0, 0, 0, .ro, .const 0, 0, 0x1⟩
def SPE_RBCFG.PAUSE_LEVEL : Fld := ⟨0x170008, 1, 1, 4, 0, 18, 16, .rwl, .const 6, 1, 0x7⟩
def SPE_RBCFG.RATE_MBS : Fld := ⟨0x170008, 1, 1, 4, 0, 15, 0, .rwl, .const 0x3e8, 100, 0x1f40⟩
def SPE_VFYCFG.HOURS : Fld := ⟨0x17000c, 1, 1, 4, 0, 31, 16, .rwl, .const 0x2d0, 0, 0xffff⟩
def SPE_VFYCFG.STRIDE : Fld := ⟨0x17000c, 1, 1, 4, 0, 7, 0, .rwl, .const 0x40, 1, 0x80⟩
def SPE_RECCNT.DOUBLE : Fld := ⟨0x170010, 1, 1, 4, 0, 31, 16, .rc, .const 0, 0, 0xffff⟩
def SPE_RECCNT.SINGLE : Fld := ⟨0x170010, 1, 1, 4, 0, 15, 0, .rc, .const 0, 0, 0xffff⟩
def SPE_UNRCNT.COUNT : Fld := ⟨0x170014, 1, 1, 4, 0, 31, 0, .rc, .const 0, 0, 0xffffffff⟩
def SPE_RBDONE.COUNT : Fld := ⟨0x170018, 1, 1, 4, 0, 31, 0, .rc, .const 0, 0, 0xffffffff⟩
def SPE_RBLEFT.ROWS : Fld := ⟨0x17001c, 1, 1, 4, 0, 31, 0, .ro, .const 0, 0, 0xffffffff⟩
def SPE_VFYROWS.COUNT : Fld := ⟨0x170020, 1, 1, 4, 0, 31, 0, .rc, .const 0, 0, 0xffffffff⟩
def SPE_VFYERR.UNLOCATED : Fld := ⟨0x170024, 1, 1, 4, 0, 31, 16, .rc, .const 0, 0, 0xffff⟩
def SPE_VFYERR.REPAIRED : Fld := ⟨0x170024, 1, 1, 4, 0, 15, 0, .rc, .const 0, 0, 0xffff⟩
def SPE_POISON.USED : Fld := ⟨0x170028, 1, 1, 4, 0, 12, 0, .ro, .const 0, 0, 0x1fff⟩
def SPE_ULOG0.VALID : Fld := ⟨0x170030, 1, 1, 4, 0, 31, 31, .w1c, .const 0, 0, 0x1⟩
def SPE_ULOG0.ZONE : Fld := ⟨0x170030, 1, 1, 4, 0, 27, 10, .ro, .const 0, 0, 0x3ffff⟩
def SPE_ULOG0.ROW : Fld := ⟨0x170030, 1, 1, 4, 0, 9, 0, .ro, .const 0, 0, 0x3ff⟩
def SPE_ULOG1.MEMBER : Fld := ⟨0x170034, 1, 1, 4, 0, 12, 8, .ro, .const 0, 0, 0x1f⟩
def SPE_ULOG1.PAGE : Fld := ⟨0x170034, 1, 1, 4, 0, 7, 4, .ro, .const 0, 0, 0xf⟩
def SPE_ULOG1.CW : Fld := ⟨0x170034, 1, 1, 4, 0, 1, 0, .ro, .const 0, 0, 0x3⟩
def CMP_CTL.DEFLEVEL : Fld := ⟨0x180000, 1, 1, 4, 0, 3, 0, .rwl, .const 3, 1, 0x9⟩
def CMP_STAT.DEC_BUSY : Fld := ⟨0x180004, 1, 1, 4, 0, 12, 8, .ro, .const 0, 0, 0x1f⟩
def CMP_STAT.CMP_BUSY : Fld := ⟨0x180004, 1, 1, 4, 0, 3, 0, .ro, .const 0, 0, 0xf⟩
def CMP_BLKCNT.COUNT : Fld := ⟨0x180008, 1, 1, 4, 0, 31, 0, .rc, .const 0, 0, 0xffffffff⟩
def CMP_RAWCNT.COUNT : Fld := ⟨0x18000c, 1, 1, 4, 0, 31, 0, .rc, .const 0, 0, 0xffffffff⟩
def CMP_INBYTES_LO.BYTES : Fld := ⟨0x180010, 1, 1, 4, 0, 31, 0, .ro, .const 0, 0, 0xffffffff⟩
def CMP_INBYTES_HI.BYTES : Fld := ⟨0x180014, 1, 1, 4, 0, 31, 0, .ro, .const 0, 0, 0xffffffff⟩
def CMP_OUTBYTES_LO.BYTES : Fld := ⟨0x180018, 1, 1, 4, 0, 31, 0, .ro, .const 0, 0, 0xffffffff⟩
def CMP_OUTBYTES_HI.BYTES : Fld := ⟨0x18001c, 1, 1, 4, 0, 31, 0, .ro, .const 0, 0, 0xffffffff⟩
def CMP_CHKERR.RECOVERED : Fld := ⟨0x180020, 1, 1, 4, 0, 31, 16, .rc, .const 0, 0, 0xffff⟩
def CMP_CHKERR.FAILED : Fld := ⟨0x180020, 1, 1, 4, 0, 15, 0, .rc, .const 0, 0, 0xffff⟩
def CMP_ERR.DECODE : Fld := ⟨0x180024, 1, 1, 4, 0, 31, 16, .rc, .const 0, 0, 0xffff⟩
def CMP_ERR.TAGMIS : Fld := ⟨0x180024, 1, 1, 4, 0, 15, 0, .rc, .const 0, 0, 0xffff⟩
def CMP_LOG0.VALID : Fld := ⟨0x180028, 1, 1, 4, 0, 31, 31, .w1c, .const 0, 0, 0x1⟩
def CMP_LOG0.CAUSE : Fld := ⟨0x180028, 1, 1, 4, 0, 19, 18, .ro, .const 0, 0, 0x3⟩
def CMP_LOG0.ZONE : Fld := ⟨0x180028, 1, 1, 4, 0, 17, 0, .ro, .const 0, 0, 0x3ffff⟩
def CMP_LOG1.LBA_OFF : Fld := ⟨0x18002c, 1, 1, 4, 0, 23, 17, .ro, .const 0, 0, 0x7f⟩
def CMP_LOG1.GRANULE : Fld := ⟨0x18002c, 1, 1, 4, 0, 16, 0, .ro, .const 0, 0, 0x1ffff⟩
def CPH_STAT.SUSPENDED : Fld := ⟨0x190000, 1, 1, 4, 0, 17, 16, .ro, .const 0, 0, 0x3⟩
def CPH_STAT.GCM_BUSY : Fld := ⟨0x190000, 1, 1, 4, 0, 11, 8, .ro, .const 0, 0, 0xf⟩
def CPH_STAT.XTS_BUSY : Fld := ⟨0x190000, 1, 1, 4, 0, 5, 0, .ro, .const 0, 0, 0x3f⟩
def CPH_XTSBYTES_LO.BYTES : Fld := ⟨0x190004, 1, 1, 4, 0, 31, 0, .ro, .const 0, 0, 0xffffffff⟩
def CPH_XTSBYTES_HI.BYTES : Fld := ⟨0x190008, 1, 1, 4, 0, 31, 0, .ro, .const 0, 0, 0xffffffff⟩
def CPH_GCMBYTES_LO.BYTES : Fld := ⟨0x19000c, 1, 1, 4, 0, 31, 0, .ro, .const 0, 0, 0xffffffff⟩
def CPH_GCMBYTES_HI.BYTES : Fld := ⟨0x190010, 1, 1, 4, 0, 31, 0, .ro, .const 0, 0, 0xffffffff⟩
def CPH_SUSPCNT.COUNT : Fld := ⟨0x190014, 1, 1, 4, 0, 31, 0, .rc, .const 0, 0, 0xffffffff⟩
def CPH_TAGFAIL.TWIN : Fld := ⟨0x190018, 1, 1, 4, 0, 31, 16, .rc, .const 0, 0, 0xffff⟩
def CPH_TAGFAIL.META : Fld := ⟨0x190018, 1, 1, 4, 0, 15, 0, .rc, .const 0, 0, 0xffff⟩
def CPH_KEYERR.COUNT : Fld := ⟨0x19001c, 1, 1, 4, 0, 31, 0, .rc, .const 0, 0, 0xffffffff⟩
def CPH_FLOG0.VALID : Fld := ⟨0x190020, 1, 1, 4, 0, 31, 31, .w1c, .const 0, 0, 0x1⟩
def CPH_FLOG0.USE : Fld := ⟨0x190020, 1, 1, 4, 0, 17, 16, .ro, .const 0, 0, 0x3⟩
def CPH_FLOG0.SLOT : Fld := ⟨0x190020, 1, 1, 4, 0, 13, 0, .ro, .const 0, 0, 0x3fff⟩
def CPH_FLOG1.DTC : Fld := ⟨0x190024, 1, 1, 4, 0, 31, 0, .ro, .const 0, 0, 0xffffffff⟩
def CPH_IVCTR_LO.COUNT : Fld := ⟨0x190028, 1, 1, 4, 0, 31, 0, .ro, .const 0, 0, 0xffffffff⟩
def CPH_IVCTR_HI.COUNT : Fld := ⟨0x19002c, 1, 1, 4, 0, 31, 0, .ro, .const 0, 0, 0xffffffff⟩
def KVT_STAT.STATE : Fld := ⟨0x1a0000, 1, 1, 4, 0, 31, 30, .ro, .const 0, 0, 0x3⟩
def KVT_STAT.DWK : Fld := ⟨0x1a0000, 1, 1, 4, 0, 29, 29, .ro, .const 0, 0, 0x1⟩
def KVT_STAT.META : Fld := ⟨0x1a0000, 1, 1, 4, 0, 28, 28, .ro, .const 0, 0, 0x1⟩
def KVT_STAT.DATA_LOADED : Fld := ⟨0x1a0000, 1, 1, 4, 0, 13, 0, .ro, .const 0, 0, 0x3fff⟩
def KVT_ALARM.SRC : Fld := ⟨0x1a0004, 1, 1, 4, 0, 7, 0, .ro, .const 0, 0, 0xff⟩
def KVT_FORCE.CODE : Fld := ⟨0x1a0008, 1, 1, 4, 0, 31, 0, .wo, .const 0, 0, 0xffffffff⟩
def KVT_LASTALARM.DTC : Fld := ⟨0x1a000c, 1, 1, 4, 0, 31, 0, .ro, .const 0, 0, 0xffffffff⟩
def KVT_BUSERR.COUNT : Fld := ⟨0x1a0010, 1, 1, 4, 0, 31, 0, .rc, .const 0, 0, 0xffffffff⟩
def KVT_LOADCNT.FAILED : Fld := ⟨0x1a0014, 1, 1, 4, 0, 31, 16, .rc, .const 0, 0, 0xffff⟩
def KVT_LOADCNT.DONE : Fld := ⟨0x1a0014, 1, 1, 4, 0, 15, 0, .rc, .const 0, 0, 0xffff⟩
def KVT_SLOT_IDX.SLOT : Fld := ⟨0x1a0020, 1, 1, 4, 0, 13, 0, .rw, .const 0, 0, 0x20ff⟩
def KVT_SLOT_STAT.STATE : Fld := ⟨0x1a0024, 1, 1, 4, 0, 31, 30, .ro, .const 0, 0, 0x3⟩
def KVT_SLOT_STAT.KIND : Fld := ⟨0x1a0024, 1, 1, 4, 0, 29, 28, .ro, .const 0, 0, 0x3⟩
def KVT_SLOT_STAT.TENANT : Fld := ⟨0x1a0024, 1, 1, 4, 0, 27, 16, .ro, .const 0, 0, 0xfff⟩
def KVT_SLOT_STAT.KEYGEN : Fld := ⟨0x1a0024, 1, 1, 4, 0, 15, 0, .ro, .const 0, 0, 0xffff⟩
def KVT_SLOT_W.NSID : Fld := ⟨0x1a0028, 1, 1, 4, 0, 31, 0, .ro, .const 0, 0, 0xffffffff⟩
def NVA_KEY.KEY : Fld := ⟨0x1b0000, 1, 1, 4, 0, 31, 0, .wo, .const 0, 0, 0xffffffff⟩
def NVA_CMD.OP : Fld := ⟨0x1b0004, 1, 1, 4, 0, 3, 0, .rw, .const 0, 0, 0xf⟩
def NVA_ADDR.ADDR : Fld := ⟨0x1b0008, 1, 1, 4, 0, 25, 0, .rw, .const 0, 0, 0x3ffffff⟩
def NVA_DATA.WORD : Fld := ⟨0x1b000c, 1, 1, 4, 0, 31, 0, .wo, .const 0, 0, 0xffffffff⟩
def NVA_STAT.BUSY : Fld := ⟨0x1b0010, 1, 1, 4, 0, 31, 31, .ro, .const 0, 0, 0x1⟩
def NVA_STAT.SEQ : Fld := ⟨0x1b0010, 1, 1, 4, 0, 30, 28, .ro, .const 0, 0, 0x7⟩
def NVA_STAT.BROWNOUT : Fld := ⟨0x1b0010, 1, 1, 4, 0, 27, 27, .ro, .const 0, 0, 0x1⟩
def NVA_STAT.PENDRST : Fld := ⟨0x1b0010, 1, 1, 4, 0, 26, 26, .ro, .const 0, 0, 0x1⟩
def NVA_STAT.BLANK : Fld := ⟨0x1b0010, 1, 1, 4, 0, 25, 25, .ro, .const 0, 0, 0x1⟩
def NVA_STAT.RDMISS : Fld := ⟨0x1b0010, 1, 1, 4, 0, 24, 24, .w1c, .const 0, 0, 0x1⟩
def NVA_STAT.RDVALID : Fld := ⟨0x1b0010, 1, 1, 4, 0, 23, 23, .ro, .const 0, 0, 0x1⟩
def NVA_STAT.RESULT : Fld := ⟨0x1b0010, 1, 1, 4, 0, 19, 16, .ro, .const 0, 0, 0xf⟩
def NVA_STAT.DATACNT : Fld := ⟨0x1b0010, 1, 1, 4, 0, 3, 0, .ro, .const 0, 0, 0xf⟩
def NVA_RADDR.WORD : Fld := ⟨0x1b0014, 1, 1, 4, 0, 25, 2, .rw, .const 0, 0, 0xffffff⟩
def NVA_RDATA.WORD : Fld := ⟨0x1b0018, 1, 1, 4, 0, 31, 0, .ro, .const 0, 0, 0xffffffff⟩
def NVA_ACTIVE.ERASEALL : Fld := ⟨0x1b001c, 1, 1, 4, 0, 31, 31, .ro, .const 0, 0, 0x1⟩
def NVA_ACTIVE.PENDERASE : Fld := ⟨0x1b001c, 1, 1, 4, 0, 9, 1, .ro, .const 0, 0, 0x1ff⟩
def NVA_ACTIVE.FW_BANK : Fld := ⟨0x1b001c, 1, 1, 4, 0, 0, 0, .ro, .const 0, 0, 0x1⟩
def NVA_ECNT_IDX.SECTOR : Fld := ⟨0x1b0020, 1, 1, 4, 0, 9, 0, .rw, .const 0, 0, 0x3ff⟩
def NVA_ECNT.ECNT : Fld := ⟨0x1b0024, 1, 1, 4, 0, 31, 0, .ro, .const 0, 0, 0xffffffff⟩
def NVA_BOSTAT.COUNT : Fld := ⟨0x1b0028, 1, 1, 4, 0, 15, 0, .rc, .const 0, 0, 0xffff⟩
def NVA_ERRCNT.PROTECTED : Fld := ⟨0x1b002c, 1, 1, 4, 0, 31, 16, .rc, .const 0, 0, 0xffff⟩
def NVA_ERRCNT.SEQERR : Fld := ⟨0x1b002c, 1, 1, 4, 0, 15, 0, .rc, .const 0, 0, 0xffff⟩
def NVA_SPARE.USED : Fld := ⟨0x1b0030, 1, 1, 4, 0, 7, 0, .ro, .const 0, 0, 0xff⟩
def NVA_XO.VALID : Fld := ⟨0x1b0040, 8, 1, 0x4, 0, 31, 31, .ro, .const 0, 0, 0x1⟩
def NVA_XO.FIRST : Fld := ⟨0x1b0040, 8, 1, 0x4, 0, 25, 16, .ro, .const 0, 0, 0x3ff⟩
def NVA_XO.LAST : Fld := ⟨0x1b0040, 8, 1, 0x4, 0, 9, 0, .ro, .const 0, 0, 0x3ff⟩
def TRS_STAT.LEVEL : Fld := ⟨0x1c0000, 1, 1, 4, 0, 31, 30, .ro, .const 0, 0, 0x3⟩
def TRS_STAT.OWNED : Fld := ⟨0x1c0000, 1, 1, 4, 0, 29, 29, .ro, .const 0, 0, 0x1⟩
def TRS_STAT.LEVEL2_FUSE : Fld := ⟨0x1c0000, 1, 1, 4, 0, 28, 28, .ro, .const 0, 0, 0x1⟩
def TRS_STAT.FWFALLBACK : Fld := ⟨0x1c0000, 1, 1, 4, 0, 27, 27, .ro, .const 0, 0, 0x1⟩
def TRS_STAT.ROMREC : Fld := ⟨0x1c0000, 1, 1, 4, 0, 26, 26, .ro, .const 0, 0, 0x1⟩
def TRS_STAT.BOOTFAIL : Fld := ⟨0x1c0000, 1, 1, 4, 0, 23, 20, .ro, .const 0, 0, 0xf⟩
def TRS_CMD.GO : Fld := ⟨0x1c0004, 1, 1, 4, 0, 31, 31, .w1s, .const 0, 0, 0x1⟩
def TRS_CMD.NONCE : Fld := ⟨0x1c0004, 1, 1, 4, 0, 30, 30, .w1s, .const 0, 0, 0x1⟩
def TRS_CMD.REVOKE : Fld := ⟨0x1c0004, 1, 1, 4, 0, 29, 29, .w1s, .const 0, 0, 0x1⟩
def TRS_CMD.FWLOAD : Fld := ⟨0x1c0004, 1, 1, 4, 0, 28, 28, .w1s, .const 0, 0, 0x1⟩
def TRS_RESULT.BUSY : Fld := ⟨0x1c0008, 1, 1, 4, 0, 31, 31, .ro, .const 0, 0, 0x1⟩
def TRS_RESULT.RESULT : Fld := ⟨0x1c0008, 1, 1, 4, 0, 27, 24, .ro, .const 0, 0, 0xf⟩
def TRS_RESULT.OP : Fld := ⟨0x1c0008, 1, 1, 4, 0, 15, 0, .ro, .const 0, 0, 0xffff⟩
def TRS_DEBUG.REMAIN_S : Fld := ⟨0x1c000c, 1, 1, 4, 0, 24, 8, .ro, .const 0, 0, 0x1ffff⟩
def TRS_DEBUG.CORE : Fld := ⟨0x1c000c, 1, 1, 4, 0, 1, 1, .ro, .const 0, 0, 0x1⟩
def TRS_DEBUG.PERTURB : Fld := ⟨0x1c000c, 1, 1, 4, 0, 0, 0, .ro, .const 0, 0, 0x1⟩
def TRS_SVN.FLOOR : Fld := ⟨0x1c0010, 1, 1, 4, 0, 31, 16, .ro, .const 0, 0, 0xffff⟩
def TRS_SVN.RUNNING : Fld := ⟨0x1c0010, 1, 1, 4, 0, 15, 0, .ro, .const 0, 0, 0xffff⟩
def TRS_IMGKEY.STATE : Fld := ⟨0x1c0014, 1, 1, 4, 0, 7, 0, .ro, .const 0, 0, 0xff⟩
def TRS_FAILCNT.BADSIG : Fld := ⟨0x1c0018, 1, 1, 4, 0, 31, 16, .rc, .const 0, 0, 0xffff⟩
def TRS_FAILCNT.CONSEC : Fld := ⟨0x1c0018, 1, 1, 4, 0, 3, 0, .ro, .const 0, 0, 0xf⟩
def TRS_SANSTAT.DWK_GEN : Fld := ⟨0x1c001c, 1, 1, 4, 0, 31, 16, .ro, .const 0, 0, 0xffff⟩
def TRS_SANSTAT.STATE : Fld := ⟨0x1c001c, 1, 1, 4, 0, 2, 0, .ro, .const 0, 0, 0x7⟩
def TRS_NONCE.WORD : Fld := ⟨0x1c0020, 8, 1, 0x4, 0, 31, 0, .ro, .const 0, 0, 0xffffffff⟩
def TRS_OWNERDIG.WORD : Fld := ⟨0x1c0040, 12, 1, 0x4, 0, 31, 0, .ro, .const 0, 0, 0xffffffff⟩
def TRS_MBOX.WORD : Fld := ⟨0x1c0100, 64, 1, 0x4, 0, 31, 0, .wo, .const 0, 0, 0xffffffff⟩
def BPM_STAT.WORST_POOL : Fld := ⟨0x1d0000, 1, 1, 4, 0, 13, 8, .ro, .const 0, 0, 0x3f⟩
def BPM_STAT.MODE : Fld := ⟨0x1d0000, 1, 1, 4, 0, 3, 3, .ro, .const 1, 0, 0x1⟩
def BPM_STAT.DEVBARO : Fld := ⟨0x1d0000, 1, 1, 4, 0, 2, 0, .ro, .const 0, 0, 0x7⟩
def BPM_BPCFG.OVERQ : Fld := ⟨0x1d0004, 1, 1, 4, 0, 6, 4, .rwl, .const 6, 1, 0x7⟩
def BPM_BPCFG.DRIZZLE : Fld := ⟨0x1d0004, 1, 1, 4, 0, 2, 0, .rwl, .const 3, 1, 0x7⟩
def BPM_WDOGCNT.COUNT : Fld := ⟨0x1d0008, 1, 1, 4, 0, 31, 0, .rc, .const 0, 0, 0xffffffff⟩
def BPM_WDOGLOG.VALID : Fld := ⟨0x1d000c, 1, 1, 4, 0, 31, 31, .w1c, .const 0, 0, 0x1⟩
def BPM_WDOGLOG.POOL : Fld := ⟨0x1d000c, 1, 1, 4, 0, 13, 8, .ro, .const 0, 0, 0x3f⟩
def BPM_WDOGLOG.REQ : Fld := ⟨0x1d000c, 1, 1, 4, 0, 5, 0, .ro, .const 0, 0, 0x3f⟩
def BPM_ERRCNT.RANK : Fld := ⟨0x1d0010, 1, 1, 4, 0, 31, 24, .rc, .const 0, 0, 0xff⟩
def BPM_ERRCNT.OWNER : Fld := ⟨0x1d0010, 1, 1, 4, 0, 23, 12, .rc, .const 0, 0, 0xfff⟩
def BPM_ERRCNT.LIST : Fld := ⟨0x1d0010, 1, 1, 4, 0, 11, 0, .rc, .const 0, 0, 0xfff⟩
def BPM_BPHOLD.COUNT : Fld := ⟨0x1d0014, 1, 1, 4, 0, 31, 0, .rc, .const 0, 0, 0xffffffff⟩
def BPM_POOLCFG.VALID : Fld := ⟨0x1d0100, 64, 1, 0x4, 0, 31, 31, .ro, .const 0, 0, 0x1⟩
def BPM_POOLCFG.USED : Fld := ⟨0x1d0100, 64, 1, 0x4, 0, 30, 30, .ro, .const 0, 0, 0x1⟩
def BPM_POOLCFG.MIRROR : Fld := ⟨0x1d0100, 64, 1, 0x4, 0, 29, 29, .ro, .const 0, 0, 0x1⟩
def BPM_POOLCFG.MEM : Fld := ⟨0x1d0100, 64, 1, 0x4, 0, 28, 28, .ro, .const 0, 0, 0x1⟩
def BPM_POOLCFG.MODE : Fld := ⟨0x1d0100, 64, 1, 0x4, 0, 27, 27, .ro, .const 0, 0, 0x1⟩
def BPM_POOLCFG.RANK : Fld := ⟨0x1d0100, 64, 1, 0x4, 0, 23, 20, .ro, .const 0, 0, 0xf⟩
def BPM_POOLCFG.CLASSMASK : Fld := ⟨0x1d0100, 64, 1, 0x4, 0, 13, 8, .ro, .const 0, 0, 0x3f⟩
def BPM_POOLSTAT.REBUILD : Fld := ⟨0x1d0200, 64, 1, 0x4, 0, 31, 31, .ro, .const 0, 0, 0x1⟩
def BPM_POOLSTAT.BARO : Fld := ⟨0x1d0200, 64, 1, 0x4, 0, 18, 16, .ro, .const 0, 0, 0x7⟩
def BPM_POOLSTAT.FILL : Fld := ⟨0x1d0200, 64, 1, 0x4, 0, 8, 0, .ro, .const 0, 0, 0x1ff⟩
def BPM_POOLFREE.FREE : Fld := ⟨0x1d0300, 64, 1, 0x4, 0, 23, 0, .ro, .const 0, 0, 0xffffff⟩
def BPM_RQCFG.QUOTA : Fld := ⟨0x1d0400, 64, 1, 0x4, 0, 26, 16, .rwl, .perIndex [256, 256, 256, 256, 256, 256, 256, 256, 128, 128, 128, 128, 128, 128, 128, 128, 128, 128, 128, 128, 0, 0, 0, 0, 0, 0, 0, 0, 0, 0, 0, 0, 512, 512, 1024, 1024, 1024, 256, 1024, 0, 256, 0, 1024], 1, 0x400⟩
def BPM_RQCFG.MIN : Fld := ⟨0x1d0400, 64, 1, 0x4, 0, 10, 0, .rwl, .perIndex [16, 16, 16, 16, 16, 16, 16, 16, 16, 16, 16, 16, 16, 16, 16, 16, 16, 16, 16, 16, 0, 0, 0, 0, 0, 0, 0, 0, 0, 0, 0, 0, 64, 64, 128, 256, 1024, 32, 256, 0, 32, 0, 256], 0, 0x400⟩
def BPM_RQHELD.WAITING : Fld := ⟨0x1d0500, 64, 1, 0x4, 0, 31, 24, .ro, .const 0, 0, 0xff⟩
def BPM_RQHELD.HELD : Fld := ⟨0x1d0500, 64, 1, 0x4, 0, 23, 0, .ro, .const 0, 0, 0xffffff⟩
def DRC_CTL.TRAIN_OP : Fld := ⟨0x1e0000, 8, 1, 0x1000, 0, 3, 2, .rw, .const 1, 1, 0x2⟩
def DRC_CTL.TRAIN : Fld := ⟨0x1e0000, 8, 1, 0x1000, 0, 1, 1, .w1s, .const 0, 0, 0x1⟩
def DRC_CTL.QUIESCE : Fld := ⟨0x1e0000, 8, 1, 0x1000, 0, 0, 0, .rwl, .const 0, 0, 0x1⟩
def DRC_STAT.RATE_MTS : Fld := ⟨0x1e0004, 8, 1, 0x1000, 0, 31, 16, .ro, .const 0, 0, 0xffff⟩
def DRC_STAT.QUIET : Fld := ⟨0x1e0004, 8, 1, 0x1000, 0, 9, 9, .ro, .const 0, 0, 0x1⟩
def DRC_STAT.RANKS2 : Fld := ⟨0x1e0004, 8, 1, 0x1000, 0, 8, 8, .ro, .const 0, 0, 0x1⟩
def DRC_STAT.GB32 : Fld := ⟨0x1e0004, 8, 1, 0x1000, 0, 7, 7, .ro, .const 0, 0, 0x1⟩
def DRC_STAT.STATE : Fld := ⟨0x1e0004, 8, 1, 0x1000, 0, 2, 0, .ro, .const 0, 0, 0x7⟩
def DRC_CFG.STARVE_NS : Fld := ⟨0x1e0008, 8, 1, 0x1000, 0, 31, 16, .rwl, .const 0x7d0, 100, 0xffff⟩
def DRC_CFG.WDRAIN_HI : Fld := ⟨0x1e0008, 8, 1, 0x1000, 0, 15, 8, .rwl, .const 0x30, 0, 0xff⟩
def DRC_CFG.WDRAIN_LO : Fld := ⟨0x1e0008, 8, 1, 0x1000, 0, 7, 0, .rwl, .const 0x10, 0, 0xff⟩
def DRC_TRAINCFG.MIN_EYE : Fld := ⟨0x1e000c, 8, 1, 0x1000, 0, 5, 0, .rwl, .const 0x10, 8, 0x30⟩
def DRC_TRAIN.REASON : Fld := ⟨0x1e0010, 8, 1, 0x1000, 0, 31, 28, .ro, .const 0, 0, 0xf⟩
def DRC_TRAIN.STEP : Fld := ⟨0x1e0010, 8, 1, 0x1000, 0, 27, 24, .ro, .const 0, 0, 0xf⟩
def DRC_TRAIN.FAILS : Fld := ⟨0x1e0010, 8, 1, 0x1000, 0, 15, 0, .rc, .const 0, 0, 0xffff⟩
def DRC_EYE.RD : Fld := ⟨0x1e0014, 8, 1, 0x1000, 0, 21, 16, .ro, .const 0, 0, 0x3f⟩
def DRC_EYE.WR : Fld := ⟨0x1e0014, 8, 1, 0x1000, 0, 5, 0, .ro, .const 0, 0, 0x3f⟩
def DRC_REFSTAT.DOUBLE_B : Fld := ⟨0x1e0018, 8, 1, 0x1000, 0, 17, 17, .ro, .const 0, 0, 0x1⟩
def DRC_REFSTAT.DOUBLE_A : Fld := ⟨0x1e0018, 8, 1, 0x1000, 0, 16, 16, .ro, .const 0, 0, 0x1⟩
def DRC_REFSTAT.DEBT_B : Fld := ⟨0x1e0018, 8, 1, 0x1000, 0, 15, 8, .ro, .const 0, 0, 0xff⟩
def DRC_REFSTAT.DEBT_A : Fld := ⟨0x1e0018, 8, 1, 0x1000, 0, 7, 0, .ro, .const 0, 0, 0xff⟩
def DRC_REFCNT.FORCED : Fld := ⟨0x1e001c, 8, 1, 0x1000, 0, 31, 16, .rc, .const 0, 0, 0xffff⟩
def DRC_REFCNT.PULLED : Fld := ⟨0x1e001c, 8, 1, 0x1000, 0, 15, 0, .rc, .const 0, 0, 0xffff⟩
def DRC_PARITY.ALERTS : Fld := ⟨0x1e0020, 8, 1, 0x1000, 0, 31, 16, .rc, .const 0, 0, 0xffff⟩
def DRC_PARITY.REPLAYS : Fld := ⟨0x1e0020, 8, 1, 0x1000, 0, 15, 0, .rc, .const 0, 0, 0xffff⟩
def DRC_PARLOG.VALID : Fld := ⟨0x1e0024, 8, 1, 0x1000, 0, 31, 31, .w1c, .const 0, 0, 0x1⟩
def DRC_PARLOG.ATTEMPT : Fld := ⟨0x1e0024, 8, 1, 0x1000, 0, 9, 8, .ro, .const 0, 0, 0x3⟩
def DRC_PARLOG.SUBCH : Fld := ⟨0x1e0024, 8, 1, 0x1000, 0, 7, 7, .ro, .const 0, 0, 0x1⟩
def DRC_PARLOG.INDEX : Fld := ⟨0x1e0024, 8, 1, 0x1000, 0, 6, 0, .ro, .const 0, 0, 0x7f⟩
def DRC_RAWHOLD.COUNT : Fld := ⟨0x1e0028, 8, 1, 0x1000, 0, 31, 0, .rc, .const 0, 0, 0xffffffff⟩
def DRC_RMW.COUNT : Fld := ⟨0x1e002c, 8, 1, 0x1000, 0, 31, 0, .rc, .const 0, 0, 0xffffffff⟩
def DRC_RDBYTES_LO.BYTES : Fld := ⟨0x1e0030, 8, 1, 0x1000, 0, 31, 0, .ro, .const 0, 0, 0xffffffff⟩
def DRC_RDBYTES_HI.BYTES : Fld := ⟨0x1e0034, 8, 1, 0x1000, 0, 31, 0, .ro, .const 0, 0, 0xffffffff⟩
def DRC_WRBYTES_LO.BYTES : Fld := ⟨0x1e0038, 8, 1, 0x1000, 0, 31, 0, .ro, .const 0, 0, 0xffffffff⟩
def DRC_WRBYTES_HI.BYTES : Fld := ⟨0x1e003c, 8, 1, 0x1000, 0, 31, 0, .ro, .const 0, 0, 0xffffffff⟩
def SDP_CFG.AUTOREMAP : Fld := ⟨0x1f0000, 1, 1, 4, 0, 8, 8, .rwl, .const 1, 0, 0x1⟩
def SDP_CFG.HARDCNT : Fld := ⟨0x1f0000, 1, 1, 4, 0, 7, 0, .rwl, .const 8, 2, 0xff⟩
def SDP_BIST.DONE : Fld := ⟨0x1f0004, 1, 1, 4, 0, 8, 8, .ro, .const 0, 0, 0x1⟩
def SDP_BIST.FAIL : Fld := ⟨0x1f0004, 1, 1, 4, 0, 2, 0, .ro, .const 0, 0, 0x7⟩
def SDP_LOGOVF.ENVA : Fld := ⟨0x1f0008, 1, 1, 4, 0, 29, 20, .rc, .const 0, 0, 0x3ff⟩
def SDP_LOGOVF.DRAM : Fld := ⟨0x1f0008, 1, 1, 4, 0, 19, 10, .rc, .const 0, 0, 0x3ff⟩
def SDP_LOGOVF.SRAM : Fld := ⟨0x1f0008, 1, 1, 4, 0, 9, 0, .rc, .const 0, 0, 0x3ff⟩
def SDP_CECNT.COUNT : Fld := ⟨0x1f0010, 3, 1, 0x4, 0, 31, 0, .rc, .const 0, 0, 0xffffffff⟩
def SDP_UECNT.COUNT : Fld := ⟨0x1f0020, 3, 1, 0x4, 0, 31, 0, .rc, .const 0, 0, 0xffffffff⟩
def SDP_LOG_IDX.MEM : Fld := ⟨0x1f0030, 1, 1, 4, 0, 9, 8, .rw, .const 0, 0, 0x2⟩
def SDP_LOG_IDX.ENTRY : Fld := ⟨0x1f0030, 1, 1, 4, 0, 4, 0, .rw, .const 0, 0, 0x1f⟩
def SDP_LOG_W.WORD : Fld := ⟨0x1f0040, 4, 1, 0x4, 0, 31, 0, .ro, .const 0, 0, 0xffffffff⟩
def SDP_SCRUB_CTL.GO : Fld := ⟨0x1f0080, 1, 1, 4, 0, 31, 31, .w1s, .const 0, 0, 0x1⟩
def SDP_SCRUB_CTL.ABORT : Fld := ⟨0x1f0080, 1, 1, 4, 0, 30, 30, .w1s, .const 0, 0, 0x1⟩
def SDP_SCRUB_CTL.MEM : Fld := ⟨0x1f0080, 1, 1, 4, 0, 1, 0, .rw, .const 0, 0, 0x2⟩
def SDP_SCRUB_BASE_LO.BASE : Fld := ⟨0x1f0084, 1, 1, 4, 0, 31, 12, .rw, .const 0, 0, 0xfffff⟩
def SDP_SCRUB_BASE_HI.BASE : Fld := ⟨0x1f0088, 1, 1, 4, 0, 6, 0, .rw, .const 0, 0, 0x7f⟩
def SDP_SCRUB_LEN.LEN : Fld := ⟨0x1f008c, 1, 1, 4, 0, 27, 0, .rw, .const 0, 0, 0xfffffff⟩
def SDP_SCRUB_STAT.BUSY : Fld := ⟨0x1f0090, 1, 1, 4, 0, 31, 31, .ro, .const 0, 0, 0x1⟩
def SDP_SCRUB_STAT.RESULT : Fld := ⟨0x1f0090, 1, 1, 4, 0, 27, 24, .ro, .const 0, 0, 0xf⟩
def SDP_SCRUB_STAT.REMAPS : Fld := ⟨0x1f0090, 1, 1, 4, 0, 23, 16, .ro, .const 0, 0, 0xff⟩
def SDP_SCRUB_CORR.COUNT : Fld := ⟨0x1f0094, 1, 1, 4, 0, 31, 0, .ro, .const 0, 0, 0xffffffff⟩
def SDP_SCRUB_UNC.COUNT : Fld := ⟨0x1f0098, 1, 1, 4, 0, 31, 0, .ro, .const 0, 0, 0xffffffff⟩
def SDP_SCRUB_FIRST.VALID : Fld := ⟨0x1f009c, 1, 1, 4, 0, 31, 31, .ro, .const 0, 0, 0x1⟩
def SDP_SCRUB_FIRST.PAGE : Fld := ⟨0x1f009c, 1, 1, 4, 0, 27, 0, .ro, .const 0, 0, 0xfffffff⟩
def SDP_REMAPCMD.GO : Fld := ⟨0x1f00a0, 1, 1, 4, 0, 31, 31, .w1s, .const 0, 0, 0x1⟩
def SDP_REMAPCMD.RESULT : Fld := ⟨0x1f00a0, 1, 1, 4, 0, 3, 0, .ro, .const 0, 0, 0xf⟩
def SDP_REMAP.VALID : Fld := ⟨0x1f0100, 48, 16, 0x40, 0x4, 31, 31, .ro, .const 0, 0, 0x1⟩
def SDP_REMAP.GRANULE : Fld := ⟨0x1f0100, 48, 16, 0x40, 0x4, 30, 0, .ro, .const 0, 0, 0x7fffffff⟩
def TWN_STAT.STATE : Fld := ⟨0x200000, 1, 1, 4, 0, 31, 28, .ro, .const 0, 0, 0xf⟩
def TWN_STAT.HB_SEEN : Fld := ⟨0x200000, 1, 1, 4, 0, 3, 3, .ro, .const 0, 0, 0x1⟩
def TWN_STAT.FWD_EN : Fld := ⟨0x200000, 1, 1, 4, 0, 2, 2, .ro, .const 0, 0, 0x1⟩
def TWN_STAT.UP : Fld := ⟨0x200000, 1, 1, 4, 0, 1, 0, .ro, .const 0, 0, 0x3⟩
def TWN_CTL.REKEY : Fld := ⟨0x200004, 1, 1, 4, 0, 2, 2, .w1s, .const 0, 0, 0x1⟩
def TWN_CTL.REJOIN : Fld := ⟨0x200004, 1, 1, 4, 0, 1, 1, .w1s, .const 0, 0, 0x1⟩
def TWN_CTL.FENCE : Fld := ⟨0x200004, 1, 1, 4, 0, 0, 0, .w1s, .const 0, 0, 0x1⟩
def TWN_CFG.DEFER_US : Fld := ⟨0x200008, 1, 1, 4, 0, 31, 16, .rwl, .const 0x1f4, 100, 0x1388⟩
def TWN_CFG.REPLAY_US : Fld := ⟨0x200008, 1, 1, 4, 0, 15, 8, .rwl, .const 0x14, 5, 0xff⟩
def TWN_LINES.FENCE_IN : Fld := ⟨0x20000c, 1, 1, 4, 0, 29, 29, .ro, .const 0, 0, 0x1⟩
def TWN_LINES.FENCE_OUT : Fld := ⟨0x20000c, 1, 1, 4, 0, 28, 28, .ro, .const 0, 0, 0x1⟩
def TWN_LINES.SEEN : Fld := ⟨0x20000c, 1, 1, 4, 0, 23, 12, .ro, .const 0, 0, 0xfff⟩
def TWN_LINES.CLAIM : Fld := ⟨0x20000c, 1, 1, 4, 0, 11, 0, .ro, .const 0, 0, 0xfff⟩
def TWN_FAULT.BARRIER : Fld := ⟨0x200010, 1, 1, 4, 0, 8, 8, .w1c, .const 0, 0, 0x1⟩
def TWN_FAULT.ROLE : Fld := ⟨0x200010, 1, 1, 4, 0, 7, 7, .w1c, .const 0, 0, 0x1⟩
def TWN_FAULT.ATTEST : Fld := ⟨0x200010, 1, 1, 4, 0, 6, 6, .w1c, .const 0, 0, 0x1⟩
def TWN_FAULT.HSTIMEOUT : Fld := ⟨0x200010, 1, 1, 4, 0, 5, 5, .w1c, .const 0, 0, 0x1⟩
def TWN_FAULT.LINKLOSS : Fld := ⟨0x200010, 1, 1, 4, 0, 4, 4, .w1c, .const 0, 0, 0x1⟩
def TWN_FAULT.SILENT : Fld := ⟨0x200010, 1, 1, 4, 0, 3, 3, .w1c, .const 0, 0, 0x1⟩
def TWN_FAULT.FENCED : Fld := ⟨0x200010, 1, 1, 4, 0, 2, 2, .w1c, .const 0, 0, 0x1⟩
def TWN_FAULT.CLAIMREFUSED : Fld := ⟨0x200010, 1, 1, 4, 0, 1, 1, .w1c, .const 0, 0, 0x1⟩
def TWN_FAULT.CLAIMLOST : Fld := ⟨0x200010, 1, 1, 4, 0, 0, 0, .w1c, .const 0, 0, 0x1⟩
def TWN_TAKETIME.TICKS : Fld := ⟨0x200014, 1, 1, 4, 0, 31, 0, .ro, .const 0, 0, 0xffffffff⟩
def TWN_HBCNT.MISSED : Fld := ⟨0x200018, 1, 1, 4, 0, 31, 16, .rc, .const 0, 0, 0xffff⟩
def TWN_HBCNT.RUN : Fld := ⟨0x200018, 1, 1, 4, 0, 2, 0, .ro, .const 0, 0, 0x7⟩
def TWN_MIRROR.ROWS : Fld := ⟨0x201200, 1, 1, 4, 0, 31, 16, .ro, .const 0, 0, 0xffff⟩
def TWN_MIRROR.MIB : Fld := ⟨0x201200, 1, 1, 4, 0, 15, 0, .ro, .const 0, 0, 0xffff⟩
def TWN_FWDCNT.CMDS : Fld := ⟨0x201204, 1, 1, 4, 0, 31, 16, .rc, .const 0, 0, 0xffff⟩
def TWN_FWDCNT.DIEOPS : Fld := ⟨0x201204, 1, 1, 4, 0, 15, 0, .rc, .const 0, 0, 0xffff⟩
def TWN_SLSTAT.RATE : Fld := ⟨0x201000, 2, 1, 0x100, 0, 25, 24, .ro, .const 0, 0, 0x3⟩
def TWN_SLSTAT.KEYNUM : Fld := ⟨0x201000, 2, 1, 0x100, 0, 15, 0, .ro, .const 0, 0, 0xffff⟩
def TWN_SLERR.CRC : Fld := ⟨0x201004, 2, 1, 0x100, 0, 31, 16, .rc, .const 0, 0, 0xffff⟩
def TWN_SLERR.NAK : Fld := ⟨0x201004, 2, 1, 0x100, 0, 15, 0, .rc, .const 0, 0, 0xffff⟩
def TWN_REPLAY.FRAMES : Fld := ⟨0x201008, 2, 1, 0x100, 0, 31, 16, .rc, .const 0, 0, 0xffff⟩
def TWN_REPLAY.DOWNS : Fld := ⟨0x201008, 2, 1, 0x100, 0, 15, 0, .rc, .const 0, 0, 0xffff⟩
def PSQ_STAT.S : Fld := ⟨0x210000, 1, 1, 4, 0, 31, 28, .ro, .const 0, 0, 0xf⟩
def PSQ_STAT.DIR : Fld := ⟨0x210000, 1, 1, 4, 0, 27, 26, .ro, .const 0, 0, 0x3⟩
def PSQ_STAT.SYNC_HIGH : Fld := ⟨0x210000, 1, 1, 4, 0, 25, 25, .ro, .const 0, 0, 0x1⟩
def PSQ_STAT.SYNC_PULL : Fld := ⟨0x210000, 1, 1, 4, 0, 24, 24, .ro, .const 1, 0, 0x1⟩
def PSQ_STAT.FLT_IN : Fld := ⟨0x210000, 1, 1, 4, 0, 23, 23, .ro, .const 0, 0, 0x1⟩
def PSQ_STAT.FLT_OUT : Fld := ⟨0x210000, 1, 1, 4, 0, 22, 22, .ro, .const 0, 0, 0x1⟩
def PSQ_STAT.SEQIN : Fld := ⟨0x210000, 1, 1, 4, 0, 21, 21, .ro, .const 0, 0, 0x1⟩
def PSQ_STAT.SEQOUT : Fld := ⟨0x210000, 1, 1, 4, 0, 20, 20, .ro, .const 0, 0, 0x1⟩
def PSQ_STAT.POSITION : Fld := ⟨0x210000, 1, 1, 4, 0, 19, 16, .ro, .const 0, 0, 0xf⟩
def PSQ_STAT.GROUP_SIZE : Fld := ⟨0x210000, 1, 1, 4, 0, 15, 11, .ro, .const 0, 0, 0x1f⟩
def PSQ_STAT.LAST_STATE : Fld := ⟨0x210000, 1, 1, 4, 0, 3, 0, .ro, .const 0, 0, 0xf⟩
def PSQ_CTL.DOWN : Fld := ⟨0x210004, 1, 1, 4, 0, 0, 0, .w1s, .const 0, 0, 0x1⟩
def PSQ_CFG.VS_TOL : Fld := ⟨0x210008, 1, 1, 4, 0, 4, 0, .rwl, .const 8, 2, 0x19⟩
def PSQ_RAILS.EN : Fld := ⟨0x21000c, 1, 1, 4, 0, 31, 16, .ro, .const 0, 0, 0xffff⟩
def PSQ_RAILS.PG : Fld := ⟨0x21000c, 1, 1, 4, 0, 15, 0, .ro, .const 0, 0, 0xffff⟩
def PSQ_FAULT.REQUEST : Fld := ⟨0x210010, 1, 1, 4, 0, 6, 6, .w1c, .const 0, 0, 0x1⟩
def PSQ_FAULT.EXTERNAL : Fld := ⟨0x210010, 1, 1, 4, 0, 5, 5, .w1c, .const 0, 0, 0x1⟩
def PSQ_FAULT.STUCK : Fld := ⟨0x210010, 1, 1, 4, 0, 4, 4, .w1c, .const 0, 0, 0x1⟩
def PSQ_FAULT.FRONT : Fld := ⟨0x210010, 1, 1, 4, 0, 3, 3, .w1c, .const 0, 0, 0x1⟩
def PSQ_FAULT.VSRANGE : Fld := ⟨0x210010, 1, 1, 4, 0, 2, 2, .w1c, .const 0, 0, 0x1⟩
def PSQ_FAULT.PGLOST : Fld := ⟨0x210010, 1, 1, 4, 0, 1, 1, .w1c, .const 0, 0, 0x1⟩
def PSQ_FAULT.PGTIMEOUT : Fld := ⟨0x210010, 1, 1, 4, 0, 0, 0, .w1c, .const 0, 0, 0x1⟩
def PSQ_FLOG.VALID : Fld := ⟨0x210014, 1, 1, 4, 0, 31, 31, .w1c, .const 0, 0, 0x1⟩
def PSQ_FLOG.CAUSE : Fld := ⟨0x210014, 1, 1, 4, 0, 14, 12, .ro, .const 0, 0, 0x7⟩
def PSQ_FLOG.STATE : Fld := ⟨0x210014, 1, 1, 4, 0, 11, 8, .ro, .const 0, 0, 0xf⟩
def PSQ_FLOG.RAIL : Fld := ⟨0x210014, 1, 1, 4, 0, 3, 0, .ro, .const 0, 0, 0xf⟩
def PSQ_STUCK.RAIL : Fld := ⟨0x210018, 1, 1, 4, 0, 15, 0, .w1c, .const 0, 0, 0xffff⟩
def PSQ_FRONT.LAST_US : Fld := ⟨0x21001c, 1, 1, 4, 0, 31, 16, .ro, .const 0, 0, 0xffff⟩
def PSQ_FRONT.MAX_US : Fld := ⟨0x21001c, 1, 1, 4, 0, 15, 0, .rc, .const 0, 0, 0xffff⟩
def PSQ_VS.INRANGE : Fld := ⟨0x210040, 16, 1, 0x4, 0, 10, 10, .ro, .const 0, 0, 0x1⟩
def PSQ_VS.CODE : Fld := ⟨0x210040, 16, 1, 0x4, 0, 9, 0, .ro, .const 0, 0, 0x3ff⟩
def PLP_STAT.STATE : Fld := ⟨0x220000, 1, 1, 4, 0, 31, 29, .ro, .const 4, 0, 0x7⟩
def PLP_STAT.FIRST : Fld := ⟨0x220000, 1, 1, 4, 0, 28, 28, .ro, .const 0, 0, 0x1⟩
def PLP_STAT.LINGER : Fld := ⟨0x220000, 1, 1, 4, 0, 27, 27, .ro, .const 0, 0, 0x1⟩
def PLP_STAT.B_IN : Fld := ⟨0x220000, 1, 1, 4, 0, 1, 1, .ro, .const 0, 0, 0x1⟩
def PLP_STAT.A_IN : Fld := ⟨0x220000, 1, 1, 4, 0, 0, 0, .ro, .const 0, 0, 0x1⟩
def PLP_CFG.BUDGET_MS : Fld := ⟨0x220004, 1, 1, 4, 0, 31, 24, .rwl, .const 0x3c, 10, 0xff⟩
def PLP_CFG.DIRTY_GIB : Fld := ⟨0x220004, 1, 1, 4, 0, 20, 16, .rwl, .const 0xc, 1, 0x10⟩
def PLP_CFG.DISC_T : Fld := ⟨0x220004, 1, 1, 4, 0, 9, 0, .rwl, .const 0x64, 1, 0x3e8⟩
def PLP_FAULT.LIMITCUT : Fld := ⟨0x220008, 1, 1, 4, 0, 3, 3, .w1c, .const 0, 0, 0x1⟩
def PLP_FAULT.OVERBUDGET : Fld := ⟨0x220008, 1, 1, 4, 0, 2, 2, .w1c, .const 0, 0, 0x1⟩
def PLP_FAULT.DISC_B : Fld := ⟨0x220008, 1, 1, 4, 0, 1, 1, .w1c, .const 0, 0, 0x1⟩
def PLP_FAULT.DISC_A : Fld := ⟨0x220008, 1, 1, 4, 0, 0, 0, .w1c, .const 0, 0, 0x1⟩
def PLP_DISC.LAST : Fld := ⟨0x22000c, 1, 1, 4, 0, 25, 16, .ro, .const 0, 0, 0x3ff⟩
def PLP_DISC.MAX : Fld := ⟨0x22000c, 1, 1, 4, 0, 9, 0, .rc, .const 0, 0, 0x3ff⟩
def PLP_FLUSH.TIME : Fld := ⟨0x220010, 1, 1, 4, 0, 31, 16, .ro, .const 0, 0, 0xffff⟩
def PLP_FLUSH.MIB : Fld := ⟨0x220010, 1, 1, 4, 0, 15, 0, .ro, .const 0, 0, 0xffff⟩
def PLP_LIMIT.ERASED_GIB : Fld := ⟨0x220014, 1, 1, 4, 0, 31, 16, .ro, .const 0, 0, 0xffff⟩
def PLP_LIMIT.EFFECTIVE_GIB : Fld := ⟨0x220014, 1, 1, 4, 0, 4, 0, .ro, .const 0xc, 0, 0x1f⟩
def PLP_COUNT.FLUSHES : Fld := ⟨0x220018, 1, 1, 4, 0, 31, 16, .rc, .const 0, 0, 0xffff⟩
def PLP_COUNT.COMMITS : Fld := ⟨0x220018, 1, 1, 4, 0, 15, 0, .rc, .const 0, 0, 0xffff⟩
def PLP_FLUSHID.FLUSH_ID : Fld := ⟨0x22001c, 1, 1, 4, 0, 31, 0, .ro, .const 0, 0, 0xffffffff⟩
def PWR_STAT.STATE : Fld := ⟨0x230000, 1, 1, 4, 0, 31, 29, .ro, .const 1, 0, 0x7⟩
def PWR_STAT.LATCHED : Fld := ⟨0x230000, 1, 1, 4, 0, 28, 28, .ro, .const 0, 0, 0x1⟩
def PWR_STAT.PAIRHOLD : Fld := ⟨0x230000, 1, 1, 4, 0, 27, 27, .ro, .const 0, 0, 0x1⟩
def PWR_CTL.WAKE : Fld := ⟨0x230004, 1, 1, 4, 0, 3, 3, .w1s, .const 0, 0, 0x1⟩
def PWR_CTL.CALM : Fld := ⟨0x230004, 1, 1, 4, 0, 2, 2, .w1s, .const 0, 0, 0x1⟩
def PWR_CTL.LULL_EN : Fld := ⟨0x230004, 1, 1, 4, 0, 1, 1, .rwl, .const 1, 0, 0x1⟩
def PWR_CTL.TRIM_EN : Fld := ⟨0x230004, 1, 1, 4, 0, 0, 0, .rwl, .const 1, 0, 0x1⟩
def PWR_CFG.IDLE_MS : Fld := ⟨0x230008, 1, 1, 4, 0, 15, 0, .rwl, .const 0x7d0, 100, 0xffff⟩
def PWR_CALMCFG.PAIR : Fld := ⟨0x23000c, 1, 1, 4, 0, 31, 31, .rw, .const 0, 0, 0x1⟩
def PWR_CALMCFG.WAKEEN : Fld := ⟨0x23000c, 1, 1, 4, 0, 12, 8, .rw, .const 0x1f, 0, 0x1f⟩
def PWR_CALMCFG.ADDR : Fld := ⟨0x23000c, 1, 1, 4, 0, 6, 0, .rw, .const 0x1D, 0, 0x7f⟩
def PWR_CALMRES.RESULT : Fld := ⟨0x230010, 1, 1, 4, 0, 3, 0, .ro, .const 0, 0, 0xf⟩
def PWR_WAKESRC.SRC : Fld := ⟨0x230014, 1, 1, 4, 0, 31, 28, .ro, .const 0, 0, 0xf⟩
def PWR_WAKESRC.ENTRY : Fld := ⟨0x230014, 1, 1, 4, 0, 27, 27, .ro, .const 0, 0, 0x1⟩
def PWR_WAKESRC.FROM : Fld := ⟨0x230014, 1, 1, 4, 0, 26, 25, .ro, .const 0, 0, 0x3⟩
def PWR_WAKESRC.WHERE : Fld := ⟨0x230014, 1, 1, 4, 0, 4, 0, .ro, .const 0, 0, 0x1f⟩
def PWR_WAKEDTC.DTC : Fld := ⟨0x230018, 1, 1, 4, 0, 31, 0, .ro, .const 0, 0, 0xffffffff⟩
def PWR_WAKETMR.SECONDS : Fld := ⟨0x23001c, 1, 1, 4, 0, 31, 0, .rw, .const 0, 0, 0xffffffff⟩
def PWR_ISLON.ON : Fld := ⟨0x230020, 1, 1, 4, 0, 27, 0, .ro, .const 0, 0, 0xfffffff⟩
def PWR_COUNT.LULLS : Fld := ⟨0x230024, 1, 1, 4, 0, 31, 16, .rc, .const 0, 0, 0xffff⟩
def PWR_COUNT.CALMS : Fld := ⟨0x230024, 1, 1, 4, 0, 15, 0, .rc, .const 0, 0, 0xffff⟩
def THM_STAT.TRIP : Fld := ⟨0x240000, 1, 1, 4, 0, 31, 31, .ro, .const 0, 0, 0x1⟩
def THM_STAT.THERM_OUT : Fld := ⟨0x240000, 1, 1, 4, 0, 30, 30, .ro, .const 0, 0, 0x1⟩
def THM_STAT.LEVEL : Fld := ⟨0x240000, 1, 1, 4, 0, 29, 27, .ro, .const 0, 0, 0x7⟩
def THM_STAT.FEWSENS : Fld := ⟨0x240000, 1, 1, 4, 0, 26, 26, .ro, .const 0, 0, 0x1⟩
def THM_STAT.HOTTEST : Fld := ⟨0x240000, 1, 1, 4, 0, 21, 16, .ro, .const 0, 0, 0x3f⟩
def THM_STAT.TJ : Fld := ⟨0x240000, 1, 1, 4, 0, 9, 0, .ro, .const 0, 0, 0x3ff⟩
def THM_MEDIA.OUT : Fld := ⟨0x240004, 1, 1, 4, 0, 31, 20, .ro, .const 0, 0, 0xfff⟩
def THM_MEDIA.MAX_C : Fld := ⟨0x240004, 1, 1, 4, 0, 15, 8, .ro, .const 0, 0, 0xff⟩
def THM_MEDIA.MIN_C : Fld := ⟨0x240004, 1, 1, 4, 0, 7, 0, .ro, .const 0, 0, 0xff⟩
def THM_CAL.GO : Fld := ⟨0x240008, 1, 1, 4, 0, 31, 31, .w1s, .const 0, 0, 0x1⟩
def THM_CAL.RESULT : Fld := ⟨0x240008, 1, 1, 4, 0, 27, 24, .ro, .const 0, 0, 0xf⟩
def THM_CAL.SENSOR : Fld := ⟨0x240008, 1, 1, 4, 0, 5, 0, .rw, .const 0, 0, 0x3f⟩
def THM_CALREF.REF : Fld := ⟨0x24000c, 1, 1, 4, 0, 9, 0, .rw, .const 0, 0, 0x3ff⟩
def THM_TRIPLOG.SENSOR : Fld := ⟨0x240010, 1, 1, 4, 0, 15, 10, .ro, .const 0, 0, 0x3f⟩
def THM_TRIPLOG.TEMP : Fld := ⟨0x240010, 1, 1, 4, 0, 9, 0, .ro, .const 0, 0, 0x3ff⟩
def THM_HOLDCNT.COUNT : Fld := ⟨0x240014, 1, 1, 4, 0, 31, 0, .rc, .const 0, 0, 0xffffffff⟩
def THM_PEAK.SENSOR : Fld := ⟨0x240018, 1, 1, 4, 0, 15, 10, .ro, .const 0, 0, 0x3f⟩
def THM_PEAK.TJ : Fld := ⟨0x240018, 1, 1, 4, 0, 9, 0, .rc, .const 0, 0, 0x3ff⟩
def THM_SENS.MASKED : Fld := ⟨0x240100, 40, 1, 0x4, 0, 31, 31, .ro, .const 0, 0, 0x1⟩
def THM_SENS.UNREL : Fld := ⟨0x240100, 40, 1, 0x4, 0, 30, 30, .w1c, .const 0, 0, 0x1⟩
def THM_SENS.NBR_A : Fld := ⟨0x240100, 40, 1, 0x4, 0, 29, 24, .ro, .const 0, 0, 0x3f⟩
def THM_SENS.NBR_B : Fld := ⟨0x240100, 40, 1, 0x4, 0, 23, 18, .ro, .const 0, 0, 0x3f⟩
def THM_SENS.OFFSET : Fld := ⟨0x240100, 40, 1, 0x4, 0, 17, 10, .ro, .const 0, 0, 0xff⟩
def THM_SENS.TEMP : Fld := ⟨0x240100, 40, 1, 0x4, 0, 9, 0, .ro, .const 0, 0, 0x3ff⟩
def AGE_STAT.BUSY : Fld := ⟨0x250000, 1, 1, 4, 0, 31, 31, .ro, .const 0, 0, 0x1⟩
def AGE_STAT.PENDING : Fld := ⟨0x250000, 1, 1, 4, 0, 27, 0, .ro, .const 0, 0, 0xfffffff⟩
def AGE_CTL.MEASURE : Fld := ⟨0x250004, 1, 1, 4, 0, 0, 0, .w1s, .const 0, 0, 0x1⟩
def AGE_CFG.WARN_YEARS : Fld := ⟨0x250008, 1, 1, 4, 0, 31, 24, .rwl, .const 5, 0, 0xff⟩
def AGE_CFG.HIGH : Fld := ⟨0x250008, 1, 1, 4, 0, 23, 18, .rwl, .const 0x18, 0, 0x3f⟩
def AGE_CFG.LOW : Fld := ⟨0x250008, 1, 1, 4, 0, 17, 12, .rwl, .const 0xc, 0, 0x3f⟩
def AGE_CFG.ENDGUARD : Fld := ⟨0x250008, 1, 1, 4, 0, 11, 6, .rwl, .const 8, 0, 0x3f⟩
def AGE_CFG.GUARD : Fld := ⟨0x250008, 1, 1, 4, 0, 5, 0, .rwl, .const 4, 1, 0x10⟩
def AGE_LIFE.ISLAND : Fld := ⟨0x25000c, 1, 1, 4, 0, 31, 27, .ro, .const 0, 0, 0x1f⟩
def AGE_LIFE.YEARS : Fld := ⟨0x25000c, 1, 1, 4, 0, 26, 15, .ro, .const 0xfff, 0, 0xfff⟩
def AGE_LIFE.CYCLES_LEFT : Fld := ⟨0x25000c, 1, 1, 4, 0, 14, 0, .ro, .const 0, 0, 0x7fff⟩
def AGE_EXHAUST.ISL : Fld := ⟨0x250010, 1, 1, 4, 0, 27, 0, .w1c, .const 0, 0, 0xfffffff⟩
def AGE_IDX.ISLAND : Fld := ⟨0x250020, 1, 1, 4, 0, 4, 0, .rw, .const 1, 1, 0x1b⟩
def AGE_W.WORD : Fld := ⟨0x250030, 4, 1, 0x4, 0, 31, 0, .ro, .const 0, 0, 0xffffffff⟩
def EVR_STAT.RECORDS : Fld := ⟨0x260000, 1, 1, 4, 0, 26, 16, .ro, .const 1, 0, 0x7ff⟩
def EVR_STAT.OVF : Fld := ⟨0x260000, 1, 1, 4, 0, 15, 0, .rc, .const 0, 0, 0xffff⟩
def EVR_CTL.CLEAR : Fld := ⟨0x260004, 1, 1, 4, 0, 31, 31, .w1s, .const 0, 0, 0x1⟩
def EVR_CTL.FREE : Fld := ⟨0x260004, 1, 1, 4, 0, 30, 30, .w1s, .const 0, 0, 0x1⟩
def EVR_GEN.GEN : Fld := ⟨0x260008, 1, 1, 4, 0, 31, 0, .ro, .const 0, 0, 0xffffffff⟩
def EVR_LOST.COUNT : Fld := ⟨0x26000c, 1, 1, 4, 0, 31, 0, .rc, .const 0, 0, 0xffffffff⟩
def EVR_IDX.CODE : Fld := ⟨0x260010, 1, 1, 4, 0, 15, 0, .rw, .const 0x7001, 0, 0xffff⟩
def EVR_NTCSEQ.SEQ : Fld := ⟨0x260014, 1, 1, 4, 0, 31, 0, .ro, .const 0, 0, 0xffffffff⟩
def EVR_NTCIDX.ENTRY : Fld := ⟨0x260018, 1, 1, 4, 0, 7, 0, .rw, .const 0, 0, 0xff⟩
def EVR_PLIDX.ENTRY : Fld := ⟨0x26001c, 1, 1, 4, 0, 14, 0, .rw, .const 0, 0, 0x7fef⟩
def EVR_PLSTAT.SKIPPED : Fld := ⟨0x260020, 1, 1, 4, 0, 31, 16, .rc, .const 0, 0, 0xffff⟩
def EVR_PLSTAT.WRAPPED : Fld := ⟨0x260020, 1, 1, 4, 0, 15, 15, .ro, .const 0, 0, 0x1⟩
def EVR_PLSTAT.NEXT : Fld := ⟨0x260020, 1, 1, 4, 0, 14, 0, .ro, .const 0, 0, 0x7fff⟩
def EVR_W.WORD : Fld := ⟨0x260100, 89, 1, 0x4, 0, 31, 0, .ro, .const 0, 0, 0xffffffff⟩
def EVR_NTCW.WORD : Fld := ⟨0x260300, 8, 1, 0x4, 0, 31, 0, .ro, .const 0, 0, 0xffffffff⟩
def EVR_PLW.WORD : Fld := ⟨0x260320, 8, 1, 0x4, 0, 31, 0, .ro, .const 0, 0, 0xffffffff⟩
def ARB_NULL.COUNT : Fld := ⟨0x270440, 12, 1, 0x4, 0, 31, 0, .rc, .const 0, 0, 0xffffffff⟩
def ARB_DRAWS.COUNT : Fld := ⟨0x270480, 12, 1, 0x4, 0, 31, 0, .rc, .const 0, 0, 0xffffffff⟩
def ARB_TKT.TKT3 : Fld := ⟨0x270000, 176, 16, 0x40, 0x4, 31, 24, .rw, .const 0, 0, 0xff⟩
def ARB_TKT.TKT2 : Fld := ⟨0x270000, 176, 16, 0x40, 0x4, 23, 16, .rw, .const 0, 0, 0xff⟩
def ARB_TKT.TKT1 : Fld := ⟨0x270000, 176, 16, 0x40, 0x4, 15, 8, .rw, .const 0, 0, 0xff⟩
def ARB_TKT.TKT0 : Fld := ⟨0x270000, 176, 16, 0x40, 0x4, 7, 0, .rw, .const 0, 0, 0xff⟩
def ARB_STAT.PARKED : Fld := ⟨0x270400, 12, 1, 0x4, 0, 9, 9, .ro, .const 0, 0, 0x1⟩
def ARB_STAT.BUSY : Fld := ⟨0x270400, 12, 1, 0x4, 0, 8, 8, .ro, .const 0, 0, 0x1⟩
def ARB_STAT.OWNER : Fld := ⟨0x270400, 12, 1, 0x4, 0, 5, 0, .ro, .const 0, 0, 0x3f⟩
def PTB_CTL.ARM : Fld := ⟨0x280000, 1, 1, 4, 0, 31, 31, .w1s, .const 0, 0, 0x1⟩
def PTB_CTL.STOP : Fld := ⟨0x280000, 1, 1, 4, 0, 30, 30, .w1s, .const 0, 0, 0x1⟩
def PTB_CTL.ARMED : Fld := ⟨0x280000, 1, 1, 4, 0, 29, 29, .ro, .const 0, 0, 0x1⟩
def PTB_CTL.REASON : Fld := ⟨0x280000, 1, 1, 4, 0, 2, 0, .ro, .const 0, 0, 0x7⟩
def PTB_SCOPE.FILTER : Fld := ⟨0x280004, 1, 1, 4, 0, 31, 31, .rw, .const 0, 0, 0x1⟩
def PTB_SCOPE.TENANT : Fld := ⟨0x280004, 1, 1, 4, 0, 11, 0, .rw, .const 0, 0, 0xfff⟩
def PTB_SEED.SEED : Fld := ⟨0x280008, 1, 1, 4, 0, 31, 0, .rw, .const 1, 1, 0xffffffff⟩
def PTB_HSDLY.EN : Fld := ⟨0x28000c, 1, 1, 4, 0, 31, 31, .rw, .const 0, 0, 0x1⟩
def PTB_HSDLY.ISLAND : Fld := ⟨0x28000c, 1, 1, 4, 0, 28, 24, .rw, .const 1, 0, 0x1f⟩
def PTB_HSDLY.RATE : Fld := ⟨0x28000c, 1, 1, 4, 0, 19, 16, .rw, .const 8, 0, 0xf⟩
def PTB_HSDLY.CYCLES : Fld := ⟨0x28000c, 1, 1, 4, 0, 9, 0, .rw, .const 0x10, 0, 0x3ff⟩
def PTB_BARO.EN : Fld := ⟨0x280010, 1, 1, 4, 0, 31, 31, .rw, .const 0, 0, 0x1⟩
def PTB_BARO.POOL : Fld := ⟨0x280010, 1, 1, 4, 0, 13, 8, .rw, .const 0, 0, 0x3f⟩
def PTB_BARO.LEVEL : Fld := ⟨0x280010, 1, 1, 4, 0, 2, 0, .rw, .const 0, 0, 0x7⟩
def PTB_STALL.EN : Fld := ⟨0x280014, 1, 1, 4, 0, 31, 31, .rw, .const 0, 0, 0x1⟩
def PTB_STALL.ISLAND : Fld := ⟨0x280014, 1, 1, 4, 0, 28, 24, .rw, .const 1, 0, 0x1f⟩
def PTB_STALL.RATE : Fld := ⟨0x280014, 1, 1, 4, 0, 19, 16, .rw, .const 8, 0, 0xf⟩
def PTB_STALL.LEN : Fld := ⟨0x280014, 1, 1, 4, 0, 7, 0, .rw, .const 0x10, 0, 0xff⟩
def PTB_CAPAR.EN : Fld := ⟨0x280018, 1, 1, 4, 0, 31, 31, .rw, .const 0, 0, 0x1⟩
def PTB_CAPAR.REPEAT : Fld := ⟨0x280018, 1, 1, 4, 0, 30, 30, .rw, .const 0, 0, 0x1⟩
def PTB_CAPAR.SUBCH : Fld := ⟨0x280018, 1, 1, 4, 0, 8, 8, .rw, .const 0, 0, 0x1⟩
def PTB_CAPAR.COUNT : Fld := ⟨0x280018, 1, 1, 4, 0, 7, 4, .rw, .const 1, 0, 0xf⟩
def PTB_CAPAR.CHAN : Fld := ⟨0x280018, 1, 1, 4, 0, 2, 0, .rw, .const 0, 0, 0x7⟩
def PTB_ECC.EN : Fld := ⟨0x28001c, 1, 1, 4, 0, 31, 31, .rw, .const 0, 0, 0x1⟩
def PTB_ECC.STICKY : Fld := ⟨0x28001c, 1, 1, 4, 0, 30, 30, .rw, .const 0, 0, 0x1⟩
def PTB_ECC.ADDR_HI : Fld := ⟨0x28001c, 1, 1, 4, 0, 4, 4, .rw, .const 0, 0, 0x1⟩
def PTB_ECC.MODE : Fld := ⟨0x28001c, 1, 1, 4, 0, 3, 3, .rw, .const 0, 0, 0x1⟩
def PTB_ECC.MEM : Fld := ⟨0x28001c, 1, 1, 4, 0, 1, 0, .rw, .const 0, 0, 0x2⟩
def PTB_ECCADDR.ADDR : Fld := ⟨0x280020, 1, 1, 4, 0, 31, 0, .rw, .const 0, 0, 0xffffffff⟩
def PTB_LDPC.EN : Fld := ⟨0x280024, 1, 1, 4, 0, 31, 31, .rw, .const 0, 0, 0x1⟩
def PTB_LDPC.NOMARK : Fld := ⟨0x280024, 1, 1, 4, 0, 30, 30, .rw, .const 0, 0, 0x1⟩
def PTB_LDPC.FAILS : Fld := ⟨0x280024, 1, 1, 4, 0, 27, 22, .rw, .const 1, 0, 0x3f⟩
def PTB_LDPC.COUNT : Fld := ⟨0x280024, 1, 1, 4, 0, 21, 14, .rw, .const 1, 0, 0xff⟩
def PTB_LDPC.DIE : Fld := ⟨0x280024, 1, 1, 4, 0, 11, 0, .rw, .const 0, 0, 0xfff⟩
def PTB_DROP.EN : Fld := ⟨0x280028, 1, 1, 4, 0, 31, 31, .rw, .const 0, 0, 0x1⟩
def PTB_DROP.ALL : Fld := ⟨0x280028, 1, 1, 4, 0, 30, 30, .rw, .const 0, 0, 0x1⟩
def PTB_DROP.UNSEQ : Fld := ⟨0x280028, 1, 1, 4, 0, 29, 29, .rw, .const 0, 0, 0x1⟩
def PTB_DROP.SUBLINK : Fld := ⟨0x280028, 1, 1, 4, 0, 8, 8, .rw, .const 0, 0, 0x1⟩
def PTB_DROP.RATE : Fld := ⟨0x280028, 1, 1, 4, 0, 3, 0, .rw, .const 8, 0, 0xf⟩
def PTB_SKEW.EN : Fld := ⟨0x28002c, 1, 1, 4, 0, 31, 31, .rw, .const 0, 0, 0x1⟩
def PTB_SKEW.ISLAND : Fld := ⟨0x28002c, 1, 1, 4, 0, 28, 24, .rw, .const 0xa, 0, 0x1f⟩
def PTB_SKEW.OFFSET : Fld := ⟨0x28002c, 1, 1, 4, 0, 15, 0, .rw, .const 0, 0, 0xffff⟩
def PTB_CNT.COUNT : Fld := ⟨0x280030, 1, 1, 4, 0, 31, 0, .rc, .const 0, 0, 0xffffffff⟩
def PTB_CORE.SEL : Fld := ⟨0x280040, 1, 1, 4, 0, 19, 16, .rw, .const 0, 0, 0xf⟩
def PTB_CORE.HALT : Fld := ⟨0x280040, 1, 1, 4, 0, 15, 2, .rw, .const 0, 0, 0x3fff⟩
def PTB_COREPC.PC : Fld := ⟨0x280044, 1, 1, 4, 0, 31, 0, .ro, .const 0, 0, 0xffffffff⟩
def PTB_BIST.GO : Fld := ⟨0x280048, 1, 1, 4, 0, 31, 31, .w1s, .const 0, 0, 0x1⟩
def PTB_BIST.RESULT : Fld := ⟨0x280048, 1, 1, 4, 0, 7, 4, .ro, .const 0, 0, 0xf⟩
def PTB_BIST.MASK : Fld := ⟨0x280048, 1, 1, 4, 0, 2, 0, .rw, .const 7, 0, 0x7⟩
def FLT_STAT.FAULT_N : Fld := ⟨0x290000, 1, 1, 4, 0, 31, 31, .ro, .const 0, 0, 0x1⟩
def FLT_STAT.FORCE : Fld := ⟨0x290000, 1, 1, 4, 0, 21, 16, .ro, .const 0, 0, 0x3f⟩
def FLT_STAT.ACTIVE : Fld := ⟨0x290000, 1, 1, 4, 0, 15, 0, .ro, .const 0, 0, 0xffff⟩
def FLT_PEND.GROUP : Fld := ⟨0x290004, 1, 1, 4, 0, 15, 0, .w1c, .const 0, 0, 0xffff⟩
def FLT_MASK.GROUP : Fld := ⟨0x290008, 1, 1, 4, 0, 15, 0, .rwl, .const 1, 0, 0xffff⟩
def FLT_FIRST.VALID : Fld := ⟨0x29000c, 1, 1, 4, 0, 31, 31, .w1c, .const 0, 0, 0x1⟩
def FLT_FIRST.GROUP : Fld := ⟨0x29000c, 1, 1, 4, 0, 27, 24, .ro, .const 0, 0, 0xf⟩
def FLT_FIRST.CODE : Fld := ⟨0x29000c, 1, 1, 4, 0, 15, 0, .ro, .const 0, 0, 0xffff⟩
def FLT_FIRSTDTC.DTC : Fld := ⟨0x290010, 1, 1, 4, 0, 31, 0, .ro, .const 0, 0, 0xffffffff⟩
def FLT_GCNT.COUNT : Fld := ⟨0x290040, 16, 1, 0x4, 0, 31, 0, .rc, .const 0, 0, 0xffffffff⟩

/-- Every field of the GEN block. -/
def fieldsGEN : List Fld :=
  [GEN_ID.PART, GEN_ID.REV, GEN_ID.GRADE, GEN_SIDE.SOLO, GEN_SIDE.TWIN_PRES, GEN_SIDE.SIDE, GEN_STAT.LOADFAIL, GEN_STAT.BANK, GEN_STAT.FALLBACK, GEN_STAT.RECOVERY, GEN_STAT.STRUCT_OK, GEN_EPOCH.SWITCHING, GEN_EPOCH.DRAINING, GEN_EPOCH.OLD, GEN_EPOCH.CURRENT, GEN_IMGVER.VERSION, GEN_LIVEVER.VERSION, GEN_FLOOR.VERSION, GEN_UID_LO.UID, GEN_UID_HI.UID]

/-- Every field of the ISL block. -/
def fieldsISL : List Fld :=
  [ISL_DTC_LO.DTC, ISL_DTC_HI.DTC, ISL_SKEW.WORST_ISL, ISL_SKEW.WORST_TICKS, ISL_BARCTL.SNAP, ISL_BARCTL.TWIN, ISL_BARCTL.GO, ISL_BARSTAT.MARKER, ISL_BARSTAT.RESULT, ISL_BARSTAT.PEND, ISL_BARSTAT.BUSY, ISL_BARTIME.TICKS, ISL_CTL.RST, ISL_CTL.AUTOWAKE, ISL_CTL.PWR_REQ, ISL_STAT.APPLIED_EPOCH, ISL_STAT.WAKEFAIL, ISL_STAT.DOWNHIT, ISL_STAT.TAGERR, ISL_STAT.STATE, ISL_DOWNADDR.WR, ISL_DOWNADDR.OFFSET, ISL_DOWNCNT.TAGERR_COUNT, ISL_DOWNCNT.DOWN_COUNT] ++
  [ISL_CLKCFG.VPT, ISL_CLKCFG.FREQ_MHZ]

/-- Every field of the IMG block. -/
def fieldsIMG : List Fld :=
  [IMG_CMD.GO, IMG_CMD.SRC, IMG_CMD.OP, IMG_SRC_LO.ADDR, IMG_SRC_HI.ADDR_HI, IMG_LEN.LEN, IMG_DATA.DATA, IMG_DATAPTR.PTR, IMG_STAT.BUSY, IMG_STAT.RESULT, IMG_STAT.SECTYPE, IMG_STAT.RECORD, IMG_ACKMASK.ACK, IMG_SWTIME.TICKS, IMG_BANK.PENDING, IMG_BANK.ACTIVE, IMG_BANK.VALID_B, IMG_BANK.VALID_A, IMG_VER_A.VERSION, IMG_VER_B.VERSION]

/-- Every field of the HPT block. -/
def fieldsHPT : List Fld :=
  [HPT_ANA.STATE0, HPT_ANA.STATE1, HPT_ANA.STATE2, HPT_ANA.STATE3, HPT_ANA.STATE4, HPT_ANA.STATE5, HPT_ANA.STATE6, HPT_ANA.STATE7, HPT_PCFG.VALID, HPT_PCFG.PORT, HPT_PCFG.MAX_GEN, HPT_PCFG.WIDTH, HPT_PCTL.RETRAIN, HPT_PCTL.DISABLE, HPT_PSTAT.FLIT, HPT_PSTAT.SPEED, HPT_PSTAT.NEG_WIDTH, HPT_PSTAT.STATE, HPT_STALL.LIMIT, HPT_CREDLIM.LIMIT, HPT_ERRCNT.UNMAPPED, HPT_ERRCNT.POISONED, HPT_ERRCNT.MALFORMED, HPT_ABORTCNT.STALL] ++
  [HPT_ABORTCNT.CTO, HPT_LATECNT.LATE, HPT_DROPCNT.DROPS, HPT_IDESTAT.LINK_SECURE, HPT_IDESTAT.SEL_SECURE, HPT_IDESTAT.SEL_KEYSET, HPT_EVT.IDEFAIL, HPT_EVT.CREDSTALL, HPT_EVT.SURPRISE, HPT_EVT.HOTRESET, HPT_EVT.LINKDOWN]

/-- Every field of the QIE block. -/
def fieldsQIE : List Fld :=
  [QIE_CTL.FETCH_PAUSE, QIE_STAT.HOST_FREE, QIE_STAT.ADMIN_FREE, QIE_STAT.PAUSED, QIE_TSLOT.CAP, QIE_TSLOT.LOWFREE, QIE_DBERR.REGISTER, QIE_DBERR.VALUE, QIE_DBLOG0.CQ, QIE_DBLOG0.REG, QIE_DBLOG0.FUNC, QIE_DBLOG0.QID, QIE_DBLOG1.VALID, QIE_DBLOG1.VALUE, QIE_CMDERR0.OPCODE, QIE_CMDERR0.FIELD, QIE_CMDERR1.CIDCONF, QIE_CMDERR1.NSID, QIE_CMDERR2.LBARANGE, QIE_CMDERR2.DESC, QIE_WBHIT.COUNT, QIE_OVLWAIT.COUNT, QIE_CHAINABORT.COUNT, QIE_CQHOLD.COUNT] ++
  [QIE_TSKIP.COUNT]

/-- Every field of the QCX block. -/
def fieldsQCX : List Fld :=
  [QCX_IDX.INDEX, QCX_STAT.MISS, QCX_STAT.READY, QCX_W.WORD]

/-- Every field of the ZNE block. -/
def fieldsZNE : List Fld :=
  [ZNE_STAT.ACTIVE, ZNE_STAT.OPEN, ZNE_LIMITS.ACTIVE_LIMIT, ZNE_LIMITS.OPEN_LIMIT, ZNE_PLACECFG.SPREAD, ZNE_SPILLCFG.LEVEL, ZNE_SPILLCFG.AGE_MS, ZNE_FREE.NOERASED, ZNE_FREE.NOFREE, ZNE_LOGSTAT.FREE, ZNE_LOGSTAT.HOT, ZNE_LOGSTAT.COLD, ZNE_ERR0.BOUNDARY, ZNE_ERR0.INVWRITE, ZNE_ERR1.FULL, ZNE_ERR1.STATETRANS, ZNE_ERR2.TOOACTIVE, ZNE_ERR2.TOOOPEN, ZNE_EVCNT.IMPCLOSE, ZNE_EVCNT.EARLYFULL, ZNE_MOVES.RELOC, ZNE_MOVES.MERGE, ZNE_MOVES.PLACEFAIL, ZNE_SPILLCNT.SPILLS] ++
  [ZNE_SNAPSTAT.MARKER, ZNE_SNAPSTAT.READY, ZNE_SNAPIDX.ZONE, ZNE_SNAPW.WORD, ZNE_ZCX_IDX.ZONE, ZNE_ZCX_STAT.UNUSED, ZNE_ZCX_STAT.READY, ZNE_ZCX_W.WORD]

/-- Every field of the DLS block. -/
def fieldsDLS : List Fld :=
  [DLS_CTL.RECON_EN, DLS_CTL.LEDGER_EN, DLS_PATH.PATH_US, DLS_SUSPCFG.MAX_READS, DLS_LEDGERCFG.WINDOW_MS, DLS_GUSTCFG.LEVEL, DLS_RECONCFG.GUARD_US, DLS_RECONCFG.PARITY_US, DLS_MISS.ODD, DLS_MISS.EVEN, DLS_ABORTCNT.COUNT, DLS_SUSPCNT.PROG, DLS_SUSPCNT.ERASE, DLS_SUSPLIMIT.COUNT, DLS_RECONCNT.COUNT, DLS_RECONDENY.BUDGET, DLS_RECONDENY.INFEASIBLE, DLS_LDGHOLD.COUNT, DLS_QUOTAHOLD.COUNT, DLS_DCX_IDX.DIE, DLS_DCX_STAT.OFF, DLS_DCX_STAT.NOTOWNED, DLS_DCX_STAT.READY, DLS_DCX_W.WORD]

/-- Every field of the TNT block. -/
def fieldsTNT : List Fld :=
  [TNT_IDX.TENANT, TNT_STAT.UNUSED, TNT_STAT.READY, TNT_W.WORD, TNT_LDG_IDX.TENANT, TNT_LDG_IDX.DIE, TNT_LDG_STAT.NOTOWNED, TNT_LDG_STAT.READY, TNT_LDG_W.WORD]

/-- Every field of the FCH block. -/
def fieldsFCH : List Fld :=
  [FCH_CTL.RESETDIES, FCH_CTL.TRAIN, FCH_CTL.HOLD, FCH_STAT.OWNED, FCH_STAT.HELD, FCH_STAT.TRAINING, FCH_STAT.RATE_MTS, FCH_STAT.TRAINED, FCH_STAT.SLOW, FCH_STAT.MODE, FCH_TRAIN.REASON, FCH_TRAIN.CE, FCH_TRAIN.FAILS, FCH_ERRCNT.PROGFAIL, FCH_ERRCNT.ERASEFAIL, FCH_ERRCNT.TIMEOUT, FCH_WDOG.DATAIN, FCH_WDOG.DATAOUT, FCH_EYE.RD_PS, FCH_EYE.WR_PS, FCH_DIE.STATE, FCH_DIE.REASON, FCH_DIE.REBUILD, FCH_DIE.NOSUSP] ++
  [FCH_DIE.SLOW, FCH_DIE.HOT, FCH_DIE.TEMP_C, FCH_DIE.BAD]

/-- Every field of the LDP block. -/
def fieldsLDP : List Fld :=
  [LDP_RRCFG.SOFT_MV, LDP_RRCFG.MAX_HARD, LDP_REFCFG.DISTURB_K, LDP_REFCFG.BITS, LDP_WEARCFG.PE_LIMIT, LDP_WEARCFG.WEAR_GAP, LDP_SCRUBCFG.HOURS, LDP_SCRUBCFG.STRIDE, LDP_DIECFG.BADMAX, LDP_DIECFG.WD_MAX, LDP_TRAINCFG.RETRAIN_MIN, LDP_TRAINCFG.RETRAIN_C, LDP_DIECMD.GO, LDP_DIECMD.OP, LDP_DIECMD.DIE, LDP_RETRYCNT.COUNT, LDP_SOFTCNT.COUNT, LDP_UNCCNT.COUNT, LDP_REFRESHCNT.COUNT, LDP_WEARCNT.COUNT, LDP_BLK_IDX.BLOCK, LDP_BLK_IDX.DIE, LDP_BLK_STAT.BEYOND, LDP_BLK_STAT.READY] ++
  [LDP_BLK_W.WORD]

/-- Every field of the SPE block. -/
def fieldsSPE : List Fld :=
  [SPE_CTL.VERIFY_EN, SPE_CTL.REBUILD_EN, SPE_STAT.RB_DIE, SPE_STAT.RB_MEMBERS, SPE_STAT.PAUSED, SPE_STAT.VERIFYING, SPE_STAT.REBUILDING, SPE_RBCFG.PAUSE_LEVEL, SPE_RBCFG.RATE_MBS, SPE_VFYCFG.HOURS, SPE_VFYCFG.STRIDE, SPE_RECCNT.DOUBLE, SPE_RECCNT.SINGLE, SPE_UNRCNT.COUNT, SPE_RBDONE.COUNT, SPE_RBLEFT.ROWS, SPE_VFYROWS.COUNT, SPE_VFYERR.UNLOCATED, SPE_VFYERR.REPAIRED, SPE_POISON.USED, SPE_ULOG0.VALID, SPE_ULOG0.ZONE, SPE_ULOG0.ROW, SPE_ULOG1.MEMBER] ++
  [SPE_ULOG1.PAGE, SPE_ULOG1.CW]

/-- Every field of the CMP block. -/
def fieldsCMP : List Fld :=
  [CMP_CTL.DEFLEVEL, CMP_STAT.DEC_BUSY, CMP_STAT.CMP_BUSY, CMP_BLKCNT.COUNT, CMP_RAWCNT.COUNT, CMP_INBYTES_LO.BYTES, CMP_INBYTES_HI.BYTES, CMP_OUTBYTES_LO.BYTES, CMP_OUTBYTES_HI.BYTES, CMP_CHKERR.RECOVERED, CMP_CHKERR.FAILED, CMP_ERR.DECODE, CMP_ERR.TAGMIS, CMP_LOG0.VALID, CMP_LOG0.CAUSE, CMP_LOG0.ZONE, CMP_LOG1.LBA_OFF, CMP_LOG1.GRANULE]

/-- Every field of the CPH block. -/
def fieldsCPH : List Fld :=
  [CPH_STAT.SUSPENDED, CPH_STAT.GCM_BUSY, CPH_STAT.XTS_BUSY, CPH_XTSBYTES_LO.BYTES, CPH_XTSBYTES_HI.BYTES, CPH_GCMBYTES_LO.BYTES, CPH_GCMBYTES_HI.BYTES, CPH_SUSPCNT.COUNT, CPH_TAGFAIL.TWIN, CPH_TAGFAIL.META, CPH_KEYERR.COUNT, CPH_FLOG0.VALID, CPH_FLOG0.USE, CPH_FLOG0.SLOT, CPH_FLOG1.DTC, CPH_IVCTR_LO.COUNT, CPH_IVCTR_HI.COUNT]

/-- Every field of the KVT block. -/
def fieldsKVT : List Fld :=
  [KVT_STAT.STATE, KVT_STAT.DWK, KVT_STAT.META, KVT_STAT.DATA_LOADED, KVT_ALARM.SRC, KVT_FORCE.CODE, KVT_LASTALARM.DTC, KVT_BUSERR.COUNT, KVT_LOADCNT.FAILED, KVT_LOADCNT.DONE, KVT_SLOT_IDX.SLOT, KVT_SLOT_STAT.STATE, KVT_SLOT_STAT.KIND, KVT_SLOT_STAT.TENANT, KVT_SLOT_STAT.KEYGEN, KVT_SLOT_W.NSID]

/-- Every field of the NVA block. -/
def fieldsNVA : List Fld :=
  [NVA_KEY.KEY, NVA_CMD.OP, NVA_ADDR.ADDR, NVA_DATA.WORD, NVA_STAT.BUSY, NVA_STAT.SEQ, NVA_STAT.BROWNOUT, NVA_STAT.PENDRST, NVA_STAT.BLANK, NVA_STAT.RDMISS, NVA_STAT.RDVALID, NVA_STAT.RESULT, NVA_STAT.DATACNT, NVA_RADDR.WORD, NVA_RDATA.WORD, NVA_ACTIVE.ERASEALL, NVA_ACTIVE.PENDERASE, NVA_ACTIVE.FW_BANK, NVA_ECNT_IDX.SECTOR, NVA_ECNT.ECNT, NVA_BOSTAT.COUNT, NVA_ERRCNT.PROTECTED, NVA_ERRCNT.SEQERR, NVA_SPARE.USED] ++
  [NVA_XO.VALID, NVA_XO.FIRST, NVA_XO.LAST]

/-- Every field of the TRS block. -/
def fieldsTRS : List Fld :=
  [TRS_STAT.LEVEL, TRS_STAT.OWNED, TRS_STAT.LEVEL2_FUSE, TRS_STAT.FWFALLBACK, TRS_STAT.ROMREC, TRS_STAT.BOOTFAIL, TRS_CMD.GO, TRS_CMD.NONCE, TRS_CMD.REVOKE, TRS_CMD.FWLOAD, TRS_RESULT.BUSY, TRS_RESULT.RESULT, TRS_RESULT.OP, TRS_DEBUG.REMAIN_S, TRS_DEBUG.CORE, TRS_DEBUG.PERTURB, TRS_SVN.FLOOR, TRS_SVN.RUNNING, TRS_IMGKEY.STATE, TRS_FAILCNT.BADSIG, TRS_FAILCNT.CONSEC, TRS_SANSTAT.DWK_GEN, TRS_SANSTAT.STATE, TRS_NONCE.WORD] ++
  [TRS_OWNERDIG.WORD, TRS_MBOX.WORD]

/-- Every field of the BPM block. -/
def fieldsBPM : List Fld :=
  [BPM_STAT.WORST_POOL, BPM_STAT.MODE, BPM_STAT.DEVBARO, BPM_BPCFG.OVERQ, BPM_BPCFG.DRIZZLE, BPM_WDOGCNT.COUNT, BPM_WDOGLOG.VALID, BPM_WDOGLOG.POOL, BPM_WDOGLOG.REQ, BPM_ERRCNT.RANK, BPM_ERRCNT.OWNER, BPM_ERRCNT.LIST, BPM_BPHOLD.COUNT, BPM_POOLCFG.VALID, BPM_POOLCFG.USED, BPM_POOLCFG.MIRROR, BPM_POOLCFG.MEM, BPM_POOLCFG.MODE, BPM_POOLCFG.RANK, BPM_POOLCFG.CLASSMASK, BPM_POOLSTAT.REBUILD, BPM_POOLSTAT.BARO, BPM_POOLSTAT.FILL, BPM_POOLFREE.FREE] ++
  [BPM_RQCFG.QUOTA, BPM_RQCFG.MIN, BPM_RQHELD.WAITING, BPM_RQHELD.HELD]

/-- Every field of the DRC block. -/
def fieldsDRC : List Fld :=
  [DRC_CTL.TRAIN_OP, DRC_CTL.TRAIN, DRC_CTL.QUIESCE, DRC_STAT.RATE_MTS, DRC_STAT.QUIET, DRC_STAT.RANKS2, DRC_STAT.GB32, DRC_STAT.STATE, DRC_CFG.STARVE_NS, DRC_CFG.WDRAIN_HI, DRC_CFG.WDRAIN_LO, DRC_TRAINCFG.MIN_EYE, DRC_TRAIN.REASON, DRC_TRAIN.STEP, DRC_TRAIN.FAILS, DRC_EYE.RD, DRC_EYE.WR, DRC_REFSTAT.DOUBLE_B, DRC_REFSTAT.DOUBLE_A, DRC_REFSTAT.DEBT_B, DRC_REFSTAT.DEBT_A, DRC_REFCNT.FORCED, DRC_REFCNT.PULLED, DRC_PARITY.ALERTS] ++
  [DRC_PARITY.REPLAYS, DRC_PARLOG.VALID, DRC_PARLOG.ATTEMPT, DRC_PARLOG.SUBCH, DRC_PARLOG.INDEX, DRC_RAWHOLD.COUNT, DRC_RMW.COUNT, DRC_RDBYTES_LO.BYTES, DRC_RDBYTES_HI.BYTES, DRC_WRBYTES_LO.BYTES, DRC_WRBYTES_HI.BYTES]

/-- Every field of the SDP block. -/
def fieldsSDP : List Fld :=
  [SDP_CFG.AUTOREMAP, SDP_CFG.HARDCNT, SDP_BIST.DONE, SDP_BIST.FAIL, SDP_LOGOVF.ENVA, SDP_LOGOVF.DRAM, SDP_LOGOVF.SRAM, SDP_CECNT.COUNT, SDP_UECNT.COUNT, SDP_LOG_IDX.MEM, SDP_LOG_IDX.ENTRY, SDP_LOG_W.WORD, SDP_SCRUB_CTL.GO, SDP_SCRUB_CTL.ABORT, SDP_SCRUB_CTL.MEM, SDP_SCRUB_BASE_LO.BASE, SDP_SCRUB_BASE_HI.BASE, SDP_SCRUB_LEN.LEN, SDP_SCRUB_STAT.BUSY, SDP_SCRUB_STAT.RESULT, SDP_SCRUB_STAT.REMAPS, SDP_SCRUB_CORR.COUNT, SDP_SCRUB_UNC.COUNT, SDP_SCRUB_FIRST.VALID] ++
  [SDP_SCRUB_FIRST.PAGE, SDP_REMAPCMD.GO, SDP_REMAPCMD.RESULT, SDP_REMAP.VALID, SDP_REMAP.GRANULE]

/-- Every field of the TWN block. -/
def fieldsTWN : List Fld :=
  [TWN_STAT.STATE, TWN_STAT.HB_SEEN, TWN_STAT.FWD_EN, TWN_STAT.UP, TWN_CTL.REKEY, TWN_CTL.REJOIN, TWN_CTL.FENCE, TWN_CFG.DEFER_US, TWN_CFG.REPLAY_US, TWN_LINES.FENCE_IN, TWN_LINES.FENCE_OUT, TWN_LINES.SEEN, TWN_LINES.CLAIM, TWN_FAULT.BARRIER, TWN_FAULT.ROLE, TWN_FAULT.ATTEST, TWN_FAULT.HSTIMEOUT, TWN_FAULT.LINKLOSS, TWN_FAULT.SILENT, TWN_FAULT.FENCED, TWN_FAULT.CLAIMREFUSED, TWN_FAULT.CLAIMLOST, TWN_TAKETIME.TICKS, TWN_HBCNT.MISSED] ++
  [TWN_HBCNT.RUN, TWN_MIRROR.ROWS, TWN_MIRROR.MIB, TWN_FWDCNT.CMDS, TWN_FWDCNT.DIEOPS, TWN_SLSTAT.RATE, TWN_SLSTAT.KEYNUM, TWN_SLERR.CRC, TWN_SLERR.NAK, TWN_REPLAY.FRAMES, TWN_REPLAY.DOWNS]

/-- Every field of the PSQ block. -/
def fieldsPSQ : List Fld :=
  [PSQ_STAT.S, PSQ_STAT.DIR, PSQ_STAT.SYNC_HIGH, PSQ_STAT.SYNC_PULL, PSQ_STAT.FLT_IN, PSQ_STAT.FLT_OUT, PSQ_STAT.SEQIN, PSQ_STAT.SEQOUT, PSQ_STAT.POSITION, PSQ_STAT.GROUP_SIZE, PSQ_STAT.LAST_STATE, PSQ_CTL.DOWN, PSQ_CFG.VS_TOL, PSQ_RAILS.EN, PSQ_RAILS.PG, PSQ_FAULT.REQUEST, PSQ_FAULT.EXTERNAL, PSQ_FAULT.STUCK, PSQ_FAULT.FRONT, PSQ_FAULT.VSRANGE, PSQ_FAULT.PGLOST, PSQ_FAULT.PGTIMEOUT, PSQ_FLOG.VALID, PSQ_FLOG.CAUSE] ++
  [PSQ_FLOG.STATE, PSQ_FLOG.RAIL, PSQ_STUCK.RAIL, PSQ_FRONT.LAST_US, PSQ_FRONT.MAX_US, PSQ_VS.INRANGE, PSQ_VS.CODE]

/-- Every field of the PLP block. -/
def fieldsPLP : List Fld :=
  [PLP_STAT.STATE, PLP_STAT.FIRST, PLP_STAT.LINGER, PLP_STAT.B_IN, PLP_STAT.A_IN, PLP_CFG.BUDGET_MS, PLP_CFG.DIRTY_GIB, PLP_CFG.DISC_T, PLP_FAULT.LIMITCUT, PLP_FAULT.OVERBUDGET, PLP_FAULT.DISC_B, PLP_FAULT.DISC_A, PLP_DISC.LAST, PLP_DISC.MAX, PLP_FLUSH.TIME, PLP_FLUSH.MIB, PLP_LIMIT.ERASED_GIB, PLP_LIMIT.EFFECTIVE_GIB, PLP_COUNT.FLUSHES, PLP_COUNT.COMMITS, PLP_FLUSHID.FLUSH_ID]

/-- Every field of the PWR block. -/
def fieldsPWR : List Fld :=
  [PWR_STAT.STATE, PWR_STAT.LATCHED, PWR_STAT.PAIRHOLD, PWR_CTL.WAKE, PWR_CTL.CALM, PWR_CTL.LULL_EN, PWR_CTL.TRIM_EN, PWR_CFG.IDLE_MS, PWR_CALMCFG.PAIR, PWR_CALMCFG.WAKEEN, PWR_CALMCFG.ADDR, PWR_CALMRES.RESULT, PWR_WAKESRC.SRC, PWR_WAKESRC.ENTRY, PWR_WAKESRC.FROM, PWR_WAKESRC.WHERE, PWR_WAKEDTC.DTC, PWR_WAKETMR.SECONDS, PWR_ISLON.ON, PWR_COUNT.LULLS, PWR_COUNT.CALMS]

/-- Every field of the THM block. -/
def fieldsTHM : List Fld :=
  [THM_STAT.TRIP, THM_STAT.THERM_OUT, THM_STAT.LEVEL, THM_STAT.FEWSENS, THM_STAT.HOTTEST, THM_STAT.TJ, THM_MEDIA.OUT, THM_MEDIA.MAX_C, THM_MEDIA.MIN_C, THM_CAL.GO, THM_CAL.RESULT, THM_CAL.SENSOR, THM_CALREF.REF, THM_TRIPLOG.SENSOR, THM_TRIPLOG.TEMP, THM_HOLDCNT.COUNT, THM_PEAK.SENSOR, THM_PEAK.TJ, THM_SENS.MASKED, THM_SENS.UNREL, THM_SENS.NBR_A, THM_SENS.NBR_B, THM_SENS.OFFSET, THM_SENS.TEMP]

/-- Every field of the AGE block. -/
def fieldsAGE : List Fld :=
  [AGE_STAT.BUSY, AGE_STAT.PENDING, AGE_CTL.MEASURE, AGE_CFG.WARN_YEARS, AGE_CFG.HIGH, AGE_CFG.LOW, AGE_CFG.ENDGUARD, AGE_CFG.GUARD, AGE_LIFE.ISLAND, AGE_LIFE.YEARS, AGE_LIFE.CYCLES_LEFT, AGE_EXHAUST.ISL, AGE_IDX.ISLAND, AGE_W.WORD]

/-- Every field of the EVR block. -/
def fieldsEVR : List Fld :=
  [EVR_STAT.RECORDS, EVR_STAT.OVF, EVR_CTL.CLEAR, EVR_CTL.FREE, EVR_GEN.GEN, EVR_LOST.COUNT, EVR_IDX.CODE, EVR_NTCSEQ.SEQ, EVR_NTCIDX.ENTRY, EVR_PLIDX.ENTRY, EVR_PLSTAT.SKIPPED, EVR_PLSTAT.WRAPPED, EVR_PLSTAT.NEXT, EVR_W.WORD, EVR_NTCW.WORD, EVR_PLW.WORD]

/-- Every field of the ARB block. -/
def fieldsARB : List Fld :=
  [ARB_NULL.COUNT, ARB_DRAWS.COUNT, ARB_TKT.TKT3, ARB_TKT.TKT2, ARB_TKT.TKT1, ARB_TKT.TKT0, ARB_STAT.PARKED, ARB_STAT.BUSY, ARB_STAT.OWNER]

/-- Every field of the PTB block. -/
def fieldsPTB : List Fld :=
  [PTB_CTL.ARM, PTB_CTL.STOP, PTB_CTL.ARMED, PTB_CTL.REASON, PTB_SCOPE.FILTER, PTB_SCOPE.TENANT, PTB_SEED.SEED, PTB_HSDLY.EN, PTB_HSDLY.ISLAND, PTB_HSDLY.RATE, PTB_HSDLY.CYCLES, PTB_BARO.EN, PTB_BARO.POOL, PTB_BARO.LEVEL, PTB_STALL.EN, PTB_STALL.ISLAND, PTB_STALL.RATE, PTB_STALL.LEN, PTB_CAPAR.EN, PTB_CAPAR.REPEAT, PTB_CAPAR.SUBCH, PTB_CAPAR.COUNT, PTB_CAPAR.CHAN, PTB_ECC.EN] ++
  [PTB_ECC.STICKY, PTB_ECC.ADDR_HI, PTB_ECC.MODE, PTB_ECC.MEM, PTB_ECCADDR.ADDR, PTB_LDPC.EN, PTB_LDPC.NOMARK, PTB_LDPC.FAILS, PTB_LDPC.COUNT, PTB_LDPC.DIE, PTB_DROP.EN, PTB_DROP.ALL, PTB_DROP.UNSEQ, PTB_DROP.SUBLINK, PTB_DROP.RATE, PTB_SKEW.EN, PTB_SKEW.ISLAND, PTB_SKEW.OFFSET, PTB_CNT.COUNT, PTB_CORE.SEL, PTB_CORE.HALT, PTB_COREPC.PC, PTB_BIST.GO, PTB_BIST.RESULT] ++
  [PTB_BIST.MASK]

/-- Every field of the FLT block. -/
def fieldsFLT : List Fld :=
  [FLT_STAT.FAULT_N, FLT_STAT.FORCE, FLT_STAT.ACTIVE, FLT_PEND.GROUP, FLT_MASK.GROUP, FLT_FIRST.VALID, FLT_FIRST.GROUP, FLT_FIRST.CODE, FLT_FIRSTDTC.DTC, FLT_GCNT.COUNT]

end Sys2Proof.Machine
end

