-- ==== Sys2Proof/Machine/State.lean ====
section
/-! DEFINITION. The state of one MZD-9610 controller, as plain data: the control-window registers, and beside them every
piece of state the spec gives the device that no register holds (islands and porters, barriers, images and live tables,
ports, queues, commands, zones, dies, engines, vault, non-volatile array, trust, pools, memories, twin link, power,
thermal, ageing, events, perturbation), the outputs of the last command, and the queue of waiting commands. -/

namespace Sys2Proof.Machine

/-- A table keyed by number: keys strictly rising, no entry equal to the table's default (`Table.ok`). -/
abbrev Table (α : Type) := List (Nat × α)

/-! ## Events -/

/-- An event on its way to the recorder (R511, R513). `first`: it set its group's pending bit (R518). -/
structure Ev where
  code : Nat
  value : Nat
  tag : Option Nat
  dtc : Nat
  fault : Bool
  first : Bool
deriving DecidableEq, Repr

/-- A value with the DTC and tag of its event (R515: MIN and MAX). -/
structure Extreme where
  value : Nat
  dtc : Nat
  tag : Option Nat
deriving DecidableEq, Repr

/-- A recorder record (R514 to R517). `fresh`: new, or cleared, so that the next event sets both extremes. -/
structure EvRec where
  code : Nat
  fault : Bool
  group : Nat
  gen : Nat
  count : Nat
  withheld : Nat
  fresh : Bool
  min : Extreme
  max : Extreme
  last : Nat
  bins : Table Nat
deriving DecidableEq, Repr

/-- A notice (R519), field by field. -/
structure Notice where
  code : Nat
  flags : Nat
  group : Nat
  seq : Nat
  dtc : Nat
  value : Nat
  func : Nat
  tenant : Nat
  zone : Nat
deriving DecidableEq, Repr

/-- The recorder's state beyond its registers (R513 to R520): porter queues by island, records, token buckets by code
(tokens missing from the depth), the notice ring (newest first, at most 256), the persistent log by entry, the entry it takes
next, whether it has wrapped, and the log writes that a brown-out holds. -/
structure EvrSt where
  queues : Table (List Ev)
  records : List EvRec
  spent : Table Nat
  ring : List Notice
  plog : Table Notice
  plogFull : Bool
  plogNext : Nat
  held : List Notice
deriving DecidableEq, Repr

/-! ## The Drite image (R60 to R66) -/

structure LaneRec where
  kind : Nat
  index : Nat
  first : Nat
  width : Nat
  maxGen : Nat
  reverse : Nat
  polarity : Nat
deriving DecidableEq, Repr

structure FuncRec where
  func : Nat
  type : Nat
  port : Nat
  parent : Nat
  tenant : Nat
  bar0 : Nat
  bar2 : Nat
  msix : Nat
  ana : Nat
  flags : Nat
deriving DecidableEq, Repr

structure QRec where
  func : Nat
  count : Nat
  first : Nat
deriving DecidableEq, Repr

structure TenantRec where
  tenant : Nat
  lattable : Nat
  flags : Nat
  maxNs : Nat
  quota : Nat
  gust : Nat
  zoneQuota : Nat
  activeQuota : Nat
  keyset : Nat
  keygen : Nat
  keypol : Nat
deriving DecidableEq, Repr

structure LatRec where
  table : Nat
  abortMask : Nat
  deadlines : List Nat
deriving DecidableEq, Repr

structure LedgerRec where
  tenant : Nat
  share : Nat
  recon : Nat
deriving DecidableEq, Repr

structure PoolRec where
  pool : Nat
  mem : Nat
  mode : Nat
  rank : Nat
  base : Nat
  size : Nat
  wm : List Nat
  classmask : Nat
  flags : Nat
deriving DecidableEq, Repr

structure ZoneGeo where
  geo : List Nat
  zones : Nat
  conv : Nat
  logBlocks : Nat
  activeLimit : Nat
  openLimit : Nat
  metaBlocks : Nat
  flushBlocks : Nat
deriving DecidableEq, Repr

structure FlashRec where
  iface : Nat
  ceCount : Nat
  luns : Nat
  planes : Nat
  rate : Nat
  spare : Nat
  pageLog2 : Nat
  cellBits : Nat
  userBlocks : Nat
  rsvBlocks : Nat
  trUs : Nat
  tprogUs : Nat
  tbers10us : Nat
  psuspUs : Nat
  esuspUs : Nat
  maxSusp : Nat
  retrySteps : Nat
  minEyePs : Nat
  tprogSlcUs : Nat
  retry : List (List Nat)
deriving DecidableEq, Repr

structure IslandRec where
  island : Nat
  vpt : Nat
  freq : Nat
  fmin : Nat
  flags : Nat
deriving DecidableEq, Repr

/-- A rail record of SEQ (R65). -/
structure RailRec where
  rail : Nat
  upState : Nat
  flags : Nat
  pgTimeout : Nat
  vsNominal : Nat
  vsDischarge : Nat
  disTimeout : Nat
deriving DecidableEq, Repr

structure SeqRec where
  groupSize : Nat
  position : Nat
  lastState : Nat
  frontUs : Nat
  rails : List RailRec
deriving DecidableEq, Repr

structure ThermRec where
  throttle : Nat
  thermN : Nat
  trip : Nat
  hyst : Nat
  mediaLo : Nat
  mediaHi : Nat
  mask : Nat
deriving DecidableEq, Repr

structure ArbRec where
  inst : Nat
  requester : Nat
  tickets : Nat
deriving DecidableEq, Repr

structure EvrRec where
  code : Nat
  depth : Nat
  refill : Nat
  flags : Nat
deriving DecidableEq, Repr

structure TwinRec where
  pairId : Nat
  digest : List Byte
  mirrorPool : Nat
  sublinks : Nat
  flags : Nat
deriving DecidableEq, Repr

/-- The tables an epoch holds and the structure beside them (R63: which are structural and which live). -/
structure Image where
  kind : Nat
  version : Nat
  floor : Nat
  base : Nat
  sections : List Nat
  writable : List (Nat × Nat)
  lanes : List LaneRec
  funcs : List FuncRec
  qalloc : List QRec
  tenants : List TenantRec
  lat : List LatRec
  ledger : List LedgerRec
  pools : List PoolRec
  geo : ZoneGeo
  flash : FlashRec
  islands : List IslandRec
  seq : SeqRec
  therm : ThermRec
  arb : List ArbRec
  evr : List EvrRec
  twin : TwinRec
deriving DecidableEq, Repr

/-- Where an image operation stands: no operation, awaiting the DMA read of `len` bytes for an operation, or writing the inactive bank
(R72). -/
inductive ImgPhase where
  | idle
  | dma (op len : Nat)
  | bankWrite (bytes : List Byte)
deriving DecidableEq, Repr

/-- An epoch switch between PREPARE and its end (R76): the new tables, their epoch, who has reported LOADED, whether CMD
stamps the new epoch, the DTC of PREPARE, and the image's bytes. -/
structure Switch where
  tables : Image
  epoch : Nat
  loaded : Nat
  stamping : Bool
  start : Nat
  bytes : List Byte
deriving DecidableEq, Repr

/-- The image loader (R60 to R81). Banks A and B hold the delivered bytes ([] when a bank holds none). -/
structure ImgSt where
  staging : List Host.Cell
  bankA : List Byte
  bankB : List Byte
  phase : ImgPhase
  running : Option Image
  tables : Image
  old : Option Image
  switch : Option Switch
  lastEpoch : Nat
  liveBytes : List Byte
deriving DecidableEq, Repr

/-! ## Islands, porters and barriers (R31 to R58) -/

/-- A control-window access stalled at a porter (R36, R37): the register offset and, for a write, its data. -/
structure Stalled where
  island : Nat
  rq : Rq
  off : Nat
  data : Option Nat
deriving DecidableEq, Repr

inductive BarSrc where
  | cw
  | image
  | zone
  | rejoin
  | twin
deriving DecidableEq, Repr

/-- A barrier in flight or queued (R54 to R58). `place`: the acceptance number its marker took, so that a command with a lower number was
accepted before it; `acks`: the clusters whose merged acknowledgement CMD holds; `twinAck`: the twin's acknowledgement has arrived. -/
structure Barrier where
  src : BarSrc
  snap : Bool
  twin : Bool
  marker : Nat
  start : Nat
  place : Nat
  acks : Nat
  twinAck : Bool
deriving DecidableEq, Repr

/-- A snapshot record of one zone (R55, R176). -/
structure SnapRec where
  state : Nat
  cwp : Nat
  rwp : Nat
deriving DecidableEq, Repr

/-- Device time and the island boundaries. `offStep`: the step of R42 that decided a draining island's switch-off.
`skew`: how many ticks an island's DTC replica stands ahead of the master (R43); `units`: tag beats kept by their senders until an island is
ON (R34); `retry`: device-originated units an island refused, which their source sends again 1 ms later (R39); `snapMarker`: the marker
of a snapshot whose record is being written. -/
structure IslSt where
  dtc : Nat
  skew : Table Int
  offStep : Table Nat
  stalled : List Stalled
  units : List (Nat × Nat)
  retry : List (Nat × Nat)
  flight : Option Barrier
  barQueue : List Barrier
  marker : Nat
  snap : Table SnapRec
  snapMarker : Option Nat
deriving DecidableEq, Repr

/-! ## Ports, functions and queues (R82 to R123) -/

/-- An IDE stream of a port (R91): the routing numbers of its requesters and its address ranges (of a selective stream), the keys programmed as
(substream, key set), and the key set each substream runs on. -/
structure IdeStream where
  lo : Nat
  hi : Nat
  addrs : List (Nat × Nat)
  keys : List (Nat × Nat)
  runs : List (Nat × Nat)
deriving DecidableEq, Repr

/-- An entry of a function's MSI-X table (R85, R87). -/
structure MsixEnt where
  addr : Nat
  data : Nat
  masked : Bool
deriving DecidableEq, Repr

/-- What a function's configuration space and MSI-X structures hold (R85, R87): payload and read request size codes, the completion timeout range and
disable, ASPM L1, MSI-X enable and function mask, the vectors and the pending ones. -/
structure FnPcie where
  mps : Nat
  mrrs : Nat
  ctoRange : Nat
  ctoOff : Bool
  aspm : Bool
  msixOn : Bool
  msixMask : Bool
  vectors : Table MsixEnt
  pending : List Nat
deriving DecidableEq, Repr

/-- The NVMe controller of a function (R86, R103, R205, R465, R477). `cc`, `aqa`, `asq`, `acq`: registers of its BAR0 as written (R87); `rrNext`: the
SQ served last, by priority class (R116). -/
structure FnSt where
  en : Bool
  enHeld : Bool
  rdy : Bool
  cfs : Bool
  shn : Nat
  shst : Nat
  numVfs : Nat
  wrr : Bool
  ab : Nat
  lpw : Nat
  mpw : Nat
  hpw : Nat
  anaNotices : Bool
  zoneNotices : Bool
  aers : List Nat
  events : List (Nat × Nat × Nat)
  changed : List Nat
  rrNext : Table Nat
  wrrClass : Nat
  wrrUsed : Nat
  pcie : FnPcie
  cc : Nat
  aqa : Nat
  asq : Nat
  acq : Nat
deriving DecidableEq, Repr

/-- A queue context (R110). SQ_HELD, CQ_CREDIT, DB_PAIRS and OLDEST_DTC are computed from the rest of the state. -/
structure QCtx where
  sqBase : Nat
  sqValid : Bool
  sqSize : Nat
  sqHead : Nat
  sqTail : Nat
  sqPrio : Nat
  sqState : Nat
  sqCq : Nat
  cqBase : Nat
  cqValid : Bool
  cqIen : Bool
  cqPhase : Nat
  cqSize : Nat
  cqHead : Nat
  cqTail : Nat
  cqIv : Nat
  func : Nat
  qid : Nat
  dbErr : Nat
  pairs : List (Nat × Nat)
  fetched : Nat
  completed : Nat
deriving DecidableEq, Repr

/-! ## Commands (R119 to R139) -/

/-- An NVMe status: status code type, status code and the do-not-retry bit. -/
structure Status where
  sct : Nat
  sc : Nat
  dnr : Bool
deriving DecidableEq, Repr

/-- Where a read part's data comes from (R127, R133, R159, R167). `bad`: it ended unrecovered (R258). -/
inductive PartSrc where
  | flash
  | buffer
  | spill
  | logBlock
  | zeros
  | wait
  | bad
deriving DecidableEq, Repr

/-- A part of a read: `len` bytes at byte `off` of a zone (R127), from `src`; `left`: die units and
solves it still waits for; `place`: the stripe and the range of it that the part reads, from its start on (R171); `lost`: byte ranges that ended unrecovered (R258); `decoded`: byte ranges of an elastic granule
whose blocks have been verified, and `tried`: blocks that failed once and were repaired (R283, R285); `again`: served once more after an
uncorrectable granule (R397). -/
structure Part where
  zone : Nat
  off : Nat
  len : Nat
  src : PartSrc
  place : Option (Nat × Nat × Nat)
  left : Nat
  lost : List (Nat × Nat)
  decoded : List (Nat × Nat)
  tried : List Nat
  again : Bool
  done : Bool
deriving DecidableEq, Repr

/-- What holds a live command (R52, R131 to R139, R147, R198, R302, R365, R496, R499). -/
inductive Hold where
  | free
  | quota
  | barometer
  | throttle
  | media
  | logSpace
  | table
  | keySlot
deriving DecidableEq, Repr

/-- The stages of a command slot: reserved by a fetch read, its entry fetched, accepted, running, committed, or ended with
its completion still to be written. -/
inductive Phase where
  | reserved
  | fetched
  | accepted
  | running
  | committed
deriving DecidableEq, Repr

/-- A live command slot (`blocks`: its compressed blocks by granule, R271; `enc`: its 256 B units through XTS; `level`: its compression level, R268): what it carries in its tag, what CMD holds about it (`acceptedAt`: the DTC of its acceptance, R181), and how far it has come. `fwd`: it runs on the
twin (R427); `peer`: it came from the twin's slot of that number;
`perturb`: an injection has acted on one of its units (R528); `ptrs`: the host addresses and lengths its pointers have named so far, in order, `list`:
the PRP list or SGL segment being read (R94, R102); `burst`: the number of the fetch burst that reserved the slot (R116); `tabled`: it holds an entry of the range table (R133);
`refs`: the write buffers a read holds references to (R130). -/
structure Cmd where
  fn : Nat
  q : Nat
  admin : Bool
  entry : List Byte
  phase : Phase
  arrival : Nat
  acceptedAt : Nat
  tenant : Nat
  epoch : Nat
  cls : Nat
  deadline : Nat
  abortMiss : Bool
  hint : Nat
  gust : Bool
  seq : Nat
  zone : Option Nat
  off : Nat
  nlb : Nat
  want : Nat
  data : List Byte
  dataOpen : Bool
  ptrs : List (Nat × Nat)
  list : Option (Nat × Nat)
  burst : Nat
  tabled : Bool
  refs : List Nat
  hold : Hold
  told : List Hold
  staged : Bool
  folded : Bool
  mirrored : Bool
  resv : Nat
  level : Nat
  enc : Nat
  blocks : List (Nat × List Byte)
  parts : List Part
  missAt : Option Nat
  progress : Nat
  fwd : Bool
  peer : Option Nat
  perturb : Bool
deriving DecidableEq, Repr

/-- What the device has sent outward during the last command: completions, interrupts, notices, data (of an Identify structure
the properties the spec names, log entry 25), link resets and frames. Memory requests name the host addresses and lengths they go to (R102), and how
many read requests or writes they make at the function's sizes (R85); `kind` of a read: 0 data, 1 SQ entries, 2 image, 3 PRP list or SGL segment. -/
inductive Out where
  | cqe (cq addr sqHead sqid cid : Nat) (status : Status) (dw0 : Nat)
  | msix (fn addr data : Nat)
  | aen (fn slot type info page : Nat)
  | hostWrite (fn slot : Nat) (at_ : List (Nat × Nat)) (tlps : Nat) (bytes : List Byte)
  | identify (fn slot cns : Nat) (at_ : List (Nat × Nat)) (props : List (String × Nat))
  | hostRead (fn slot kind : Nat) (at_ : List (Nat × Nat)) (reqs : Nat)
  | tlpUr (q : Nat)
  | config (fn status : Nat) (props : List (String × Nat))
  | pin (index : Nat) (asserted : Bool)
  | frame (sub type : Nat) (payload : List Byte)
  | flit (sub : Nat) (bytes : List Byte)
  | spdm (peer : Nat) (response : String) (props : List (String × Nat)) (bytes : List Byte)
  | unit (island : Nat) (tag : Nat)
deriving DecidableEq, Repr

/-- A port slot beyond its registers: its IDE streams (8: the link stream), whether the link is on its way back to L0 after a credit stall, what waits
for posted credit meanwhile (R97), and the AER log: the faults seen and the header of the first (R85, R101). -/
structure PortSt where
  streams : Table IdeStream
  relinking : Bool
  owed : List Out
  aer : List TlpFault
  aerHeader : Option (List Byte)
deriving DecidableEq, Repr

/-- Ports, functions, queues and command slots. `rrFn`: by HST island, the function its fetch arbitration serves next; `rrHst`: the island CMD accepts
from next (R118); `burst`: the number of the next fetch burst. -/
structure QueueSt where
  ports : Table PortSt
  fns : Table FnSt
  qctx : Table QCtx
  slots : Table Cmd
  seq : Nat
  rrFn : Table Nat
  rrHst : Nat
  burst : Nat
  perst : Nat
deriving DecidableEq, Repr

/-! ## Zones and namespaces (R142 to R176) -/

/-- A stripe member (R174, words 14 to 31). -/
structure Member where
  failed : Bool
  relocSrc : Bool
  block : Nat
  die : Nat
deriving DecidableEq, Repr

/-- A zone context (R174); ZFC, RELOC, DEGRADED, REFRESH and SPILLED as flags. `pending`: pending Full (R163). `granules`:
the granule index of an elastic zone (R161): granule to physical offset in 256 B units. `extents`: where the commits not yet wholly
programmed end, as CWP and PFP. -/
structure Zone where
  cls : Nat
  zfc : Bool
  reloc : Bool
  refresh : Bool
  spilled : Bool
  type : Nat
  side : Nat
  state : Nat
  nsid : Nat
  zidx : Nat
  cwp : Nat
  rwp : Nat
  pwp : Nat
  pfp : Nat
  rpp : Nat
  rows : Nat
  tenant : Nat
  lastChange : Nat
  lastWrite : Nat
  logUnits : Nat
  members : List Member
  pending : Bool
  granules : Table Nat
  extents : List (Nat × Nat)
deriving DecidableEq, Repr

/-- A namespace (R143, R177, R267, R559). -/
structure Ns where
  nsid : Nat
  tenant : Nat
  conv : Bool
  elastic : Bool
  lbaLog : Nat
  level : Nat
  keySlot : Nat
  keygen : Nat
  ana : Nat
  zones : List Nat
  attached : List Nat
deriving DecidableEq, Repr

/-- A row between its first data and its last program (R157, R158, R252): the DTC it became complete at (R180), its programs issued, members still to
program, the place its running spill takes, its spill address (die, block, wordline) and length, the DTC of its newest data, and the wordlines of its
spill still to be read back (R159). -/
structure RowSt where
  complete : Bool
  completeAt : Nat
  issued : Bool
  left : List Nat
  plan : Option (Nat × Nat × Nat)
  spill : Option (Nat × Nat × Nat)
  spillLen : Nat
  lastData : Nat
  reading : Nat
deriving DecidableEq, Repr

/-- A member relocation or rebuild in progress (R170, R260): where it copies to, the next row, whether it is a rebuild. -/
structure Move where
  zone : Nat
  member : Nat
  die : Nat
  block : Nat
  next : Nat
  urgent : Bool
  rebuild : Bool
  wear : Bool
  queued : Bool
deriving DecidableEq, Repr

/-- A block of the metadata or flush region that moves to another one (R234, R242, R260): its place, the target, the next row. -/
structure RegionMove where
  die : Nat
  block : Nat
  tdie : Nat
  tblock : Nat
  next : Nat
deriving DecidableEq, Repr

/-- A log block (R166, R169): its class, its valid units as (zone, unit) pairs, and whether it is open. -/
structure LogBlk where
  hot : Bool
  opened : Bool
  units : List (Nat × Nat)
deriving DecidableEq, Repr

/-- The compaction of a log block (R169): the block and its valid units still to copy as (position, unit). -/
structure Compact where
  victim : Nat
  left : List (Nat × Nat)
deriving DecidableEq, Repr

/-- The merge of a conventional zone (R169): its new stripe, the row in work, that row's reads and members still to end, the log map entries
(log block, position) the new stripe has taken over, and its codewords that nothing recovered as stripe offsets. -/
structure Merge where
  zone : Nat
  members : List Member
  row : Nat
  reads : Nat
  left : List Nat
  taken : List (Nat × Nat × Nat)
  lost : List Nat
deriving DecidableEq, Repr

/-- The zone engine. A zone that is reset while reads of it run leaves its stripe, until they end, to a zone numbered from 2^20 on (R147). `held`:
(die, block) of blocks to be freed when the last read of them ends (R171); `located`: rows a verify found wrong, as (stripe, member, row), which the
member's relocation solves in place of copying (R265); `pages`: the index pages in the DRAM cache, as zone × 128 + page (R161);
`deltas`: metadata delta records not yet programmed, of which the first `deltasOut` are on their way in `metaLeft` programs (R456, R466). `store`: the committed data of every namespace, addressed by zone × 2^33 + byte offset; a byte not
listed reads as 0 (R149). `phys`: the stored blocks of elastic zones before encryption, by zone × 2^33 + physical offset (R160).
`poison`: codewords known lost (R259) by the same address / 4,096. -/
structure ZoneSt where
  zones : Table Zone
  ns : List Ns
  rows : Table RowSt
  moves : List Move
  regionMoves : List RegionMove
  logBlks : Table LogBlk
  store : List Host.Cell
  phys : List Host.Cell
  poison : List Nat
  spillBlk : Table (Nat × Nat)
  spillNext : Nat
  held : List (Nat × Nat)
  located : List (Nat × Nat × Nat)
  pages : List Nat
  compact : Option Compact
  merge : Option Merge
  deltas : List (List Byte)
  deltasOut : Nat
  metaLeft : Nat
  metaNext : Nat
deriving DecidableEq, Repr

/-! ## Tenants, the ledger and dies (R177 to R247) -/

/-- A tenant's account (R178, R196 to R202, R212). The quota and gust buckets are in bytes (1/1,024 KiB), the reconstruct
budget in 1/64,000 die-µs, brought up to date at DTC `reconAt`. -/
structure TenSt where
  quota : Int
  gust : Nat
  recon : Int
  reconAt : Nat
  miss : List Nat
  lastMiss : Nat
  reconReads : Nat
  ldgHolds : Nat
  quotaHolds : Nat
  aborts : Nat
deriving DecidableEq, Repr

/-- A ledger entry (R190). -/
structure Credit where
  credit : Int
  last : Nat
deriving DecidableEq, Repr

inductive UKind where
  | read
  | program
  | erase
deriving DecidableEq, Repr

/-- What a die unit is for; `index`: a page of an elastic zone's granule index (R161); `metaData`: a metadata record (R466); `dropped`: nothing any more, its
data is discarded (R189); `regionRead`, `regionWrite`: a block of the metadata or flush region that moves (R234, R242). -/
inductive Purpose where
  | hostRead (slot part : Nat)
  | recon (job member : Nat)
  | repair (job member : Nat)
  | row (zone row member : Nat)
  | spill (zone row : Nat)
  | copyRead (zone member row : Nat)
  | copyWrite (zone member row : Nat)
  | scrub
  | verify (zone row : Nat)
  | eraseBlock
  | sanitize
  | metaData
  | index (slot part page : Nat)
  | logCopy (block : Nat)
  | mergeRead (zone : Nat)
  | mergeWrite (zone row member : Nat)
  | regionRead (die block : Nat)
  | regionWrite (die block : Nat)
  | forwarded (fwd : Nat)
  | dropped
deriving DecidableEq, Repr

/-- A unit in a die queue, on a die, or on its way there (R180, R183). `ladder`: the retry steps tried so far (R231); `bad`: its
codewords that have not decoded; `again`: issued a second time (R227); `held`: a ledger hold was reported (R193); `late`:
a miss was counted (R205); `inj`: PTB_LDPC acts on the read (R529). `created`: the DTC of CMD's acceptance of its command, or of its own creation (R181); `seq`: the
acceptance number that gives its place before or behind a marker (R54); `slot`: the device slot it holds (R120); `epoch`: the epoch whose
tables it applies (R53); `off`: the byte of its stripe that its page begins at; `cw`, `ncw`: the first codeword it reads of its page and their number
(R411). -/
structure DUnit where
  id : Nat
  die : Nat
  kind : UKind
  purpose : Purpose
  tenant : Nat
  internal : Bool
  cls : Nat
  deadline : Nat
  created : Nat
  block : Nat
  row : Nat
  page : Nat
  slc : Bool
  passes : Nat
  susp : Nat
  busy : Nat
  ladder : List Nat
  bad : List Nat
  soft : Bool
  again : Bool
  held : Bool
  late : Bool
  inj : Bool
  slot : Option Nat
  epoch : Nat
  seq : Nat
  off : Nat
  cw : Nat
  ncw : Nat
deriving DecidableEq, Repr

/-- A die's engine state beside FCH_DIE (R183 to R189, R211). `timeouts` and `watchdogs`: the DTCs of those of the last hour (R230);
`tempOk`: its last temperature read was valid (R243); `readAt`: the DTC of the issue of its running read's last attempt; `look`: the head of its queue
has changed since the suspend decision (R186). -/
structure DieSt where
  queue : List DUnit
  overflow : List DUnit
  running : Option DUnit
  start : Nat
  readAt : Nat
  look : Bool
  suspended : Option DUnit
  suspending : Bool
  suspAt : Nat
  served : Nat
  busy : Nat
  misses : Nat
  reconAround : Nat
  timeouts : List Nat
  watchdogs : List Nat
  tempOk : Bool
  trainTemp : Int
  trainAt : Nat
deriving DecidableEq, Repr

/-- A block context (R247). -/
structure Blk where
  state : Nat
  refresh : Bool
  urgent : Bool
  outwin : Bool
  slc : Bool
  stepValid : Bool
  lastStep : Nat
  rows : Nat
  erases : Nat
  reads : Nat
  maxbits : Nat
  needErase : Bool
deriving DecidableEq, Repr

/-- A channel's training sequence (R222 to R226): the CEs still to train, the CE in training, whether it has started, the
runs failed in a row by CE, and the CEs to retry in 10 ms. -/
structure TrainSt where
  todo : List Nat
  ce : Option Nat
  started : Bool
  fails : Table Nat
  retry : List Nat
  resets : List Nat
deriving DecidableEq, Repr

/-- What a solve is for: a part of a read, the second reading of a compressed block (R285), a row of a move, a unit of a log
block in compaction or of a zone in a merge (R169), a granule of DRAM staging (R397). -/
inductive SolveFor where
  | part (slot part : Nat)
  | block (slot part start : Nat)
  | move (zone member row : Nat)
  | copy (off : Nat)
  | merge (zone off : Nat)
  | staging
deriving DecidableEq, Repr

/-- A solve of the parity engine (R255 to R265): the stripe position (page 255: the whole 256 KiB unit) and its codewords, the target member,
the members still to report, and each report: member and the codewords that did not decode. `recon`: chosen by R200; `deadline`, `cls`: those of the
unit it stands for, which order the solving lane (R254). -/
structure Solve where
  id : Nat
  zone : Nat
  row : Nat
  page : Nat
  member : Nat
  cw : Nat
  ncw : Nat
  recon : Bool
  deadline : Nat
  cls : Nat
  waiting : List Nat
  got : List (Nat × List Nat)
  purpose : SolveFor
deriving DecidableEq, Repr

/-- The deadline scheduler, ledger, channel engines and media management. `disp`: units CMD has made and not yet placed in
a die queue; `softQ`: codewords in a cluster's soft decoder; `mark`: the newest marker in the die queues, with its number and its place in acceptance order
(R54); `bus`: the die that holds the bus of a channel (R185); `retry`: device-originated units the lost-part watchdog has ended, to be sent again from their source (R52). -/
structure MediaSt where
  bus : Table Nat
  tenants : Table TenSt
  ledger : Table Credit
  ldgZero : Table Nat
  dies : Table DieSt
  blocks : Table Blk
  train : Table TrainSt
  disp : List DUnit
  softQ : List DUnit
  solves : List Solve
  unitId : Nat
  rebuildBytes : Nat
  firstStart : Bool
  gustTold : Bool
  mediaTold : Bool
  mark : Option (Nat × Nat)
  retry : List DUnit
deriving DecidableEq, Repr

/-! ## Buffer pools and arbiters (R349 to R374) -/

/-- An allocated buffer (R361): its pool, its place (4 KiB units, or the first of a cell count), its size in bytes, the
reference count, up to 6 named owners (the allocator first), the requester charged, and the work it was allocated for: a
command slot, or 65,536 and above for device work. -/
structure Buf where
  pool : Nat
  pos : Nat
  size : Nat
  count : Nat
  owners : List Nat
  allocator : Nat
  work : Nat
deriving DecidableEq, Repr

/-- An allocation request (R354, R359). -/
structure PoolReq where
  id : Nat
  rq : Nat
  sizes : List Nat
  deadline : Nat
  cls : Nat
  created : Nat
  work : Nat
deriving DecidableEq, Repr

/-- A pool: its mode, free buffers by (class, place), free cells of a cell-chain pool, capacity and used bytes, waiting requests. -/
structure PoolSt where
  chain : Bool
  free : List (Nat × Nat)
  cells : Nat
  cap : Nat
  used : Nat
  wait : List PoolReq
deriving DecidableEq, Repr

/-- A lottery arbiter (R368 to R371): LFSR, active tickets by requester, a ticket write waiting for the next draw, and the
last round-robin winner. -/
structure ArbSt where
  lfsr : Nat
  active : Table Nat
  dirty : Bool
  rr : Nat
  winner : Option Nat
deriving DecidableEq, Repr

/-- Pools, buffers and arbiters. `retry`: requests of device work waiting for their retry (R360). -/
structure BpSt where
  pools : Table PoolSt
  bufs : Table Buf
  nextBuf : Nat
  nextReq : Nat
  arbs : Table ArbSt
  retry : List PoolReq
deriving DecidableEq, Repr

/-! ## The twin link (R405 to R441) -/

/-- A reliable frame, waiting to be sent or to be acknowledged (R415, R416): its sequence number, type, zone (none: NOZONE), the
deadline its slack is taken of and the slack it went with, ARGS and BODY, XSEQ where re-sealed (R418), how often it was sent and
when last, and the command slot whose commit it carries. -/
structure TxFrame where
  seq : Nat
  type : Nat
  zone : Option Nat
  deadline : Option Nat
  slack : Nat
  args : List Byte
  body : List Byte
  xseq : Nat
  sends : Nat
  last : Nat
  slot : Option Nat
deriving DecidableEq, Repr

/-- An SPDM message being reassembled (R412). -/
structure SpdmRx where
  msg : Nat
  index : Nat
  len : Nat
  bytes : List Byte
deriving DecidableEq, Repr

/-- A sub-link (R405 to R418): up, consecutive bad flits, transmit and receive key numbers (0 before keys), sending counters,
expected sequence number, that number when the sub-link last went down with the original numbers accepted re-sealed since,
frames waiting to be sent and unacknowledged ones (oldest first), the last acknowledgement and credit received, handshake
progress (`attested`: the twin's verdict), the export master secret of its SPDM session (R421), the number of the next SPDM message each way with the
one coming in, the bytes that have come of the frame in progress, whether the next byte's place in a frame is known (R407), and the reliable frames
accepted whose effect is not held yet, the first of which waits (R360, R414). -/
structure SubSt where
  up : Bool
  badFlits : Nat
  keyNum : Nat
  rxKey : Nat
  rekeying : Bool
  txSeq : Nat
  txUn : Nat
  expect : Nat
  downAt : Nat
  xAccepted : List Nat
  queue : List TxFrame
  replay : List TxFrame
  ackSeq : Nat
  credSeq : Nat
  helloOk : Bool
  attested : Bool
  secret : Nat
  spdmSent : Nat
  spdmNext : Nat
  spdmRx : Option SpdmRx
  rxPart : List Byte
  rxSync : Bool
  waits : List Instr
deriving DecidableEq, Repr

/-- A die operation this controller has forwarded (R424, R429). -/
structure Fwd where
  unit : DUnit
  issued : Nat
deriving DecidableEq, Repr

/-- Work received from the twin: a forwarded die operation in a local die queue. -/
structure FwdIn where
  id : Nat
  op : Nat
  flags : Nat
  zone : Nat
  row : Nat
  die : Nat
  block : Nat
  page : Nat
  cw : Nat
  tenant : Nat
deriving DecidableEq, Repr

/-- A row of the twin's held in the mirror-receive pool (R423): its byte ranges received, the bytes committed from its start, and the parity units
received, by member (R424). -/
structure MirRow where
  have_ : List (Nat × Nat)
  committed : Nat
  parity : Table (List Byte)
deriving DecidableEq, Repr

/-- The twin beyond the TWN registers. `mirror`: the twin's rows; `mirData`: the stored bytes of the twin's zones at zone × 2^33 +
offset; `fwds`: operations forwarded to the twin by request number, and `fwdIns` those it forwarded here; `peer…`: what its HELLO
said; `hbSeen`: a heartbeat in this window; `hbAge`: windows since a twin pulse; `heldHb`: missed windows do not lead to
suspicion, `holdWoke`: this controller has woken since (R486); `suspectAt`, `suspectWhy`: DTC and TWN_FAULT bit of the suspicion; `deferring`, `fencing`: progress of R433;
`takeover`: mirror replay runs; `waitClaims`: clusters claimed whose SEEN is awaited, `again`: those claimed once more after a
loss (R436), `retryClaims`: those side A claims again every 100 µs (R437); `handover`: commits need the restarted twin again
(R440 step 3); `rejoin`: the rejoin's step; `handshake`: the handshake of R419 runs. -/
structure TwnSt where
  subs : Table SubSt
  mirror : Table MirRow
  mirData : List Host.Cell
  fwds : Table Fwd
  fwdIns : Table FwdIn
  fwdNext : Nat
  peerUid : Nat
  peerImg : Nat
  peerLive : Nat
  peerPoolMiB : Nat
  peerDirtyMiB : Nat
  peerState : Nat
  peerSubs : Nat
  peerFlags : Nat
  peerDtc : Nat
  hbSeen : Bool
  hbAge : Nat
  heldHb : Bool
  holdWoke : Bool
  suspectAt : Nat
  suspectWhy : Nat
  deferring : Bool
  fencing : Bool
  takeover : Bool
  waitClaims : Nat
  again : Nat
  retryClaims : Nat
  handover : Bool
  rejoin : Nat
  deltaErrors : Nat
  handshake : Bool
deriving DecidableEq, Repr


/-! ## Cipher engine, vault, thermal (R288 to R309, R491 to R501) -/

/-- A vault slot (R299, R302): state (0 EMPTY, 1 LOADED, 2 CLEARING), kind, tenant, key generation, namespace and the key.
`reload`: a Format waits to load a new key once the slot is cleared. -/
structure KeySlot where
  state : Nat
  kind : Nat
  tenant : Nat
  keygen : Nat
  nsid : Nat
  key : Nat
  reload : Bool
deriving DecidableEq, Repr

/-- A GCM lane: its running message and the suspended ones, most recent first (R298). -/
structure GcmLane where
  running : Option GcmMsg
  susp : List GcmMsg
deriving DecidableEq, Repr

/-- Vault and cipher lanes beyond their registers: slots, lanes, messages that wait for a lane, the DTC of the last key bus
parity error, the keys cached in XFM, and the slots whose records are still to be unwrapped since the last start or
re-authentication (R308). -/
structure KvtSt where
  slots : Table KeySlot
  lanes : Table GcmLane
  waiting : List GcmMsg
  busErr : Option Nat
  cache : List Nat
  toLoad : List Nat
deriving DecidableEq, Repr

/-- Thermal state beyond its registers: consecutive unreliable samples by diode, samples at or above TRIP_C, the write
bucket in bytes, the diode in calibration, and the few-sensors latch (R492 to R500). -/
structure ThmSt where
  odd : Table Nat
  tripRuns : Nat
  bucket : Int
  cal : Option Nat
  few : Bool
  tripDone : Bool
deriving DecidableEq, Repr

/-! ## Rails, power loss (R442 to R460) -/

/-- A rail in use (R443): 0 off, 1 enabled, 2 good, 3 lost, 4 to be discharged, 5 discharged or stuck; whether it has been good
since its enable; the DTC of its last enable or disable; and its runs of samples in tolerance, out of tolerance and below
VS_DISCHARGE. -/
structure RailSt where
  state : Nat
  since : Nat
  inTol : Nat
  outTol : Nat
  low : Nat
deriving DecidableEq, Repr

/-- The sequencer beyond its registers: the SEQ section in force, its rails, the DTC of the last front (or of PORST_n), and a flush
that holds the first DOWN front (R449). -/
structure PsqSt where
  seq : SeqRec
  rails : Table RailSt
  frontAt : Nat
  flushHold : Bool
deriving DecidableEq, Repr

/-- A flush unit (R456): its kind, zone, row, offset and payload length. -/
structure FlushUnit where
  kind : Nat
  zone : Nat
  row : Nat
  off : Nat
  len : Nat
deriving DecidableEq, Repr

/-- A flush unit in flash: the die and block it lies in, and its bytes, header and payload (R456). -/
structure FlushPage where
  die : Nat
  block : Nat
  bytes : List Byte
deriving DecidableEq, Repr

/-- Power loss beyond its registers: intake fenced by a commit in HELD (R453), the DTC of the first assertion while the
discrepancy timer runs (R452), a flush that runs, its units still to program, those on dies with their SEQ, those whose program failed, and those in
flash, its next SEQ, where the rotation over channels and over the dies of each stands (R456), the DTC of its start, the configuration in force for it
(R460), the mirror-pool cap in GiB of the twin's HELLO (R358), and whether the flush has missed its deadline (R205). -/
structure PlpSt where
  intakeFenced : Bool
  first : Option Nat
  flushing : Bool
  todo : List FlushUnit
  flight : Table (FlushUnit × Nat)
  failed : List (FlushUnit × Nat)
  good : List FlushPage
  seq : Nat
  nextCh : Nat
  nextDie : Table Nat
  startAt : Nat
  budget : Nat
  discT : Nat
  mirrorCap : Option Nat
  late : Bool
deriving DecidableEq, Repr

/-! ## Start-up (R461 to R471) -/

/-- The start sequence: the step of R461 it stands in (0: PORST_n asserted or not yet released, 14: ready), whether it is a warm
one, what its checks will find (self-test failures by memory, a whole checkpoint), DRAM channels still to train at step 8, a warm
reset that waits (R476); and of the device records the lane plan (R462), RESTORED_ID (R468), the clean mark (R478), and the
newest checkpoints with the erases of each die since the last one (R466). `noReady`: a failed self-test or recovery keeps the
controllers from ready; `shutting`: a clean shutdown runs (R478); `refused`: the twin reported this side's ROLE in a handshake since the
last cold start (R21). -/
structure StartSt where
  step : Nat
  warm : Bool
  selfTest : Nat
  metaOk : Bool
  dramLeft : Nat
  pendWarm : Option Nat
  plan : Option (List LaneRec)
  restoredId : Nat
  flushId : Nat
  clean : Bool
  roots : List Nat
  ckptSeq : Nat
  erases : Table Nat
  noReady : Bool
  shutting : Bool
  refused : Bool
deriving DecidableEq, Repr
/-! ## The non-volatile array and trust (R310 to R348) -/

/-- A wrapped key record of the key store (R305), with the key it wraps and the DWK generation it was wrapped under; `dead`:
superseded and tombstoned (R346). `raw`: its 128 bytes, `unit`: the first of its units in its sector of either copy of the key store. -/
structure KeyRec where
  slot : Nat
  tenant : Nat
  keygen : Nat
  kind : Nat
  nsid : Nat
  key : Nat
  dwk : Nat
  dead : Bool
  raw : List Byte
  unit : Nat
deriving DecidableEq, Repr

/-- A write of a flag word (R313): a bank in ACTIVE, ALARMED, LEVEL or FLOOR. -/
inductive FlagOp where
  | image (bank : Nat)
  | firmware (bank : Nat)
  | alarmed (v : Nat)
  | level (v : Nat)
  | floor (v : Nat)
deriving DecidableEq, Repr

/-- What on-chip firmware does to the array: a flag word, a unit of the device records, the erase of a class D sector of the region that begins at
`first`, and the programming of units in one. -/
inductive ArrayOp where
  | flag (o : FlagOp)
  | record
  | erase (first i : Nat)
  | program (first i : Nat) (bytes : List Byte)
deriving DecidableEq, Repr

/-- A CW operation on the array (R314, R319): 1 PROGRAM, 2 ERASE, 3 BLANKCHECK; whether it has started, whether a pulse runs
and how many pulses it has had. -/
structure NvaOp where
  op : Nat
  addr : Nat
  data : List Byte
  started : Bool
  pulse : Bool
  count : Nat
deriving DecidableEq, Repr

/-- The array beyond its registers (R310 to R329): the flag words, erase counts, the replacement map, the programmed units of
the class D sectors by unit number, the firmware banks, the key store, the device records with the next unit of their log, the operations a brown-out
holds, whether the sanitize in progress erases blocks and whether the twin still owes one (R347, R348), the lines in the code prefetch buffer and the branch cache (R317), and the CW's sequence and read buffer.
`level2`: the LEVEL2 fuse is blown (R338). -/
structure EnvaSt where
  active : Nat
  eraseAll : Bool
  alarmed : Nat
  level : Nat
  floor : Nat
  pendErase : List Nat
  ecnt : Table Nat
  spares : Table Nat
  units : Table (List Byte)
  fwA : List Byte
  fwB : List Byte
  keys : List KeyRec
  owner : List Byte
  imgKeys : List (Nat × List Byte)
  dwkGen : Nat
  svnFloor : Nat
  ivReserve : Nat
  recAt : Nat
  sanBlocks : Bool
  sanLate : Bool
  queue : List ArrayOp
  prefetch : List Nat
  branch : List Nat
  words : List Byte
  op : Option NvaOp
  line : Option (List Byte)
  level2 : Bool
deriving DecidableEq, Repr

/-- An SPDM session (R343): its number, whether FINISH has established it, and how often its keys have been updated. -/
structure SpdmSession where
  id : Nat
  established : Bool
  updates : Nat
deriving DecidableEq, Repr

/-- An owner command being checked (R341): its bytes, whether its nonce was the one held and valid at GO, and whether an alarm was raised since (R348). -/
structure OwnerCheck where
  bytes : List Byte
  fresh : Bool
  alarmed : Bool
deriving DecidableEq, Repr

/-- An SPDM requester (R343): how far its connection has come (1 version, 2 capabilities, 3 algorithms), and its sessions. -/
structure SpdmPeer where
  stage : Nat
  sessions : List SpdmSession
deriving DecidableEq, Repr

/-- Trust beyond the registers (R331 to R347): the running firmware package, the private scalar of the alias key formed at the start, the owner
mailbox, the command being checked, the nonce and its DTC, the debug scopes granted and the DTC of their end, SPDM connections by peer (0 to 31 physical
functions, 32 and 33 sub-links), the package being downloaded, and of a sanitize the next block to erase by die. -/
structure TrustSt where
  running : List Byte
  aliasKey : Nat
  check : Option OwnerCheck
  mbox : List Host.Cell
  nonce : Option (List Byte × Nat)
  debug : Nat
  debugEnd : Nat
  spdm : Table SpdmPeer
  pkg : List Host.Cell
  pkgLen : Nat
  sanErase : Table Nat
deriving DecidableEq, Repr


/-! ## Memories (R375 to R404) -/

/-- An entry of an error log (R395); `born` orders the entries. -/
structure ErrEntry where
  addr : Nat
  loc : Nat
  count : Nat
  last : Nat
  ue : Bool
  born : Nat
deriving DecidableEq, Repr

/-- The error logs, keyed 32 × memory + entry, and the granules (memory, index) whose last read was uncorrectable (R398),
and the memory and range of the last scrub started (R402). -/
structure SdpSt where
  logs : Table ErrEntry
  seq : Nat
  bad : List (Nat × Nat)
  mem : Nat
  range : Nat × Nat
deriving DecidableEq, Repr

/-- A granted DRAM access of at most 256 B (R379): its number, place, direction, arrival, tenant, and whose data it moves. -/
structure DramAcc where
  id : Nat
  addr : Nat
  len : Nat
  write : Bool
  at_ : Nat
  tenant : Option Nat
  owner : GOwner
deriving DecidableEq, Repr

/-- A command a subchannel issues to its DRAM: an activate, a column read or write in an open row, a precharge, or a REFsb of a bank index. -/
inductive DramCmd where
  | act (bank row : Nat)
  | col (bank row : Nat) (write : Bool)
  | pre (bank : Nat)
  | refsb (index : Nat)
deriving DecidableEq, Repr

/-- A subchannel (R379 to R386): its queues, accesses held at the arbiter, whether writes drain, open rows by bank with the DTC of
their last access, bank indices still to be refreshed in this set of 4, the retry buffer of its last 64 commands with their numbers, the number of the
next command, the number of the last failing one and how often in a row it has failed, and where in the buffer a replay under way began. -/
structure SubDram where
  reads : List DramAcc
  writes : List DramAcc
  held : List DramAcc
  drain : Bool
  rows : Table (Nat × Nat)
  due : List Nat
  retry : List (Nat × DramCmd)
  issued : Nat
  failing : Option Nat
  fails : Nat
  replay : Option Nat
deriving DecidableEq, Repr

/-- The DRAM controllers: subchannels keyed 2 × channel + subchannel, the next access number, training runs by channel (TRAIN_OP),
failed runs at the start rate and that rate's place in R375's list by channel, how far in 1/64 UI each channel's write DQS delay has moved since its baseline (R387), and a failed channel (R386). -/
structure DramSt where
  subs : Table SubDram
  next : Nat
  runs : Table Nat
  fails : Table Nat
  rate : Table Nat
  dqs : Table Nat
  dead : Bool
deriving DecidableEq, Repr

/-- Perturbation beyond its registers (R526, R529): the LFSR of each injection in register order (0 HSDLY to 7 SKEW), and how
many commands or reads the counted injections have acted on. -/
structure PtbSt where
  lfsr : Table Nat
  acted : Table Nat
deriving DecidableEq, Repr


/-! ## Ageing (R502 to R509) -/

/-- An island's ageing state: M0, its latest measurement (canary margins, RO0 and RO1), the point kept in the device records (R507: its VPT
and its clock in 1/16 MHz), equivalent stress hours and the factors of up to 1,024 recent hours in units of 2^-32 (R506, R508), and sums of its diodes' readings
in 0.5 °C since the last record and in this hour, each with their number. -/
structure AgeIsl where
  m0 : Option Nat
  canary : List Nat
  ro0 : Nat
  ro1 : Nat
  point : Option (Nat × Nat)
  eqh : Nat
  recent : List Nat
  tjSum : Int
  tjN : Nat
  hourSum : Int
  hourN : Nat
deriving DecidableEq, Repr

/-- Ageing beyond its registers: power-on hours, cold starts, islands still to measure in the pass and the one in measurement, islands
to measure again 1 s later (R507), a pass that is due (R504), and the ledger's baseline, the records of its ring by their place in it and the place of
the next (R505). -/
structure AgeSt where
  isls : Table AgeIsl
  poh : Nat
  cycles : Nat
  todo : List Nat
  cur : Option Nat
  again : List Nat
  due : Bool
  base : List (List Byte)
  ring : Table (List Byte)
  ringAt : Nat
deriving DecidableEq, Repr


/-! ## The engines of XFM (R282) -/

/-- A block on a decompress engine: the slot, the part and the block's offset in its granule in 512 B; `live`: its command still waits for it. -/
structure DecJob where
  slot : Nat
  part : Nat
  lbaOff : Nat
  live : Bool
deriving DecidableEq, Repr

/-- The busy engines: the slot and piece on each compress engine, and the block on each decompress engine. -/
structure EngSt where
  comp : Table (Nat × Nat)
  decomp : Table DecJob
deriving DecidableEq, Repr

/-! ## The chip -/

/-- Everything but the queue of waiting commands. `regs`: the register store, keyed by `Fld.key`, without the fields at
their reset value. `shadow`: the _HI shadows (R14) by HI offset and requester. `freeCtr`: the model's own counter of free
values. `pins`: the side-band outputs driven asserted, by index (R555), in rising order. `reply`: the words the last read returned;
`out`: what the last command sent outward. -/
structure Chip where
  regs : Table Nat
  shadow : List (Nat × Rq × Nat)
  i3cPtr : Nat
  evr : EvrSt
  isl : IslSt
  img : ImgSt
  q : QueueSt
  zn : ZoneSt
  md : MediaSt
  bp : BpSt
  tw : TwnSt
  kv : KvtSt
  eng : EngSt
  nv : EnvaSt
  tr : TrustSt
  th : ThmSt
  psq : PsqSt
  plp : PlpSt
  st : StartSt
  sd : SdpSt
  dr : DramSt
  pt : PtbSt
  ag : AgeSt
  freeCtr : Nat
  pins : List Nat
  reply : List Nat
  out : List Out
deriving DecidableEq, Repr

/-- The machine: the chip and the commands that wait, first in, first out. -/
structure State where
  chip : Chip
  pending : List Instr
deriving DecidableEq, Repr

/-- Why the block stops with a fault. No command of this model does: the type has one name, never raised. -/
inductive Fault where
  /-- Raised by nothing; safe. -/
  | unreachable
deriving DecidableEq, Repr

/-- Why a command has no effect here. -/
inductive Refusal where
  /-- Raised by an arm of `exec` whose command has no meaning yet; safe. -/
  | notModelled (mnemonic : String)
deriving DecidableEq, Repr

/-! ## Reset -/

/-- No image: the tables before any load, and in recovery. -/
def Image.blank : Image :=
  { kind := 0, version := 0, floor := 0, base := 0, sections := [], writable := [], lanes := [], funcs := [], qalloc := [],
    tenants := [], lat := [], ledger := [], pools := [],
    geo := { geo := [], zones := 0, conv := 0, logBlocks := 64, activeLimit := 0, openLimit := 0, metaBlocks := 0, flushBlocks := 0 },
    flash := { iface := 0, ceCount := 0, luns := 4, planes := 4, rate := 0, spare := 0, pageLog2 := 14, cellBits := 4, userBlocks := 0,
               rsvBlocks := 0, trUs := 0, tprogUs := 0, tbers10us := 0, psuspUs := 0, esuspUs := 0, maxSusp := 0, retrySteps := 0,
               minEyePs := 0, tprogSlcUs := 0, retry := [] },
    islands := [], seq := { groupSize := 0, position := 0, lastState := 0, frontUs := 0, rails := [] },
    therm := { throttle := 0, thermN := 0, trip := 0, hyst := 0, mediaLo := 0, mediaHi := 0, mask := 0 }, arb := [], evr := [],
    twin := { pairId := 0, digest := [], mirrorPool := 0, sublinks := 0, flags := 0 } }

/-- The chip as PORST_n leaves it, with an array as delivered: nothing in ENVA, no record of any start (R472). Every register field is at
its reset value. -/
def Chip.reset : Chip :=
  { regs := [], shadow := [], i3cPtr := 0
    evr := {
      queues := [], spent := [], ring := [], plog := [], plogFull := false, plogNext := 0, held := []
      records := [⟨0x7001, false, 0, 0, 0, 0, true, ⟨0, 0, none⟩, ⟨0, 0, none⟩, 0, []⟩] }
    isl := { dtc := 0, skew := [], offStep := [], stalled := [], units := [], retry := [], flight := none, barQueue := [], marker := 0, snap := [], snapMarker := none }
    img := {
      staging := [], bankA := [], bankB := [], phase := .idle, running := none, tables := Image.blank, old := none, switch := none
      lastEpoch := 0, liveBytes := [] }
    q := { ports := [], fns := [], qctx := [], slots := [], seq := 0, rrFn := [], rrHst := 0, burst := 0, perst := 255 }
    zn := {
      zones := [], ns := [], rows := [], moves := [], regionMoves := [], logBlks := [], store := [], phys := [], poison := []
      spillBlk := [], spillNext := 0, held := [], located := [], pages := [], compact := none, merge := none, deltas := [], deltasOut := 0, metaLeft := 0
      metaNext := 0 }
    md := {
      bus := [], tenants := [], ledger := [], ldgZero := [], dies := [], blocks := [], train := [], disp := [], softQ := [], solves := []
      unitId := 0, rebuildBytes := 0, firstStart := true, gustTold := false, mediaTold := false, mark := none, retry := [] }
    bp := { pools := [], bufs := [], nextBuf := 0, nextReq := 0, arbs := [], retry := [] }
    tw := {
      subs := [], mirror := [], mirData := [], fwds := [], fwdIns := [], fwdNext := 65536, peerUid := 0, peerImg := 0, peerLive := 0
      peerPoolMiB := 0, peerDirtyMiB := 0, peerState := 0, peerSubs := 0, peerFlags := 0, peerDtc := 0, hbSeen := false, hbAge := 8
      heldHb := false, holdWoke := false, suspectAt := 0, suspectWhy := 0, deferring := false, fencing := false, takeover := false, waitClaims := 0
      again := 0, retryClaims := 0, handover := false, rejoin := 0, deltaErrors := 0, handshake := false }
    kv := { slots := [], lanes := [], waiting := [], busErr := none, cache := [], toLoad := [] }
    eng := { comp := [], decomp := [] }
    nv := {
      active := 0xFFFFFFFF, eraseAll := false, alarmed := 0, level := 0, floor := 0, pendErase := [], ecnt := [], spares := []
      units := [], fwA := [], fwB := [], keys := [], owner := [], imgKeys := List.replicate 4 (0, []), dwkGen := 0, svnFloor := 0
      ivReserve := 0, recAt := 0, sanBlocks := false, sanLate := false, queue := [], prefetch := [], branch := [], words := [], op := none, line := none, level2 := false }
    tr := {
      running := [], aliasKey := 0, check := none, mbox := [], nonce := none, debug := 0, debugEnd := 0, spdm := [], pkg := [], pkgLen := 0, sanErase := [] }
    th := { odd := [], tripRuns := 0, bucket := 0, cal := none, few := false, tripDone := false }
    psq := { seq := Image.blank.seq, rails := [], frontAt := 0, flushHold := false }
    plp := {
      intakeFenced := false, first := none, flushing := false, todo := [], flight := [], failed := [], good := [], seq := 0, nextCh := 0
      nextDie := [], startAt := 0, budget := 60, discT := 100
      mirrorCap := none, late := false }
    st := {
      step := 0, warm := false, selfTest := 0, metaOk := true, dramLeft := 0, pendWarm := none, plan := none, restoredId := 0, flushId := 0
      clean := false, roots := [], ckptSeq := 0, erases := [], noReady := false, shutting := false, refused := false }
    sd := { logs := [], seq := 0, bad := [], mem := 0, range := (0, 0) }
    dr := { subs := [], next := 0, runs := [], fails := [], rate := [], dqs := [], dead := false }
    pt := { lfsr := [], acted := [] }
    ag := { isls := [], poh := 0, cycles := 0, todo := [], cur := none, again := [], due := false, base := [], ring := [], ringAt := 0 }
    freeCtr := 0, pins := [50], reply := [], out := [] }

/-- The machine right after reset: PORST_n asserted, no command waiting. -/
def State.reset : State := { chip := Chip.reset, pending := [] }

end Sys2Proof.Machine
end

