-- ==== Sys2Proof/Machine/Ops.lean ====
section
/-! DEFINITION. The named operations every family uses: tables in canonical form, register fields, device time, free
values, outputs, and events (R510 to R523). -/

namespace Sys2Proof.Machine

/-! ## Tables: keys strictly rising, no entry equal to the default -/

/-- The entry of key `k`, or the default. -/
def tget {α : Type} (d : α) : Table α → Nat → α
  | [], _ => d
  | (k', v) :: t, k => if k' = k then v else tget d t k

/-- Remove key `k`. -/
def tdel {α : Type} : Table α → Nat → Table α
  | [], _ => []
  | (k', v) :: t, k => if k' = k then tdel t k else (k', v) :: tdel t k

/-- Put `v` at key `k`, keeping the keys rising. -/
def tput {α : Type} : Table α → Nat → α → Table α
  | [], k, v => [(k, v)]
  | (k', w) :: t, k, v => if k < k' then (k, v) :: (k', w) :: t else if k = k' then (k, v) :: t else (k', w) :: tput t k v

/-- Give key `k` the value `v`; the default is held by having no entry. -/
def tset {α : Type} [DecidableEq α] (d : α) (t : Table α) (k : Nat) (v : α) : Table α := if v = d then tdel t k else tput t k v

/-- The keys rise strictly. -/
def keysRise {α : Type} : Table α → Bool
  | [] => true
  | [_] => true
  | (k, _) :: (k', v) :: t => decide (k < k') && keysRise ((k', v) :: t)

/-- The canonical form of a table with default `d`. -/
def Table.ok {α : Type} [DecidableEq α] (d : α) (t : Table α) : Bool := keysRise t && t.all (fun e => decide (e.2 ≠ d))

/-- The entry of key `k`, if there is one. -/
def tfind {α : Type} : Table α → Nat → Option α
  | [], _ => none
  | (k', v) :: t, k => if k' = k then some v else tfind t k

/-- Insert into a list sorted by `le`, before its equals. -/
def insertBy {α : Type} (le : α → α → Bool) (a : α) : List α → List α
  | [] => [a]
  | b :: t => if le a b then a :: b :: t else b :: insertBy le a t

/-- A list sorted by `le`; equals keep their order. -/
def isort {α : Type} (le : α → α → Bool) : List α → List α
  | [] => []
  | a :: t => insertBy le a (isort le t)

/-! ## Memories: byte cells in canonical form, an unlisted address reads 0 -/

/-- The byte at an address. -/
def memGet (m : List Host.Cell) (a : Nat) : Byte := tget 0 m a

/-- Store one byte. -/
def memSet (m : List Host.Cell) (a : Nat) (b : Byte) : List Host.Cell := tset 0 m a b

/-- The cells of bytes from address `a` upward; a byte 0 has none. -/
def cellsOf (a : Nat) : List Byte → List Host.Cell
  | [] => []
  | b :: bs => if b = 0 then cellsOf (a + 1) bs else (a, b) :: cellsOf (a + 1) bs

/-- Store bytes from address `a` upward. -/
def memSetBytes (m : List Host.Cell) (a : Nat) (bs : List Byte) : List Host.Cell :=
  m.filter (fun c => decide (c.1 < a)) ++ cellsOf a bs ++ m.filter (fun c => decide (a + bs.length ≤ c.1))

/-- `n` bytes from address `a` upward of cells with rising addresses. -/
def memGetBytes (m : List Host.Cell) (a : Nat) : Nat → List Byte
  | 0 => []
  | n + 1 =>
    match m.dropWhile fun c => decide (c.1 < a) with
    | [] => 0 :: memGetBytes [] (a + 1) n
    | c :: t => (if c.1 = a then c.2 else 0) :: memGetBytes (c :: t) (a + 1) n

/-- Forget every byte from address `a` to below `b`: they read 0. -/
def memClear (m : List Host.Cell) (a b : Nat) : List Host.Cell := m.filter (fun c => decide (c.1 < a ∨ b ≤ c.1))

/-- The canonical form of a memory. -/
def memWf (m : List Host.Cell) : Bool := Table.ok (α := Byte) 0 m

/-! ## Register fields -/

/-- The CW offset of element `n` of a field's register. -/
def Fld.off (f : Fld) (n : Nat) : Nat := f.base + n / f.m * f.s1 + n % f.m * f.s2

/-- The key of a field in the register store: 32 × the CW offset plus the lowest bit. -/
def Fld.key (f : Fld) (n : Nat) : Nat := f.off n * 32 + f.lo

/-- The number of values a field's width holds. -/
def Fld.span (f : Fld) : Nat := 2 ^ (f.hi - f.lo + 1)

/-- A field's reset value (R5). -/
def Fld.rst (f : Fld) (n : Nat) : Nat :=
  match f.reset with
  | .const v => v
  | .perIndex vs => vs.getD n 0

/-- The element index a CW offset names in a field's register, if it names one. -/
def Fld.index? (f : Fld) (off : Nat) : Option Nat :=
  if off < f.base then none
  else
    let d := off - f.base
    if f.m ≤ 1 then
      if d % f.s1 = 0 ∧ d / f.s1 < f.count then some (d / f.s1) else none
    else
      let r := d % f.s1
      let n := d / f.s1 * f.m + r / f.s2
      if r % f.s2 = 0 ∧ r / f.s2 < f.m ∧ n < f.count then some n else none

/-- The value of a field. -/
def Chip.f (m : Chip) (f : Fld) (n : Nat := 0) : Nat := tget (f.rst n) m.regs (f.key n)

/-- Give a field a value, cut to its width. -/
def Chip.setF (m : Chip) (f : Fld) (v : Nat) (n : Nat := 0) : Chip :=
  { m with regs := tset (f.rst n) m.regs (f.key n) (v % f.span) }

/-- Raise a counter field by `k`; it stays at its all-ones value (R11). -/
def Chip.addF (m : Chip) (f : Fld) (k : Nat) (n : Nat := 0) : Chip := m.setF f (min (m.f f n + k) (f.span - 1)) n

/-- Raise a counter field by 1 (R11). -/
def Chip.incF (m : Chip) (f : Fld) (n : Nat := 0) : Chip := m.addF f 1 n

/-- Bit `i` of a field. -/
def Chip.fbit (m : Chip) (f : Fld) (i : Nat) (n : Nat := 0) : Bool := bitOf (m.f f n) i

/-- Set or clear bit `i` of a field. -/
def Chip.setBit (m : Chip) (f : Fld) (i : Nat) (v : Bool) (n : Nat := 0) : Chip :=
  let x := m.f f n
  m.setF f (if v then x ||| (1 <<< i) else if bitOf x i then x - 2 ^ i else x) n

/-- Every register field from CW offset `a` to below `b` returns to its reset value. -/
def Chip.resetRegs (m : Chip) (a b : Nat) : Chip :=
  { m with regs := m.regs.filter (fun e => decide (e.1 < a * 32 ∨ b * 32 ≤ e.1)) }

/-! ## Time, free values, outputs -/

/-- The low 32 bits of the DTC, the unit of deadlines (R46). -/
def Chip.now (m : Chip) : Nat := m.isl.dtc % 2 ^ 32

/-- A fresh free value of `w` bits (log entry 1). -/
def Chip.draw (m : Chip) (w : Nat) : Nat × Chip :=
  (Config.freeValue m.freeCtr % 2 ^ w, { m with freeCtr := m.freeCtr + 1 })

/-- `n` free bytes (log entry 1). -/
def Chip.drawBytes (m : Chip) : Nat → List Byte × Chip
  | 0 => ([], m)
  | n + 1 => let (b, m1) := m.draw 8; let (bs, m2) := m1.drawBytes n; (BitVec.ofNat 8 b :: bs, m2)

/-- Send something outward. -/
def Chip.send (m : Chip) (o : Out) : Chip := { m with out := m.out ++ [o] }

/-- Deadline `a` is earlier than deadline `b` (R46). -/
def earlier (a b : Nat) : Bool := let d := (b + 2 ^ 32 - a % 2 ^ 32) % 2 ^ 32; decide (1 ≤ d ∧ d ≤ 2 ^ 31 - 1)

/-- The slack of a deadline at a time: 0 once expired (R46). -/
def slackAt (now deadline : Nat) : Nat :=
  let d := (deadline + 2 ^ 32 - now % 2 ^ 32) % 2 ^ 32
  if d < 2 ^ 31 then d else 0

/-- DTC ticks of a number of µs: 62.5 ticks each, rounded up. -/
def usTicks (us : Nat) : Nat := ceilDiv (us * 125) 2

/-! ## Islands -/

/-- An island's state code (ISL_STAT.STATE, R42). -/
def Chip.islState (m : Chip) (i : Nat) : Nat := m.f ISL_STAT.STATE i

/-- The island serves: ON or DRAINING (R37, R40). -/
def Chip.islServes (m : Chip) (i : Nat) : Bool := let s := m.islState i; decide (s = 2 ∨ s = 3)

/-- The island a CW offset's block lies in (R533). -/
def cwIsland (off : Nat) : Nat :=
  let b := off / 0x10000
  if b = 0x2 then 1
  else if b = 0x3 then (if off < 0x38000 then 2 + (off - 0x30000) / 0x1000 else 10)
  else if 0x4 ≤ b ∧ b ≤ 0xB then 10
  else if 0x10 ≤ b ∧ b ≤ 0x15 then 12 + (off - 0x100000) / 0x8000
  else if b = 0x16 then 10
  else if b = 0x17 then 11
  else if b = 0x18 ∨ b = 0x19 then 26
  else if b = 0x1B then 1
  else if b = 0x1D then 11
  else if b = 0x1E then (if off < 0x1E4000 then 24 else 25)
  else if b = 0x20 ∧ 0x201000 ≤ off then 27
  else 0

/-! ## Events -/

/-- The fault group of a fault code (R512, R522); none for a code that is no fault. -/
def faultGroup (code : Nat) : Option Nat :=
  if code = 0x5001 then some 0
  else if code = 0x6008 then some 1
  else if code ∈ [0x403D, 0x6101, 0x6102, 0x6106, 0x6202, 0x6B04] then some 2
  else if code ∈ [0x6406, 0x6601, 0x6603, 0x6604, 0x6605, 0x6704, 0x6802, 0x6804, 0x6805] then some 3
  else if code ∈ [0x6302, 0x6304, 0x6502, 0x6504, 0x6509] then some 4
  else if code ∈ [0x6903, 0x6905, 0x6907, 0x6908, 0x6909, 0x690A] then some 5
  else if code ∈ [0x6A01, 0x6A02, 0x6A07] then some 6
  else if code = 0x6A06 then some 7
  else if code ∈ [0x6D03, 0x6D05] then some 8
  else if code = 0x6E04 then some 9
  else if code ∈ [0x3001, 0x3002, 0x3003, 0x3004, 0x3005] then some 10
  else if code ∈ [0x2002, 0x2003] then some 11
  else if code = 0x6B03 then some 12
  else none

/-- The group a code's fault belongs to, with 0x6001 in group 1 (R512, R522). -/
def groupOf (code : Nat) : Nat := if code = 0x6001 then 1 else (faultGroup code).getD 0

/-- The side-band line of a fault event (R513, R523): the group's pending bit, its count, and the first-fault log. -/
def Chip.faultLine (m : Chip) (code : Nat) : Chip :=
  let g := groupOf code
  let m := (m.setBit FLT_PEND.GROUP g true).incF FLT_GCNT.COUNT g
  if m.f FLT_FIRST.VALID = 1 then m
  else (((m.setF FLT_FIRST.VALID 1).setF FLT_FIRST.GROUP g).setF FLT_FIRST.CODE code).setF FLT_FIRSTDTC.DTC m.now

/-- Put an event in the porter queue of the island that raises it: 32 events at most, the next is lost and counted
(R513). -/
def Chip.enqueueEv (m : Chip) (isl : Nat) (e : Ev) : Chip :=
  let q := tget [] m.evr.queues isl
  if q.length < 32 then { m with evr := { m.evr with queues := tset [] m.evr.queues isl (q ++ [e]) } }
  else m.incF EVR_LOST.COUNT

/-- Raise an event at an island, as a fault or not (R511 to R513). -/
def Chip.emitAs (m : Chip) (fault : Bool) (isl code value : Nat) (tag : Option Nat) : Chip :=
  let first := fault && !m.fbit FLT_PEND.GROUP (groupOf code)
  let m := if fault then m.faultLine code else m
  m.enqueueEv isl { code := code, value := value % 2 ^ 64, tag := tag, dtc := m.isl.dtc, fault := fault, first := first }

/-- Raise an event; it is a fault when its code is a fault code (R512). -/
def Chip.emit (m : Chip) (isl code : Nat) (value : Nat := 0) (tag : Option Nat := none) : Chip :=
  m.emitAs (faultGroup code).isSome isl code value tag

/-- A configuration-class event: 0x1001 with the CW offset as its value (R12, R510). -/
def Chip.cfgEvent (m : Chip) (off : Nat) : Chip := m.emit (cwIsland off) 0x1001 off

/-- FAULT_n is asserted: a group pending and unmasked, or a forced source (R523). -/
def Chip.faultN (m : Chip) : Bool :=
  decide ((m.f FLT_PEND.GROUP &&& (0xFFFF ^^^ m.f FLT_MASK.GROUP)) ≠ 0) || decide (m.f FLT_STAT.FORCE ≠ 0)

/-- The index of each side-band output that is asserted (R555): EN_RAIL0–15 (R442), SEQ_OUT, SEQ_SYNC pulled low and SEQ_FLT_n
(R445, R447), CLAIM_n0–11 (R430), TWIN_FENCE_n (R434), FAULT_n (R523), THERM_n (R497) and TRIP_n (R498). -/
def Chip.pinLevels (m : Chip) : List Nat :=
  let pin (k : Nat) (v : Bool) : List Nat := if v then [k] else []
  setBits 16 (m.f PSQ_RAILS.EN) ++ pin 49 (decide (m.f PSQ_STAT.SEQOUT = 1)) ++ pin 50 (decide (m.f PSQ_STAT.SYNC_PULL = 1)) ++
  pin 51 (decide (m.f PSQ_STAT.FLT_OUT = 1)) ++ (setBits 12 (m.f TWN_LINES.CLAIM)).map (· + 52) ++
  pin 87 (decide (m.f TWN_LINES.FENCE_OUT = 1)) ++ pin 90 m.faultN ++ pin 91 (decide (m.f THM_STAT.THERM_OUT = 1)) ++
  pin 92 (decide (m.f THM_STAT.TRIP = 1))

/-- The side-band outputs take their levels; each one that changes is sent outward. -/
def Chip.drivePins (m : Chip) : Chip :=
  let now := m.pinLevels
  let off := m.pins.filter fun k => !now.contains k
  let on := now.filter fun k => !m.pins.contains k
  { m with pins := now, out := m.out ++ off.map (Out.pin · false) ++ on.map (Out.pin · true) }

/-! ## Meanings -/

/-- Return a word to the requester. -/
def Chip.giveWord (m : Chip) (w : Nat) : Chip := { m with reply := m.reply ++ [w] }

/-- The chip a meaning starts from: outputs and reply are those of the command alone. -/
def Chip.fresh (m : Chip) : Chip := { m with out := [], reply := [] }

/-- A flit of up to 240 bytes of frames, the first frame that starts in it at `first` (R406). -/
def flitOf (first : Nat) (bs : List Byte) : List Byte :=
  let b := leBytes 2 first ++ fit 240 bs
  let c := b ++ leBytes 8 (crc64 b)
  c ++ fit 6 (Config.flitFec c)

/-- Frames back to back in flits (R406), zeros behind the last. -/
def packFlits (fs : List (List Byte)) : List (List Byte) :=
  let starts := (fs.foldl (fun (a : List Nat × Nat) f => (a.1 ++ [a.2], a.2 + f.length)) ([], 0)).1
  let bs := fs.flatMap id
  (List.range (ceilDiv bs.length 240)).map fun k =>
    flitOf (((starts.find? fun o => decide (240 * k ≤ o ∧ o < 240 * (k + 1))).map (· - 240 * k)).getD 0xFFFF) (slice bs (240 * k) 240)

/-- The frames of a command leave each sub-link in its stream of flits; the stream's flits without a frame are not listed (log entry 184). -/
def Chip.sendFlits (m : Chip) : Chip :=
  let on (s : Nat) : List (List Byte) := m.out.filterMap fun o =>
    match o with
    | .frame t _ b => if t = s then some b else none
    | _ => none
  { m with out := m.out ++ (packFlits (on 0)).map (Out.flit 0) ++ (packFlits (on 1)).map (Out.flit 1) }

/-- What every meaning is: a change of the chip, after which frames leave in flits and the side-band outputs follow the registers; the queue is
untouched. -/
def run (s : State) (f : Chip → Chip) : Host.Outcome State Fault Refusal :=
  .next { s with chip := (f s.chip.fresh).sendFlits.drivePins }

end Sys2Proof.Machine
end

