-- ==== Sys2Proof/Machine/Operands.lean ====
section
/-! DEFINITION. The operand forms: fields of a submission queue entry, of the running tables (functions, ports, tenants,
namespaces), of a flow tag (R47 to R51), and the places a zone offset maps to (R156, R157, R218). -/

namespace Sys2Proof.Machine

/-! ## Submission queue entries -/

/-- Dword `i` of a 64-byte entry. -/
def dw (e : List Byte) (i : Nat) : Nat := fieldAt e (4 * i) 4
def opcodeOf (e : List Byte) : Nat := bits (dw e 0) 7 0
def fuseOf (e : List Byte) : Nat := bits (dw e 0) 9 8
def psdtOf (e : List Byte) : Nat := bits (dw e 0) 15 14
def cidOf (e : List Byte) : Nat := bits (dw e 0) 31 16
def nsidOf (e : List Byte) : Nat := dw e 1
def prp1Of (e : List Byte) : Nat := fieldAt e 24 8
def prp2Of (e : List Byte) : Nat := fieldAt e 32 8
def slbaOf (e : List Byte) : Nat := fieldAt e 40 8
/-- The number of logical blocks of a Read, Write, Write Zeroes or Zone Append. -/
def nlbOf (e : List Byte) : Nat := bits (dw e 12) 15 0 + 1

/-- Where dword 13 carries LCX and PHINT for an opcode (R124): the lowest bit of LCX and of PHINT. -/
def avfortBits (op : Nat) : Option (Nat × Nat) :=
  if op = 0x01 ∨ op = 0x02 ∨ op = 0x7D then some (8, 12)
  else if op = 0x79 ∨ op = 0x7A then some (24, 28)
  else none

def lcxOf (e : List Byte) : Nat :=
  match avfortBits (opcodeOf e) with
  | some (l, _) => bits (dw e 13) (l + 3) l
  | none => 0

def phintOf (e : List Byte) : Nat :=
  match avfortBits (opcodeOf e) with
  | some (_, h) => bits (dw e 13) (h + 2) h
  | none => 0

/-- The latency class of a command (R124, R125). -/
def classOf (admin : Bool) (e : List Byte) : Nat :=
  if admin then 5
  else if lcxOf e ≠ 0 then lcxOf e - 1
  else
    let op := opcodeOf e
    if op = 0x02 then 1 else if op = 0x79 ∨ op = 0x7A then 5 else if op = 0x09 then 6 else 3

/-! ## Running tables -/

/-- The epoch CMD stamps now, and its tables (R76). -/
def Chip.stampEpoch (m : Chip) : Nat × Image :=
  match m.img.switch with
  | some sw => if sw.stamping then (sw.epoch, sw.tables) else (m.f GEN_EPOCH.CURRENT, m.img.tables)
  | none => (m.f GEN_EPOCH.CURRENT, m.img.tables)

/-- The tables of an epoch still held (R53). -/
def Chip.tablesOf (m : Chip) (epoch : Nat) : Image :=
  if epoch = m.f GEN_EPOCH.CURRENT then m.img.tables
  else
    match m.img.switch with
    | some sw => if epoch = sw.epoch then sw.tables else m.img.old.getD m.img.tables
    | none => m.img.old.getD m.img.tables

def Image.func? (i : Image) (f : Nat) : Option FuncRec := i.funcs.find? (·.func = f)
def Image.tenant? (i : Image) (t : Nat) : Option TenantRec := i.tenants.find? (·.tenant = t)
def Image.ledger? (i : Image) (t : Nat) : Option LedgerRec := i.ledger.find? (·.tenant = t)
def Image.share (i : Image) (t : Nat) : Nat := ((i.ledger? t).map (·.share)).getD 0
def Image.recon (i : Image) (t : Nat) : Nat := ((i.ledger? t).map (·.recon)).getD 0
/-- The depth and refill time (µs) of a code's token bucket (R518). -/
def Image.bucket (i : Image) (code : Nat) : Nat × Nat :=
  match i.evr.find? (·.code = code) with
  | some r => (r.depth, r.refill)
  | none => if code = 0x6001 ∨ (faultGroup code).isSome then (8, 10000) else (4, 65535)
def Image.lat? (i : Image) (t : Nat) : Option LatRec := i.lat.find? (·.table = t)

/-- A deadline length of a latency table in ticks (R179). -/
def Image.deadlineLen (i : Image) (table cls : Nat) : Nat := ((i.lat? table).map (·.deadlines.getD cls 0)).getD 0

/-- The latency table of a tenant. -/
def Image.latTable (i : Image) (t : Nat) : Nat := ((i.tenant? t).map (·.lattable)).getD 0

/-- The port slot of a host LANE record (R82). -/
def LaneRec.slot (l : LaneRec) : Nat := 4 * (l.first / 16) + l.first % 16 / 4

/-- The port slot of a function. -/
def Image.portSlot (i : Image) (f : Nat) : Option Nat :=
  (i.func? f).bind fun r => (i.lanes.find? fun l => l.kind = 0 ∧ l.index = r.port).map (·.slot)

/-- The functions on a port slot. -/
def Image.fnsOnSlot (i : Image) (q : Nat) : List Nat :=
  (i.funcs.filter fun r => i.portSlot r.func = some q).map (·.func)

/-- The virtual functions of a physical function, ascending (R86). -/
def Image.vfsOf (i : Image) (pf : Nat) : List Nat :=
  isort (fun a b => decide (a ≤ b)) ((i.funcs.filter fun r => r.type = 1 ∧ r.parent = pf).map (·.func))

/-- The routing function number of a function on its link (R86): 0 for the physical one, then 1, 2, 3 and onward. -/
def Image.routing (i : Image) (f : Nat) : Nat :=
  match i.func? f with
  | some r => if r.type = 0 then 0 else (i.vfsOf r.parent).findIdx (· = f) + 1
  | none => 0

/-- The queue allocation of a function. -/
def Image.qalloc? (i : Image) (f : Nat) : Option QRec := i.qalloc.find? (·.func = f)

/-- The number of I/O queue pairs of a function. -/
def Image.qcount (i : Image) (f : Nat) : Nat := ((i.qalloc? f).map (·.count)).getD 0

/-- The context index of queue `y` of function `f` (R105, R106). -/
def Image.qctxOf (i : Image) (f y : Nat) : Option Nat :=
  if y = 0 then some (262144 + f)
  else (i.qalloc? f).bind fun r => if y ≤ r.count then some (r.first + y - 1) else none

/-- The port slot of a function in the running tables; 0 when it has none. -/
def Chip.slotOf (m : Chip) (f : Nat) : Nat := (m.img.tables.portSlot f).getD 0

/-- The side of this controller, 0 A or 1 B. -/
def Chip.side (m : Chip) : Nat := m.f GEN_SIDE.SIDE

/-- The home side of an ANA group (R103). -/
def anaHome (g : Nat) : Nat := if g ≤ 64 then 0 else 1

/-- The controller identifier of a function on this controller (R559). -/
def Chip.cntlid (m : Chip) (f : Nat) : Nat := 8192 * m.side + f

/-- A namespace by identifier. -/
def Chip.ns? (m : Chip) (nsid : Nat) : Option Ns := m.zn.ns.find? (·.nsid = nsid)

/-- The LBAs of one zone of a namespace (R145). -/
def Ns.zoneLbas (n : Ns) : Nat := 2 ^ ((if n.elastic then 33 else 32) - n.lbaLog)

/-- The zones a range of blocks covers with the byte range in each: (zone, byte offset, length). -/
def Ns.ranges (n : Ns) (lba nlb : Nat) : List (Nat × Nat × Nat) :=
  let span := n.zoneLbas
  (List.range ((lba + nlb - 1) / span + 1 - lba / span)).filterMap fun k =>
    let i := lba / span + k
    let a := max lba (i * span)
    let e := min (lba + nlb) ((i + 1) * span)
    (n.zones[i]?).map fun z => (z, (a - i * span) * 2 ^ n.lbaLog, (e - a) * 2 ^ n.lbaLog)

/-- The bytes a command's range of blocks has in a zone: offset and length. -/
def Chip.rangeIn (m : Chip) (c : Cmd) (z : Nat) : Option (Nat × Nat) :=
  (m.ns? (nsidOf c.entry)).bind fun n => ((n.ranges (slbaOf c.entry) c.nlb).find? fun r => decide (r.1 = z)).map (·.2)

/-- The field of an ANA group's state. -/
def anaField (g : Nat) : Fld :=
  match (g - 1) % 8 with
  | 0 => HPT_ANA.STATE0 | 1 => HPT_ANA.STATE1 | 2 => HPT_ANA.STATE2 | 3 => HPT_ANA.STATE3
  | 4 => HPT_ANA.STATE4 | 5 => HPT_ANA.STATE5 | 6 => HPT_ANA.STATE6 | _ => HPT_ANA.STATE7

/-- The state of an ANA group on this controller (R103). -/
def Chip.ana (m : Chip) (g : Nat) : Nat := m.f (anaField g) ((g - 1) / 8)

/-! ## Flow tags (R47 to R51) -/

def tagKind (t : Nat) : Nat := bits t 35 32
def tagSlot (t : Nat) : Nat := bits t 108 93
def tagFn (t : Nat) : Nat := bits t 74 62
def tagTenant (t : Nat) : Nat := bits t 61 50
def tagZone (t : Nat) : Nat := bits t 126 109
def tagKey (t : Nat) : Nat := bits t 140 127
def tagEpoch (t : Nat) : Nat := bits t 42 39
def tagLevel (t : Nat) : Nat := bits t 49 46
def tagHint (t : Nat) : Nat := bits t 45 43
def tagInternal (t : Nat) : Bool := bitOf t 144
def tagNoZone (t : Nat) : Bool := bitOf t 145
def tagFromTwin (t : Nat) : Bool := bitOf t 150
/-- The command slot a tag names: none for a MARKER, whose slot field is its marker number, and for device-originated work (R47). -/
def tagCommand (t : Nat) : Option Nat := if tagKind t = 0xA ∨ tagInternal t then none else some (tagSlot t)

/-- A tag passes (R51): its check matches and it holds no reserved kind, function, key slot, level or hint. -/
def tagPasses (t : Nat) : Bool :=
  decide (bits t 191 176 = tagCheck t) &&
  decide (tagKind t ≠ 0 ∧ tagKind t < 14) &&
  decide (tagFn t < 4128 ∨ tagFn t = 0x1FFF) &&
  decide (tagKey t < 8448 ∨ tagKey t = 0x3FFF) &&
  decide (tagLevel t ≤ 9) && decide (tagHint t ≤ 4)

/-- A tag with its check recomputed (R50). -/
def tagSeal (t : Nat) : Nat := t % 2 ^ 176 + tagCheck t * 2 ^ 176

/-- A tag with another epoch, its check recomputed (R80). -/
def tagRestamp (t epoch : Nat) : Nat := tagSeal (t - 2 ^ 39 * (bits t 42 39) + 2 ^ 39 * (epoch % 16))

/-- A tag of its fields, and of the numbers of the flag bits that are set (R47, R49). -/
def tagMake (kind cls epoch hint level tenant fn queue slot zone key deadline : Nat) (flags : List Nat) : Nat :=
  tagSeal (deadline % 2 ^ 32 + kind * 2 ^ 32 + cls * 2 ^ 36 + epoch * 2 ^ 39 + hint * 2 ^ 43 + level * 2 ^ 46 + tenant * 2 ^ 50 + fn * 2 ^ 62 +
    queue * 2 ^ 75 + slot * 2 ^ 93 + zone * 2 ^ 109 + key * 2 ^ 127 + (flags.eraseDups.map (2 ^ ·)).sum)

/-- The kind of a command's units (R48). -/
def Cmd.kind (c : Cmd) : Nat :=
  let op := opcodeOf c.entry
  if c.admin then 0xC else if op = 0x02 then 1 else if op = 0x7D then 3 else 2

/-- The tag of a unit of a command in a slot, of a kind and with the flags of that unit beside those of its command (R47 to R49). -/
def Chip.cmdUnitTag (m : Chip) (slot : Nat) (c : Cmd) (kind : Nat) (more : List Nat) : Nat :=
  let op := opcodeOf c.entry
  let ns := m.ns? (nsidOf c.entry)
  let key := if c.admin then 0x3FFF else (ns.map (·.keySlot)).getD 0x3FFF
  let writes := !c.admin && decide (op = 0x01 ∨ op = 0x08 ∨ op = 0x7D)
  let on (b : Bool) (bit : Nat) : List Nat := if b then [bit] else []
  tagMake kind c.cls c.epoch c.hint c.level c.tenant c.fn (if c.admin then 0 else c.q) slot (c.zone.getD 0) key c.deadline
    (on c.admin 143 ++ on c.zone.isNone 145 ++ on ((ns.map (·.elastic)).getD false && c.zone.isSome) 146 ++
      on (writes && bitOf (dw c.entry 12) 30) 147 ++
      on (writes && decide (c.nlb * 2 ^ ((ns.map (·.lbaLog)).getD 12) ≤ 1048576)) 148 ++
      on (writes && decide (m.f GEN_SIDE.SOLO = 0)) 149 ++ on c.peer.isSome 150 ++
      on (((m.tablesOf c.epoch).tenant? c.tenant).map (fun t => bitOf t.flags 1) |>.getD false) 151 ++ on c.abortMiss 152 ++ on c.gust 153 ++
      on c.perturb 159 ++ more)

/-- The tag of a command in a slot. -/
def Chip.cmdTag (m : Chip) (slot : Nat) (c : Cmd) : Nat := m.cmdUnitTag slot c c.kind []

/-- The tag of a device-originated unit: function 0x1FFF and flag INTERNAL, no cipher (R47 to R49). -/
def deviceTag (kind cls epoch tenant slot : Nat) (zone : Option Nat) (deadline : Nat) (more : List Nat) : Nat :=
  tagMake kind cls epoch 0 0 tenant 0x1FFF 0 slot (zone.getD 0) 0x3FFF deadline ([144] ++ (if zone.isNone then [145] else []) ++ more)

/-- The tag of a barrier's MARKER, its marker number in the slot field (R47, R48). -/
def markerTag (marker epoch now : Nat) : Nat := deviceTag 0xA 0 epoch 0 marker none now []

/-! ## From a zone offset to a die (R156, R157, R218) -/

def rowOf (b : Nat) : Nat := b / 4194304
def columnOf (b : Nat) : Nat := b % 4194304 / 262144
/-- The member that holds data column `c` of row `r`. -/
def memberOf (r c : Nat) : Nat := (r + 2 + c) % 18
def parityP (r : Nat) : Nat := r % 18
def parityQ (r : Nat) : Nat := (r + 1) % 18
def pageOf (b : Nat) : Nat := b % 262144 / 16384

/-- Channel, cluster and side of a die. -/
def dieChannel (d : Nat) : Nat := d / 32
def dieCluster (d : Nat) : Nat := d / 256
def dieSide (d : Nat) : Nat := if d < 1536 then 0 else 1
def dieCe (d : Nat) : Nat := d % 32 / 4

/-- The ONFI row address of page `k` of row `r` in block `b` of die `d` (R218). -/
def onfiRow (d b r k : Nat) : Nat := 2 ^ 27 * (d % 4) + (b * 4 + k % 4) * 2 ^ 12 + (r * 4 + k / 4)

/-- Block number and die of a stripe member. -/
def Zone.member (z : Zone) (i : Nat) : Member := z.members.getD i ⟨false, false, 0, 0⟩

/-- This controller holds a cluster's claim (TWN_LINES.CLAIM and its SEEN), so it may drive its channels (R23). -/
def Chip.claims (m : Chip) (cluster : Nat) : Bool := m.fbit TWN_LINES.CLAIM cluster && m.fbit TWN_LINES.SEEN cluster

/-- The die is on a channel this controller drives. -/
def Chip.drives (m : Chip) (d : Nat) : Bool := m.claims (dieCluster d)

end Sys2Proof.Machine
end

