-- ==== Sys2Proof/Machine/Flags.lean ====
section
/-! DEFINITION. The status values and the flag computations of the device: NVMe status codes, the zone states, the order of
units (R181), the pool and ledger formulas that other rules read. -/

namespace Sys2Proof.Machine

/-! ## NVMe statuses the rules name -/

def stOk : Status := ⟨0, 0, false⟩
def stInternal : Status := ⟨0, 0x06, false⟩
def stInvalidOpcode : Status := ⟨0, 0x01, true⟩
def stInvalidField : Status := ⟨0, 0x02, true⟩
def stCidConflict : Status := ⟨0, 0x03, true⟩
def stDataTransfer : Status := ⟨0, 0x04, false⟩
def stAborted : Status := ⟨0, 0x07, Config.dnrOf 0 0x07⟩
def stSqDeleted : Status := ⟨0, 0x08, Config.dnrOf 0 0x08⟩
def stInvalidNs : Status := ⟨0, 0x0B, true⟩
def stSanitize : Status := ⟨0, 0x1D, Config.dnrOf 0 0x1D⟩
def stInterrupted : Status := ⟨0, 0x21, false⟩
def stLbaRange : Status := ⟨0, 0x80, true⟩
def stCapacity : Status := ⟨0, 0x81, false⟩
def stNsNotReady : Status := ⟨0, 0x82, false⟩
def stUnrecovered : Status := ⟨2, 0x81, Config.dnrOf 2 0x81⟩
/-- Invalid Field for an action of an I/O command that no rule gives, or that R145 refuses. -/
def stNoAction : Status := ⟨0, 0x02, Config.dnrOf 0 0x02⟩
def stDeadline : Status := ⟨7, 0xC0, false⟩
def stCqInvalid : Status := ⟨1, 0x00, true⟩
def stQidInvalid : Status := ⟨1, 0x01, true⟩
def stQDeletion : Status := ⟨1, 0x0C, true⟩
def stNsCapacity : Status := ⟨1, 0x15, true⟩
def stCtrlList : Status := ⟨1, 0x1C, true⟩

/-- The status as an admin command carries it: R108 gives DNR 1 to the errors whose rule states no DNR. -/
def Status.forAdmin (admin : Bool) (v : Status) : Status :=
  if admin && decide (v.sct = 0 ∧ (v.sc = 0x07 ∨ v.sc = 0x1D)) then { v with dnr := true } else v

/-- The Path Related status of an ANA state (R104). -/
def anaStatus (a : Nat) : Option Status :=
  if a = 0xF then some ⟨3, 0x03, false⟩
  else if a = 3 then some ⟨3, 0x02, false⟩
  else if a = 4 then some ⟨3, 0x01, false⟩
  else none

/-! ## Zone states (R174) -/

def zse : Nat := 0x1
def zsio : Nat := 0x2
def zseo : Nat := 0x3
def zsc : Nat := 0x4
def zsro : Nat := 0xD
def zsf : Nat := 0xE
def zso : Nat := 0xF
/-- Open zones (R150). -/
def zoneOpen (st : Nat) : Bool := decide (st = zsio ∨ st = zseo)
/-- Active zones (R150). -/
def zoneActive (st : Nat) : Bool := decide (st = zsio ∨ st = zseo ∨ st = zsc)

/-! ## The order of units (R181, R184) -/

/-- Reads before programs, programs before erases. -/
def UKind.rank : UKind → Nat
  | .read => 0
  | .program => 1
  | .erase => 2

/-- Unit `a` goes before unit `b`: earlier deadline, then lower class, then kind, then earlier creation, a host unit first
(R46, R181). -/
def DUnit.before (a b : DUnit) : Bool :=
  if earlier a.deadline b.deadline then true
  else if earlier b.deadline a.deadline then false
  else if a.cls ≠ b.cls then decide (a.cls < b.cls)
  else if a.kind.rank ≠ b.kind.rank then decide (a.kind.rank < b.kind.rank)
  else if a.created ≠ b.created then decide (a.created < b.created)
  else if a.internal ≠ b.internal then b.internal
  else decide (a.id < b.id)

/-- Insert a unit into a list kept in the order of R181. -/
def insertUnit (u : DUnit) : List DUnit → List DUnit
  | [] => [u]
  | v :: t => if u.before v then u :: v :: t else v :: insertUnit u t

/-- The first unit of a list in the order of R181. -/
def firstUnit : List DUnit → Option DUnit
  | [] => none
  | u :: t => match firstUnit t with
    | some v => if u.before v then some u else some v
    | none => some u

/-! ## The die-time ledger (R190) -/

/-- The depth of a credit. -/
def ldgDepth (share windowMs : Nat) : Int := ((62500 * (share * windowMs) / 1024 : Nat) : Int)

/-- A credit brought up to date. -/
def ldgGain (share windowMs now : Nat) (c : Credit) : Credit :=
  let dt := (now + 2 ^ 32 - c.last) % 2 ^ 32
  ⟨min (ldgDepth share windowMs) (c.credit + ((dt * share / 1024 : Nat) : Int)), now⟩

/-- A credit after a charge of `t` ticks: never below minus the depth. -/
def ldgCharge (share windowMs : Nat) (c : Credit) (t : Int) : Credit :=
  ⟨max (-(ldgDepth share windowMs)) (c.credit - t), c.last⟩

/-! ## Perturbation (R368, R525 to R529) -/

/-- A 32-bit LFSR shifted left once: new bit 0 = b31 ⊕ b21 ⊕ b1 ⊕ b0. -/
def lfsrNext (x : Nat) : Nat :=
  (x * 2 + (b1 (bitOf x 31) + b1 (bitOf x 21) + b1 (bitOf x 1) + b1 (bitOf x 0)) % 2) % 2 ^ 32

/-- An injection is enabled and armed. -/
def Chip.ptbOn (m : Chip) (en : Fld) : Bool := decide (m.f PTB_CTL.ARMED = 1 ∧ m.f en = 1)

/-- A unit's tenant passes PTB_SCOPE; a unit without a tenant passes only an open scope. -/
def Chip.ptbScoped (m : Chip) (tenant : Option Nat) : Bool :=
  decide (m.f PTB_SCOPE.FILTER = 0 ∨ tenant = some (m.f PTB_SCOPE.TENANT))

/-- One decision of injection `i`: its LFSR shifts, and it injects when its low `rate` bits are 0. -/
def Chip.ptbDraw (m : Chip) (i rate : Nat) : Bool × Chip :=
  let x := lfsrNext (tget 0 m.pt.lfsr i)
  (decide (x % 2 ^ rate = 0), { m with pt := { m.pt with lfsr := tset 0 m.pt.lfsr i x } })

/-- Injection `i` of `limit` has acted once more; EN clears when it has acted as often as asked. -/
def Chip.ptbActed (m : Chip) (i limit : Nat) (en : Fld) : Chip :=
  let k := tget 0 m.pt.acted i + 1
  let m := ({ m with pt := { m.pt with acted := tset 0 m.pt.acted i k } } : Chip).incF PTB_CNT.COUNT
  if limit ≤ k then m.setF en 0 else m

/-- An island's DTC replica: its low 32 bits (R43). -/
def Chip.replica (m : Chip) (isl : Nat) : Nat := ((m.now : Int) + tget 0 m.isl.skew isl + 2 ^ 32).toNat % 2 ^ 32

/-- "Now" for slack and miss decisions of an island about a tenant's unit: the island's replica, with PTB_SKEW (R43, R529). -/
def Chip.nowAt (m : Chip) (isl : Nat) (tenant : Option Nat) : Nat :=
  if m.ptbOn PTB_SKEW.EN && decide (m.f PTB_SKEW.ISLAND = isl) && m.ptbScoped tenant then
    ((m.replica isl : Int) + toSigned 16 (m.f PTB_SKEW.OFFSET) + 2 ^ 32).toNat % 2 ^ 32
  else m.replica isl

/-- The forced barometer level of a pool, if PTB_BARO holds one. -/
def Chip.ptbBaro (m : Chip) (p : Nat) : Option Nat :=
  if m.ptbOn PTB_BARO.EN && decide (m.f PTB_BARO.POOL = p) then some (m.f PTB_BARO.LEVEL) else none

end Sys2Proof.Machine
end

