-- ==== Sys2Proof/Machine/Pools.lean ====
section
/-! DEFINITION. Buffer pools (R349 to R366): which pool a requester draws from, free space in cells or size classes, grants in
SERVICE and RESERVE, shared owners, and the barometer. -/

namespace Sys2Proof.Machine

/-! ## Requesters and pools (R349 to R351) -/

/-- The memory (0 SRAM, 1 DRAM) and rank a requester draws from; none for a requester without a pool, and for MIRRX. -/
def rqPlace (r : Nat) : Option (Nat × Nat) :=
  if r ≤ 7 ∨ r = 32 ∨ r = 33 then some (0, 2)
  else if 8 ≤ r ∧ r ≤ 19 then some (0, 4)
  else if r = 34 ∨ r = 37 then some (0, 6)
  else if r = 35 ∨ r = 40 then some (1, 10)
  else if r = 38 then some (1, 14)
  else if r = 42 then some (0, 8)
  else none

/-- A requester has a pool at all. -/
def rqHasPool (r : Nat) : Bool := decide (r = 36) || (rqPlace r).isSome

/-- The requesters that have a pool. -/
def rqList : List Nat := (List.range 51).filter rqHasPool

def PoolRec.mirror (p : PoolRec) : Bool := bitOf p.flags 0

/-- The pool of a requester in an image (R349, R358). -/
def Image.poolOf (i : Image) (r : Nat) : Option PoolRec :=
  if r = 36 then i.pools.find? PoolRec.mirror
  else (rqPlace r).bind fun (mem, rank) => i.pools.find? fun p => !p.mirror && decide (p.mem = mem ∧ p.rank = rank)

/-- The pool record of a pool number in the running image. -/
def Chip.poolRec (m : Chip) (p : Nat) : Option PoolRec := m.img.tables.pools.find? (·.pool = p)

/-- The key of row `r` of zone `z` in the row tables. -/
def rowKey (z r : Nat) : Nat := z * 1024 + r

def PoolSt.blank : PoolSt := { chain := false, free := [], cells := 0, cap := 0, used := 0, wait := [] }
def Chip.pool (m : Chip) (p : Nat) : PoolSt := tget PoolSt.blank m.bp.pools p
def Chip.setPool (m : Chip) (p : Nat) (v : PoolSt) : Chip :=
  { m with bp := { m.bp with pools := tset PoolSt.blank m.bp.pools p v } }

/-! ## Free space (R350, R352, R353). Places are in 4 KiB units; class `c` has 4^c of them. -/

/-- The largest class an aligned free area at `x` below `hi` can take. -/
def fitClass (x hi : Nat) : Nat := ((List.range 6).filter fun c => decide (x % 4 ^ c = 0 ∧ x + 4 ^ c ≤ hi)).foldl max 0

/-- The area from `x` to below `hi` as aligned free buffers. -/
def carve : Nat → Nat → Nat → List (Nat × Nat)
  | 0, _, _ => []
  | n + 1, x, hi => if hi ≤ x then [] else (fitClass x hi, x) :: carve n (x + 4 ^ fitClass x hi) hi

/-- A pool as its record lays it out, empty: the allocation map, and in cell-chain mode the link table, come first. -/
def PoolRec.fresh (p : PoolRec) : PoolSt :=
  let bytes := 65536 * p.size
  if p.mode = 0 then
    let index := 65536 * (ceilDiv (bytes / 256 / 8) 65536) + bytes / 256 * 4
    { chain := true, free := [], cells := (bytes - index) / 256, cap := (bytes - index) / 256 * 256, used := 0, wait := [] }
  else
    let index := ceilDiv (bytes / 4096 / 8) 65536 * 16
    let lo := p.base * 16 + index
    let hi := (p.base + p.size) * 16
    { chain := false, free := carve (hi - lo) lo hi, cells := 0, cap := (hi - lo) * 4096, used := 0, wait := [] }

/-- Split a free buffer of class `k` down to class `c`, keeping the first quarter each time. -/
def splitTo (c : Nat) : Nat → Nat → List (Nat × Nat) → List (Nat × Nat)
  | 0, _, free => free
  | k + 1, pos, free =>
    if k + 1 ≤ c then free
    else splitTo c k pos (free ++ [(k, pos + 4 ^ k), (k, pos + 2 * 4 ^ k), (k, pos + 3 * 4 ^ k)])

/-- A freed buffer merges with its three free sibling quarters, upward (R353). -/
def mergeFree : Nat → Nat → Nat → List (Nat × Nat) → List (Nat × Nat)
  | 0, c, pos, free => free ++ [(c, pos)]
  | n + 1, c, pos, free =>
    let base := pos / 4 ^ (c + 1) * 4 ^ (c + 1)
    let sib := ((List.range 4).map fun i => base + i * 4 ^ c).filter (· ≠ pos)
    if c < 5 ∧ sib.all (fun x => decide ((c, x) ∈ free)) then
      mergeFree n (c + 1) base (free.filter fun e => !(decide (e.1 = c) && decide (e.2 ∈ sib)))
    else free ++ [(c, pos)]

/-- The enabled class a request of `n` bytes takes; none when it lies above the largest (R353). -/
def classFor (mask n : Nat) : Option Nat := (List.range 6).find? fun c => bitOf mask c && decide (n ≤ 4096 * 4 ^ c)

/-- The bytes a request of `n` bytes is charged in a pool; none when the pool has no buffer for it. -/
def PoolSt.charge (p : PoolSt) (mask n : Nat) : Option Nat :=
  if p.chain then some (ceilDiv n 256 * 256) else (classFor mask n).map fun c => 4096 * 4 ^ c

/-- Take one buffer of `n` bytes from the free space: the pool after, its place and its size. -/
def PoolSt.take (p : PoolSt) (mask n : Nat) : Option (PoolSt × Nat × Nat) :=
  if p.chain then
    let k := ceilDiv n 256
    if k ≤ p.cells then some ({ p with cells := p.cells - k, used := p.used + k * 256 }, 0, k * 256) else none
  else
    match classFor mask n with
    | none => none
    | some c =>
      let pick := ((List.range 6).filter (c ≤ ·)).findSome? fun k => p.free.find? (·.1 = k)
      pick.map fun (k, pos) =>
        ({ p with free := splitTo c k pos (p.free.filter (· ≠ (k, pos))), used := p.used + 4096 * 4 ^ c }, pos, 4096 * 4 ^ c)

/-- Take every buffer of a request, or none of them (R354). -/
def PoolSt.takeAll (mask : Nat) : PoolSt → List Nat → Option (PoolSt × List (Nat × Nat))
  | p, [] => some (p, [])
  | p, n :: ns =>
    match p.take mask n with
    | none => none
    | some (q, b) => (PoolSt.takeAll mask q ns).map fun (r, bs) => (r, b :: bs)

/-- A freed buffer returns to its pool (R353, R361). -/
def PoolSt.give (p : PoolSt) (b : Buf) : PoolSt :=
  if p.chain then { p with used := p.used - b.size, cells := p.cells + b.size / 256 }
  else
    let c := ((List.range 6).find? fun c => decide (b.size = 4096 * 4 ^ c)).getD 0
    { p with used := p.used - b.size, free := mergeFree 6 c b.pos p.free }

/-! ## The barometer (R364) -/

/-- The dirty limit in bytes (R457). -/
def Chip.dirtyLimit (m : Chip) : Nat := 2 ^ 30 * (m.f PLP_LIMIT.EFFECTIVE_GIB)

/-- The capacity the fill of a pool is taken over: for the pool STG draws from, at most the dirty limit. -/
def Chip.poolCap (m : Chip) (p : Nat) : Nat :=
  let c := (m.pool p).cap
  if (m.img.tables.poolOf 35).map (·.pool) = some p then min c m.dirtyLimit else c

/-- The fill `f` of a pool. -/
def Chip.poolFill (m : Chip) (p : Nat) : Nat := if m.poolCap p = 0 then 0 else 256 * (m.pool p).used / m.poolCap p

/-- The threshold of level `k`, 1 to 7. -/
def levelAt (wm : List Nat) (k : Nat) : Nat :=
  if k % 2 = 1 then wm.getD (k / 2) 0 else (wm.getD (k / 2 - 1) 0 + wm.getD (k / 2) 0) / 2

/-- The level after a fill of `f`, from level `cur`. -/
def nextLevel (wm : List Nat) (cur f : Nat) : Nat :=
  let up := ((List.range 8).filter fun k => decide (1 ≤ k ∧ levelAt wm k ≤ f)).foldl max 0
  if cur ≤ up then up
  else ((List.range cur).find? fun l => decide (up ≤ l) && ((List.range 8).filter (l < ·)).all
    fun k => decide (f + 2 ≤ levelAt wm k)).getD cur

/-- The barometer of a pool as everything reads it: PTB_BARO forces a level (R529). -/
def Chip.baroOf (m : Chip) (p : Nat) : Nat := (m.ptbBaro p).getD (m.f BPM_POOLSTAT.BARO p)

/-- A requester of the image matches a pool (R349). -/
def Chip.poolUsed (m : Chip) (p : Nat) : Bool := rqList.any fun r => decide ((m.img.tables.poolOf r).map (·.pool) = some p)

/-- The device barometer follows the pools'. -/
def Chip.devBaro (m : Chip) : Chip :=
  let used := (List.range 64).filter fun q => m.poolUsed q
  let dev := used.foldl (fun a q => max a (m.baroOf q)) 0
  let m := (m.setF BPM_STAT.DEVBARO dev).setF BPM_STAT.WORST_POOL ((used.find? fun q => decide (m.baroOf q = dev)).getD 0)
  if dev < m.f DLS_GUSTCFG.LEVEL then { m with md := { m.md with gustTold := false } } else m

/-- A pool's barometer and the device barometer follow a pool's fill. -/
def Chip.baro (m : Chip) (p : Nat) : Chip :=
  match m.poolRec p with
  | none => m
  | some r => (m.setF BPM_POOLSTAT.BARO (nextLevel r.wm (m.f BPM_POOLSTAT.BARO p) (m.poolFill p)) p).devBaro

/-! ## The end of a perturbation (R527) -/

/-- Perturbation stops: ARMED clears and every PTB register but SEED, BIST and REASON returns to its reset value. `always`: a
stop asked for acts with nothing armed too (log entry 33). -/
def Chip.ptbStop (m : Chip) (reason : Nat) (always : Bool) : Chip :=
  if m.f PTB_CTL.ARMED = 0 ∧ !always then m
  else
    let seed := m.f PTB_SEED.SEED
    let m := ((((m.resetRegs 0x280000 0x280048).setF PTB_SEED.SEED seed).setF PTB_CTL.REASON reason)).devBaro
    let m := { m with pt := { m.pt with acted := [] } }
    if reason = 3 then m else m.emit 0 0x6F02 reason

/-! ## Grants (R355 to R359) -/

/-- What requester `r` holds of pool `p`. -/
def Chip.heldBy (m : Chip) (p r : Nat) : Nat :=
  ((m.bp.bufs.filter fun e => decide (e.2.pool = p ∧ e.2.allocator = r)).map (·.2.size)).sum

/-- The minima of the other requesters of a pool that they do not use. -/
def Chip.unusedMinima (m : Chip) (p r : Nat) : Nat :=
  ((rqList.filter fun q => decide (q ≠ r ∧ (m.img.tables.poolOf q).map (·.pool) = some p)).map fun q =>
    m.f BPM_RQCFG.MIN q * (m.pool p).cap / 1024 - m.heldBy p q).sum

/-- The rank above which a unit of work may still request: the ranks of the buffers it holds (R357). -/
def Chip.workRank (m : Chip) (work : Nat) : Option Nat :=
  (m.bp.bufs.filter fun e => decide (e.2.work = work)).foldl (fun a e =>
    match m.poolRec e.2.pool with
    | some r => some (max (a.getD 0) r.rank)
    | none => a) none

/-- The bytes a request is charged. -/
def PoolSt.chargeAll (p : PoolSt) (mask : Nat) (sizes : List Nat) : Nat := (sizes.map fun n => (p.charge mask n).getD 0).sum

/-- The request lies within its requester's minimum (R356). -/
def Chip.inMinimum (m : Chip) (r : PoolRec) (q : PoolReq) : Bool :=
  let p := m.pool r.pool
  decide (m.heldBy r.pool q.rq + p.chargeAll r.classmask q.sizes ≤ m.f BPM_RQCFG.MIN q.rq * p.cap / 1024)

/-- The mode of the pools allows a request (R355, R356). -/
def Chip.allows (m : Chip) (r : PoolRec) (q : PoolReq) : Bool :=
  let p := m.pool r.pool
  let n := p.chargeAll r.classmask q.sizes
  if m.f BPM_STAT.MODE = 0 then decide (m.heldBy r.pool q.rq + n ≤ m.f BPM_RQCFG.QUOTA q.rq * p.cap / 1024)
  else m.inMinimum r q || decide (n + m.unusedMinima r.pool q.rq ≤ p.cap - p.used)

/-- Record granted buffers. -/
def Chip.addBufs (m : Chip) (p : Nat) (q : PoolReq) : List (Nat × Nat) → Chip
  | [] => m
  | (pos, size) :: bs =>
    let m := { m with bp := { m.bp with
      bufs := tput m.bp.bufs m.bp.nextBuf
        { pool := p, pos := pos, size := size, count := 1, owners := [q.rq], allocator := q.rq, work := q.work },
      nextBuf := m.bp.nextBuf + 1 } }
    m.addBufs p q bs

/-- Grant a request if the mode allows it and the pool has the buffers free. -/
def Chip.tryGrant (m : Chip) (r : PoolRec) (q : PoolReq) : Option Chip :=
  if m.f BPM_POOLSTAT.REBUILD r.pool = 1 || !m.allows r q then none
  else ((m.pool r.pool).takeAll r.classmask q.sizes).map fun (p, bs) => ((m.setPool r.pool p).addBufs r.pool q bs).baro r.pool

/-- Order of waiting requests (R359): deadline, class, creation. -/
def PoolReq.before (a b : PoolReq) : Bool :=
  if earlier a.deadline b.deadline then true
  else if earlier b.deadline a.deadline then false
  else if a.cls ≠ b.cls then decide (a.cls < b.cls)
  else decide (a.created ≤ b.created)

/-- Grant from the head of a pool's queue while the head can be granted; in RESERVE a request within its minimum also
passes the head (R359). -/
def Chip.grantFrom (m : Chip) (r : PoolRec) : Nat → Chip
  | 0 => m
  | n + 1 =>
    let w := (m.pool r.pool).wait
    let drop (m : Chip) (q : PoolReq) : Chip :=
      m.setPool r.pool { m.pool r.pool with wait := (m.pool r.pool).wait.filter (·.id ≠ q.id) }
    match w with
    | [] => m
    | q :: _ =>
      match m.tryGrant r q with
      | some m' => (drop m' q).grantFrom r n
      | none =>
        if m.f BPM_STAT.MODE = 0 then m
        else match (w.filter (m.inMinimum r ·)).findSome? (fun q => (m.tryGrant r q).map fun m' => (q, m')) with
          | some (q, m') => (drop m' q).grantFrom r n
          | none => m

/-- Grant what pool `p`'s queue allows now. -/
def Chip.grantPool (m : Chip) (p : Nat) : Chip :=
  match m.poolRec p with
  | some r => m.grantFrom r ((m.pool p).wait.length + 1)
  | none => m

/-- Put a request in a pool's queue by its deadline (R359). -/
def insertReq (q : PoolReq) : List PoolReq → List PoolReq
  | [] => [q]
  | w :: t => if q.before w then q :: w :: t else w :: insertReq q t

/-! ## Freeing -/

/-- A buffer returns to its pool, and the pool's barometer follows. -/
def Chip.freeBuf (m : Chip) (i : Nat) : Chip :=
  match tfind m.bp.bufs i with
  | none => m
  | some b =>
    let m := { m with bp := { m.bp with bufs := tdel m.bp.bufs i } }
    (m.setPool b.pool ((m.pool b.pool).give b)).baro b.pool

/-- A reference to a buffer goes; with the last one the buffer is free (R361). -/
def Chip.dropRef (m : Chip) (i : Nat) : Chip :=
  match tfind m.bp.bufs i with
  | none => m
  | some b =>
    if b.count ≤ 1 then m.freeBuf i else { m with bp := { m.bp with bufs := tput m.bp.bufs i { b with count := b.count - 1 } } }

/-- An add or release that the owner rules refuse (R361). -/
def Chip.refuseOwner (m : Chip) : Chip := (m.incF BPM_ERRCNT.OWNER).emit 11 0x6604

/-- A requester is added as an owner of a buffer, or refused: the buffer with the owner, and whether it was added. -/
def Chip.addOwner (m : Chip) (rq i : Nat) : Chip × Bool :=
  match tfind m.bp.bufs i with
  | none => (m, false)
  | some b =>
    if b.count = 0xFFFF ∨ (rq ∉ b.owners ∧ 6 ≤ b.owners.length) then (m.refuseOwner, false)
    else
      let owners := if rq ∈ b.owners then b.owners else b.owners ++ [rq]
      ({ m with bp := { m.bp with bufs := tput m.bp.bufs i { b with count := b.count + 1, owners := owners } } }, true)

/-- The reference of a unit of work to every buffer allocated for it goes (R94, R98, R130), and its waiting requests are withdrawn. -/
def Chip.releaseBuffers (m : Chip) (work : Nat) : Chip :=
  let m := (m.bp.bufs.filter fun e => decide (e.2.work = work)).foldl (fun (m : Chip) e => m.dropRef e.1) m
  { m with bp := { m.bp with
    pools := m.bp.pools.map fun e => (e.1, { e.2 with wait := e.2.wait.filter (·.work ≠ work) }) } }

end Sys2Proof.Machine
end

