-- ==== Sys2Proof/Machine/Lottery.lean ====
section
/-! DEFINITION. One lottery arbiter and its draw (R367 to R371): tickets, the LFSR, and the walk that finds the winner. -/

namespace Sys2Proof.Machine

def ArbSt.blank : ArbSt := { lfsr := 0, active := [], dirty := false, rr := 0, winner := none }
def Chip.arb (m : Chip) (i : Nat) : ArbSt := tget ArbSt.blank m.bp.arbs i
def Chip.setArb (m : Chip) (i : Nat) (v : ArbSt) : Chip := { m with bp := { m.bp with arbs := tset ArbSt.blank m.bp.arbs i v } }

/-- The instance whose tickets an arbiter uses, and its island. -/
def arbInst (i : Nat) : Nat := if i = 11 then 9 else i
def arbIsland (i : Nat) : Nat := if i ≤ 3 then 24 else if i ≤ 7 then 25 else if i = 8 then 26 else if i = 10 then 1 else 27

def tktField (r : Nat) : Fld :=
  match r % 4 with
  | 0 => ARB_TKT.TKT0
  | 1 => ARB_TKT.TKT1
  | 2 => ARB_TKT.TKT2
  | _ => ARB_TKT.TKT3

/-- The shadow tickets of a requester. -/
def Chip.shadowTkt (m : Chip) (inst r : Nat) : Nat := m.f (tktField r) (inst * 16 + r / 4)

/-- The copy of the shadow to the active set, at the first draw after a write (R371). -/
def Chip.arbCopy (m : Chip) (i : Nat) : Chip :=
  let a := m.arb i
  if !a.dirty then m
  else m.setArb i { a with dirty := false, active := (List.range 64).foldl (fun t r => tset 0 t r (m.shadowTkt (arbInst i) r)) [] }

/-- The walk of R368. -/
def drawWalk (active : Table Nat) : List Nat → Nat → Nat → Option Nat
  | [], _, _ => none
  | r :: rs, sum, v => if v < sum + tget 0 active r then some r else drawWalk active rs (sum + tget 0 active r) v

/-- One draw among the requesters requesting, in ascending ID: the winner and the arbiter after. -/
def ArbSt.draw (a : ArbSt) (reqs : List Nat) : Option Nat × ArbSt :=
  let x := lfsrNext a.lfsr
  let a := { a with lfsr := x }
  let t := (reqs.map fun r => tget 0 a.active r).sum
  if t = 0 then
    let w := ((reqs.filter (a.rr < ·)) ++ reqs).head?
    (w, { a with rr := w.getD a.rr })
  else (drawWalk a.active reqs 0 (bits x 31 16 * t / 65536), a)

end Sys2Proof.Machine
end

