-- ==== Sys2Proof/Machine/Frames.lean ====
section
/-! DEFINITION. Sending Stepesha frames (R408 to R422): which sub-link a frame takes, its sequence number and seal, the order of the transmit queues, and
the replay buffer that holds reliable frames until they are acknowledged. The rows held for the twin (R423) are here too. -/

namespace Sys2Proof.Machine

def KeySlot.blank : KeySlot := { state := 0, kind := 0, tenant := 0, keygen := 0, nsid := 0, key := 0, reload := false }
def Chip.kslot (m : Chip) (i : Nat) : KeySlot := tget KeySlot.blank m.kv.slots i
def Chip.setKslot (m : Chip) (i : Nat) (v : KeySlot) : Chip :=
  { m with kv := { m.kv with slots := tset KeySlot.blank m.kv.slots i v } }

def SubSt.blank : SubSt :=
  { up := false, badFlits := 0, keyNum := 0, rxKey := 0, rekeying := false, txSeq := 0, txUn := 2 ^ 47, expect := 1,
    downAt := 0, xAccepted := [], queue := [], replay := [], ackSeq := 0, credSeq := 0, helloOk := false, attested := false,
    secret := 0, spdmSent := 0, spdmNext := 0,
    spdmRx := none, rxPart := [], rxSync := false, waits := [] }

def Chip.sub (m : Chip) (s : Nat) : SubSt := tget SubSt.blank m.tw.subs s
def Chip.setSub (m : Chip) (s : Nat) (v : SubSt) : Chip := { m with tw := { m.tw with subs := tset SubSt.blank m.tw.subs s v } }

/-- Commits need the twin (R135, R423): the controllers run as a pair, from ACTIVE until a takeover ends, and on a survivor
again from step 3 of a rejoin (R440). -/
def Chip.paired (m : Chip) : Bool :=
  let st := m.f TWN_STAT.STATE
  decide (m.f GEN_SIDE.SOLO = 0) && (decide (2 ≤ st ∧ st ≤ 5) || (decide (st = 6) && m.tw.handover))

/-- The slack a unit that crosses the link carries (R182). -/
def Chip.slackOf (m : Chip) (deadline : Nat) : Nat := slackAt m.now deadline

/-- A frame of a zone waits on a sub-link, or is unacknowledged there. -/
def SubSt.holds (x : SubSt) (z : Nat) : Bool := (x.queue ++ x.replay).any fun f => decide (f.zone = some z)

/-- The sub-link a frame travels on: zone mod 2 when both are up, once the other holds no frame of the zone, and the one that is
up otherwise (R418, R422). Frames of no zone take sub-link 0 when it is up (log entry 9). -/
def Chip.subFor (m : Chip) (zone : Option Nat) : Nat :=
  let own := (zone.getD 0) % 2
  let u0 := (m.sub 0).up
  let u1 := (m.sub 1).up
  if u0 && u1 then
    match zone with
    | some z => if (m.sub (1 - own)).holds z then 1 - own else own
    | none => own
  else if u0 then 0 else if u1 then 1 else own

/-! ## The seal of a frame (R292, R293, R408 to R410, R421) -/

/-- The body class of a frame type (R411): authenticated only, or encrypted. -/
def aadBody (type : Nat) : Bool := decide (type = 0x05 ∨ type = 0x09 ∨ type = 0x0B)
def encBody (type : Nat) : Bool := decide (type = 0x06 ∨ type = 0x08 ∨ type = 0x0D ∨ type = 0x12)

/-- The IV of a frame (R293): sub-link, sender's side and key number, then the sequence number. -/
def frameIv (s side keyNum seq : Nat) : List Byte := leBytes 1 s ++ leBytes 1 side ++ leBytes 2 keyNum ++ leBytes 8 seq

/-- Bytes 0 to 15 of a frame (R408). -/
def frameHead (s keyNum : Nat) (f : TxFrame) : List Byte :=
  leBytes 1 0xA7 ++ leBytes 1 f.type ++ leBytes 2 f.body.length ++ leBytes 8 f.seq ++ leBytes 2 keyNum ++ leBytes 1 s ++ leBytes 1 0

/-- HEADER (R410). -/
def frameHeader (f : TxFrame) : List Byte :=
  leBytes 8 f.xseq ++ leBytes 4 f.slack ++ leBytes 4 (match f.zone with | some z => z | none => 2 ^ 31) ++ fit 16 f.args

/-- A frame as it is sent: in clear with its CRC-64 before keys, sealed afterwards (R409). -/
def sealFrame (key side s keyNum : Nat) (f : TxFrame) : List Byte :=
  let head := frameHead s keyNum f
  let header := frameHeader f
  if keyNum = 0 then
    let b := head ++ header ++ f.body
    b ++ leBytes 8 (crc64 b) ++ leBytes 8 0
  else
    let plain := header ++ (if encBody f.type then f.body else [])
    let c := fit (plain.length + 16) (Config.gcmSeal key (frameIv s side keyNum f.seq) (head ++ (if aadBody f.type then f.body else [])) plain)
    head ++ c.take 32 ++ (if encBody f.type then slice c 32 f.body.length else f.body) ++ c.drop plain.length

/-- A frame of this controller's as sent on a sub-link, under its current key. -/
def Chip.frameBytes (m : Chip) (s : Nat) (f : TxFrame) : List Byte := sealFrame (m.kslot (8194 + 4 * s)).key m.side s (m.sub s).keyNum f

/-- HMAC with SHA-384 (RFC 2104), of a key of at most 128 bytes. -/
def hmac384 (key msg : List Byte) : List Byte :=
  let k := fit 128 key
  Config.sha384 (xorBytes k (List.replicate 128 0x5C) ++ Config.sha384 (xorBytes k (List.replicate 128 0x36) ++ msg))

/-- The key of a sending side of a sub-link (R421): the first 32 bytes of HKDF-Expand (RFC 5869), which its first block holds, over "stepesha", the
sub-link, the side and the key number. -/
def linkKey (secret s side keyNum : Nat) : Nat :=
  leNat ((hmac384 (leBytes 48 secret) ([0x73, 0x74, 0x65, 0x70, 0x65, 0x73, 0x68, 0x61] ++ leBytes 1 s ++ leBytes 1 side ++ leBytes 4 keyNum ++ [1])).take 32)

/-- A key slot takes the key of a sending side of a sub-link. -/
def Chip.sessionKey (m : Chip) (slot s side keyNum : Nat) : Chip :=
  m.setKslot slot { KeySlot.blank with state := 1, kind := 1, key := linkKey (m.sub s).secret s side keyNum }

/-- The next key goes into the transmit "next" slot (R413, R421). -/
def Chip.drawNext (m : Chip) (s : Nat) : Chip :=
  (m.sessionKey (8195 + 4 * s) s m.side ((m.sub s).keyNum + 1)).setSub s { m.sub s with rekeying := true }

/-! ## Sending (R413 to R418, R422) -/

/-- The next key becomes current with the first frame that carries its number, once every reliable frame under the old key has
been acknowledged; both counters restart (R413, R421). -/
def Chip.keyTurn (m : Chip) (s : Nat) : Chip :=
  let x := m.sub s
  if !x.rekeying || !x.replay.isEmpty then m
  else
    let m := m.setSub s { x with keyNum := x.keyNum + 1, rekeying := false, txSeq := 0, txUn := 2 ^ 47, ackSeq := 0, credSeq := 0 }
    let m := m.setF TWN_SLSTAT.KEYNUM (x.keyNum + 1) s
    let m := (m.setKslot (8194 + 4 * s) (m.kslot (8195 + 4 * s))).setKslot (8195 + 4 * s) KeySlot.blank
    if (m.sub (1 - s)).rekeying then m else m.setF TWN_CTL.REKEY 0

/-- A counter that has reached 2^46 in its range asks for the next key (R413). -/
def Chip.keyDue (m : Chip) (s : Nat) : Chip :=
  let x := m.sub s
  if !x.rekeying && decide (x.keyNum ≠ 0 ∧ (2 ^ 46 ≤ x.txSeq ∨ 2 ^ 47 + 2 ^ 46 ≤ x.txUn)) then m.drawNext s else m

/-- The bytes of unacknowledged frames in the replay buffer (R408, R416). -/
def SubSt.held (x : SubSt) : Nat := (x.replay.map fun f => 64 + f.body.length).sum

/-- A reliable frame may go: the sub-link is up; before keys only HELLO and SPDM go (R409), afterwards those the credit and the
replay buffer allow (R415, R416), none while frames of the old key are unacknowledged (R413). -/
def SubSt.maySend (x : SubSt) (f : TxFrame) : Bool :=
  x.up && (if x.keyNum = 0 then decide (f.type = 1 ∨ f.type = 2)
    else !(x.rekeying && !x.replay.isEmpty) && decide (x.txSeq + 1 ≤ x.credSeq) && decide (x.held + 64 + f.body.length ≤ 4194304))

/-- The transmit queue of a frame, as the requester of arbiter instance 9 (R351, R411). -/
def TxFrame.requester (f : TxFrame) : Nat :=
  if f.type = 5 ∨ f.type = 6 ∨ f.type = 7 ∨ f.type = 9 ∨ (f.type = 8 ∧ f.zone.isSome) then 47
  else if f.type = 8 then 48
  else if 0x0A ≤ f.type ∧ f.type ≤ 0x0E then 49
  else 50

/-- A frame's turn within its queue: re-sealed frames go ahead of new ones (R418); else no earlier frame of its queue waits, and for the program of a
member no parity or mirror data of its zone (R424). -/
def TxFrame.turn (f : TxFrame) (earlier : List TxFrame) (resealed : Bool) : Bool :=
  if resealed then decide (f.xseq ≠ 0) && earlier.all fun e => decide (e.xseq = 0)
  else (earlier.all fun e => decide (e.requester ≠ f.requester)) &&
    (f.type ≠ 0x0A || f.args.head? ≠ some 2 || earlier.all fun e => decide (e.requester ≠ 47 ∨ e.zone ≠ f.zone))

/-- The waiting frames whose turn it is: at most one of each queue. -/
def SubSt.heads (x : SubSt) : List TxFrame :=
  let re := x.queue.any fun f => decide (f.xseq ≠ 0)
  (x.queue.zipIdx).filterMap fun e => if e.1.turn (x.queue.take e.2) re then some e.1 else none

/-- The next frame to send: where several queues hold one that may go, a draw of the sub-link's arbiter says which (R367 to R371). -/
def Chip.pickFrame (m : Chip) (s : Nat) : Option (TxFrame × Chip) :=
  match (m.sub s).heads.filter (m.sub s).maySend with
  | [] => none
  | [f] => some (f, m)
  | f :: fs =>
    let i := if s = 0 then 9 else 11
    let m := m.arbCopy i
    let (w, a) := (m.arb i).draw ((List.range 64).filter fun r => (f :: fs).any fun g => decide (g.requester = r))
    let m := (m.setArb i a).incF ARB_DRAWS.COUNT i
    some (((f :: fs).find? fun g => decide (w = some g.requester)).getD f, m)

/-- Send a reliable frame: the next SEQ, held for replay (R413, R416), its slack taken now (R182). -/
def Chip.transmit (m : Chip) (s : Nat) (f : TxFrame) : Chip :=
  let x := m.sub s
  let f := { f with seq := x.txSeq + 1, sends := 1, last := m.isl.dtc, slack := (f.deadline.map m.slackOf).getD 0 }
  let m := m.setSub s { x with txSeq := x.txSeq + 1, replay := x.replay ++ [f] }
  (m.send (.frame s f.type (m.frameBytes s f))).keyDue s

/-- Send waiting frames while one may go, at most `n`. -/
def Chip.sendAll (m : Chip) (s : Nat) : Nat → Chip
  | 0 => m
  | n + 1 =>
    match (m.keyTurn s).pickFrame s with
    | none => m
    | some (f, m) => ((m.setSub s { m.sub s with queue := (m.sub s).queue.erase f }).transmit s f).sendAll s n

def Chip.pumpSub (m : Chip) (s : Nat) : Chip := m.sendAll s (m.sub s).queue.length

/-- A reliable frame joins its sub-link's queue. -/
def Chip.sendOn (m : Chip) (s : Nat) (f : TxFrame) : Chip :=
  let x := m.sub s
  (m.setSub s { x with queue := x.queue ++ [f] }).pumpSub s

def TxFrame.make (type : Nat) (zone deadline : Option Nat) (args body : List Byte) : TxFrame :=
  { seq := 0, type := type, zone := zone, deadline := deadline, slack := 0, args := args,
    body := body ++ List.replicate ((8 - body.length % 8) % 8) 0, xseq := 0, sends := 0, last := 0, slot := none }

/-- Send a reliable frame by its type, zone, deadline, ARGS and body. With both sub-links down no frame flows: it waits while the
controllers run as a pair, and is lost otherwise. -/
def Chip.sendFrame (m : Chip) (type : Nat) (zone deadline : Option Nat) (args body : List Byte) (slot : Option Nat := none) : Chip :=
  if !(m.sub 0).up && !(m.sub 1).up && !m.paired then m
  else m.sendOn (m.subFor zone) { TxFrame.make type zone deadline args body with slot := slot }

/-- Frames of at most 4,096 bytes of a byte string from offset `at_`. -/
def chunks4k (bs : List Byte) : List (Nat × List Byte) :=
  (List.range (ceilDiv bs.length 4096)).map fun k => (k * 4096, slice bs (k * 4096) 4096)

/-- Stored data of a forwarded read or write in FWDDATA frames, from byte `off` of its range (R427, R429). -/
def Chip.sendData (m : Chip) (z : Nat) (deadline : Option Nat) (req off : Nat) (bs : List Byte) : Chip :=
  (chunks4k bs).foldl (fun (m : Chip) k => m.sendFrame 0x0B (some z) deadline (leBytes 4 req ++ leBytes 4 (off + k.1)) k.2) m

/-- Send an unsequenced frame on one sub-link that is up and holds keys (R409, R413). -/
def Chip.sendUnseq (m : Chip) (s type : Nat) (args : List Byte) : Chip :=
  if !(m.sub s).up || decide ((m.sub s).keyNum = 0) then m
  else
    let m := m.keyTurn s
    let x := m.sub s
    ((m.setSub s { x with txUn := x.txUn + 1 }).send (.frame s type (m.frameBytes s
      { TxFrame.make type none none args [] with seq := x.txUn + 1 }))).keyDue s

/-- An SPDM message travels in fragments of at most 4,096 bytes (R412). -/
def Chip.sendSpdm (m : Chip) (s : Nat) (bs : List Byte) : Chip :=
  let x := m.sub s
  if !x.up ∨ bs = [] ∨ 1048576 < bs.length then m
  else
    (chunks4k bs).foldl (fun (m : Chip) k =>
      m.sendOn s (TxFrame.make 0x02 none none (leBytes 2 x.spdmSent ++ leBytes 2 (k.1 / 4096) ++
        leBytes 1 (b1 (decide (bs.length ≤ k.1 + 4096))) ++ leBytes 1 0 ++ leBytes 4 bs.length ++ leBytes 2 k.2.length) k.2))
      (m.setSub s { x with spdmSent := (x.spdmSent + 1) % 65536 })

/-- What a received frame brings, for the frames with a reliable delivery. -/
def frameRx : Instr → Option RxFrame
  | .hello r _ | .spdmFrame r _ _ _ _ _ _ _ | .mirror r _ _ _ | .commit r _ _ _ _ _ | .release r _ _ _ _ | .delta r _ | .parity r _ _ _ _ _
  | .fwdreqRead r _ | .fwdreqProgram r _ | .fwdreqErase r _ | .fwddata r _ _ _ | .fwddone r _ _ _ _ | .fwdcmd r _ _ _ _ _ _ _ _ | .fwdcpl r _ _ _
  | .marker r _ _ _ | .ctrlSanitizeRelay r _ | .ctrlResendRow r _ | .ctrlHandover r | .ctrlStateTransfer r _ | .reservedFrame r => some r
  | _ => none

/-- The highest SEQ accepted in order whose effect is held, as that of every frame before it is (R414, R415). -/
def SubSt.acked (x : SubSt) : Nat := ((x.waits.head?.bind frameRx).map (·.seq)).getD x.expect - 1

/-- Free receive slots of 4,160 bytes in a sub-link's pool: 4 are kept for unsequenced frames, and each frame that waits for its effect to be held has
one (R415). -/
def Chip.rxSlots (m : Chip) (s : Nat) : Nat :=
  match m.img.tables.poolOf (32 + s) with
  | some r => let p := m.pool r.pool; min 1024 ((p.cap - p.used) / 4160 - 4 - (m.sub s).waits.length)
  | none => 0

/-- An ACK frame of a sub-link, as a NAK where replay is asked for (R415). -/
def Chip.sendAck (m : Chip) (s : Nat) (nak : Bool) : Chip :=
  let e := (m.sub s).acked
  let m := if nak then m.incF TWN_SLERR.NAK s else m
  m.sendUnseq s 0x04 (leBytes 8 e ++ leBytes 6 (e + m.rxSlots s) ++ leBytes 1 (b1 nak))

/-- A metadata delta record: type, key and payload. -/
def deltaRecord (type key : Nat) (payload : List Byte) : List Byte :=
  let words := ceilDiv (8 + payload.length) 8
  leBytes 1 type ++ leBytes 1 words ++ leBytes 2 0 ++ leBytes 4 key ++ payload ++ List.replicate (words * 8 - 8 - payload.length) 0

/-- A record goes to the twin (R426). -/
def Chip.tellDelta (m : Chip) (zone : Option Nat) (rec_ : List Byte) : Chip :=
  if m.paired then m.sendFrame 0x08 (zone.filter fun z => decide (z < 262144)) none [] rec_ else m

/-- A metadata delta record is made: it waits for its programs, and goes to the twin (R426, R466). -/
def Chip.delta (m : Chip) (type key : Nat) (zone : Option Nat) (payload : List Byte) : Chip :=
  let rec_ := deltaRecord type key payload
  ({ m with zn := { m.zn with deltas := m.zn.deltas ++ [rec_] } } : Chip).tellDelta zone rec_

/-- A namespace map record: zone `i` of a namespace is global zone `z` (R426). The namespace's attachments, which the map keeps too (R559), follow in the
records of its first zone, up to 512 in one: the place of the first, their number, and the controller identifiers (log entry 163). -/
def Chip.mapRecord (m : Chip) (n : Ns) (z i : Nat) : Chip :=
  let base := leBytes 4 n.nsid ++ leBytes 4 i
  if i ≠ 0 then m.delta 0x08 z (some z) base
  else (List.range (max 1 (ceilDiv n.attached.length 512))).foldl (fun (m : Chip) k =>
    let ids := (n.attached.drop (512 * k)).take 512
    m.delta 0x08 z (some z) (base ++ leBytes 2 (512 * k) ++ leBytes 2 ids.length ++ ids.flatMap (leBytes 2))) m

/-- Forward a die operation to the twin (R411, R424, R429): FWDREQ with the unit kept until FWDDONE. -/
def Chip.forward (m : Chip) (op flags zone : Nat) (u : DUnit) : Chip :=
  let id := m.tw.fwdNext
  let m := { m with tw := { m.tw with fwdNext := if id + 1 < 2 ^ 31 then id + 1 else 65536, fwds := tput m.tw.fwds id { unit := u, issued := m.isl.dtc } } }
  let m := m.incF TWN_FWDCNT.DIEOPS
  m.sendFrame 0x0A (some zone) (some u.deadline)
    (leBytes 1 op ++ leBytes 1 flags ++ leBytes 2 u.die ++ leBytes 2 u.block ++ leBytes 2 u.row ++
      (if op = 1 ∧ u.page < 255 then leBytes 1 u.page ++ leBytes 1 (u.cw + 4 * (u.ncw - 1)) else leBytes 2 0xFFFF) ++ leBytes 2 u.tenant ++ leBytes 4 id) []

/-! ## Rows held for the twin (R358, R360, R423, R424) -/

/-- The row number as work of the mirror-receive pool. -/
def mirWork (k : Nat) : Nat := 2 ^ 40 + k

def MirRow.blank : MirRow := { have_ := [], committed := 0, parity := [] }

/-- A row's buffer is granted. -/
def Chip.mirGranted (m : Chip) (k : Nat) : Bool := m.bp.bufs.any fun e => decide (e.2.work = mirWork k)

/-- The row buffer of a row of the twin's, 4 MiB from the pool MIRRX draws from (R358), asked for where nothing asked yet; and whether it is there. -/
def Chip.mirRoom (m : Chip) (z r deadline : Nat) : Chip × Bool :=
  let k := rowKey z r
  let take (m : Chip) : Chip × Bool :=
    if m.mirGranted k then ({ m with tw := { m.tw with mirror := tput m.tw.mirror k MirRow.blank } }, true) else (m, false)
  if (tfind m.tw.mirror k).isSome then (m, true)
  else match m.img.tables.poolOf 36 with
    | none => (m, false)
    | some p =>
      if m.mirGranted k || (m.pool p.pool).wait.any fun q => decide (q.work = mirWork k) then take m
      else
        let q : PoolReq := { id := m.bp.nextReq, rq := 36, sizes := [4194304], deadline := deadline, cls := 4, created := m.isl.dtc, work := mirWork k }
        let m := { m with bp := { m.bp with nextReq := m.bp.nextReq + 1 } }
        take ((m.setPool p.pool { m.pool p.pool with wait := insertReq q (m.pool p.pool).wait }).grantPool p.pool)

/-- TWN_MIRROR follows the rows held. -/
def Chip.showMirror (m : Chip) : Chip :=
  let bytes := (m.tw.mirror.map fun e => (e.2.have_.map (·.2)).sum).sum
  (m.setF TWN_MIRROR.ROWS (min m.tw.mirror.length 65535)).setF TWN_MIRROR.MIB (min (ceilDiv bytes 1048576) 65535)

/-- Stored bytes of a row are held (R423), unless its buffer is not there yet. -/
def Chip.mirIn (m : Chip) (z r off deadline : Nat) (body : List Byte) : Chip × Bool :=
  let k := rowKey z r
  let (m, there) := m.mirRoom z r deadline
  if !there then (m, false)
  else
    let x := tget MirRow.blank m.tw.mirror k
    (({ m with tw := { m.tw with
      mirror := tput m.tw.mirror k { x with have_ := (x.have_.filter fun e => decide (e ≠ (off, body.length))) ++ [(off, body.length)] }
      mirData := memSetBytes m.tw.mirData (2 ^ 33 * z + 4194304 * r + off) body } } : Chip).showMirror, true)

/-- Stored parity of a row for a member on this controller's channels is held (R424). -/
def Chip.parityIn (m : Chip) (z r t off deadline : Nat) (body : List Byte) : Chip × Bool :=
  let k := rowKey z r
  let (m, there) := m.mirRoom z r deadline
  if !there then (m, false)
  else
    let x := tget MirRow.blank m.tw.mirror k
    let u := (tfind x.parity t).getD []
    ({ m with tw := { m.tw with
      mirror := tput m.tw.mirror k { x with parity := tput x.parity t (fit off u ++ body ++ u.drop (off + body.length)) } } }, true)

/-- A controller keeps its own copy of the stored bytes of a write it forwards, from stripe byte `at_` of the zone, as the mirror copy (R427): in the row
buffers that are there; the bytes of others are known all the same, and their buffers are asked for. -/
def Chip.keepCopy (m : Chip) (z at_ deadline : Nat) (bs : List Byte) : Chip :=
  (chunks4k bs).foldl (fun (m : Chip) c =>
    let o := at_ + c.1
    let n := min (4194304 - o % 4194304) c.2.length
    let put (m : Chip) (o : Nat) (b : List Byte) : Chip :=
      if b = [] then m
      else
        let (m, there) := m.mirIn z (o / 4194304) (o % 4194304) deadline b
        if there then m else { m with tw := { m.tw with mirData := memSetBytes m.tw.mirData (2 ^ 33 * z + o) b } }
    put (put m o (c.2.take n)) (o + n) (c.2.drop n)) m

end Sys2Proof.Machine
end

