-- ==== Sys2Proof/Machine/Pointers.lean ====
section
/-! DEFINITION. Where a command's data lies in host memory (R102): its PRP entries and SGL descriptors, in the entry and in the lists and segments
the entry names, and check 8 of R126 on them. Their layout is that of NVMe, with memory pages of 4 KiB (log entry 155). -/

namespace Sys2Proof.Machine

/-- Pages of 4 KiB at addresses in turn, for `len` bytes. -/
def pagesAt : List Nat → Nat → List (Nat × Nat)
  | [], _ => []
  | a :: as, len => if len = 0 then [] else (a, min 4096 len) :: pagesAt as (len - 4096)

/-- The part of a transfer that its first PRP entry names. -/
def prpFirst (e : List Byte) (len : Nat) : Nat := min len (4096 - prp1Of e % 4096)

/-- The length of a PRP list read at an address for `left` bytes still to be named: up to the end of the list's page. -/
def prpListLen (addr left : Nat) : Nat := 8 * min ((4096 - addr % 4096) / 8) (ceilDiv left 4096)

/-- An SGL descriptor: its type, address and length. -/
structure Sgl where
  type : Nat
  addr : Nat
  len : Nat
deriving DecidableEq, Repr

def sglAt (b : List Byte) (o : Nat) : Sgl := ⟨fieldAt b (o + 15) 1 / 16, fieldAt b o 8, fieldAt b (o + 8) 4⟩

/-- Check 8 on one SGL descriptor: a data block, segment or last segment, and a segment of whole descriptors. -/
def sglFail (d : Sgl) : Option Nat :=
  if ¬(d.type = 0 ∨ d.type = 2 ∨ d.type = 3) then some 0x11
  else if d.type ≠ 0 ∧ (d.len = 0 ∨ d.len % 16 ≠ 0) then some 0x0D
  else none

/-- Check 8 on the pointers in the entry itself: PRP1 is dword aligned, a second page starts at its page's first byte and a list is qword aligned; a
lone SGL data block is as long as the transfer (log entry 14). -/
def descFail (e : List Byte) (len : Nat) : Option Status :=
  let bad (sc : Nat) : Option Status := some ⟨0, sc, true⟩
  if len = 0 then none
  else if psdtOf e = 0 then
    let left := len - prpFirst e len
    if prp1Of e % 4 ≠ 0 then bad 0x13
    else if 0 < left ∧ left ≤ 4096 ∧ prp2Of e % 4096 ≠ 0 then bad 0x13
    else if 4096 < left ∧ prp2Of e % 8 ≠ 0 then bad 0x13
    else none
  else
    let d := sglAt e 24
    match sglFail d with
    | some sc => bad sc
    | none => if d.type = 0 ∧ d.len < len then bad 0x0F else none

/-- What the entry itself names of a transfer, and the list or segment still to be read: its address and length. -/
def entryPtrs (e : List Byte) (len : Nat) : List (Nat × Nat) × Option (Nat × Nat) :=
  if len = 0 then ([], none)
  else if psdtOf e = 0 then
    let k := prpFirst e len
    let first := (prp1Of e, k)
    if len - k = 0 then ([first], none)
    else if len - k ≤ 4096 then ([first, (prp2Of e, len - k)], none)
    else ([first], some (prp2Of e, prpListLen (prp2Of e) (len - k)))
  else
    let d := sglAt e 24
    if d.type = 0 then ([(d.addr, len)], none) else ([], some (d.addr, d.len))

/-- The bytes named so far. -/
def ptrBytes (ps : List (Nat × Nat)) : Nat := (ps.map (·.2)).sum

/-- A list or segment of a transfer of `len` bytes has been read: what it names with what was named before, and the next list; or the status code of
the first bad entry. A PRP list that fills its page before the last page is named goes on at its last entry. -/
def listPtrs (prp : Bool) (len : Nat) (named : List (Nat × Nat)) (b : List Byte) : Except Nat (List (Nat × Nat) × Option (Nat × Nat)) :=
  let left := len - ptrBytes named
  if prp then
    let es := (List.range (b.length / 8)).map fun i => fieldAt b (8 * i) 8
    let chain := decide (es.length * 4096 < left)
    let pages := if chain then es.dropLast else es
    if pages.any (fun a => decide (a % 4096 ≠ 0)) ∨ (chain ∧ (es.getLast?.getD 1) % 8 ≠ 0) then .error 0x13
    else
      let named := named ++ pagesAt pages left
      if chain then
        let a := es.getLast?.getD 0
        .ok (named, some (a, prpListLen a (len - ptrBytes named)))
      else .ok (named, none)
  else
    let ds := (List.range (b.length / 16)).map fun i => sglAt b (16 * i)
    match ds.findSome? sglFail with
    | some sc => .error sc
    | none =>
      if ds.dropLast.any fun d => decide (d.type ≠ 0) then .error 0x0D
      else
        let named := named ++ (ds.filter fun d => decide (d.type = 0)).map fun d => (d.addr, d.len)
        match (ds.filter fun d => decide (d.type ≠ 0)) with
        | d :: _ => .ok (named, some (d.addr, d.len))
        | [] => if ptrBytes named < len then .error 0x0F else .ok (named, none)

/-- The host addresses of `len` bytes from byte `off` of a transfer. -/
def hostRange : List (Nat × Nat) → Nat → Nat → List (Nat × Nat)
  | [], _, _ => []
  | (a, n) :: ps, off, len =>
    if len = 0 then []
    else if n ≤ off then hostRange ps (off - n) len
    else (a + off, min len (n - off)) :: hostRange ps 0 (len - (n - off))

end Sys2Proof.Machine
end

