-- ==== Sys2Proof/Machine/Commands.lean ====
section
/-! DEFINITION. Live commands: slots, completions, asynchronous events, the parts of a read (R127 to R133), what happens
when a command ends without committing (R132), and how the zones' contexts are read and written. -/

namespace Sys2Proof.Machine

/-! ## Access to the tables -/

/-- A vector as PCIe resets it: masked. -/
def MsixEnt.blank : MsixEnt := { addr := 0, data := 0, masked := true }

/-- Configuration space as PCIe resets it: payloads of 128 bytes, read requests of 512 (log entry 156). -/
def FnPcie.blank : FnPcie :=
  { mps := 0, mrrs := 2, ctoRange := 0, ctoOff := false, aspm := false, msixOn := false, msixMask := false, vectors := [], pending := [] }

def FnSt.blank : FnSt :=
  { en := false, enHeld := false, rdy := false, cfs := false, shn := 0, shst := 0, numVfs := 0, wrr := false, ab := 7, lpw := 0,
    mpw := 0, hpw := 0, anaNotices := false, zoneNotices := false, aers := [], events := [], changed := [], rrNext := [], wrrClass := 1, wrrUsed := 0,
    pcie := FnPcie.blank, cc := 0, aqa := 0, asq := 0, acq := 0 }

def QCtx.blank : QCtx :=
  { sqBase := 0, sqValid := false, sqSize := 0, sqHead := 0, sqTail := 0, sqPrio := 0, sqState := 0, sqCq := 0, cqBase := 0,
    cqValid := false, cqIen := false, cqPhase := 0, cqSize := 0, cqHead := 0, cqTail := 0, cqIv := 0, func := 0, qid := 0,
    dbErr := 0, pairs := [], fetched := 0, completed := 0 }

/-- A queue context nothing has written: that of an admin queue reads HALTED until its controller is enabled (R113, R475). -/
def QCtx.fresh (i : Nat) : QCtx := if 262144 ≤ i then { QCtx.blank with sqState := 3, func := i - 262144 } else QCtx.blank

def PortSt.blank : PortSt := { streams := [], relinking := false, owed := [], aer := [], aerHeader := none }
def IdeStream.blank : IdeStream := { lo := 0, hi := 0, addrs := [], keys := [], runs := [] }

def Zone.blank : Zone :=
  { cls := 0, zfc := false, reloc := false, refresh := false, spilled := false, type := 0, side := 0, state := 0, nsid := 0,
    zidx := 0, cwp := 0, rwp := 0, pwp := 0, pfp := 0, rpp := 0, rows := 0, tenant := 0, lastChange := 0, lastWrite := 0,
    logUnits := 0, members := [], pending := false, granules := [], extents := [] }

def RowSt.blank : RowSt :=
  { complete := false, completeAt := 0, issued := false, left := [], plan := none, spill := none, spillLen := 0, lastData := 0, reading := 0 }

def Chip.fn (m : Chip) (f : Nat) : FnSt := tget FnSt.blank m.q.fns f
def Chip.setFn (m : Chip) (f : Nat) (v : FnSt) : Chip := { m with q := { m.q with fns := tset FnSt.blank m.q.fns f v } }
def Chip.qc (m : Chip) (i : Nat) : QCtx := tget (QCtx.fresh i) m.q.qctx i
def Chip.setQc (m : Chip) (i : Nat) (v : QCtx) : Chip := { m with q := { m.q with qctx := tset (QCtx.fresh i) m.q.qctx i v } }
def Chip.port (m : Chip) (q : Nat) : PortSt := tget PortSt.blank m.q.ports q
def Chip.setPort (m : Chip) (q : Nat) (v : PortSt) : Chip :=
  { m with q := { m.q with ports := tset PortSt.blank m.q.ports q v } }
def Chip.cmd? (m : Chip) (s : Nat) : Option Cmd := tfind m.q.slots s
def Chip.putCmd (m : Chip) (s : Nat) (c : Cmd) : Chip := { m with q := { m.q with slots := tput m.q.slots s c } }
def Chip.dropCmd (m : Chip) (s : Nat) : Chip := { m with q := { m.q with slots := tdel m.q.slots s } }
def Chip.zone (m : Chip) (z : Nat) : Zone := tget Zone.blank m.zn.zones z
def Chip.setZone (m : Chip) (z : Nat) (v : Zone) : Chip :=
  { m with zn := { m.zn with zones := tset Zone.blank m.zn.zones z v } }
/-- The work number of a row's staging and parity buffers: above 2^32. -/
def rowWork (z r : Nat) : Nat := 2 ^ 32 + rowKey z r
def Chip.row (m : Chip) (z r : Nat) : RowSt := tget RowSt.blank m.zn.rows (rowKey z r)
def Chip.setRow (m : Chip) (z r : Nat) (v : RowSt) : Chip :=
  { m with zn := { m.zn with rows := tset RowSt.blank m.zn.rows (rowKey z r) v } }

/-- A change of one command, marking progress (R52). -/
def Chip.modCmd (m : Chip) (s : Nat) (g : Cmd → Cmd) : Chip :=
  match m.cmd? s with
  | some c => m.putCmd s { g c with progress := m.isl.dtc }
  | none => m

/-! ## Memory requests to the host (R85, R97, R102) -/

/-- How many TLPs of at most `size` bytes the ranges make. -/
def tlpCount (size : Nat) (at_ : List (Nat × Nat)) : Nat := (at_.map fun r => ceilDiv r.2 size).sum

/-- A posted request of a function. While its port's link recovers from a credit stall it waits for credit (R97). -/
def Chip.post (m : Chip) (f : Nat) (o : Out) : Chip :=
  let q := m.slotOf f
  let p := m.port q
  if p.relinking then m.setPort q { p with owed := p.owed ++ [o] } else m.send o

/-- Write bytes into host memory for a command's slot. -/
def Chip.hostWrite (m : Chip) (f slot : Nat) (at_ : List (Nat × Nat)) (bytes : List Byte) : Chip :=
  m.post f (.hostWrite f slot at_ (tlpCount (128 * 2 ^ (m.fn f).pcie.mps) at_) bytes)

/-- Read host memory: for a slot its data (kind 0) or a list (3), for a queue context its entries (1), or an image (2). -/
def Chip.hostRead (m : Chip) (f slot kind : Nat) (at_ : List (Nat × Nat)) : Chip :=
  m.send (.hostRead f slot kind at_ (tlpCount (128 * 2 ^ (m.fn f).pcie.mrrs) at_))

/-- The pointers of a command's transfer of `len` bytes: what its entry names, with a read of the first list or segment. -/
def Chip.askPtrs (m : Chip) (s len : Nat) : Chip :=
  match m.cmd? s with
  | none => m
  | some c =>
    let (ps, l) := entryPtrs c.entry len
    let m := m.modCmd s fun c => { c with ptrs := ps, list := l }
    match l with
    | some a => m.hostRead c.fn s 3 [a]
    | none => m

/-- The data a command takes is asked for, once its pointers are known. -/
def Chip.askData (m : Chip) (s : Nat) : Chip :=
  match m.cmd? s with
  | some c => if c.list.isSome ∨ c.want = 0 then m else m.hostRead c.fn s 0 (hostRange c.ptrs 0 c.want)
  | none => m

/-- A command's data is fetched from the host: its lists first. -/
def Chip.fetchData (m : Chip) (s len : Nat) : Chip := (m.askPtrs s len).askData s

/-- A command reads host memory: a list or segment, or data not all here yet (R94). -/
def Cmd.takesData (c : Cmd) : Bool := c.list.isSome || c.dataOpen && decide (c.data.length < c.want)

/-- A command gives the host `len` bytes. Its pointers must be known: with a list or segment to read first, the same command acts again when it is
in. -/
def Chip.withPtrs (m : Chip) (s len : Nat) (g : Cmd → Chip → Chip) : Chip :=
  let act (m : Chip) : Chip :=
    match m.cmd? s with
    | some c => if c.list.isSome then m else g c m
    | none => m
  match m.cmd? s with
  | some c => if c.ptrs = [] ∧ c.list.isNone then act (m.askPtrs s len) else act m
  | none => m

/-- Bytes of a command's transfer, from byte `off` of it, go to the host. -/
def Chip.giveHost (m : Chip) (s off : Nat) (bytes : List Byte) : Chip :=
  match m.cmd? s with
  | some c => m.hostWrite c.fn s (hostRange c.ptrs off bytes.length) bytes
  | none => m

/-- An interrupt of a function's vector: its message, or while masked the pending bit (R85, R87). -/
def Chip.interrupt (m : Chip) (f v : Nat) : Chip :=
  let x := m.fn f
  let p := x.pcie
  let e := tget MsixEnt.blank p.vectors v
  if !p.msixOn then m
  else if p.msixMask || e.masked then
    m.setFn f { x with pcie := { p with pending := if v ∈ p.pending then p.pending else p.pending ++ [v] } }
  else m.post f (.msix f e.addr e.data)

/-! ## Asynchronous events and completions -/

/-- Free slots of a range (R120). -/
def Chip.freeIn (m : Chip) (lo hi : Nat) : Nat := (hi - lo) - (m.q.slots.filter fun e => decide (lo ≤ e.1 ∧ e.1 < hi)).length

/-- Write the completion queue entry of a command of SQ context `q` (R123, R110): the CQ tail moves, the phase flips at the
end of the queue, and an interrupt is sent where the CQ enables it. -/
def Chip.postCqe (m : Chip) (q cid : Nat) (st : Status) (dw0 : Nat := 0) : Chip :=
  let sq := m.qc q
  let cq := m.qc sq.sqCq
  let wraps := decide (cq.cqTail ≥ cq.cqSize)
  let m := m.setQc sq.sqCq { cq with
    cqTail := if wraps then 0 else cq.cqTail + 1,
    cqPhase := if wraps then 1 - cq.cqPhase else cq.cqPhase,
    completed := (cq.completed + 1) % 2 ^ 32 }
  let m := m.post sq.func (.cqe sq.sqCq (cq.cqBase + 16 * cq.cqTail) sq.sqHead sq.qid cid st dw0)
  if cq.cqIen then m.interrupt sq.func cq.cqIv else m

/-- An asynchronous event for a function: it completes an outstanding Asynchronous Event Request, or waits for one (R113,
R520). -/
def Chip.aen (m : Chip) (f type info page : Nat) : Chip :=
  let fs := m.fn f
  match fs.aers with
  | s :: rest =>
    match m.cmd? s with
    | some c =>
      let m := m.setFn f { fs with aers := rest }
      ((m.postCqe c.q (cidOf c.entry) stOk (65536 * page + info * 256 + type)).dropCmd s).send (.aen f s type info page)
    | none => m.setFn f { fs with aers := rest, events := fs.events ++ [(type, info, page)] }
  | [] => m.setFn f { fs with events := fs.events ++ [(type, info, page)] }

/-- The report of a missed command at its end (R206): event 0x5001 with the lateness. -/
def Chip.reportMiss (m : Chip) (s : Nat) (c : Cmd) : Chip :=
  match c.missAt with
  | some _ => m.emit 10 0x5001 ((m.now + 2 ^ 32 - c.deadline % 2 ^ 32) % 2 ^ 32) (some (m.cmdTag s c))
  | none => m

/-- The solve a source read belongs to. -/
def Chip.solveOf (m : Chip) (u : DUnit) : Option Solve :=
  match u.purpose with
  | .recon job _ => m.md.solves.find? (·.id = job)
  | .repair job _ => m.md.solves.find? (·.id = job)
  | _ => none

/-- The command slot a unit works for: that of its read part, or of the part its solve serves. -/
def Chip.unitSlot (m : Chip) (u : DUnit) : Option Nat :=
  match u.purpose with
  | .hostRead s _ => some s
  | .index s _ _ => some s
  | _ => (m.solveOf u).bind fun v =>
    match v.purpose with
    | .part s _ => some s
    | .block s _ _ => some s
    | _ => none

/-- CMD moves the earliest overflow units into the queue as entries free (R183). -/
def DieSt.fill (x : DieSt) : DieSt :=
  (List.range (64 - x.queue.length)).foldl (fun (x : DieSt) _ =>
    match firstUnit x.overflow with
    | some u => { x with overflow := x.overflow.filter (·.id ≠ u.id), queue := insertUnit u x.queue }
    | none => x) x

/-- Units of a die that nothing asks for any more: those not yet started leave its queue and overflow list, one that runs becomes `dropped` (R189,
R207). A new head of the queue is looked at (R186). -/
def DieSt.shed (gone : DUnit → Bool) (x : DieSt) : DieSt :=
  let q := x.queue.filter (!gone ·)
  { x with
    queue := q, overflow := x.overflow.filter (!gone ·), look := x.look || decide (q.head? ≠ x.queue.head?),
    running := x.running.map fun u => if gone u then { u with purpose := .dropped } else u }.fill

/-- Die units that nothing asks for any more go: those not started are taken back, the others become `dropped`. -/
def Chip.cancelUnits (m : Chip) (gone : DUnit → Bool) : Chip :=
  let drop (u : DUnit) : DUnit := if gone u then { u with purpose := .dropped } else u
  { m with
    tw := { m.tw with fwds := m.tw.fwds.map fun e => (e.1, { e.2 with unit := drop e.2.unit }) }
    md := { m.md with
      disp := m.md.disp.filter (!gone ·), retry := m.md.retry.filter (!gone ·), softQ := m.md.softQ.map drop
      dies := m.md.dies.map fun e =>
        (e.1, if (e.2.queue ++ e.2.overflow ++ e.2.running.toList).any gone then e.2.shed gone else e.2) } }

/-- Read parts of a command that ends (R207): the units of its parts and of the solves for them, and those solves. -/
def Chip.dropUnits (m : Chip) (s : Nat) : Chip :=
  let m1 := m.cancelUnits fun u => decide (m.unitSlot u = some s)
  { m1 with md := { m1.md with
      solves := m1.md.solves.filter (fun v => match v.purpose with
        | .part t _ => decide (t ≠ s)
        | .block t _ _ => decide (t ≠ s)
        | _ => true) } }

/-- The blocks of a slot leave the engines (R282, R287): a compress engine drops its block, a decompress engine runs to the end of its own for nobody. -/
def Chip.leaveEngines (m : Chip) (s : Nat) : Chip :=
  { m with eng := { comp := m.eng.comp.filter fun h => decide (h.2.1 ≠ s),
                    decomp := m.eng.decomp.map fun h => (h.1, { h.2 with live := h.2.live && decide (h.2.slot ≠ s) }) } }

/-- A slot is freed: its blocks leave the engines, its die units, holds and buffers go, and an Asynchronous Event Request in it is no longer outstanding (R121, R138). -/
def Chip.freeSlot (m : Chip) (s : Nat) : Chip :=
  match m.cmd? s with
  | none => m
  | some c =>
    let x := m.fn c.fn
    let m := if s ∈ x.aers then m.setFn c.fn { x with aers := x.aers.filter fun t => decide (t ≠ s) } else m
    (c.refs.foldl (fun (m : Chip) i => m.dropRef i) (((m.dropUnits s).releaseBuffers s).leaveEngines s)).dropCmd s

/-- A delete of SQ context `q` completes once no command of the SQ is left (R139). -/
def Chip.finishDelete (m : Chip) (q : Nat) : Chip :=
  let x := m.qc q
  if x.sqState = 2 ∧ (m.q.slots.all fun e => decide (e.2.q ≠ q)) then
    let waiting := m.q.slots.find? fun e => e.2.admin && decide (opcodeOf e.2.entry = 0x00) &&
      decide ((m.stampEpoch.2.qctxOf e.2.fn (bits (dw e.2.entry 10) 15 0)) = some q)
    let m := m.setQc q { x with sqState := 0, sqValid := false, pairs := [], sqHead := 0, sqTail := 0 }
    match waiting with
    | some (s, c) => (m.postCqe c.q (cidOf c.entry) stOk).freeSlot s
    | none => m
  else m

/-- A command ends: with its completion, with a FWDCPL to the twin it came from (R427), or internally without either (R98,
R121). The miss it may carry is reported. -/
def Chip.finish (m : Chip) (s : Nat) (st : Option Status) (dw0 : Nat := 0) : Chip :=
  match m.cmd? s with
  | none => m
  | some c =>
    let m := m.reportMiss s c
    let m := match st.map (·.forAdmin c.admin), c.peer with
      | some v, none => m.postCqe c.q (cidOf c.entry) v dw0
      | some v, some t => m.sendFrame 0x0E c.zone none
          (leBytes 2 t ++ leBytes 2 (v.sc + v.sct * 256 + 32768 * (b1 v.dnr)) ++ leBytes 4 dw0) []
      | none, _ => m
    let m := m.freeSlot s
    if c.peer.isNone then m.finishDelete c.q else m

/-! ## Parts of a read -/

/-- The LBA size of a zone's namespace, as a power of two. -/
def Chip.zoneLog (m : Chip) (z : Nat) : Nat := ((m.ns? (m.zone z).nsid).map (·.lbaLog)).getD 12

def isWriteOp (op : Nat) : Bool := decide (op = 0x01 ∨ op = 0x08 ∨ op = 0x7D)

/-- The commands that write zone `z` and have not committed, or not their second record (R136), as (slot, command), in acceptance order. -/
def Chip.writers (m : Chip) (z : Nat) : List (Nat × Cmd) :=
  isort (fun a b => decide (a.2.seq ≤ b.2.seq)) (m.q.slots.filter fun e => !e.2.admin &&
    isWriteOp (opcodeOf e.2.entry) && decide (e.2.zone = some z) && decide (e.2.phase = .running ∨ e.2.phase = .committed))

/-- Accepted writes and appends of a zone not yet committed or ended (R174). -/
def Chip.uncommitted (m : Chip) (z : Nat) : Nat := (m.writers z).length

/-- The real number of a zone: a zone that was reset with reads still running keeps its old stripe under a number 2^20 × k above (R147). -/
def realZone (z : Nat) : Nat := z % 2 ^ 20

/-- The newest log-block entry of a conventional 4 KiB unit: (log block, position). -/
def Chip.logEntry (m : Chip) (z u : Nat) : Option (Nat × Nat) :=
  m.zn.logBlks.findSome? fun e => (e.2.units.find? fun x => x.2 = 2 ^ 20 * z + u).map fun x => (e.1, x.1)

/-- The zone number under which log block `k`'s stripe is kept: beyond the global zones. -/
def logZone (k : Nat) : Nat := 262144 + k

/-- Byte `b` of zone `z` as a codeword address of the poison table (R259). -/
def poisonKey (z b : Nat) : Nat := (2 ^ 33 * z + b) / 4096

/-- The physical byte range of an elastic granule: from its OFF to the next written granule's, or to PFP (R161). -/
def Zone.granuleRange (x : Zone) (g : Nat) : Nat × Nat :=
  match tfind x.granules g with
  | none => (0, 0)
  | some o =>
    let next := (x.granules.filter fun e => decide (g < e.1)).map (·.2)
    (o * 256, (next.headD x.pfp) * 256)

/-- Byte `b` of stripe `z` lies in the spill log: its row is spilled, and the byte was there when it was (R158, R159). -/
def Chip.inSpill (m : Chip) (z b : Nat) : Bool :=
  let y := m.row z (rowOf b)
  y.spill.isSome && decide (b % 4194304 < y.spillLen)

/-- A poisoned codeword lies in the bytes from `a` to below `b` of a stripe. -/
def Chip.poisoned (m : Chip) (z a b : Nat) : Bool :=
  m.zn.poison.any fun k => decide (poisonKey z a ≤ k) && decide (k * 4096 < 2 ^ 33 * z + b)

/-- Where the bytes from `b` of zone `z` come from at this moment, with bytes already committed below `bCwp`, programmed
below `bPwp`, reserved below `bRwp` (R127, R149, R159, R259). An elastic zone's bytes lie where its granule index says. -/
def Chip.sourceSeq (m : Chip) (z b bPwp bCwp bRwp : Nat) : PartSrc :=
  let x := m.zone z
  let (lo, hi) := if x.type = 1 then x.granuleRange (b / 65536) else (b, b + 1)
  if b < bCwp && m.poisoned z lo hi then .bad
  else if b < bPwp then .flash
  else if b < bCwp then (if m.inSpill z lo || x.type = 1 && m.inSpill z (hi - 1) then .spill else .buffer)
  else if b < bRwp then .wait
  else .zeros

/-- Where a 4 KiB unit of a conventional zone comes from (R133, R167): a write with an entry of the range table that overlaps it is waited for; for the
merge of a write, an earlier one (R168). -/
def Chip.sourceConv (m : Chip) (z u : Nat) (before : Option Nat) : PartSrc :=
  if m.q.slots.any fun e => e.2.tabled && decide (e.2.phase = .running ∨ e.2.phase = .committed) && (before.all fun n => decide (e.2.seq < n)) &&
      (m.rangeIn e.2 z).any fun r => decide (r.1 < (u + 1) * 4096 ∧ u * 4096 < r.1 + r.2) then .wait
  else match m.logEntry z u with
    | some (k, p) => if poisonKey (logZone k) (p * 4096) ∈ m.zn.poison then .bad
      else if p < 1024 * (m.zone (logZone k)).rows then .logBlock
      else if m.inSpill (logZone k) (p * 4096) then .spill else .buffer
    | none => if (m.zone z).members = [] then .zeros
      else if poisonKey z (u * 4096) ∈ m.zn.poison then .bad else .flash

/-- The source of byte `b` of zone `z` (R127, R133). -/
def Chip.sourceAt (m : Chip) (z b : Nat) (before : Option Nat) : PartSrc :=
  let x := m.zone z
  let l := m.zoneLog z
  if x.type = 2 then m.sourceConv z (b / 4096) before
  else m.sourceSeq z b (x.pwp * 2 ^ l) (x.cwp * 2 ^ l) (x.rwp * 2 ^ l)

/-- The chunk size parts are cut to: a page (a codeword where the page holds a poisoned one), a granule of an elastic zone, a
4 KiB unit of a conventional one. -/
def Chip.chunk (m : Chip) (z b : Nat) : Nat :=
  let t := (m.zone z).type
  if t = 1 then 65536 else if t = 2 then 4096
  else if (List.range 4).any fun i => decide (poisonKey z (16384 * (b / 16384) + i * 4096) ∈ m.zn.poison) then 4096 else 16384

/-- Cut `len` bytes from byte `b` of zone `z` into parts at the chunk boundaries and at the zone's pointers; `before`: for the merge of the write with
that acceptance number. -/
def Chip.cutParts (m : Chip) (z : Nat) (before : Option Nat) : Nat → Nat → Nat → List Part
  | 0, _, _ => []
  | n + 1, b, len =>
    if len = 0 then []
    else
      let x := m.zone z
      let l := m.zoneLog z
      let c := m.chunk z b
      let stops := ((b / c + 1) * c) :: (if x.type = 2 then [] else [x.pwp * 2 ^ l, x.cwp * 2 ^ l, x.rwp * 2 ^ l])
      let e := (stops.filter (b < ·)).foldl min (b + len)
      { zone := z, off := b, len := e - b, src := m.sourceAt z b before, place := none, left := 0, lost := [], decoded := [], tried := [], done := false, again := false } ::
        m.cutParts z before n e (len - (e - b))

/-- The stretches of consecutive parts from one source: the parts of R127, each of which may be served in several pieces. -/
def stretches (src : PartSrc) : List Part → Nat
  | [] => 0
  | [p] => b1 (decide (p.src = src))
  | p :: q :: l => b1 (decide (p.src = src ∧ ¬(q.src = src ∧ q.zone = p.zone))) + stretches src (q :: l)

/-! ## Die units of the data path -/

/-- The physical bytes a flash part reads: the range itself, or its granules' blocks (R157, R164). -/
def Chip.physRange (m : Chip) (p : Part) : Nat × Nat :=
  let x := m.zone p.zone
  if x.type = 1 then x.granuleRange (p.off / 65536) else (p.off, p.off + p.len)

/-- The stripe a part reads and the physical range in it, as they are now: a conventional unit may lie in a log block. -/
def Chip.placeNow (m : Chip) (p : Part) : Nat × Nat × Nat :=
  match if (m.zone p.zone).type = 2 ∧ p.src ≠ .flash then m.logEntry p.zone (p.off / 4096) else none with
  | some (k, pos) => (logZone k, pos * 4096 + p.off % 4096, pos * 4096 + p.off % 4096 + p.len)
  | none => let (a, b) := m.physRange p; (p.zone, a, b)

/-- The stripe and the range a part reads: those of its start (R171), or those of this moment. -/
def Chip.partPlace (m : Chip) (p : Part) : Nat × Nat × Nat := p.place.getD (m.placeNow p)

/-- The pages from byte `a` to below byte `b` of a stripe, as byte offsets of their starts. -/
def pagesOf (a b : Nat) : List Nat :=
  if b ≤ a then [] else (List.range ((b - 1) / 16384 + 1 - a / 16384)).map fun i => 16384 * (a / 16384 + i)

/-- The codewords of a page that the bytes from `a` to below `b` lie in: the first, and their number (R219). -/
def pageCws (a b pg : Nat) : Nat × Nat :=
  let cw := (a - pg) / 4096
  (cw, ceilDiv (min b (pg + 16384) - pg) 4096 - cw)

/-- Where page `k` of member `t` of row `r` begins in the data of its stripe; the parity units follow 4 GiB further on. -/
def pageStart (r t k : Nat) : Nat :=
  let col := (t + 36 - r % 18 - 2) % 18
  (if col < 16 then 4194304 * r + 262144 * col else 2 ^ 32 + 262144 * (r * 2 + col - 16)) + 16384 * k

/-- Every unit of this controller's die engines: not yet placed, in a soft decoder, in a queue or overflow list, on a die. -/
def Chip.allUnits (m : Chip) : List DUnit :=
  m.md.disp ++ m.md.softQ ++ m.md.dies.flatMap fun e => e.2.queue ++ e.2.overflow ++ e.2.running.toList ++ e.2.suspended.toList

/-- Drizzle but for spills, and rebuild (R180). -/
def DUnit.drizzle (u : DUnit) : Bool :=
  match u.purpose with
  | .copyRead _ _ _ => true
  | .copyWrite _ _ _ => true
  | .scrub => true
  | .verify _ _ => true
  | .logCopy _ => true
  | .mergeRead _ => true
  | .mergeWrite _ _ _ => true
  | .regionRead _ _ => true
  | .regionWrite _ _ => true
  | _ => false

/-- A unit of Drizzle, rebuild or a die operation forwarded by the twin holds a device slot (R120). -/
def Chip.needsSlot (m : Chip) (u : DUnit) : Bool :=
  u.drizzle || match u.purpose with
  | .spill _ _ => true
  | .forwarded _ => true
  | .recon _ _ => (m.unitSlot u).isNone
  | .repair _ _ => (m.unitSlot u).isNone
  | _ => false

/-- The lowest free slot for device-originated work (R120). -/
def Chip.deviceSlot (m : Chip) : Option Nat :=
  let held := m.allUnits.filterMap (·.slot)
  ((List.range 2048).map (63488 + ·)).find? fun s => (m.cmd? s).isNone && !held.contains s

/-- A unit with the next number. It takes the epoch and the place in acceptance order of its command, or those of this moment (R53, R54,
R181), and its device slot where one is free. -/
def Chip.stampUnit (m : Chip) (u : DUnit) : DUnit :=
  let u := { u with id := m.md.unitId }
  let u := match (m.unitSlot u).bind m.cmd? with
    | some c => { u with created := c.acceptedAt, seq := c.seq, epoch := c.epoch }
    | none => { u with created := m.isl.dtc, seq := m.q.seq, epoch := m.stampEpoch.1 }
  if m.needsSlot u then { u with slot := m.deviceSlot } else u

/-- A new unit for a die of this controller. -/
def Chip.newUnit (m : Chip) (u : DUnit) : Chip :=
  { m with md := { m.md with disp := m.md.disp ++ [m.stampUnit u], unitId := m.md.unitId + 1 } }

/-- A blank unit of a kind for a purpose, device-originated, of a whole page or unit. -/
def DUnit.make (die : Nat) (kind : UKind) (purpose : Purpose) (cls deadline block row page : Nat) : DUnit :=
  { id := 0, die := die, kind := kind, purpose := purpose, tenant := 0, internal := true, cls := cls, deadline := deadline,
    created := 0, block := block, row := row, page := page, slc := false, passes := 0, susp := 0, busy := 0, ladder := [],
    bad := [], soft := false, again := false, held := false, late := false, inj := false, slot := none, epoch := 0, seq := 0
    off := 0, cw := 0, ncw := if page = 255 then 64 else 4 }

/-- A poisoned codeword lies in the stripe position a unit works on. -/
def Chip.unitPoison (m : Chip) (z r k : Nat) : Bool :=
  m.poisoned z (pageStart r k 0) (pageStart r k 0 + 262144)

/-- The tag a unit carries (R47 to R49): of its command's read, of a reconstruct-around-busy read, or device-originated. The kinds of erases,
sanitizes and metadata are those of log entry 147. -/
def Chip.unitTag (m : Chip) (u : DUnit) : Nat :=
  let on (b : Bool) (bit : Nat) : List Nat := if b then [bit] else []
  let program := decide (u.kind = .program)
  let more := on (program && u.slc) 154 ++ on (program && decide (m.f FCH_DIE.HOT u.die = 1)) 160
  let dev (kind : Nat) (zone : Option Nat) (more' : List Nat) : Nat :=
    deviceTag kind u.cls u.epoch u.tenant (u.slot.getD 0) ((zone.map realZone).filter (· < 262144)) u.deadline
      (on (zone.any fun z => decide (realZone z < 262144 ∧ (m.zone z).type = 1)) 146 ++ more ++ more')
  match (m.unitSlot u).bind fun s => (m.cmd? s).map fun c => (s, c) with
  | some (s, c) =>
    (match u.purpose with
     | .hostRead _ i => m.cmdUnitTag s c c.kind (on (decide (i = 0)) 141 ++ on (decide (i + 1 = c.parts.length)) 142)
     | .index _ _ _ => m.cmdUnitTag s c 0xC []
     | _ => m.cmdUnitTag s c (if (m.solveOf u).any (·.recon) then 0xD else 1) [])
  | none =>
    (match u.purpose with
     | .row z r k =>
       if k = parityP r ∨ k = parityQ r then dev 4 (some z) (on (decide (k = parityQ r)) 157) else dev 2 (some z) (on (m.unitPoison z r k) 158)
     | .spill z _ => dev 8 (some z) []
     | .copyRead z k r => dev (if m.zn.moves.any fun v => decide (v.zone = z ∧ v.member = k) && v.rebuild then 9 else 8) (some z) (on (m.unitPoison z r k) 158)
     | .copyWrite z k r => dev (if m.zn.moves.any fun v => decide (v.zone = z ∧ v.member = k) && v.rebuild then 9 else 8) (some z) (on (m.unitPoison z r k) 158)
     | .scrub => dev 8 none []
     | .verify z _ => dev 8 (some z) []
     | .logCopy k => dev 8 (some (logZone k)) []
     | .mergeRead z => dev 8 (some z) []
     | .mergeWrite z _ _ => dev 8 (some z) []
     | .regionRead _ _ => dev 8 none []
     | .regionWrite _ _ => dev 8 none []
     | .forwarded _ => dev 6 none [150]
     | .recon _ _ => dev 9 ((m.solveOf u).map (·.zone)) []
     | .repair _ _ => dev 9 ((m.solveOf u).map (·.zone)) []
     | _ => dev 0xC none [])

/-! ## Stored bytes (R290, R291) -/

/-- The key of a namespace's slot. -/
def Chip.dataKey (m : Chip) (nsid : Nat) : Nat :=
  match m.ns? nsid with
  | some n => match tfind m.kv.slots n.keySlot with
    | some k => k.key
    | none => 0
  | none => 0

/-- Bytes at zone byte offset `off` of zone `z` as they are stored: each 256 B unit under its tweak. -/
def Chip.cipher (m : Chip) (z off : Nat) (bs : List Byte) : List Byte :=
  (List.range (ceilDiv bs.length 256)).flatMap fun i =>
    Config.xts (m.dataKey (m.zone z).nsid) (2 ^ 24 * realZone z + off / 256 + i) (slice bs (i * 256) 256)

/-- Stored bytes back in the clear. -/
def Chip.decipher (m : Chip) (z off : Nat) (bs : List Byte) : List Byte :=
  (List.range (ceilDiv bs.length 256)).flatMap fun i =>
    Config.xtsInverse (m.dataKey (m.zone z).nsid) (2 ^ 24 * realZone z + off / 256 + i) (slice bs (i * 256) 256)

/-! ## Unrecovered data -/

/-- The row and member of a byte of a stripe, as `pageStart` places them. -/
def stripePlace (b : Nat) : Nat × Nat :=
  if b < 2 ^ 32 then (rowOf b, memberOf (rowOf b) (columnOf b))
  else
    let r := (b - 2 ^ 32) / 524288
    (r, if (b - 2 ^ 32) / 262144 % 2 = 0 then parityP r else parityQ r)

/-- The report of an unrecoverable codeword (R258): counts, the first-codeword log and fault event 0x6101. -/
def Chip.unrecoverable (m : Chip) (z b : Nat) (tag : Option Nat) : Chip :=
  let (r, mem) := stripePlace b
  let m := m.incF SPE_UNRCNT.COUNT
  let m := if m.f SPE_ULOG0.VALID = 1 then m
    else (((((m.setF SPE_ULOG0.VALID 1).setF SPE_ULOG0.ZONE z).setF SPE_ULOG0.ROW r).setF SPE_ULOG1.MEMBER mem).setF
      SPE_ULOG1.PAGE (pageOf b)).setF SPE_ULOG1.CW (b % 16384 / 4096)
  m.emit 11 0x6101 0 tag

end Sys2Proof.Machine
end

