-- ==== Sys2Proof/Machine/Zones.lean ====
section
/-! DEFINITION. The zone engine (R142 to R172): states, limits and implicit close, binding a stripe, the LBA checks of R148,
rows and their programs, commits, the end of an uncommitted write (R132), Full, Reset and degraded zones. -/

namespace Sys2Proof.Machine

/-! ## Blocks and dies -/

def Blk.blank : Blk :=
  { state := 0, refresh := false, urgent := false, outwin := false, slc := false, stepValid := false, lastStep := 0, rows := 0,
    erases := 0, reads := 0, maxbits := 0, needErase := false }

/-- The key of block `b` of die `d`. -/
def blkKey (d b : Nat) : Nat := d * 8192 + b
def Chip.blk (m : Chip) (d b : Nat) : Blk := tget Blk.blank m.md.blocks (blkKey d b)
def Chip.setBlk (m : Chip) (d b : Nat) (v : Blk) : Chip :=
  { m with md := { m.md with blocks := tset Blk.blank m.md.blocks (blkKey d b) v } }

/-- The payload of block `b`'s record (R426, type 0x05): flags REFRESH, URGENT, OUTWIN, SLC, STEP_VALID in bits 0 to 4. -/
def Blk.record (x : Blk) (b : Nat) : List Byte :=
  leBytes 2 b ++ leBytes 1 x.state ++
    leBytes 1 (b1 x.refresh + 2 * b1 x.urgent + 4 * b1 x.outwin + 8 * b1 x.slc + 16 * b1 x.stepValid) ++ leBytes 4 x.erases

/-- A block's delta record. -/
def Chip.blkDelta (m : Chip) (d b : Nat) : Chip := m.delta 0x05 d none ((m.blk d b).record b)

/-- A change of a block, told to the twin. -/
def Chip.modBlk (m : Chip) (d b : Nat) (g : Blk → Blk) : Chip := (m.setBlk d b (g (m.blk d b))).blkDelta d b

/-- The flash geometry in force. -/
def Chip.flash (m : Chip) : FlashRec := m.img.tables.flash

/-- The dies the image declares: CE below CE_COUNT (R26). -/
def Chip.declared (m : Chip) (d : Nat) : Bool := decide (d < 3072 ∧ dieCe d < m.flash.ceCount)

/-- Block `b` of die `d` holds spilled data, or is the die's open spill block (R158). -/
def Chip.spillHere (m : Chip) (d b : Nat) : Bool :=
  (tfind m.zn.spillBlk d).any (fun e => decide (e.1 = b)) ||
    m.zn.rows.any fun e => e.2.spill.any (fun p => decide (p.1 = d ∧ p.2.1 = b)) || e.2.plan.any (fun p => decide (p.1 = d ∧ p.2.1 = b))

/-- A free block of a die for binding: erased or awaiting erase, below the wear limit (R154, R237); for a log block one of the metadata region that
holds nothing (R166). -/
def Chip.freeBlocks (m : Chip) (d : Nat) (log : Bool := false) : List (Nat × Blk) :=
  ((List.range m.flash.userBlocks).map fun b => (b, m.blk d b)).filter fun e =>
    decide (e.2.erases < m.f LDP_WEARCFG.PE_LIMIT) &&
      (if log then decide (e.2.state = 3) && (decide (e.2.rows = 0) || e.2.needErase || e.2.slc) && !m.spillHere d e.1 else decide (e.2.state ≤ 1))

/-- The block must be erased before it is programmed. -/
def Blk.dirty (x : Blk) : Bool := decide (x.state = 1 ∨ x.rows ≠ 0) || x.needErase

/-- Least worn first, then the lower number. -/
def leastWorn : List (Nat × Blk) → Option (Nat × Blk)
  | [] => none
  | e :: t => match leastWorn t with
    | some g => if e.2.erases ≤ g.2.erases then some e else some g
    | none => some e

/-- The block binding takes on a die: the least-worn erased one, else the least-worn awaiting erase (R155). -/
def Chip.takeBlock (m : Chip) (d : Nat) (log : Bool := false) : Option (Nat × Blk) :=
  let fs := m.freeBlocks d log
  match leastWorn (fs.filter fun e => !e.2.dirty) with
  | some e => some e
  | none => leastWorn fs

/-- A die is eligible for binding (R154, R220): SERVICE, TRAINING or RESET, not under rebuild, with a free block. -/
def Chip.eligible (m : Chip) (d : Nat) (log : Bool := false) : Bool :=
  let st := m.f FCH_DIE.STATE d
  decide (st = 2 ∨ st = 3 ∨ st = 4) && decide (m.f FCH_DIE.REBUILD d = 0) && (m.takeBlock d log).isSome

/-! ## Placement (R155) -/

/-- A candidate die: its number, the erase count of its least-worn free block, its active-zone memberships. -/
structure Cand where
  die : Nat
  wear : Nat
  zones : Nat
deriving DecidableEq, Repr

/-- The target wear of a placement class: 1 hot, 2 warm, 3 cold, 4 archival. -/
def targetWear (cls : Nat) (wears : List Nat) : Nat :=
  let l := isort (fun a b => decide (a ≤ b)) wears
  let n := l.length
  if cls = 1 then l.getD 0 0 else if cls = 2 then l.getD (n / 3) 0 else if cls = 3 then l.getD (2 * n / 3) 0 else l.getD (n - 1) 0

/-- The score of a candidate. -/
def Cand.score (t spread : Nat) (c : Cand) : Nat := (if c.wear < t then t - c.wear else c.wear - t) + spread * c.zones

/-- One pass over the candidates in order, under the three rules of R154. -/
def pickDies : List Cand → List Nat → List Nat
  | [], chosen => chosen
  | c :: cs, chosen =>
    if chosen.length ≥ 18 then chosen
    else if chosen.any (fun d => decide (dieChannel d = dieChannel c.die)) then pickDies cs chosen
    else if (chosen.filter fun d => decide (dieCluster d = dieCluster c.die)).length ≥ 2 then pickDies cs chosen
    else if (chosen.filter fun d => decide (dieSide d = dieSide c.die)).length ≥ 9 then pickDies cs chosen
    else pickDies cs (chosen ++ [c.die])

/-- The members R155 chooses, in ascending channel order; none when fewer than 18 can be had. -/
def placement (cls spread : Nat) (cands : List Cand) : Option (List Nat) :=
  let t := targetWear cls (cands.map (·.wear))
  let order := isort (fun a b => let x := a.score t spread; let y := b.score t spread
    decide (x < y) || (decide (x = y) && decide (a.die ≤ b.die))) cands
  let chosen := pickDies order []
  if chosen.length = 18 then some (isort (fun a b => decide (dieChannel a ≤ dieChannel b)) chosen) else none

/-- The active zones with a member on a die. -/
def Chip.activeOn (m : Chip) (d : Nat) : Nat :=
  (m.zn.zones.filter fun e => zoneActive e.2.state && e.2.members.any (fun x => decide (x.die = d))).length

/-- The candidates of a binding. -/
def Chip.candidates (m : Chip) (log : Bool := false) : List Cand :=
  (List.range 3072).filterMap fun d =>
    if m.declared d && m.eligible d log then
      (leastWorn (m.freeBlocks d log)).map fun e => { die := d, wear := e.2.erases, zones := m.activeOn d }
    else none

/-- Take a block of a die into a stripe: it becomes a stripe member, and needs its erase first if it was awaiting one. -/
def Chip.bindBlock (m : Chip) (d : Nat) (log : Bool := false) : Chip × Member :=
  match m.takeBlock d log with
  | some (b, x) =>
    (m.modBlk d b fun _ => { x with state := if log then 5 else 2, needErase := x.dirty },
      { failed := false, relocSrc := false, block := b, die := d })
  | none => (m, { failed := false, relocSrc := false, block := 0, die := d })

/-- Bind 18 blocks on the chosen dies. -/
def Chip.bindBlocks (m : Chip) (log : Bool) : List Nat → Chip × List Member
  | [] => (m, [])
  | d :: ds => let (m1, x) := m.bindBlock d log; let (m2, xs) := m1.bindBlocks log ds; (m2, x :: xs)

/-- The member word of R174. -/
def Member.word (x : Member) : Nat := 2 ^ 31 * (b1 x.failed) + 2 ^ 30 * (b1 x.relocSrc) + 2 ^ 16 * x.block + x.die

/-- The members of a new stripe of a class (R154, R155); none when no set of members exists. -/
def Chip.newStripe (m : Chip) (cls : Nat) (log : Bool := false) : Chip × Option (List Member) :=
  match placement cls (m.f ZNE_PLACECFG.SPREAD) (m.candidates log) with
  | none => (m, none)
  | some ds => let (m, members) := m.bindBlocks log ds; (m, some members)

/-- A zone takes a stripe, told to the twin (R426, type 0x02). -/
def Chip.setStripe (m : Chip) (z cls : Nat) (members : List Member) : Chip :=
  (m.setZone z { m.zone z with members := members, cls := cls }).delta 0x02 z (some z) (members.flatMap fun x => leBytes 4 x.word)

/-- Bind a stripe to a zone under a placement hint (R153 to R155); false when no set of members exists. -/
def Chip.bindZone (m : Chip) (z hint : Nat) : Chip × Bool :=
  let cls := if hint = 0 then 2 else hint
  match m.newStripe cls with
  | (_, none) => (m, false)
  | (m, some members) => (m.setStripe z cls members, true)

/-! ## The zone context (R174) -/

/-- Word 0 of a zone context. -/
def Zone.word0 (x : Zone) : Nat :=
  x.state + b1 (decide (x.members ≠ [])) * 2 ^ 8 + x.side * 2 ^ 9 + x.type * 2 ^ 10 + 2 ^ 16 * (b1 x.spilled) +
  2 ^ 17 * (b1 x.refresh) + 2 ^ 18 * (b1 (x.members.any (·.failed))) + 2 ^ 19 * (b1 x.reloc) + 2 ^ 20 * (b1 x.zfc) + 2 ^ 21 * x.cls

/-- The 32 words of a zone's context. -/
def Chip.zoneWords (m : Chip) (z : Nat) : List Nat :=
  let x := m.zone z
  if x.nsid = 0 then List.replicate 32 0
  else
    [x.word0, x.nsid, x.zidx, x.cwp, x.rwp, x.pwp, x.pfp, x.rpp, 2 ^ 16 * x.rows + m.uncommitted z, x.tenant, x.lastChange,
     x.lastWrite, (x.members.map fun y => (m.blk y.die y.block).erases).foldl max 0, x.logUnits] ++
    (x.members ++ List.replicate (18 - x.members.length) (Member.mk false false 0 0)).map Member.word

/-- The state delta of a zone (R426, type 0x01). -/
def Chip.zoneDelta (m : Chip) (z : Nat) : Chip :=
  let x := m.zone z
  m.delta 0x01 z (some z) (leBytes 1 x.state ++ leBytes 1 x.cls ++ leBytes 4 x.word0 ++ leBytes 4 x.lastChange ++ leBytes 6 0)

/-- Enter a zone state (R174: LASTCHANGE), told to the twin. -/
def Chip.setZoneState (m : Chip) (z st : Nat) : Chip :=
  (m.setZone z { m.zone z with state := st, lastChange := m.now }).zoneDelta z

/-- A Zone Descriptor Changed notice to every function whose controller is attached to the namespace and has the notice
enabled; the zone joins their Changed Zone lists (R145). -/
def Chip.zoneNotice (m : Chip) (z : Nat) : Chip :=
  match m.ns? (m.zone z).nsid with
  | none => m
  | some n =>
    (n.attached.filter fun c => decide (c / 8192 = m.side)).foldl (fun (m : Chip) c =>
      let f := c % 8192
      let fs := m.fn f
      let m := m.setFn f { fs with changed := if z ∈ fs.changed then fs.changed else fs.changed ++ [z] }
      if fs.zoneNotices then m.aen f 2 0xEF 0xBF else m) m

/-! ## Active and open zones (R150, R151) -/

/-- Every zone is this controller's while it survives its twin or runs solo (R144, R150, R438). -/
def Chip.aloneNow (m : Chip) : Bool := decide (m.f TWN_STAT.STATE = 6 ∨ m.f GEN_SIDE.SOLO = 1)
def Chip.ownsZone (m : Chip) (z : Nat) : Bool := decide ((m.zone z).side = m.side) || m.aloneNow
/-- The side whose zone engine fills a stripe: of its zone, or of the log block's number. -/
def Chip.stripeSide (m : Chip) (z : Nat) : Nat := if z < 262144 then (m.zone z).side else (z - 262144) / 256 % 2
/-- The stripes this controller's zone engine fills: its zones, and the log blocks of its side, or of both when alone (R144, R166). -/
def Chip.ownsStripe (m : Chip) (z : Nat) : Bool :=
  decide (z < 2 ^ 20) && (decide (m.stripeSide z = m.side) || m.aloneNow)
def Chip.ownedZones (m : Chip) : List (Nat × Zone) :=
  m.zn.zones.filter fun e => decide (e.2.nsid ≠ 0 ∧ e.1 < 262144) && m.ownsZone e.1
def Chip.activeCount (m : Chip) : Nat := (m.ownedZones.filter fun e => zoneActive e.2.state).length
def Chip.openCount (m : Chip) : Nat := (m.ownedZones.filter fun e => zoneOpen e.2.state).length
/-- The limits now applied: doubled in takeover or solo service (R150). -/
def Chip.activeLimit (m : Chip) : Nat := m.img.tables.geo.activeLimit * (if m.aloneNow then 2 else 1)
def Chip.openLimit (m : Chip) : Nat := m.img.tables.geo.openLimit * (if m.aloneNow then 2 else 1)
/-- The active zones of a tenant across the pair. -/
def Chip.tenantActive (m : Chip) (t : Nat) : Nat :=
  (m.zn.zones.filter fun e => decide (e.2.nsid ≠ 0 ∧ e.2.tenant = t) && zoneActive e.2.state).length

/-- An active resource is free for a tenant's zone. -/
def Chip.activeFree (m : Chip) (t : Nat) : Bool :=
  let q := ((m.stampEpoch.2.tenant? t).map (·.activeQuota)).getD 0
  decide (m.activeCount < m.activeLimit) && (decide (q = 0) || decide (m.tenantActive t < q))

/-- The zone an implicit close takes: ZSIO, no uncommitted write, earliest LASTWRITE, lower number (R151). -/
def Chip.closeVictim (m : Chip) : Option Nat :=
  (m.ownedZones.filter fun e => decide (e.2.state = zsio ∧ m.uncommitted e.1 = 0)).foldl (fun best e =>
    match best with
    | none => some e.1
    | some b => if earlier e.2.lastWrite (m.zone b).lastWrite then some e.1 else some b) none

/-- Make an open resource free, closing a zone if need be; false when none can be closed (R151), or the count is still not below the limit (R150). -/
def Chip.openRoom (m : Chip) : Chip × Bool :=
  if m.openCount < m.openLimit then (m, true)
  else match m.closeVictim with
    | none => (m, false)
    | some v =>
      let m := m.setZoneState v zsc
      ((m.incF ZNE_EVCNT.IMPCLOSE).emit 10 0x403B, decide (m.openCount < m.openLimit))

/-! ## Checks of R148 -/

/-- A failed zone check: status, event code and the counter it counts in. -/
structure ZFail where
  status : Status
  event : Nat
  count : Fld

def zfOffline : ZFail := ⟨⟨1, 0xBB, true⟩, 0x4030, ZNE_ERR1.STATETRANS⟩
def zfReadOnly : ZFail := ⟨⟨1, 0xBA, true⟩, 0x4031, ZNE_ERR1.STATETRANS⟩
def zfFull : ZFail := ⟨⟨1, 0xB9, true⟩, 0x4032, ZNE_ERR1.FULL⟩
def zfInvalidWrite : ZFail := ⟨⟨1, 0xBC, true⟩, 0x4033, ZNE_ERR0.INVWRITE⟩
def zfAppendSlba : ZFail := ⟨⟨0, 0x02, true⟩, 0x4034, ZNE_ERR0.INVWRITE⟩
def zfBoundary : ZFail := ⟨⟨1, 0xB8, true⟩, 0x4035, ZNE_ERR0.BOUNDARY⟩
def zfActive : ZFail := ⟨⟨1, 0xBD, false⟩, 0x4036, ZNE_ERR2.TOOACTIVE⟩
def zfOpen : ZFail := ⟨⟨1, 0xBE, false⟩, 0x4037, ZNE_ERR2.TOOOPEN⟩
/-- A transition R146 does not allow, with the code it names (0xBF, 0xBA or 0xBB). -/
def zfTransition (sc : Nat) : ZFail := ⟨⟨1, sc, true⟩, 0x4038, ZNE_ERR1.STATETRANS⟩
def zfStripe : ZFail := ⟨stCapacity, 0x4039, ZNE_MOVES.PLACEFAIL⟩

/-- The pieces granule boundaries cut a write into: (offset, length) in bytes of the zone (R270). -/
def pieces : Nat → Nat → Nat → List (Nat × Nat)
  | 0, _, _ => []
  | n + 1, b, len => if len = 0 then [] else
      let k := min len (65536 - b % 65536)
      (b, k) :: pieces n (b + k) (len - k)

/-- The pieces of `len` bytes from byte `b`. -/
def piecesOf (b len : Nat) : List (Nat × Nat) := pieces (len / 65536 + 2) b len

/-- The units an elastic write reserves: per piece between granule boundaries, ⌈(24 + length) / 256⌉ (R162). -/
def reserveUnits (b len : Nat) : Nat := ((piecesOf b len).map fun p => ceilDiv (24 + p.2) 256).sum

/-- Take the resources a zone needs to be written or opened into state `st` (orders 7, 8 and 10 of R148): the state after,
or the check that failed. -/
def Chip.takeZone (m : Chip) (z st hint : Nat) : Chip × Option ZFail :=
  let x := m.zone z
  if zoneOpen x.state then (if x.state = st ∨ st = zsio then m else m.setZoneState z st, none)
  else if x.state = zse ∧ !m.activeFree x.tenant then (m, some zfActive)
  else
    let (m1, ok) := m.openRoom
    if !ok then (m1, some zfOpen)
    else if x.state = zse ∧ x.members = [] then
      let (m2, bound) := m1.bindZone z hint
      if bound then (m2.setZoneState z st, none) else (m1, some zfStripe)
    else (m1.setZoneState z st, none)

/-- Checks 1 to 6 of R148 for a write (SLBA checked against RWP) or an append (against the zone's start), with the zone's
capacity in LBAs and the physical reservation. -/
def Zone.checkWrite (x : Zone) (append : Bool) (off nlb cap resv : Nat) : Option ZFail :=
  if x.state = zso then some zfOffline
  else if x.state = zsro then some zfReadOnly
  else if decide (x.state = zsf) || x.pending then some zfFull
  else if append && decide (off ≠ 0) then some zfAppendSlba
  else if !append && decide (off ≠ x.rwp) then some zfInvalidWrite
  else if x.rwp + nlb > cap then some zfBoundary
  else if x.type = 1 ∧ x.rpp + resv > 16777216 then some zfFull
  else none

/-- End a command with a failed zone check: event, count, status (R126, R148). -/
def Chip.failZone (m : Chip) (s : Nat) (c : Cmd) (e : ZFail) : Chip :=
  ((m.incF e.count).emit 10 e.event 0 (some (m.cmdTag s c))).finish s (some e.status)

end Sys2Proof.Machine
end

