-- ==== Sys2Proof/Machine/Tenants.lean ====
section
/-! DEFINITION. Tenants, quotas and gusts, holds at acceptance, the ledger, predicted die times and reconstruct-around-busy
(R177 to R203, R365, R366, R496, R499). -/

namespace Sys2Proof.Machine

def TenSt.blank : TenSt :=
  { quota := 0, gust := 0, recon := 0, reconAt := 0, miss := List.replicate 8 0, lastMiss := 0, reconReads := 0, ldgHolds := 0,
    quotaHolds := 0, aborts := 0 }

def Chip.ten (m : Chip) (t : Nat) : TenSt := tget TenSt.blank m.md.tenants t
def Chip.setTen (m : Chip) (t : Nat) (v : TenSt) : Chip :=
  { m with md := { m.md with tenants := tset TenSt.blank m.md.tenants t v } }

/-- A 16-bit tenant count raised by one, saturating (R212). -/
def sat16 (x : Nat) : Nat := min (x + 1) 65535

/-- The TENANT record of a tenant in the epoch CMD stamps now. -/
def Chip.tenRec (m : Chip) (t : Nat) : Option TenantRec := m.stampEpoch.2.tenant? t

/-- WRITE_QUOTA of a command's tenant, in the epoch its tag carries (R53). -/
def Chip.quotaOf (m : Chip) (c : Cmd) : Nat := (((m.tablesOf c.epoch).tenant? c.tenant).map (·.quota)).getD 0

/-! ## Die times (R186, R200, R217) -/

def DieSt.blank : DieSt :=
  { queue := [], overflow := [], running := none, start := 0, readAt := 0, look := false, suspended := none, suspending := false, suspAt := 0, served := 0, busy := 0,
    misses := 0, reconAround := 0, timeouts := [], watchdogs := [], tempOk := false, trainTemp := 0, trainAt := 0 }

def Chip.die (m : Chip) (d : Nat) : DieSt := tget DieSt.blank m.md.dies d
def Chip.setDie (m : Chip) (d : Nat) (v : DieSt) : Chip := { m with md := { m.md with dies := tset DieSt.blank m.md.dies d v } }

/-- The parity bytes of a codeword (R219). -/
def FlashRec.codePar (f : FlashRec) : Nat := min 576 (8 * (f.spare / 32))

/-- The FLASH values with which no declared die can serve: a unit does not fill whole wordlines (R217), or the parity is too short (R219). -/
def FlashRec.unfit (f : FlashRec) : Bool := decide (f.cellBits = 3 ∨ f.codePar < 256)

/-- X(R) for a number of codewords read: the bus time at the die's rate, rounded up to whole µs (R186). -/
def Chip.xferUs (m : Chip) (d codewords : Nat) : Nat :=
  let rate := if m.f FCH_DIE.SLOW d = 1 then m.flash.rate / 2 else m.flash.rate
  if rate = 0 then 0 else ceilDiv (codewords * (4096 + m.flash.codePar)) rate

/-- The codewords a unit's transfer moves, numbered in its page or whole unit (R219). -/
def DUnit.codewords (u : DUnit) : List Nat := (List.range u.ncw).map (u.cw + ·)

/-- TR_US + X(R) of a read unit. -/
def Chip.readUs (m : Chip) (u : DUnit) : Nat := m.flash.trUs + m.xferUs u.die u.ncw

/-- C(R), the service cost of a read, in µs. -/
def Chip.costUs (m : Chip) (u : DUnit) : Nat := m.readUs u + m.f DLS_PATH.PATH_US

/-- The nominal time of a unit in µs (R217). -/
def Chip.nominalUs (m : Chip) (u : DUnit) : Nat :=
  match u.kind with
  | .read => m.readUs u
  | .program => if u.slc then m.flash.tprogSlcUs else m.flash.tprogUs
  | .erase => m.flash.tbers10us * 10

/-- The suspend time S of a unit in µs. -/
def Chip.suspUs (m : Chip) (u : DUnit) : Nat :=
  match u.kind with
  | .erase => m.flash.esuspUs
  | _ => m.flash.psuspUs

/-- MAX_SUSP of a die (R216). -/
def Chip.maxSusp (m : Chip) (d : Nat) : Nat := if m.f FCH_DIE.NOSUSP d = 1 then 0 else m.flash.maxSusp

/-- remaining(P) in ticks, for a unit that runs since `start` (R186). -/
def Chip.remaining (m : Chip) (u : DUnit) (start : Nat) : Nat := usTicks (m.nominalUs u) - (u.busy + (m.isl.dtc - start))

/-- remaining of a unit that does not run now. -/
def Chip.remainingIdle (m : Chip) (u : DUnit) : Nat := usTicks (m.nominalUs u) - u.busy

/-- What is known of the work on a die: its running unit with its start, its suspended unit, and its queue. On the twin's
channels only the operations forwarded there are known (R200). -/
def Chip.dieView (m : Chip) (d : Nat) : DieSt :=
  if m.drives d then m.die d
  else
    let us := (m.tw.fwds.filter fun e => decide (e.2.unit.die = d)).map (·.2)
    match us with
    | [] => DieSt.blank
    | f :: fs => { DieSt.blank with running := some f.unit, start := f.issued, queue := fs.map (·.unit) }

/-- wait(d) of R200, in ticks, for a read with a deadline. -/
def Chip.dieWait (m : Chip) (d deadline : Nat) : Nat :=
  let v := m.dieView d
  let first := match v.suspended, v.running with
    | some p, r =>
      if v.served < m.f DLS_SUSPCFG.MAX_READS then
        match r with
        | some u => usTicks (m.readUs u) - (m.isl.dtc - v.start)
        | none => 0
      else m.remainingIdle p
    | none, some u =>
      match u.kind with
      | .read => usTicks (m.readUs u) - (m.isl.dtc - v.start)
      | _ => if u.susp < m.maxSusp d ∧ earlier deadline u.deadline then usTicks (m.suspUs u)
        else if v.suspending then m.remainingIdle u else m.remaining u v.start
    | none, none =>
      if m.f FCH_DIE.STATE d = 3 then usTicks 250 - (m.isl.dtc - v.start)
      else if m.f FCH_DIE.STATE d = 4 then usTicks 375 - (m.isl.dtc - v.start)
      else 0
  first + ((v.queue.filter fun u => decide (u.kind = .read) && earlier u.deadline deadline).map fun u => usTicks (m.costUs u)).sum

/-! ## The reconstruct budget (R202) -/

/-- The in-service dies of the claimed channels (R220). -/
def Chip.serving (m : Chip) : List Nat :=
  (List.range 3072).filter fun d => m.drives d && decide (2 ≤ m.f FCH_DIE.STATE d ∧ m.f FCH_DIE.STATE d ≤ 5)

/-- N: how many there are. -/
def Chip.inService (m : Chip) : Nat := m.serving.length

/-- The most a tenant's budget holds. -/
def Chip.reconMax (m : Chip) (t : Nat) : Int :=
  ((62500 * (m.f DLS_LEDGERCFG.WINDOW_MS) * m.stampEpoch.2.recon t * m.inService : Nat) : Int)

/-- A tenant's budget brought up to date. -/
def Chip.reconGain (m : Chip) (t : Nat) : Chip :=
  let x := m.ten t
  let gain := ((m.isl.dtc - x.reconAt) * m.stampEpoch.2.recon t * m.inService : Nat)
  m.setTen t { x with recon := min (m.reconMax t) (x.recon + (gain : Int)), reconAt := m.isl.dtc }

/-- The budgets of some tenants are brought up to date, before N changes. -/
def Chip.reconAll (m : Chip) (ts : List Nat) : Chip := ts.eraseDups.foldl (fun (m : Chip) t => m.reconGain t) m

/-- The tenants that hold a budget. -/
def Chip.reconTenants (m : Chip) : List Nat := m.stampEpoch.2.ledger.map (·.tenant)

/-- At cold start every budget is at its maximum (R202). -/
def Chip.reconStart (m : Chip) : Chip :=
  m.reconTenants.foldl (fun (m : Chip) t => m.setTen t { m.ten t with recon := m.reconMax t, reconAt := m.isl.dtc }) m

/-- A change of N: every budget gains by the old N first, and is clipped to its maximum of the new one (R202). -/
def Chip.reconAround (m : Chip) (change : Chip → Chip) : Chip :=
  let ts := m.reconTenants
  (change (m.reconAll ts)).reconAll ts

/-- CMD goes over from one epoch's tables to another's: every budget gains by the old ones and is clipped to its new maximum. -/
def Chip.reconTurn (m : Chip) (old new : Image) : Chip :=
  let top (t : Nat) : Int := ((62500 * (m.f DLS_LEDGERCFG.WINDOW_MS) * new.recon t * m.inService : Nat) : Int)
  ((old.ledger ++ new.ledger).map (·.tenant)).eraseDups.foldl (fun (m : Chip) t =>
    let x := m.ten t
    let gain := ((m.isl.dtc - x.reconAt) * old.recon t * m.inService : Nat)
    m.setTen t { x with recon := min (top t) (x.recon + (gain : Int)), reconAt := m.isl.dtc }) m

/-- What a reconstruction of one read costs. -/
def reconCost (us : Nat) : Int := ((64000 * (16 * us) : Nat) : Int)

/-- The 16 source members of a row for a read of member `t` with a deadline, by wait and number; none when fewer remain
(R201). -/
def Chip.reconSources (m : Chip) (x : Zone) (t deadline : Nat) : Option (List Nat) :=
  let ok := (List.range x.members.length).filter fun i =>
    let d := (x.member i).die
    decide (i ≠ t) && !(x.member i).failed && decide (m.f FCH_DIE.STATE d ≠ 7 ∧ m.f FCH_DIE.STATE d ≠ 3 ∧ m.f FCH_DIE.STATE d ≠ 4)
  let order := isort (fun a b => let wa := m.dieWait (x.member a).die deadline; let wb := m.dieWait (x.member b).die deadline
    decide (wa < wb) || (decide (wa = wb) && decide (a ≤ b))) ok
  if order.length < 16 then none else some (order.take 16)

/-- RECON_OK of a command's tag (R200). -/
def Chip.reconOk (m : Chip) (c : Cmd) : Bool :=
  (((m.tablesOf c.epoch).tenant? c.tenant).map fun t => bitOf t.flags 1).getD false

/-- How a flash read of a command is served: straight, or from 16 sources (R200 to R202), with the denials counted. -/
def Chip.reconDecide (m : Chip) (s : Nat) (c : Cmd) (x : Zone) (t : Nat) (u : DUnit) : Chip × Option (List Nat) :=
  if !(m.reconOk c) || decide (m.f DLS_CTL.RECON_EN = 0) then (m, none)
  else
    let guard := usTicks (m.f DLS_RECONCFG.GUARD_US)
    let left := slackAt (m.nowAt 10 (some c.tenant)) c.deadline - guard
    let direct := m.dieWait u.die c.deadline + usTicks (m.costUs u)
    if direct ≤ left then (m, none)
    else
      match m.reconSources x t c.deadline with
      | none => ((m.incF DLS_RECONDENY.INFEASIBLE).emit 10 0x5006 0 (some (m.cmdTag s c)), none)
      | some src =>
        let wait := (src.map fun i => m.dieWait (x.member i).die c.deadline).foldl max 0
        if wait + usTicks (m.costUs u + m.f DLS_RECONCFG.PARITY_US) > left then (m, none)
        else
          let m := m.reconGain c.tenant
          let cost := reconCost (m.readUs u)
          if (m.ten c.tenant).recon < cost then ((m.incF DLS_RECONDENY.BUDGET).emit 10 0x5005 0 (some (m.cmdTag s c)), none)
          else
            let y := m.ten c.tenant
            (m.setTen c.tenant { y with recon := y.recon - cost, reconReads := min (y.reconReads + 1) (2 ^ 32 - 1) }, some src)

/-! ## The die-time ledger (R190 to R195) -/

/-- The key of a ledger entry. -/
def ldgKey (t d : Nat) : Nat := t * 4096 + d

/-- The tables a cluster's island applies. -/
def Chip.clusterTables (m : Chip) (k : Nat) : Image := m.tablesOf (m.f ISL_STAT.APPLIED_EPOCH (12 + k))

/-- A tenant's credit on a die, brought up to date by the tables its channel's island applies; an entry never touched is at its depth, or, on
a die claimed at takeover, started at 0 (R195). -/
def Chip.credit (m : Chip) (t d : Nat) : Credit :=
  let share := (m.clusterTables (dieCluster d)).share t
  let w := m.f DLS_LEDGERCFG.WINDOW_MS
  match tfind m.md.ledger (ldgKey t d) with
  | some c => ldgGain share w m.now c
  | none =>
    match tfind m.md.ldgZero d with
    | some at_ => ldgGain share w m.now ⟨0, at_⟩
    | none => ⟨ldgDepth share w, m.now⟩

/-- Charge a unit's tenant die time, in ticks, by the share of the unit's epoch (R53); the internal account has no entries (R178, R191). -/
def Chip.charge (m : Chip) (u : DUnit) (ticks : Int) : Chip :=
  if u.internal then m
  else
    let c := ldgCharge ((m.tablesOf u.epoch).share u.tenant) (m.f DLS_LEDGERCFG.WINDOW_MS) (m.credit u.tenant u.die) ticks
    { m with md := { m.md with ledger := tput m.md.ledger (ldgKey u.tenant u.die) c } }

/-- A cluster's island goes over to other tables: the entries of each tenant whose share changes keep their credit, clipped to the new
depth (R195). -/
def Chip.ledgerTurn (m : Chip) (k : Nat) (new : Image) : Chip :=
  let old := m.clusterTables k
  let w := m.f DLS_LEDGERCFG.WINDOW_MS
  let ts := ((old.ledger ++ new.ledger).map (·.tenant)).eraseDups.filter fun t => decide (old.share t ≠ new.share t)
  ts.foldl (fun (m : Chip) t => (List.range 256).foldl (fun (m : Chip) i =>
    let d := 256 * k + i
    let c := m.credit t d
    { m with md := { m.md with ledger := tput m.md.ledger (ldgKey t d) { c with credit := min (ldgDepth (new.share t) w) c.credit } } }) m) m

/-! ## Quotas and gusts (R196 to R199). Buckets are in bytes. -/

def TenantRec.quotaDepth (r : TenantRec) : Int := ((r.quota * 1000 : Nat) : Int)
def TenantRec.gustDepth (r : TenantRec) : Nat := 1048576 * r.gust

/-- The buckets of a tenant after `us` µs of gain. -/
def TenSt.refill (x : TenSt) (r : TenantRec) (us : Nat) : TenSt :=
  let q := x.quota + ((us * r.quota : Nat) : Int)
  let excess := q - r.quotaDepth
  if 0 < excess then { x with quota := r.quotaDepth, gust := min r.gustDepth (x.gust + excess.toNat) } else { x with quota := q }

/-- The bytes of data a write carries (R197: uncompressed host data). -/
def Chip.writeBytes (m : Chip) (c : Cmd) : Nat := c.nlb * 2 ^ (((m.ns? (nsidOf c.entry)).map (·.lbaLog)).getD 12)

/-- L of R197, rounded up to KiB, in bytes. -/
def Chip.quotaBytes (m : Chip) (c : Cmd) : Nat := ceilDiv (m.writeBytes c) 1024 * 1024

/-! ## Holds at acceptance -/

/-- The uncommitted conventional writes that hold an entry of the range table (R133), of a zone or of all. -/
def Chip.tableUsed (m : Chip) (zone : Option Nat) : Nat :=
  (m.q.slots.filter fun e => e.2.tabled && (zone.isNone || decide (e.2.zone = zone))).length

/-- The write is to a conventional zone. -/
def Chip.convCmd (m : Chip) (c : Cmd) : Bool := match c.zone with | some z => decide ((m.zone z).type = 2) | none => false

/-- F of R169: free log blocks. -/
def Chip.freeLog (m : Chip) : Nat := 
  m.img.tables.geo.logBlocks - (m.zn.logBlks.filter fun e => decide (e.1 / 256 = m.side) || m.aloneNow).length

/-- The namespace's key slot is being cleared for a Format (R302). -/
def Chip.slotClearing (m : Chip) (c : Cmd) : Bool :=
  match m.ns? (nsidOf c.entry) with
  | some n => match tfind m.kv.slots n.keySlot with
    | some k => decide (k.state = 2) && k.reload
    | none => false
  | none => false

/-- The tenant has an earlier command held by quota (R198). -/
def Chip.quotaQueued (m : Chip) (c : Cmd) : Bool :=
  m.q.slots.any fun e => decide (e.2.tenant = c.tenant ∧ e.2.hold = .quota ∧ e.2.seq < c.seq)

/-- Why a write is held at this moment, or `free` (R133, R169, R198, R302, R365, R496, R499). -/
def Chip.holdFor (m : Chip) (c : Cmd) : Hold :=
  let conv := m.convCmd c
  let ten := m.ten c.tenant
  let quota := m.quotaOf c
  if m.slotClearing c then .keySlot
  else if conv && !c.tabled && decide (4096 ≤ m.tableUsed none ∨ 256 ≤ m.tableUsed c.zone) then .table
  else if conv && decide (m.freeLog < 2) then .logSpace
  else if m.md.mediaTold then .media
  else if m.f THM_STAT.LEVEL = 4 ∨ (1 ≤ m.f THM_STAT.LEVEL ∧ m.th.bucket ≤ 0) then .throttle
  else if m.f BPM_STAT.DEVBARO = 7 ∨ (m.f BPM_BPCFG.OVERQ ≤ m.f BPM_STAT.DEVBARO ∧ (quota = 0 ∨ ten.quota ≤ 0)) then .barometer
  else if quota = 0 then .free
  else if m.quotaQueued c then .quota
  else if 0 < ten.quota then .free
  else if m.quotaBytes c ≤ ten.gust ∧ m.f BPM_STAT.DEVBARO < m.f DLS_GUSTCFG.LEVEL then .free
  else .quota

/-- The first time a reason holds a command it is counted and reported. -/
def Chip.tellHold (m : Chip) (s : Nat) (c : Cmd) (h : Hold) : Chip :=
  let tag := some (m.cmdTag s c)
  match h with
  | .barometer => (m.incF BPM_BPHOLD.COUNT).emit 11 0x6602 0 tag
  | .quota =>
    let x := m.ten c.tenant
    let m := m.setTen c.tenant { x with quotaHolds := sat16 x.quotaHolds }
    (m.incF DLS_QUOTAHOLD.COUNT).emit 10 0x5007 0 tag
  | .throttle => m.incF THM_HOLDCNT.COUNT
  | .media => m.incF THM_HOLDCNT.COUNT
  | _ => m

/-- A write at the head of its tenant's held ones has a gust to draw on, but the barometer stands at the level: the first one since it got there is
reported (R199). -/
def Chip.tellGust (m : Chip) (s : Nat) (c : Cmd) (h : Hold) : Chip :=
  if decide (h = .quota) && !m.quotaQueued c && !m.md.gustTold &&
      decide (m.quotaBytes c ≤ (m.ten c.tenant).gust ∧ m.f DLS_GUSTCFG.LEVEL ≤ m.f BPM_STAT.DEVBARO) then
    { m with md := { m.md with gustTold := true } }.emit 10 0x5008 0 (some (m.cmdTag s c))
  else m

/-- A write passes every hold: its tenant's bucket and the throttle bucket are charged (R197, R496), and its data is asked
for (R94). Write Zeroes carries none; a forwarded command's data comes from the twin. -/
def Chip.startData (m : Chip) (s : Nat) (c : Cmd) : Chip :=
  let quota := m.quotaOf c
  let x := m.ten c.tenant
  let l := m.quotaBytes c
  let gust := decide (quota ≠ 0) && decide (x.quota ≤ 0)
  let m := if quota = 0 then m
    else if gust then m.setTen c.tenant { x with gust := x.gust - l } else m.setTen c.tenant { x with quota := x.quota - (l : Int) }
  let m := if 1 ≤ m.f THM_STAT.LEVEL then { m with th := { m.th with bucket := m.th.bucket - (m.writeBytes c : Nat) } } else m
  let m := m.modCmd s fun c => { c with hold := .free, gust := gust, dataOpen := decide (c.want ≠ 0) }
  if c.want ≠ 0 ∧ c.peer = none then m.fetchData s c.want else m

/-- Hold or start an accepted write. One to a conventional zone takes its entry of the range table as soon as there is one (R133). -/
def Chip.takeIn (m : Chip) (s : Nat) : Chip :=
  match m.cmd? s with
  | none => m
  | some c =>
    let h := m.holdFor c
    let c := { c with tabled := m.convCmd c && decide (h ≠ .table ∧ h ≠ .keySlot) }
    let m := m.putCmd s c
    if h = .free then m.startData s c
    else
      let m := (if h ∈ c.told then m else m.tellHold s c h).tellGust s c h
      m.modCmd s fun c => { c with hold := h, told := if h ∈ c.told then c.told else c.told ++ [h] }

/-- Held commands in acceptance order. -/
def Chip.heldCmds (m : Chip) : List Nat :=
  (isort (fun a b => decide (a.2.seq ≤ b.2.seq)) (m.q.slots.filter fun e => decide (e.2.hold ≠ .free))).map (·.1)

/-- Held writes whose hold has passed are released in acceptance order (R198, R366). Commands held for their key slot before
acceptance end are released by the slot's load alone. -/
def Chip.pump (m : Chip) : Chip :=
  m.heldCmds.foldl (fun (m : Chip) s =>
    match m.cmd? s with
    | some c => if c.phase ≠ .running then m else if m.holdFor c ≠ c.hold then m.takeIn s else m.tellGust s c c.hold
    | none => m) m

end Sys2Proof.Machine
end

