-- ==== Sys2Proof/Machine/Rows.lean ====
section
/-! DEFINITION. Reads of flash data with their repairs and solves (R127, R157, R159, R200 to R203, R257, R258), rows and their
programs, the end of uncommitted writes, commits, Full, Reset and degraded zones. -/

namespace Sys2Proof.Machine

/-! ## Solves (R255 to R258) -/

/-- The FLAGS byte of a FWDREQ (R411): SLC, RECON and REBUILD. -/
def DUnit.fwdFlags (u : DUnit) : Nat :=
  b1 u.slc + (match u.purpose with
    | .recon _ _ => 4
    | .repair _ _ => 8
    | _ => 0)

/-- Send a die operation on its way: as a unit of a die this controller drives, or to the twin (R24, R429). -/
def Chip.place (m : Chip) (zone : Nat) (u : DUnit) : Chip :=
  if m.drives u.die then m.newUnit u
  else
    let u := m.stampUnit u
    { m with md := { m.md with unitId := m.md.unitId + 1 } }.forward (match u.kind with | .read => 1 | .program => 2 | .erase => 3) u.fwdFlags
      (realZone zone) u

/-- Start a solve of page `page` (255: the whole unit) of a row for a member, from the given source members; the reads carry the
class, deadline and account of the unit they stand for (R257, R261). -/
def Chip.startSolve (m : Chip) (z row page member : Nat) (recon : Bool) (src : List Nat) (purpose : SolveFor) (like : DUnit) : Chip :=
  let x := m.zone z
  let id := m.md.unitId
  let m := { m with md := { m.md with
    unitId := id + 1,
    solves := m.md.solves ++ [{ id := id, zone := z, row := row, page := page, member := member, cw := like.cw, ncw := like.ncw
                                recon := recon, deadline := like.deadline, cls := like.cls, waiting := src, got := [], purpose := purpose }] } }
  src.foldl (fun (m : Chip) i =>
    let y := x.member i
    m.place z { DUnit.make y.die .read (if recon then .recon id i else .repair id i) like.cls like.deadline y.block row page with
      tenant := like.tenant, internal := like.internal, off := pageStart row i page, cw := like.cw, ncw := like.ncw }) m

/-- The members a repair reads: every other one not on a FAILED die (R257). -/
def Chip.repairSources (m : Chip) (x : Zone) (t : Nat) : List Nat :=
  (List.range x.members.length).filter fun i =>
    decide (i ≠ t ∧ m.f FCH_DIE.STATE (x.member i).die ≠ 7) && !(x.member i).failed

/-- The codewords a solve is for, numbered in its page or whole unit. -/
def Solve.codewords (v : Solve) : List Nat := (List.range v.ncw).map (v.cw + ·)

/-- The members that have decoded codeword `k`. -/
def Solve.decodedAt (v : Solve) (k : Nat) : List Nat := (v.got.filter fun g => decide (k ∉ g.2)).map (·.1)

/-- The codewords for which 16 members have decoded are solved; the rest are not, or not yet. -/
def Solve.unsolved (v : Solve) : List Nat := v.codewords.filter fun k => decide ((v.decodedAt k).length < 16)

/-- The data columns a solve of codeword `k` computes: the target's and, when it too is missing, a second one (R257). -/
def Solve.columns (v : Solve) (k : Nat) : Nat :=
  let used := v.decodedAt k
  let missing := (List.range 18).filter fun i => decide (i ∉ used ∧ i ≠ parityP v.row ∧ i ≠ parityQ v.row)
  if v.member = parityP v.row ∨ v.member = parityQ v.row then min missing.length 1 else min missing.length 2

/-- Count a solved page in SPE_RECCNT (R257), and in DLS_RECONCNT where reconstruct-around-busy chose it. -/
def Chip.countSolve (m : Chip) (v : Solve) : Chip :=
  let n := (v.codewords.map v.columns).foldl max 0
  let m := if n = 1 then m.incF SPE_RECCNT.SINGLE else if n = 2 then m.incF SPE_RECCNT.DOUBLE else m
  if v.recon then m.incF DLS_RECONCNT.COUNT else m

/-! ## Parts of reads -/

/-- The read of a command's bytes from `a` to below `b` of a stripe that lie in the page at `pg`. -/
def Chip.readUnit (m : Chip) (s i z : Nat) (c : Cmd) (a b pg : Nat) : DUnit :=
  let y := (m.zone z).member (memberOf (rowOf pg) (columnOf pg))
  let (cw, n) := pageCws a b pg
  { DUnit.make y.die .read (.hostRead s i) c.cls c.deadline y.block (rowOf pg) (pageOf pg) with
    tenant := c.tenant, internal := false, off := pg, cw := cw, ncw := n }

/-- A read unit of a flash part on its target member: repaired when the member is FAILED (R172, R257), reconstructed around a
busy die where R200 to R202 choose it, read from its die otherwise. -/
def Chip.issueRead (m : Chip) (s i z : Nat) (c : Cmd) (a b pg : Nat) : Chip :=
  let x := m.zone z
  let r := rowOf pg
  let t := memberOf r (columnOf pg)
  let y := x.member t
  let u := m.readUnit s i z c a b pg
  if y.failed || decide (m.f FCH_DIE.STATE y.die = 7) then
    m.startSolve z r (pageOf pg) t false (m.repairSources x t) (.part s i) u
  else
    match m.reconDecide s c x t u with
    | (m, some src) => m.startSolve z r (pageOf pg) t true src (.part s i) u
    | (m, none) => m.place z u

/-- A read unit of a spilled page: the spill log's place (R159). -/
def Chip.issueSpill (m : Chip) (s i z : Nat) (c : Cmd) (a b pg : Nat) : Chip :=
  match (m.row z (rowOf pg)).spill with
  | none => m
  | some (d, k, w) =>
    m.place z { m.readUnit s i z c a b pg with
      die := d, block := k, row := w + pg % 4194304 / 65536, page := pg % 65536 / 16384, slc := true }

/-- The data of a part is on hand: an elastic part waits for its blocks to be decoded and verified (R283), any other is done. -/
def Chip.partReady (m : Chip) (s i : Nat) : Chip :=
  m.modCmd s fun c =>
    match c.parts[i]? with
    | some p =>
      let elastic := decide ((m.zone p.zone).type = 1 ∧ p.src ≠ .zeros ∧ c.peer = none)
      { c with parts := c.parts.set i { p with left := 0, done := !elastic || decide (p.lost ≠ []) } }
    | none => c

/-- A read takes a reference to the staging buffers of a row it is served from (R130, R361), under the requester of its port's island. -/
def Chip.holdRow (m : Chip) (s z r : Nat) : Chip :=
  match m.cmd? s with
  | none => m
  | some c =>
    ((m.bp.bufs.filter fun e => decide (e.2.work = rowWork z r)).map (·.1)).foldl (fun (m : Chip) i =>
      match m.addOwner (m.slotOf c.fn / 4) i with
      | (m, true) => m.modCmd s fun c => { c with refs := c.refs ++ [i] }
      | (m, false) => m) m

/-- The units of a part of a command: one for each page of it that lies in flash (R157) or in the spill log (R159); what is staged is there. -/
def Chip.issuePart (m : Chip) (s i : Nat) : Chip :=
  match m.cmd? s with
  | none => m
  | some c =>
    match c.parts[i]? with
    | none => m
    | some p =>
      let (z, a, b) := m.partPlace p
      let inFlash (pg : Nat) : Bool := decide (rowOf pg < (m.zone z).rows)
      let pages := (pagesOf a b).filter fun pg => inFlash pg || m.inSpill z pg
      if pages = [] then m.partReady s i
      else
        let m := m.modCmd s fun c => { c with parts := c.parts.set i { p with left := pages.length } }
        pages.foldl (fun (m : Chip) pg => if inFlash pg then m.issueRead s i z c a b pg else m.issueSpill s i z c a b pg) m

/-! ## The granule index of a zone that is not active (R161) -/

/-- The number of the index page that holds byte `off`'s granule of zone `z`. -/
def indexPage (z off : Nat) : Nat := z * 128 + off / 67108864

/-- The part's index page is neither in DRAM with its active zone nor in the cache. -/
def Chip.indexMiss (m : Chip) (p : Part) : Bool :=
  let x := m.zone p.zone
  decide (x.type = 1) && !zoneActive x.state && !m.zn.pages.contains (indexPage p.zone p.off)

/-- Where copy `k` of metadata number `n` lies: die, block, wordline, page; the copies on dies of two clusters (R466). Which, no rule gives (log
entry 168). -/
def Chip.metaPlace (m : Chip) (n k : Nat) : Option (Nat × Nat × Nat × Nat) :=
  let homes := ((List.range 3072).filter fun d => decide (2 ≤ m.f FCH_DIE.STATE d ∧ m.f FCH_DIE.STATE d ≤ 5)).filterMap fun d =>
    match (List.range m.flash.userBlocks).filter fun b => decide ((m.blk d b).state = 3) && !m.spillHere d b with
    | [] => none
    | bs => some (d, bs.getD (Config.metaAt n 1 % bs.length) 0)
  let at_ (l : List (Nat × Nat)) : Option (Nat × Nat) := l[Config.metaAt n 0 % l.length]?
  ((at_ homes).bind fun h => if k = 0 then some h else at_ (homes.filter fun e => decide (dieCluster e.1 ≠ dieCluster h.1))).map fun h =>
    (h.1, h.2, Config.metaAt n 2 % 1024, Config.metaAt n 3 % 16)

/-- A part's index page is read ahead of its data, in the class and with the deadline of the read (R180); where no copy can be, the part goes on. -/
def Chip.readIndex (m : Chip) (s i : Nat) (c : Cmd) (p : Part) (copy : Nat) : Chip :=
  let n := indexPage p.zone p.off
  match m.metaPlace (2 * n) copy with
  | none => m.issuePart s i
  | some (d, b, r, k) =>
    let m := m.modCmd s fun c => { c with parts := c.parts.set i { p with left := 1 } }
    m.place p.zone { DUnit.make d .read (.index s i copy) c.cls c.deadline b r k with tenant := c.tenant, internal := false, ncw := 1 }

/-- A part that needs die units, its index page first. -/
def Chip.fetchPart (m : Chip) (s i : Nat) (c : Cmd) (p : Part) : Chip := if m.indexMiss p then m.readIndex s i c p 0 else m.issuePart s i

/-- Start read part `i` by its source: zeros and the write buffer deliver at once, a poisoned codeword ends unrecovered, flash
and the spill log need die units, a waiting part waits (R127, R159, R259). What it reads it keeps reading wherever later writes and moves put its data
(R171). -/
def Chip.startPart (m : Chip) (s i : Nat) : Chip :=
  match m.cmd? s with
  | none => m
  | some c =>
    match c.parts[i]? with
    | none => m
    | some p =>
      let place := m.placeNow p
      let q := { p with place := some place }
      let kept := m.modCmd s fun c => { c with parts := c.parts.set i q }
      match p.src with
      | .zeros => m.partReady s i
      | .buffer =>
        let m := (kept.send (.unit 11 (m.cmdUnitTag s c c.kind [161]))).holdRow s place.1 (rowOf place.2.1)
        if m.indexMiss p then m.readIndex s i c q 0 else m.partReady s i
      | .bad =>
        (m.unrecoverable place.1 place.2.1 (some (m.cmdTag s c))).modCmd s fun c =>
          { c with parts := c.parts.set i { p with done := true, lost := [(p.off, p.len)] } }
      | .wait => m
      | .spill => kept.fetchPart s i c q
      | .flash => kept.fetchPart s i c q
      | .logBlock => kept.fetchPart s i c q

/-- The ranges of a part that are not lost. -/
def keepRanges : Nat → Nat → List (Nat × Nat) → List (Nat × Nat)
  | a, e, [] => if a < e then [(a, e - a)] else []
  | a, e, (o, n) :: t => (if a < o then [(a, min o e - a)] else []) ++ keepRanges (max a (o + n)) e t

/-- The bytes of `len` bytes from `off` of a part as the host sees them. -/
def Chip.partBytes (m : Chip) (p : Part) (off len : Nat) : List Byte :=
  if p.src = .zeros then List.replicate len 0 else memGetBytes m.zn.store (2 ^ 33 * p.zone + off) len

/-- Send read data from byte `off` of a zone: into the host's buffer, or as stored bytes to the twin the command came from,
in a FWDDATA frame with the offset in the command (R427; log entry 20). -/
def Chip.deliver (m : Chip) (s : Nat) (c : Cmd) (z off : Nat) (bs : List Byte) : Chip :=
  let l := m.zoneLog z
  let span := ((m.ns? (nsidOf c.entry)).map (·.zoneLbas)).getD 0
  let at_ := (m.zone z).zidx * span * 2 ^ l + off - slbaOf c.entry * 2 ^ l
  match c.peer with
  | none => m.giveHost s at_ bs
  | some t => m.sendData (realZone z) (some c.deadline) (t + 2 ^ 31) at_ (m.cipher z off bs)

/-- The data key of a namespace is there: its slot is not EMPTY (R302, R303). -/
def Chip.keyLoaded (m : Chip) (nsid : Nat) : Bool :=
  match m.ns? nsid with
  | some n => match tfind m.kv.slots n.keySlot with
    | some k => decide (k.state ≠ 0)
    | none => false
  | none => false

/-- Stored data of a namespace reaches XFM with its slot not LOADED (R303): counted, event 0x6305. -/
def Chip.keyError (m : Chip) (s : Nat) (c : Cmd) : Chip :=
  (m.incF CPH_KEYERR.COUNT).emit 26 0x6305 0 (some (m.cmdTag s c))

/-- A 64-bit counter kept in a _LO and _HI pair gains `k` (R14). -/
def Chip.addWide (m : Chip) (lo hi : Fld) (k : Nat) (n : Nat := 0) : Chip :=
  let v := min (2 ^ 32 * m.f hi n + m.f lo n + k) (2 ^ 64 - 1)
  (m.setF lo (v % 2 ^ 32) n).setF hi (v / 2 ^ 32) n

/-- A read all of whose parts are done, and whose pointers are known, delivers its data and completes (R127); a part unrecovered gives it R258's status, and
what was recovered is still delivered. -/
def Chip.settleRead (m : Chip) (s : Nat) : Chip :=
  match m.cmd? s with
  | none => m
  | some c =>
    if opcodeOf c.entry = 0x02 ∧ !c.admin ∧ c.phase = .running ∧ c.parts ≠ [] ∧ c.parts.all (·.done) ∧ c.list.isNone then
      if c.parts.any (fun p => decide (p.src ≠ .zeros)) && !m.keyLoaded (nsidOf c.entry) then
        (m.keyError s c).finish s (some stNsNotReady)
      else
        let m := c.parts.foldl (fun (m : Chip) p =>
          (keepRanges p.off (p.off + p.len) (isort (fun a b => decide (a.1 ≤ b.1)) p.lost)).foldl (fun (m : Chip) k =>
            let m := if p.src = .zeros then m else m.addWide CPH_XTSBYTES_LO.BYTES CPH_XTSBYTES_HI.BYTES k.2
            m.deliver s c p.zone k.1 (m.partBytes p k.1 k.2)) m) m
        m.finish s (some (if c.parts.any (fun p => decide (p.lost ≠ [])) then stUnrecovered else stOk))
    else m

/-- One unit of a part has come in, with the codewords of the stripe page at `pg` that nothing recovered: the bytes of the part they hold are lost,
of an elastic part all of it (R258, R285). -/
def Chip.partUnitDone (m : Chip) (s i z pg : Nat) (lostCw : List Nat) : Chip :=
  match m.cmd? s with
  | none => m
  | some c =>
    match c.parts[i]? with
    | none => m
    | some p =>
      let (_, a, b) := m.partPlace p
      let m := lostCw.foldl (fun (m : Chip) w => m.unrecoverable z (pg + w * 4096) (some (m.cmdTag s c))) m
      let hit := (lostCw.map fun w => (max a (pg + w * 4096), min b (pg + w * 4096 + 4096))).filter fun h => decide (h.1 < h.2)
      let cut : List (Nat × Nat) := if (m.zone p.zone).type ≠ 1 then hit.map fun h => (p.off + (h.1 - a), h.2 - h.1)
        else if hit = [] then [] else [(p.off, p.len)]
      let m := m.modCmd s fun c => { c with parts := c.parts.set i { p with lost := p.lost ++ cut, left := p.left - 1 } }
      if p.left ≤ 1 then (m.partReady s i).settleRead s else m

/-- A part's index page has come in, or its copy `copy` cannot be read: then the other one is, or the part is lost (R161, R258, R466). -/
def Chip.indexDone (m : Chip) (s i copy : Nat) (bad : Bool) : Chip :=
  match m.cmd? s with
  | none => m
  | some c =>
    match c.parts[i]? with
    | none => m
    | some p =>
      if !bad then
        let n := indexPage p.zone p.off
        ({ m with zn := { m.zn with pages := if m.zn.pages.contains n then m.zn.pages else m.zn.pages ++ [n] } }.issuePart s i).settleRead s
      else if copy = 0 then m.readIndex s i c p 1
      else
        let (z, a, _) := m.partPlace p
        ((m.unrecoverable z a (some (m.cmdTag s c))).modCmd s fun c =>
          { c with parts := c.parts.set i { p with left := 0, done := true, lost := [(p.off, p.len)] } }).settleRead s

/-- The parts of a read, or of the merge of a write (R168), that wait are classified again (R128); they may be cut anew at the new pointers. -/
def Chip.recut (m : Chip) (z : Nat) (before : Option Nat) (p : Part) : List Part :=
  if p.zone = z ∧ p.src = .wait then m.cutParts p.zone before 514 p.off p.len else [p]

/-- Classify again every read part that waits on zone `z`, and settle the reads (R128). A read whose parts wait keeps the
numbers of its other parts: the new ones are put behind them. -/
def Chip.reclassify (m : Chip) (z : Nat) : Chip :=
  (m.q.slots.filter fun e => e.2.parts.any fun p => decide (p.zone = z ∧ p.src = .wait)).foldl (fun (m : Chip) e =>
    let s := e.1
    let waits (p : Part) : Bool := decide (p.zone = z ∧ p.src = PartSrc.wait)
    let write := isWriteOp (opcodeOf e.2.entry)
    let fresh := (e.2.parts.filter waits).flatMap (m.recut z (if write then some e.2.seq else none))
    let still (p : Part) : Part := if waits p then { p with src := .zeros, len := 0, done := true } else p
    let kept := e.2.parts.map still
    let m := (if write then m else m.addF QIE_WBHIT.COUNT (stretches .buffer fresh)).modCmd s fun c => { c with parts := kept ++ fresh }
    let m := (List.range fresh.length).foldl (fun (m : Chip) i => m.startPart s (kept.length + i)) m
    m.settleRead s) m

/-! ## Rows and their programs (R157, R158, R252) -/

/-- The members of a zone a row is programmed on: those not FAILED (R172). -/
def Zone.liveMembers (x : Zone) : List Nat :=
  (List.range x.members.length).filter fun i => !(x.member i).failed

/-- The deadline of a tenant's row whose programs or spill came due at `at_`, in LC4 (R180). -/
def Chip.rowDeadline (m : Chip) (tenant at_ : Nat) (cls : Nat := 4) : Nat :=
  let t := m.stampEpoch.2
  (at_ + t.deadlineLen (t.latTable tenant) cls) % 2 ^ 32

/-- The bytes of a zone's physical space that hold committed data. -/
def Chip.filledBytes (m : Chip) (z : Nat) : Nat :=
  let x := m.zone z
  if x.type = 1 then x.pfp * 256 else x.cwp * 2 ^ (m.zoneLog z)

/-- The stored bytes of a row's 16 data columns: ciphertext up to the end of committed data, zeros beyond (R249, R290). -/
def Chip.rowData (m : Chip) (z r : Nat) : List Byte :=
  let n := min (m.filledBytes z - 4194304 * r) 4194304
  let src := if (m.zone z).type = 1 then m.zn.phys else m.zn.store
  let bs := m.cipher z (4194304 * r) (memGetBytes src (2 ^ 33 * z + 4194304 * r) n)
  bs ++ List.replicate (4194304 - bs.length) 0

/-- The parity units of a row on the twin's channels go to it before their programs, in PARITY frames of 4,096 B (R252, R424). -/
def Chip.sendParity (m : Chip) (z r : Nat) : Chip :=
  let x := m.zone z
  let data := m.rowData z r
  ([(parityP r, false), (parityQ r, true)].filter fun e =>
      !m.drives (x.member e.1).die && !(x.member e.1).failed).foldl (fun (m : Chip) e =>
    let unit := if e.2 then parityUnitQ data else parityUnitP data
    (List.range 64).foldl (fun (m : Chip) k =>
      m.sendFrame 0x09 (some z) none (leBytes 2 r ++ leBytes 1 e.1 ++ leBytes 1 (b1 e.2) ++ leBytes 4 (k * 4096))
        (slice unit (k * 4096) 4096)) m) m

/-- Make the program of row `r` on member `i`, with the erase the block may need first (R24, R155, R424). -/
def Chip.programMember (m : Chip) (z r i : Nat) : Chip :=
  let x := m.zone z
  let y := x.member i
  let dl := m.rowDeadline x.tenant (m.row z r).completeAt
  let u := { DUnit.make y.die .program (.row z r i) 4 dl y.block r 0 with tenant := x.tenant, internal := false, off := pageStart r i 0 }
  let m := if (m.blk y.die y.block).needErase then
      (m.place z { u with kind := .erase, purpose := .eraseBlock, row := 0 }).modBlk y.die y.block fun b => { b with needErase := false }
    else m
  m.place z u

/-- A spilled row is read back into staging, wordline by wordline (R159). -/
def Chip.readBack (m : Chip) (z r : Nat) : Chip :=
  let y := m.row z r
  match y.spill with
  | some (d, b, w) =>
    if y.reading ≠ 0 then m
    else
      let n := ceilDiv y.spillLen 65536
      (List.range n).foldl (fun (m : Chip) k =>
        m.place z { DUnit.make d .read (.spill z r) 4 (m.rowDeadline (m.zone z).tenant m.now) b (w + k) 255 with
          slc := true, off := 4194304 * r + 65536 * k, ncw := 16 }) (m.setRow z r { y with reading := n })
  | none => m

/-- A complete row whose programs may start has them made (R252), behind those of the row before it (R157), unless a member is being relocated, when
the row waits in staging (R171), or the zone has three FAILED members (R172). A row that was spilled while it waited is read back first (R159). -/
def Chip.kickRow (m : Chip) (z r : Nat) : Chip :=
  let x := m.zone z
  let y := m.row z r
  if !y.complete || y.issued || !(decide (r ≤ x.rows) || (m.row z (r - 1)).issued) || x.reloc || decide (x.liveMembers.length < 16) then m
  else if y.spill.isSome then m.readBack z r
  else
    let m := m.setRow z r { y with issued := true, left := x.liveMembers }
    let m := if m.paired then m.sendParity z r else m
    x.liveMembers.foldl (fun (m : Chip) i => m.programMember z r i) m

/-- A row becomes complete (R252). -/
def Chip.completeRow (m : Chip) (z r : Nat) : Chip :=
  (m.setRow z r { m.row z r with complete := true, completeAt := m.now }).kickRow z r

/-- The rows of one zone that wait are programmed, lowest first. -/
def Chip.kickRows (m : Chip) (z : Nat) : Chip :=
  ((m.zn.rows.filter fun e => decide (e.1 / 1024 = z)).map (·.1 % 1024)).foldl (fun (m : Chip) r => m.kickRow z r) m

/-- Complete every row that the committed data now fills. -/
def Chip.fillRows (m : Chip) (z : Nat) : Chip :=
  let full := m.filledBytes z / 4194304
  let x := m.zone z
  ((List.range full).filter fun r => decide (x.rows ≤ r) && !(m.row z r).complete).foldl
    (fun (m : Chip) r => m.completeRow z r) m

/-- Data reaches a row: its idle time starts again, a spill of it that runs is given up (log entry 169), and a spilled row is read back (R158, R159). -/
def Chip.touchRow (m : Chip) (z r : Nat) : Chip :=
  let y := m.row z r
  (m.setRow z r { y with lastData := m.isl.dtc, plan := none }).readBack z r

/-- Data reaches the bytes from `a` to below `b` of a stripe. -/
def Chip.touchRows (m : Chip) (z a b : Nat) : Chip :=
  (List.range (rowOf (b - 1) + 1 - rowOf a)).foldl (fun (m : Chip) k => m.touchRow z (rowOf a + k)) m

/-! ## Full, Reset and the end of stripes -/

/-- A block leaves its stripe awaiting erase, or erased when nothing was ever programmed (R146(c), R146(e)); WORN at the wear limit (R237); a log
block's stays in the metadata region (R166). A bad one stays bad. -/
def Chip.freeBlock (m : Chip) (d b : Nat) (erased : Bool := false) : Chip :=
  let x := m.blk d b
  if 6 ≤ x.state then m
  else if m.f LDP_WEARCFG.PE_LIMIT ≤ x.erases then (m.modBlk d b fun x => { x with state := 8, needErase := false }).incF FCH_DIE.BAD d
  else if x.state = 5 then m.modBlk d b fun x => { x with state := 3, needErase := x.dirty }
  else m.modBlk d b fun x => { x with state := if erased && !x.needErase then 0 else 1, needErase := false }

/-- A read of block `b` of die `d` is under way. -/
def Chip.blockRead (m : Chip) (d b : Nat) : Bool :=
  (m.allUnits ++ m.tw.fwds.map (·.2.unit)).any fun u => decide (u.kind = .read ∧ u.die = d ∧ u.block = b)

/-- A block is freed after the last read that uses it has ended (R147, R171). -/
def Chip.leaveBlock (m : Chip) (d b : Nat) (erased : Bool := false) : Chip :=
  if m.blockRead d b then { m with zn := { m.zn with held := if (d, b) ∈ m.zn.held then m.zn.held else m.zn.held ++ [(d, b)] } }
  else m.freeBlock d b erased

/-- A stripe's blocks return to their dies. -/
def Chip.releaseStripe (m : Chip) (z : Nat) (erased : Bool) : Chip :=
  let m := (m.zone z).members.foldl (fun (m : Chip) y => if y.failed then m else m.leaveBlock y.die y.block erased) m
  m.setZone z { m.zone z with members := [], cls := 0 }

/-- Make a zone Full: the state, and for the device's own finish the ZFC attribute, notice, event and count (R149, R163). -/
def Chip.makeFull (m : Chip) (z : Nat) (early : Bool) : Chip :=
  let m := m.setZone z { m.zone z with pending := false, zfc := early }
  let m := m.setZoneState z zsf
  if early then ((m.incF ZNE_EVCNT.EARLYFULL).emit 10 0x403A).zoneNotice z else m

/-- A pending-Full zone becomes Full once no write is uncommitted (R163). -/
def Chip.checkPending (m : Chip) (z : Nat) : Chip :=
  if (m.zone z).pending && decide (m.uncommitted z = 0) then m.makeFull z true else m

/-- A commit that leaves no room for a raw granule leaves its zone pending Full (R163). -/
def Chip.lastGranule (m : Chip) (z : Nat) : Chip :=
  let x := m.zone z
  if x.type = 1 ∧ 16777216 - x.pfp < 257 ∧ x.state ≠ zsf then m.setZone z { x with pending := true } else m

/-- The entries of the poison table: those of a stripe left behind by a Reset (R147) are gone from it (R259). -/
def Chip.poisonUsed (m : Chip) : Nat := (m.zn.poison.filter fun k => decide (k / 2 ^ 41 = 0)).length

/-- The zone's rows, staged data, poison entries and pointers are forgotten; buffers of its rows are freed by the caller. -/
def Chip.clearZoneData (m : Chip) (z : Nat) : Chip :=
  let m := { m with zn := { m.zn with
      rows := m.zn.rows.filter (fun e => decide (e.1 / 1024 ≠ z)),
      poison := m.zn.poison.filter (fun k => decide (k / 2 ^ 21 ≠ z)),
      pages := m.zn.pages.filter (fun k => decide (k / 128 ≠ z)),
      store := memClear m.zn.store (2 ^ 33 * z) (2 ^ 33 * (z + 1)),
      phys := memClear m.zn.phys (2 ^ 33 * z) (2 ^ 33 * (z + 1)),
      located := m.zn.located.filter (fun e => decide (e.1 ≠ z)),
      moves := m.zn.moves.filter (fun v => decide (v.zone ≠ z)) } }
  let m := m.setF SPE_POISON.USED m.poisonUsed
  m.setZone z { m.zone z with
    cwp := 0, rwp := 0, pwp := 0, pfp := 0, rpp := 0, rows := 0, zfc := false, reloc := false,
    refresh := false, spilled := false, pending := false, granules := [], extents := [], logUnits := 0 }

/-! ## A Reset with reads still running (R147) -/

/-- A part of a live command reads stripe `z`. -/
def Chip.stripeRead (m : Chip) (z : Nat) : Bool :=
  m.q.slots.any fun e => e.2.parts.any fun p => p.place.any fun q => decide (p.zone = z ∨ q.1 = z)

/-- The entries of zone `z` of a table with `per` keys a zone, again under zone `g`. -/
def rebase {α : Type} (per z g : Nat) (t : List (Nat × α)) : List (Nat × α) :=
  (t.filter fun e => decide (e.1 < per * g)) ++ ((t.filter fun e => decide (e.1 / per = z)).map fun e => (e.1 + (g - z) * per, e.2)) ++
    t.filter fun e => decide (per * g ≤ e.1)

/-- The reads that run of a stripe keep it: it goes over, with its data, to the lowest free number 2^20 × k + z, for as long as they last. -/
def Chip.leaveBehind (m : Chip) (z : Nat) : Chip :=
  let k := ((List.range (m.zn.zones.length + 1)).find? fun k => (tfind m.zn.zones (2 ^ 20 * (k + 1) + z)).isNone).getD 0
  let g := 2 ^ 20 * (k + 1) + z
  let x := m.zone z
  let row (y : RowSt) : RowSt := { RowSt.blank with spill := y.spill, spillLen := y.spillLen }
  let moved (n : Nat) : Nat := if n = z then g else n
  let part (p : Part) : Part := if p.place.isSome then { p with zone := moved p.zone, place := p.place.map fun q => (moved q.1, q.2) } else p
  { m with
    q := { m.q with slots := m.q.slots.map fun e => (e.1, { e.2 with parts := e.2.parts.map part }) }
    md := { m.md with solves := m.md.solves.map fun v => { v with zone := moved v.zone } }
    zn := { m.zn with
      zones := tset Zone.blank m.zn.zones g { x with state := zso, reloc := false, members := x.members.map fun y => { y with relocSrc := false } }
      rows := rebase 1024 z g (m.zn.rows.map fun e => (e.1, if e.1 / 1024 = z then row e.2 else e.2))
      poison := m.zn.poison ++ ((m.zn.poison.filter fun k => decide (k / 2 ^ 21 = z)).map fun k => k + (g - z) * 2 ^ 21)
      store := rebase (2 ^ 33) z g m.zn.store
      phys := rebase (2 ^ 33) z g m.zn.phys } }

/-- A stripe's blocks return to their dies; those that running reads still need when the last of these has ended. -/
def Chip.releaseZone (m : Chip) (z : Nat) : Chip :=
  if m.stripeRead z then (let m := m.leaveBehind z; m.setZone z { m.zone z with members := [], cls := 0 }) else m.releaseStripe z false

/-- The stripes and blocks that no read needs any more are freed (R147, R171). -/
def Chip.freeLeft (m : Chip) : Chip :=
  let m := (m.zn.zones.filter fun e => decide (2 ^ 20 ≤ e.1) && !m.stripeRead e.1).foldl (fun (m : Chip) e =>
    ((m.releaseStripe e.1 false).clearZoneData e.1).setZone e.1 Zone.blank) m
  let free := m.zn.held.filter fun h => !m.blockRead h.1 h.2
  free.foldl (fun (m : Chip) h => m.freeBlock h.1 h.2) { m with zn := { m.zn with held := m.zn.held.filter fun h => !free.contains h } }

/-! ## The end of a write that has not committed (R132, R162) -/

/-- RWP and RPP return when the uncommitted write `c` of zone `z` ends (R132, R162). -/
def Chip.returnPointers (m : Chip) (z : Nat) (c : Cmd) (gone : List (Nat × Cmd)) : Chip :=
  let x := m.zone z
  m.setZone z { x with rwp := c.off, rpp := x.rpp - (c.resv + (gone.map (·.2.resv)).sum) }

/-- A live command ends without having committed, unless it has begun to commit, which goes on (R136): with a completion or internally. A write or append takes every later
uncommitted write of its sequential zone with it (R132): Command Interrupted, event 0x4010, a count each; the pointers
return, a mirror copy is released (R423), and reads that waited are classified again. -/
def Chip.endCmd (m : Chip) (s : Nat) (st : Option Status) : Chip :=
  match m.cmd? s with
  | none => m
  | some c =>
    if c.phase = .committed then m
    else match c.zone with
    | some z =>
      if !c.admin && isWriteOp (opcodeOf c.entry) && decide (c.phase = .running) then
        let conv := decide ((m.zone z).type = 2)
        let later := if conv then [] else (m.writers z).filter fun e => decide (c.seq < e.2.seq)
        let m := m.finish s st
        let m := later.foldl (fun (m : Chip) e =>
          ((m.incF QIE_CHAINABORT.COUNT).emit 10 0x4010 0 (some (m.cmdTag e.1 e.2))).finish e.1 (some stInterrupted)) m
        let m := if conv then m else m.returnPointers z c later
        let m := if m.paired && !conv then
            m.sendFrame 0x07 (some z) none (leBytes 2 (rowOf (m.filledBytes z)) ++ leBytes 1 3 ++ leBytes 4 (m.zone z).pwp ++
              leBytes 4 (m.filledBytes z % 4194304)) []
          else m
        (m.checkPending z).reclassify z
      else m.finish s st
    | none => m.finish s st

/-- Device-made ends give a live command a status; one that has committed keeps its commit (R39, R52). -/
def Chip.failSlot (m : Chip) (s : Nat) : Chip := m.endCmd s (some stInternal)

/-! ## Commit (R135, R136, R149, R163) -/

/-- Lay the compressed blocks of an elastic commit from PFP on: a granule's first block gives its OFF (R160, R161). -/
def layBlocks : Table Nat → Nat → List (Nat × List Byte) → Table Nat × Nat
  | t, pfp, [] => (t, pfp)
  | t, pfp, (g, b) :: bs =>
    layBlocks (match tfind t g with | some _ => t | none => tput t g pfp) (pfp + ceilDiv b.length 256) bs

/-- The commit records of a write (R136): one, or for more than 1 MiB two, of its first 1 MiB and of the rest, each as a write of its own. A
compressed block that begins in the first 1 MiB is laid with the first record (log entry 162). -/
def Chip.records (m : Chip) (z : Nat) (c : Cmd) : List Cmd :=
  let l := m.zoneLog z
  let mb := 1048576 / 2 ^ l
  if c.nlb ≤ mb then [c]
  else
    let first := c.off * 2 ^ l
    let k := ((piecesOf first (c.nlb * 2 ^ l)).filter fun p => decide (p.1 < first + 1048576)).length
    let used := ((c.blocks.take k).map fun b => ceilDiv b.2.length 256).sum
    [{ c with nlb := mb, data := c.data.take 1048576, blocks := c.blocks.take k, resv := used },
     { c with off := c.off + mb, nlb := c.nlb - mb, data := c.data.drop 1048576, blocks := c.blocks.drop k, resv := c.resv - used }]

/-- The record a write makes next: the first, or once that is made the second. -/
def Chip.nextRecord (m : Chip) (z : Nat) (c : Cmd) : Option Cmd := (m.records z c)[b1 (decide (c.phase = .committed))]?

/-- The zones a record's bytes lie in: (zone, byte offset, length). A conventional one may cross from a zone into the next (R165). -/
def Chip.recordSpans (m : Chip) (z : Nat) (c : Cmd) : List (Nat × Nat × Nat) :=
  let l := m.zoneLog z
  match m.ns? (nsidOf c.entry) with
  | none => [(z, c.off * 2 ^ l, c.nlb * 2 ^ l)]
  | some n => n.ranges ((m.zone z).zidx * n.zoneLbas + c.off) c.nlb

/-- The stored data of a record: the bytes it carried, or zeros. -/
def Chip.storeWrite (m : Chip) (z : Nat) (c : Cmd) : Chip :=
  let (st, _) := (m.recordSpans z c).foldl (fun (p : List Host.Cell × Nat) r =>
    let a := 2 ^ 33 * r.1 + r.2.1
    (if opcodeOf c.entry = 0x08 then memClear p.1 a (a + r.2.2) else memSetBytes p.1 a (slice c.data p.2 r.2.2), p.2 + r.2.2)) (m.zn.store, 0)
  let x := m.zone z
  let ph := if x.type = 1 then memSetBytes m.zn.phys (2 ^ 33 * z + x.pfp * 256) (c.blocks.flatMap (·.2)) else m.zn.phys
  { m with zn := { m.zn with store := st, phys := ph } }

/-- The zone context after the commit of `c`. -/
def Zone.afterCommit (x : Zone) (c : Cmd) : Zone :=
  if x.type = 1 then
    let (g, pfp) := layBlocks x.granules x.pfp c.blocks
    { x with
      cwp := c.off + c.nlb, granules := g, pfp := pfp, rpp := x.rpp - (c.resv - (pfp - x.pfp)),
      extents := x.extents ++ [(c.off + c.nlb, pfp)] }
  else if x.type = 0 then { x with cwp := c.off + c.nlb, extents := x.extents ++ [(c.off + c.nlb, 0)] }
  else x

/-- Degraded zones (R172): a member on a failed die. Three FAILED members make the zone Offline, with event and notice. -/
def Chip.degrade (m : Chip) (z d : Nat) : Chip :=
  let x := m.zone z
  let x := { x with members := x.members.map fun y => if y.die = d then { y with failed := true } else y }
  let m := m.setZone z x
  if !m.ownsZone z ∨ 262144 ≤ z then m
  else
    let m := if (x.members.filter (·.failed)).length ≥ 3 ∧ x.state ≠ zso then m.setZoneState z zso else m.zoneDelta z
    (m.emit 10 0x403D z).zoneNotice z

end Sys2Proof.Machine
end

