-- ==== Sys2Proof/Machine/Moves.lean ====
section
/-! DEFINITION. What the zone engine does behind the host's back: rows reaching flash, spills, member relocation and rebuild
(R158 to R172, R257 to R263), log blocks of conventional zones (R166 to R169), refresh marks (R234), and the erase and
release of blocks. -/

namespace Sys2Proof.Machine

/-! ## Rows reaching flash (R130, R157, R164, R424) -/

/-- PWP for a number of programmed rows (R157, R164). -/
def Zone.pwpAt (x : Zone) (lbaLog rows : Nat) : Nat :=
  if x.type = 1 then
    ((x.extents.takeWhile fun e => decide (e.2 * 256 ≤ 4194304 * rows)).map (·.1)).foldl max x.pwp
  else min x.cwp (4194304 * rows / 2 ^ lbaLog)

/-- The next row of a zone is on flash: ROWS and PWP advance, its staging is freed, the twin releases its copy (R424). -/
def Chip.advanceRows (m : Chip) (z : Nat) : Nat → Chip
  | 0 => m
  | n + 1 =>
    let x := m.zone z
    let y := m.row z x.rows
    if y.complete && y.issued && decide (y.left = []) then
      let r := x.rows
      let pwp := x.pwpAt (m.zoneLog z) (r + 1)
      let m := m.setZone z { x with rows := r + 1, pwp := pwp, extents := x.extents.filter fun e => decide (pwp < e.1) }
      let m := (m.setRow z r RowSt.blank).releaseBuffers (rowWork z r)
      let m := if m.paired then
          m.sendFrame 0x07 (some z) none (leBytes 2 r ++ leBytes 1 0 ++ leBytes 4 (m.zone z).pwp) []
        else m
      m.advanceRows z n
    else m

/-- Member `i`'s program of row `r` ended with good status. -/
def Chip.rowMemberDone (m : Chip) (z r i : Nat) : Chip :=
  let y := m.row z r
  (m.setRow z r { y with left := y.left.filter (· ≠ i) }).advanceRows z 1024

/-! ## Refresh marks (R234) -/

/-- Mark a block for refresh, urgent or not; a new mark or the gain of URGENT counts and records event 0x6006. -/
def Chip.markRefresh (m : Chip) (d b : Nat) (urgent : Bool) : Chip :=
  let x := m.blk d b
  if x.refresh && (x.urgent || !urgent) then m
  else
    let m := m.modBlk d b fun x => { x with refresh := true, urgent := x.urgent || urgent }
    let m := (m.incF LDP_REFRESHCNT.COUNT).emit (12 + dieCluster d) 0x6006
    match m.zn.zones.find? fun e => e.2.members.any fun y => decide (y.die = d ∧ y.block = b) with
    | some (z, _) => m.setZone z { m.zone z with refresh := true }
    | none => m

/-! ## Ends of blocks -/

/-- An erased block (R247): everything since its last erase is cleared and ERASES rises. -/
def Blk.erased (x : Blk) : Blk :=
  { x with refresh := false, urgent := false, outwin := false, slc := false, stepValid := false, rows := 0, reads := 0,
           maxbits := 0, erases := x.erases + 1, needErase := false, state := if x.state = 1 then 0 else x.state }

/-- A die may be past its bad-block limit (R242). -/
def Chip.badOver (m : Chip) (d : Nat) : Bool := decide (m.flash.rsvBlocks + m.f LDP_DIECFG.BADMAX < m.f FCH_DIE.BAD d)

/-- A block becomes GROWN_BAD (R238, R239). -/
def Chip.growBad (m : Chip) (d b : Nat) : Chip := (m.modBlk d b fun x => { x with state := 7, needErase := false }).incF FCH_DIE.BAD d

/-! ## Poison (R259) -/

/-- Enter a codeword in the poison table, a parity unit's above the data columns; a full table makes the zone Offline. -/
def Chip.poison (m : Chip) (z r t k w : Nat) : Chip :=
  let key := poisonKey z (pageStart r t k + w * 4096)
  if key ∈ m.zn.poison then m
  else if 4096 ≤ m.poisonUsed then
    (((m.setZoneState z zso).emit 11 0x6102).zoneNotice z)
  else
    let m := { m with zn := { m.zn with poison := m.zn.poison ++ [key] } }
    (m.setF SPE_POISON.USED m.poisonUsed).delta 0x07 z (some z)
      (leBytes 2 r ++ leBytes 1 t ++ leBytes 1 k ++ leBytes 1 w ++ leBytes 3 0)

/-! ## Metadata records (R466) -/

/-- The delta records that wait are programmed as metadata in LC5 (R180), in two copies on dies of two clusters (R466): when a page of them is there, or
with `all` (log entry 168). Without the metadata key they wait (R307). -/
def Chip.writeDeltas (m : Chip) (all : Bool) : Chip :=
  if m.zn.metaLeft ≠ 0 ∨ m.zn.deltas = [] ∨ (m.kslot 8193).state ≠ 1 ∨ (!all && decide ((m.zn.deltas.map (·.length)).sum < 16384)) then m
  else
    let n := 2 * m.zn.metaNext + 1
    match m.metaPlace n 0, m.metaPlace n 1 with
    | some a, some b =>
      let dl := (m.now + m.stampEpoch.2.deadlineLen 0 5) % 2 ^ 32
      let m := { m with zn := { m.zn with deltasOut := m.zn.deltas.length, metaLeft := 2, metaNext := m.zn.metaNext + 1 } }
      [a, b].foldl (fun (m : Chip) p => m.place 0 (DUnit.make p.1 .program .metaData 5 dl p.2.1 p.2.2.1 0)) m
    | _, _ => m

/-- A copy of the delta records is programmed; with the second they wait no more. -/
def Chip.deltasWrote (m : Chip) : Chip :=
  if 1 < m.zn.metaLeft then { m with zn := { m.zn with metaLeft := m.zn.metaLeft - 1 } }
  else { m with zn := { m.zn with metaLeft := 0, deltas := m.zn.deltas.drop m.zn.deltasOut, deltasOut := 0 } }

/-- A copy of the delta records did not take: all of them are programmed again, elsewhere (R238). -/
def Chip.deltasAgain (m : Chip) : Chip :=
  let m := m.cancelUnits fun u => decide (u.purpose = .metaData)
  ({ m with zn := { m.zn with metaLeft := 0, deltasOut := 0 } } : Chip).writeDeltas true

/-! ## Relocation and rebuild (R170, R171, R260 to R263) -/

/-- The member's block belongs to a log block's stripe (R166). -/
def logStripe (z : Nat) : Bool := decide (262144 ≤ z)

/-- The dies that may take over member `i` of a zone: eligible under R154 against the other 17 members (the side kept at 9), its own among them. -/
def Chip.moveTargets (m : Chip) (x : Zone) (i : Nat) (log : Bool) : List Nat :=
  let others := ((List.range x.members.length).filter (· ≠ i)).map fun j => (x.member j).die
  (List.range 3072).filter fun d =>
    decide (dieSide d = dieSide (x.member i).die) && m.declared d && m.eligible d log &&
    !others.any (fun e => decide (dieChannel e = dieChannel d)) &&
    decide ((others.filter fun e => decide (dieCluster e = dieCluster d)).length < 2)

/-- The least-worn target (R155, R170): lowest erase count of its least-worn free block, then lower die number. -/
def Chip.bestTarget (m : Chip) (x : Zone) (i : Nat) (log : Bool) : Option Nat :=
  (m.moveTargets x i log).foldl (fun best d =>
    let w := ((leastWorn (m.freeBlocks d log)).map (·.2.erases)).getD 0
    match best with
    | none => some (d, w)
    | some (e, v) => if w < v then some (d, w) else some (e, v)) none |>.map (·.1)

/-- Class and deadline of a move's units (R180, R261). -/
def Chip.moveClass (m : Chip) (v : Move) : Nat × Nat :=
  let t := m.stampEpoch.2
  let two := decide (2 ≤ ((m.zone v.zone).members.filter (·.failed)).length)
  let cls := if v.rebuild then (if two then 4 else 6) else if v.urgent then 4 else 7
  (cls, (m.now + t.deadlineLen 0 cls) % 2 ^ 32)

def Chip.setMove (m : Chip) (v : Move) : Chip :=
  { m with zn := { m.zn with moves := m.zn.moves.map fun w => if w.zone = v.zone ∧ w.member = v.member then v else w } }
def Chip.move? (m : Chip) (z i : Nat) : Option Move := m.zn.moves.find? fun v => v.zone = z ∧ v.member = i

/-- The registers that show rebuilds (R260, R263). -/
def Chip.showRebuild (m : Chip) : Chip :=
  let rb := m.zn.moves.filter (·.rebuild)
  let die (v : Move) : Nat := ((m.zone v.zone).member v.member).die
  let m1 := (m.setF SPE_STAT.REBUILDING (b1 (decide (rb ≠ [])))).setF SPE_STAT.RB_MEMBERS (rb.filter fun v => !v.queued).length
  let m1 := m1.setF SPE_STAT.RB_DIE (match rb.map die with | [] => 0 | d :: ds => ds.foldl min d)
  m1.setF SPE_RBLEFT.ROWS ((rb.map fun v => (m.zone v.zone).rows - v.next).sum)

/-- The next row of a running move is read: copied from its source, or solved from 16 sources as a full unit when the member is
FAILED (R170, R260). -/
def Chip.moveRow (m : Chip) (v : Move) : Chip :=
  let x := m.zone v.zone
  let y := x.member v.member
  let (cls, dl) := m.moveClass v
  let u := { DUnit.make y.die .read (.copyRead v.zone v.member v.next) cls dl y.block v.next 255 with off := pageStart v.next v.member 0 }
  if y.failed || v.rebuild || decide ((v.zone, v.member, v.next) ∈ m.zn.located) then
    m.startSolve v.zone v.next 255 v.member false ((m.repairSources x v.member).take 17) (.move v.zone v.member v.next) u
  else m.place v.zone u

/-- A rebuild row may start (R262). -/
def Chip.rebuildPaused (m : Chip) (z : Nat) : Bool :=
  decide (((m.zone z).members.filter (·.failed)).length < 2) &&
    (decide (m.f SPE_RBCFG.PAUSE_LEVEL ≤ m.f BPM_STAT.DEVBARO) || decide (m.f SPE_CTL.REBUILD_EN = 0))

/-- A block of the metadata or flush region. -/
def Blk.region (x : Blk) : Bool := decide (x.state = 3 ∨ x.state = 4)

/-- A retiring die none of whose blocks is a stripe member, or of a region, is RETIRED (R242). -/
def Chip.checkRetired (m : Chip) (d : Nat) : Chip :=
  if m.f FCH_DIE.STATE d = 5 ∧ (m.zn.zones.all fun e => e.2.members.all fun y => decide (y.die ≠ d)) ∧ (m.zn.held.all fun h => decide (h.1 ≠ d)) ∧
      (m.md.blocks.all fun e => decide (e.1 / 8192 ≠ d) || !e.2.region) then
    (m.setF FCH_DIE.STATE 6 d).delta 0x06 d none (leBytes 1 6 ++ leBytes 1 (m.f FCH_DIE.REASON d) ++ leBytes 6 0)
  else m

/-- A die's rebuild ends when none of its members remains FAILED in the controller's zones (R263), and its REBUILD flag when
none does on either controller (R260). -/
def Chip.checkRebuilt (m : Chip) (d : Nat) : Chip :=
  let failedOn (e : Nat × Zone) : Bool := decide (e.1 < 2 ^ 20) && e.2.members.any fun y => y.failed && decide (y.die = d)
  if m.f FCH_DIE.REBUILD d = 0 then m
  else
    let mine := m.zn.zones.any fun e => m.ownsStripe e.1 && failedOn e
    let m := if mine then m else m.emit 11 0x6105
    if m.zn.zones.any failedOn then m else m.setF FCH_DIE.REBUILD 0 d

/-- The member switches to its target in one cycle (R170, R263): the source block is freed once no read uses it, and rows that wait for the member
are programmed there (R171, R238). -/
def Chip.switchMember (m : Chip) (v : Move) : Chip :=
  let x := m.zone v.zone
  let y := x.member v.member
  let t : Member := { failed := false, relocSrc := false, block := v.block, die := v.die }
  let m := { m with zn := { m.zn with
    moves := m.zn.moves.filter fun w => !(decide (w.zone = v.zone ∧ w.member = v.member))
    located := m.zn.located.filter fun e => !(decide (e.1 = v.zone ∧ e.2.1 = v.member)) } }
  let m := m.setZone v.zone { x with
    members := x.members.set v.member t,
    reloc := m.zn.moves.any fun w => decide (w.zone = v.zone) && !w.queued,
    refresh := (x.members.set v.member t).any fun k => (m.blk k.die k.block).refresh }
  let m := m.delta 0x03 v.zone (some v.zone) (leBytes 1 v.member ++ leBytes 3 0 ++ leBytes 4 t.word)
  let m := if y.failed then m else m.leaveBlock y.die y.block
  let m := if v.rebuild then m.incF SPE_RBDONE.COUNT else m.incF ZNE_MOVES.RELOC
  let m := ((m.zn.rows.filter fun e => decide (e.1 / 1024 = v.zone) && e.2.issued && decide (v.member ∈ e.2.left)).map
    (·.1 % 1024)).foldl (fun (m : Chip) r => m.programMember v.zone r v.member) m
  let m := (m.kickRows v.zone).zoneDelta v.zone
  let m := if v.rebuild then m.checkRebuilt y.die else m.checkRetired y.die
  m.showRebuild

/-- Go on with a move: its next row, or its switch when every programmed row is on the target. -/
def Chip.goMove (m : Chip) (v : Move) : Chip :=
  if (m.zone v.zone).rows ≤ v.next then m.switchMember v
  else if !v.rebuild then m.moveRow v
  else if m.rebuildPaused v.zone then (m.setMove { v with queued := true }).setF SPE_STAT.PAUSED 1
  else if m.md.rebuildBytes < 262144 then m.setMove { v with queued := true }
  else
    let m := { m with md := { m.md with rebuildBytes := m.md.rebuildBytes - 262144 } }
    ((m.setMove { v with queued := false }).moveRow { v with queued := false }).showRebuild

/-- A rebuild that finds no eligible target leaves a Full zone as it is, and any other Read Only (R172). -/
def Chip.noTarget (m : Chip) (z : Nat) : Chip :=
  if (m.zone z).state = zsf ∨ (m.zone z).state = zso ∨ (m.zone z).state = zsro ∨ logStripe z then m
  else ((m.setZoneState z zsro).emit 10 0x403D z).zoneNotice z

/-- Start to move member `i` of a zone (R170, R260). -/
def Chip.startMove (m : Chip) (z i : Nat) (urgent rebuild wear : Bool) : Chip :=
  let x := m.zone z
  if (m.move? z i).isSome then m
  else match m.bestTarget x i (logStripe z) with
    | none => if rebuild then m.noTarget z else m
    | some d =>
      let (m, t) := m.bindBlock d (logStripe z)
      let v : Move := { zone := z, member := i, die := t.die, block := t.block, next := 0, urgent := urgent,
                        rebuild := rebuild, wear := wear, queued := false }
      let m := { m with zn := { m.zn with moves := m.zn.moves ++ [v] } }
      let src := { x.member i with relocSrc := true }
      let m := m.setZone z { x with reloc := true, members := x.members.set i src }
      ((m.delta 0x03 z (some z) (leBytes 1 i ++ leBytes 3 0 ++ leBytes 4 src.word)).zoneDelta z).goMove v

/-- The order of rebuilds (R261): two FAILED members first, then zones not Full, then Full ones, by zone number. -/
def rebuildGroup (x : Zone) : Nat :=
  if 2 ≤ (x.members.filter (·.failed)).length then 0 else if x.state = zsf then 2 else 1

/-- Start rebuilds of FAILED members in the controller's zones, at most 16 at once (R260, R261). Log-block stripes come first. -/
def Chip.startRebuilds (m : Chip) : Chip :=
  let want := if m.st.step < 14 then [] else m.zn.zones.flatMap fun e =>
    if e.2.state = zso ∨ !m.ownsStripe e.1 then []
    else ((List.range e.2.members.length).filter fun i => (e.2.member i).failed && (m.move? e.1 i).isNone).map fun i =>
      ((if 262144 ≤ e.1 then 0 else 1 + rebuildGroup e.2), e.1, i)
  let order := isort (fun a b => decide (a.1 < b.1) || (decide (a.1 = b.1) && decide (a.2.1 ≤ b.2.1))) want
  (order.foldl (fun (m : Chip) w =>
    if 16 ≤ (m.zn.moves.filter (·.rebuild)).length then m else m.startMove w.2.1 w.2.2 false true false) m).showRebuild

/-- A copied or rebuilt row is programmed on the target (R170). -/
def Chip.moveProgram (m : Chip) (v : Move) : Chip :=
  let (cls, dl) := m.moveClass v
  let u := { DUnit.make v.die .program (.copyWrite v.zone v.member v.next) cls dl v.block v.next 0 with off := pageStart v.next v.member 0 }
  let m := if (m.blk v.die v.block).needErase then
      (m.place v.zone { u with kind := .erase, purpose := .eraseBlock, row := 0 }).modBlk v.die v.block fun b => { b with needErase := false }
    else m
  m.place v.zone u

/-- A row has reached the target. -/
def Chip.moveDone (m : Chip) (z i r : Nat) : Chip :=
  match m.move? z i with
  | some v => if v.next = r then
      let v := { v with next := r + 1 }
      (m.setMove v).goMove v
    else m
  | none => m

/-- The units and solves of some moves go. -/
def Chip.cancelMoves (m : Chip) (gone : Nat → Nat → Bool) : Chip :=
  let solve (v : Solve) : Bool := match v.purpose with
    | .move z i _ => gone z i
    | _ => false
  let unit (u : DUnit) : Bool := match u.purpose with
    | .copyRead z i _ => gone z i
    | .copyWrite z i _ => gone z i
    | _ => (m.solveOf u).any solve
  let m := m.cancelUnits unit
  { m with
    zn := { m.zn with moves := m.zn.moves.filter fun v => !gone v.zone v.member }
    md := { m.md with solves := m.md.solves.filter fun v => !solve v } }

/-- A move whose target fails starts again with a new one (R171). -/
def Chip.restartMove (m : Chip) (v : Move) : Chip :=
  ((m.freeBlock v.die v.block).cancelMoves fun z i => decide (z = v.zone ∧ i = v.member)).startMove v.zone v.member v.urgent v.rebuild v.wear

/-- The moves of a zone stop; their targets are freed awaiting erase (R171). -/
def Chip.stopMoves (m : Chip) (z : Nat) : Chip :=
  let mine := m.zn.moves.filter fun v => decide (v.zone = z)
  ((mine.foldl (fun (m : Chip) v => m.freeBlock v.die v.block) m).cancelMoves fun y _ => decide (y = z)).showRebuild

/-! ## Blocks of the metadata and flush regions (R234, R242, R260) -/

/-- The move of a region's block. -/
def Chip.regionMove? (m : Chip) (d b : Nat) : Option RegionMove := m.zn.regionMoves.find? fun v => decide (v.die = d ∧ v.block = b)

def Chip.setRegionMove (m : Chip) (v : RegionMove) : Chip :=
  { m with zn := { m.zn with regionMoves := (m.zn.regionMoves.filter fun w => !(decide (w.die = v.die ∧ w.block = v.block))) ++ [v] } }

/-- Class and deadline of its units: those of a refresh relocation. -/
def Chip.regionClass (m : Chip) (d b : Nat) : Nat × Nat :=
  let cls := if (m.blk d b).urgent then 4 else 7
  (cls, (m.now + m.stampEpoch.2.deadlineLen 0 cls) % 2 ^ 32)

/-- The least-worn block for it: on an eligible die this controller drives, the lower die of equal ones (log entry 172). -/
def Chip.regionTarget (m : Chip) (d : Nat) : Option Nat :=
  ((List.range 3072).filter fun e => decide (e ≠ d) && m.drives e && m.declared e && m.eligible e).foldl (fun best e =>
    let w := ((leastWorn (m.freeBlocks e)).map (·.2.erases)).getD 0
    match best with
    | none => some (e, w)
    | some (f, v) => if w < v then some (e, w) else some (f, v)) none |>.map (·.1)

/-- All its rows are on the target: that block belongs to the region now, the old one awaits erase. -/
def Chip.regionSwitch (m : Chip) (v : RegionMove) : Chip :=
  let x := m.blk v.die v.block
  let m := m.modBlk v.tdie v.tblock fun y => { y with state := x.state, rows := x.rows, slc := x.slc }
  let m := m.modBlk v.die v.block fun y => if y.state ≤ 5 then { y with state := 1, needErase := false } else y
  let m := { m with zn := { m.zn with regionMoves := m.zn.regionMoves.filter fun w => !(decide (w.die = v.die ∧ w.block = v.block)) } }
  m.checkRetired v.die

/-- The next row of it is read; a FAILED die's is there in its other copy (R466). -/
def Chip.regionGo (m : Chip) (v : RegionMove) : Chip :=
  let m := m.setRegionMove v
  let (cls, dl) := m.regionClass v.die v.block
  if (m.blk v.die v.block).rows ≤ v.next then m.regionSwitch v
  else if m.f FCH_DIE.STATE v.die = 7 then
    m.newUnit { DUnit.make v.tdie .program (.regionWrite v.die v.block) cls dl v.tblock v.next 0 with slc := (m.blk v.die v.block).slc }
  else m.newUnit (DUnit.make v.die .read (.regionRead v.die v.block) cls dl v.block v.next 255)

/-- A row of it is read, and programmed on the target. -/
def Chip.regionRead (m : Chip) (d b : Nat) : Chip :=
  match m.regionMove? d b with
  | none => m
  | some v =>
    let (cls, dl) := m.regionClass d b
    m.newUnit { DUnit.make v.tdie .program (.regionWrite d b) cls dl v.tblock v.next 0 with slc := (m.blk d b).slc }

def Chip.regionWrote (m : Chip) (d b : Nat) : Chip :=
  match m.regionMove? d b with
  | some v => m.regionGo { v with next := v.next + 1 }
  | none => m

/-- A region's block starts to move. What the spill log holds in it is read back into staging first (R159). -/
def Chip.startRegion (m : Chip) (d b : Nat) : Chip :=
  if (m.regionMove? d b).isSome then m
  else if m.spillHere d b then
    let m := { m with zn := { m.zn with spillBlk := m.zn.spillBlk.filter fun e => decide (e ≠ (d, e.2) ∨ e.2.1 ≠ b) } }
    (m.zn.rows.filter fun e => e.2.spill.any fun p => decide (p.1 = d ∧ p.2.1 = b)).foldl (fun (m : Chip) e => m.readBack (e.1 / 1024) (e.1 % 1024)) m
  else match m.regionTarget d with
    | none => m
    | some e =>
      let (m, t) := m.bindBlock e
      let (cls, dl) := m.regionClass d b
      let m := if (m.blk e t.block).needErase then
          (m.newUnit (DUnit.make e .erase .eraseBlock cls dl t.block 0 0)).modBlk e t.block fun y => { y with needErase := false }
        else m
      m.regionGo { die := d, block := b, tdie := e, tblock := t.block, next := 0 }

/-- A region's block grows bad: another one takes its place, and what the spill log holds in it is read back (R238). -/
def Chip.regionLost (m : Chip) (d b state : Nat) : Chip :=
  let m := if m.spillHere d b then m.startRegion d b else m
  match m.regionTarget d with
  | none => m
  | some e =>
    let (m, t) := m.bindBlock e
    m.modBlk e t.block fun y => { y with state := state }

/-- A region's move whose target fails starts again with another. -/
def Chip.regionAgain (m : Chip) (d b : Nat) : Chip :=
  match m.regionMove? d b with
  | none => m
  | some v =>
    let m := (m.freeBlock v.tdie v.tblock).cancelUnits fun u => decide (u.purpose = .regionRead d b ∨ u.purpose = .regionWrite d b)
    ({ m with zn := { m.zn with regionMoves := m.zn.regionMoves.filter fun w => !(decide (w.die = d ∧ w.block = b)) } } : Chip).startRegion d b

/-- Blocks taken for a stripe or a move that no longer goes on, awaiting erase. -/
def Chip.freeOrphans (m : Chip) : Chip :=
  let members := m.zn.zones.flatMap fun e => e.2.members.map fun y => blkKey y.die y.block
  let targets := m.zn.moves.map (fun v => blkKey v.die v.block) ++ m.zn.regionMoves.map (fun v => blkKey v.tdie v.tblock) ++
    ((m.zn.merge.map (·.members)).getD []).map fun y => blkKey y.die y.block
  let taken := members ++ targets ++ m.zn.held.map fun h => blkKey h.1 h.2
  (m.md.blocks.filter fun e => decide (e.2.state = 2 ∨ e.2.state = 5) && !taken.contains e.1).foldl (fun (m : Chip) e =>
    m.freeBlock (e.1 / 8192) (e.1 % 8192)) m

/-- Relocations that a start or a takeover found under way begin again (R171). -/
def Chip.restartMoves (m : Chip) : Chip :=
  let found := (m.zn.zones.filter fun e => m.ownsStripe e.1).flatMap fun e =>
    ((List.range e.2.members.length).filter fun i => (e.2.member i).relocSrc && !(e.2.member i).failed && (m.move? e.1 i).isNone).map fun i => (e.1, i)
  found.foldl (fun (m : Chip) e =>
    let y := (m.zone e.1).member e.2
    m.startMove e.1 e.2 (m.blk y.die y.block).urgent false false) m.freeOrphans

/-- The owners of the metadata, flush and log regions move their blocks that are marked for refresh, grown bad, or lie on a die that retires or has
FAILED (R234, R238, R242, R260). -/
def Chip.regionWork (m : Chip) : Chip :=
  let due := m.md.blocks.filter fun e => m.drives (e.1 / 8192) &&
    (e.2.region && (e.2.refresh || decide (m.f FCH_DIE.STATE (e.1 / 8192) = 5 ∨ m.f FCH_DIE.STATE (e.1 / 8192) = 7)))
  let m := due.foldl (fun (m : Chip) e => m.startRegion (e.1 / 8192) (e.1 % 8192)) m
  let logs := (m.zn.zones.filter fun e => logStripe e.1 && m.ownsStripe e.1).flatMap fun e => (List.range e.2.members.length).map fun i => (e.1, i, e.2.member i)
  (logs.filter fun e => !e.2.2.failed && (m.blk e.2.2.die e.2.2.block).refresh).foldl (fun (m : Chip) e =>
    m.startMove e.1 e.2.1 (m.blk e.2.2.die e.2.2.block).urgent false false) m

/-! ## Spill (R158, R159) -/

/-- The dies a spill may go to, in turn: those in service (R220). -/
def Chip.spillDies (m : Chip) : List Nat :=
  let ds := (List.range 3072).filter fun d => m.drives d && decide (2 ≤ m.f FCH_DIE.STATE d ∧ m.f FCH_DIE.STATE d ≤ 4)
  ds.filter (m.zn.spillNext ≤ ·) ++ ds.filter (· < m.zn.spillNext)

/-- The open spill block of a die with room for `w` wordlines, or another block of the metadata region, the next to write of it. -/
def Chip.spillPlace (m : Chip) (d w : Nat) : Option (Nat × Nat) :=
  match (tfind m.zn.spillBlk d).filter fun e => decide (e.2 + w ≤ 1024) with
  | some e => some e
  | none => (m.takeBlock d true).map fun e => (e.1, 0)

/-- A row may be spilled: it holds staged data, none of its programs is issued, and it is partial, or waits for a member's switch (R158, R171). -/
def Chip.spillable (m : Chip) (z r : Nat) : Bool :=
  let y := m.row z r
  m.ownsStripe z && decide ((m.zone z).rows ≤ r ∧ 4194304 * r < m.filledBytes z) && y.spill.isNone && y.plan.isNone && !y.issued &&
    (!y.complete || (m.zone z).reloc)

/-- A row's committed data goes in SLC programs to the next die in turn, wholly to one block (R158); in LC5 for a shutdown (R478). -/
def Chip.startSpill (m : Chip) (z r : Nat) : Chip :=
  if !m.spillable z r then m
  else
    let len := min (m.filledBytes z - 4194304 * r) 4194304
    let w := ceilDiv len 65536
    match m.spillDies.findSome? fun d => (m.spillPlace d w).map fun p => (d, p) with
    | none => m
    | some (d, b, n) =>
      let cls := if m.st.shutting then 5 else 4
      let dl := m.rowDeadline (m.zone z).tenant m.now cls
      let m := if n = 0 ∧ (m.blk d b).dirty then m.place z (DUnit.make d .erase .eraseBlock cls dl b 0 0) else m
      let m := { m with zn := { m.zn with spillBlk := tput m.zn.spillBlk d (b, n + w), spillNext := d + 1 } }
      let m := m.setRow z r { m.row z r with plan := some (d, b, n), spillLen := len }
      (List.range w).foldl (fun (m : Chip) k =>
        m.place z { DUnit.make d .program (.spill z r) cls dl b (n + k) 0 with slc := true }) m

/-- A spill's programs have ended: the delta goes to the twin, staging and the twin's copy are released (R158). -/
def Chip.spillDone (m : Chip) (z r : Nat) : Chip :=
  let y := m.row z r
  match y.plan with
  | none => m
  | some (d, b, n) =>
    let m := m.setRow z r { y with plan := none, spill := some (d, b, n) }
    let m := m.delta 0x09 z (some z) (leBytes 2 r ++ leBytes 6 0 ++ leBytes 8 (d + b * 2 ^ 12 + 2 ^ 25 * n))
    let m := m.releaseBuffers (rowWork z r)
    let m := if m.paired then m.sendFrame 0x07 (some z) none (leBytes 2 r ++ leBytes 1 1 ++ leBytes 4 (m.zone z).pwp) [] else m
    let m := (m.setZone z { m.zone z with spilled := true }).zoneDelta z
    (m.incF ZNE_SPILLCNT.SPILLS).emit 10 0x403C

/-- A wordline of a spilled row is read back, with its codewords the ladder left uncorrectable: zeros stand in their place, and their positions in the
row are poisoned. With the last the row is back in staging (R159). -/
def Chip.spillBack (m : Chip) (z r : Nat) (u : DUnit) (bad : List Nat) : Chip :=
  if (m.row z r).reading = 0 then m
  else
    let m := bad.foldl (fun (m : Chip) k =>
      let b := u.off + 4096 * k
      if b % 4194304 < (m.row z r).spillLen then m.poison z r (memberOf r (columnOf b)) (pageOf b) (b % 16384 / 4096) else m) m
    let y := m.row z r
    if 1 < y.reading then m.setRow z r { y with reading := y.reading - 1 }
    else
      let m := m.setRow z r { y with spill := none, spillLen := 0, reading := 0 }
      (m.setZone z { m.zone z with spilled := m.zn.rows.any fun e => decide (e.1 / 1024 = z) && e.2.spill.isSome }).kickRows z

/-- The stripes that hold staged data of a zone: its own, or of a conventional one the log blocks with units of it. -/
def Chip.stagedStripes (m : Chip) (z : Nat) : List Nat :=
  if (m.zone z).type ≠ 2 then [z]
  else (m.zn.logBlks.filter fun e => e.2.units.any fun u => decide (u.2 / 2 ^ 20 = z)).map fun e => logZone e.1

/-- The rows of a stripe that are not programmed yet. -/
def Chip.openRows (m : Chip) (z : Nat) : List (Nat × Nat) :=
  let first := (m.zone z).rows
  (List.range (ceilDiv (m.filledBytes z) 4194304 - first)).map fun k => (z, first + k)

/-- The oldest row that may be spilled, by its last data. -/
def Chip.oldestPartial (m : Chip) : Option (Nat × Nat) :=
  let rows := ((m.zn.zones.map (·.1)).flatMap m.openRows).filter fun e => m.spillable e.1 e.2
  (isort (fun a b => decide ((m.row a.1 a.2).lastData ≤ (m.row b.1 b.2).lastData)) rows).head?

/-- While the staging pool's barometer stands at ZNE_SPILLCFG.LEVEL, the oldest row is spilled, one at a time (R158). -/
def Chip.spillPressure (m : Chip) : Chip :=
  let lvl := ((m.img.tables.poolOf 35).map fun p => m.baroOf p.pool).getD 0
  if lvl < m.f ZNE_SPILLCFG.LEVEL ∨ m.zn.rows.any (fun e => e.2.plan.isSome) then m
  else match m.oldestPartial with
    | some (z, r) => m.startSpill z r
    | none => m

/-! ## Log blocks (R166 to R169) -/

/-- The counts of ZNE_LOGSTAT and of each zone's units in log blocks. -/
def Chip.showLog (m : Chip) : Chip :=
  let m := m.setF ZNE_LOGSTAT.FREE m.freeLog
  let m := m.setF ZNE_LOGSTAT.HOT (m.zn.logBlks.filter (·.2.hot)).length
  m.setF ZNE_LOGSTAT.COLD (m.zn.logBlks.filter fun e => !e.2.hot).length

/-- Units of a zone held in log blocks, by their newest entries. -/
def Chip.logUnitsOf (m : Chip) (z : Nat) : Nat :=
  ((m.zn.logBlks.flatMap (·.2.units)).filter fun u => decide (u.2 / 2 ^ 20 = z)).length

/-- The lowest number without a log block; side B's numbers lie above side A's. -/
def Chip.newLog (m : Chip) : Nat :=
  (((List.range 256).map (256 * m.side + ·)).find? fun k => (tfind m.zn.logBlks k).isNone).getD (256 * m.side + 255)

/-- A log block without a stripe is bound to one of the metadata region, as warm or cold data (R166). -/
def Chip.bindLog (m : Chip) (k : Nat) (hot : Bool) : Chip :=
  if (m.zone (logZone k)).members ≠ [] then m
  else
    let cls := if hot then 2 else 3
    match m.newStripe cls true with
    | (_, none) => m.incF ZNE_MOVES.PLACEFAIL
    | (m, some members) => m.setStripe (logZone k) cls members

/-- Open a log block of a class (R166). -/
def Chip.openLog (m : Chip) (hot : Bool) : Chip :=
  let k := m.newLog
  ({ m.bindLog k hot with zn := { (m.bindLog k hot).zn with
      logBlks := tput (m.bindLog k hot).zn.logBlks k { hot := hot, opened := true, units := [] } } } : Chip).showLog

/-- The open log block of a class, opened when there is none. -/
def Chip.logFor (m : Chip) (hot : Bool) : Chip × Nat :=
  match m.zn.logBlks.find? fun e => decide (e.2.hot = hot) && e.2.opened with
  | some (k, _) => (m, k)
  | none => let k := m.newLog; (m.openLog hot, k)

/-- The next free position of a log block. -/
def LogBlk.next (b : LogBlk) : Nat := (b.units.map (·.1 + 1)).foldl max 0

/-- A unit goes to the open log block of its class; its older entry is dropped, and the log map's change is told to the twin. A
row of log units that fills is programmed; a full block is closed (R166). -/
def Chip.logAppend (m : Chip) (hot : Bool) (z u : Nat) : Chip :=
  let key := 2 ^ 20 * z + u
  let m := { m with zn := { m.zn with
    logBlks := m.zn.logBlks.map fun (e : Nat × LogBlk) => (e.1, { e.2 with units := e.2.units.filter (·.2 ≠ key) }) } }
  let (m, k) := m.logFor hot
  match tfind m.zn.logBlks k with
  | none => m
  | some b =>
    let m := m.bindLog k hot
    let lz := m.zone (logZone k)
    let pos := max b.next (lz.rwp)
    let m := { m with zn := { m.zn with
      logBlks := tput m.zn.logBlks k { b with units := b.units ++ [(pos, key)], opened := decide (pos + 1 < 1048576) } } }
    let m := m.setZone (logZone k) { lz with cwp := pos + 1, rwp := pos + 1 }
    let m := m.delta 0x04 z (some z) (leBytes 4 u ++ leBytes 8 (2 ^ 20 * k + pos) ++ leBytes 4 0)
    let m := m.setZone z { m.zone z with logUnits := m.logUnitsOf z }
    let m := m.touchRow (logZone k) (pos / 1024)
    let m := if (pos + 1) % 1024 = 0 then m.completeRow (logZone k) (pos / 1024) else m
    m.showLog

/-- The staging buffers of a command become those of its row. -/
def Chip.retagBuffers (m : Chip) (s work : Nat) : Chip :=
  { m with bp := { m.bp with
    bufs := m.bp.bufs.map fun (e : Nat × Buf) => (e.1, if e.2.work = s ∧ e.2.allocator = 35 then { e.2 with work := work } else e.2) } }

/-- The 4 KiB units of a stretch of bytes. -/
def unitsOf (off len : Nat) : List Nat := (List.range (ceilDiv (off + len) 4096 - off / 4096)).map fun k => off / 4096 + k

/-- A commit record of a write in slot `s` is made (R135, R136): CWP advances, rows fill or units go to the log blocks, and the zone becomes Full at
its capacity (R149). -/
def Chip.commitRecord (m : Chip) (s z : Nat) (c : Cmd) : Chip :=
  let from_ := m.filledBytes z
  let m := m.storeWrite z c
  let m := m.setZone z ((m.zone z).afterCommit c)
  if (m.zone z).type = 2 then
    let units := (m.recordSpans z c).flatMap fun r => (unitsOf r.2.1 r.2.2).map fun u => (r.1, u)
    let m := units.foldl (fun (m : Chip) u => m.logAppend (decide (c.hint ≤ 2)) u.1 u.2) m
    match (units.getLast?).bind fun u => m.logEntry u.1 u.2 with
    | some (k, pos) => m.retagBuffers s (rowWork (logZone k) (pos / 1024))
    | none => m
  else
    let to_ := m.filledBytes z
    ((m.retagBuffers s (rowWork z (rowOf (to_ - 1)))).touchRows z from_ to_).fillRows z

/-! ## Compaction and merge (R169) -/

/-- A log block is freed: its stripe returns to the metadata region. -/
def Chip.freeLogBlk (m : Chip) (k : Nat) : Chip :=
  let m := (m.releaseZone (logZone k)).clearZoneData (logZone k)
  ({ m with zn := { m.zn with logBlks := tdel m.zn.logBlks k } }).showLog

/-- Class and deadline of the maintenance of log space (R169, R180). -/
def Chip.logClass (m : Chip) : Nat × Nat :=
  let cls := if m.freeLog < 4 then 4 else 7
  (cls, (m.now + m.stampEpoch.2.deadlineLen 0 cls) % 2 ^ 32)

/-- The zone engine reads the bytes from `a` to below `b` of a stripe's page at `pg`: from its die, from the spill log, or, with the member FAILED, by a
solve. -/
def Chip.engineRead (m : Chip) (z a b pg : Nat) (purpose : Purpose) (solve : SolveFor) : Chip :=
  let x := m.zone z
  let t := memberOf (rowOf pg) (columnOf pg)
  let y := x.member t
  let (cls, dl) := m.logClass
  let (cw, n) := pageCws a b pg
  let u := { DUnit.make y.die .read purpose cls dl y.block (rowOf pg) (pageOf pg) with off := pg, cw := cw, ncw := n }
  match (m.row z (rowOf pg)).spill with
  | some (d, k, w) => m.place z { u with die := d, block := k, row := w + pg % 4194304 / 65536, page := pg % 65536 / 16384, slc := true }
  | none =>
    if y.failed || decide (m.f FCH_DIE.STATE y.die = 7) then m.startSolve z (rowOf pg) (pageOf pg) t false (m.repairSources x t) solve u
    else m.place z u

/-- The units of a compaction still to copy whose entries are the newest of their units. -/
def Chip.copyLeft (m : Chip) (c : Compact) : List (Nat × Nat) :=
  c.left.filter fun u => ((tfind m.zn.logBlks c.victim).map (·.units)).any (·.contains u)

/-- The next page of a log block in compaction is read; with none left the block is freed. -/
def Chip.compactNext (m : Chip) : Chip :=
  match m.zn.compact with
  | none => m
  | some c =>
    let left := m.copyLeft c
    let m := { m with zn := { m.zn with compact := some { c with left := left } } }
    match left with
    | [] => ({ m with zn := { m.zn with compact := none } } : Chip).freeLogBlk c.victim
    | (pos, _) :: _ =>
      let here := (left.map (·.1)).filter fun p => decide (p / 4 = pos / 4)
      m.engineRead (logZone c.victim) (pos * 4096) ((here.foldl max pos + 1) * 4096) (pos / 4 * 16384) (.logCopy c.victim) (.copy (pos / 4 * 16384))

/-- Compaction (R169): while fewer than 8 log blocks are free, the programmed log block with the fewest valid units has them copied
to the open block of its class, page by page, one block at a time. -/
def Chip.compactLog (m : Chip) : Chip :=
  if 8 ≤ m.freeLog ∨ m.zn.compact.isSome then m
  else
    let cands := m.zn.logBlks.filter fun e => !e.2.opened && m.ownsStripe (logZone e.1) && decide ((m.zone (logZone e.1)).rows = 1024)
    match cands with
    | [] => m
    | c :: cs =>
      let e := cs.foldl (fun a b => if b.2.units.length < a.2.units.length then b else a) c
      { m with zn := { m.zn with compact := some { victim := e.1, left := e.2.units } } }.compactNext

/-- A compaction stops; what it has copied stays. -/
def Chip.stopCompact (m : Chip) : Chip :=
  let solve (v : Solve) : Bool := match v.purpose with
    | .copy _ => true
    | _ => false
  let m := m.cancelUnits fun u => match u.purpose with
    | .logCopy _ => true
    | _ => (m.solveOf u).any solve
  { m with zn := { m.zn with compact := none }, md := { m.md with solves := m.md.solves.filter fun v => !solve v } }

/-- A page of a log block in compaction has been read, with the codewords nothing recovered: its units that are still valid go to the open block of
their class, one not recovered as poisoned (R259). -/
def Chip.logCopied (m : Chip) (k pg : Nat) (bad : List Nat) : Chip :=
  match m.zn.compact with
  | none => m
  | some c =>
    if c.victim ≠ k then m
    else
      let hot := ((tfind m.zn.logBlks k).map (·.hot)).getD false
      let here := (m.copyLeft c).filter fun u => decide (u.1 / 4 = pg / 16384)
      let m := { m with zn := { m.zn with compact := some { c with left := c.left.filter fun u => decide (u.1 / 4 ≠ pg / 16384) } } }
      let m := here.foldl (fun (m : Chip) u =>
        let lost := bad.contains (u.1 % 4) || decide (poisonKey (logZone k) (u.1 * 4096) ∈ m.zn.poison)
        let m := m.logAppend hot (u.2 / 2 ^ 20) (u.2 % 2 ^ 20)
        match if lost then m.logEntry (u.2 / 2 ^ 20) (u.2 % 2 ^ 20) else none with
        | some (n, pos) =>
          let b := pos * 4096
          m.poison (logZone n) (rowOf b) (memberOf (rowOf b) (columnOf b)) (pageOf b) (b % 16384 / 4096)
        | none => m) m
      m.compactNext

def Chip.setMerge (m : Chip) (g : Option Merge) : Chip := { m with zn := { m.zn with merge := g } }

/-- The pages a row of a merge is made of, as (stripe, page, from byte, to byte), by the sources of R167; staged data is there. -/
def Chip.mergePages (m : Chip) (z r : Nat) : List (Nat × Nat × Nat × Nat) :=
  let x := m.zone z
  let at_ := (List.range 1024).filterMap fun i =>
    match m.logEntry z (1024 * r + i) with
    | some (k, p) =>
      let s := logZone k
      if p < 1024 * (m.zone s).rows || m.inSpill s (p * 4096) then some (s, p * 4096) else none
    | none => if x.members = [] then none else some (z, 4194304 * r + 4096 * i)
  ((at_.map fun e => (e.1, e.2 / 16384 * 16384)).eraseDups).map fun e =>
    let bs := (at_.filter fun f => decide (f.1 = e.1 ∧ f.2 / 16384 * 16384 = e.2)).map (·.2)
    (e.1, e.2, bs.foldl min (e.2 + 16384), bs.foldl max 0 + 4096)

/-- The merged row's units are programmed on the new stripe, behind the erase a block may need first. -/
def Chip.mergeProgram (m : Chip) (g : Merge) : Chip :=
  let (cls, dl) := m.logClass
  let m := m.setMerge (some { g with left := List.range g.members.length })
  (g.members.zipIdx).foldl (fun (m : Chip) e =>
    let y := e.1
    let u := { DUnit.make y.die .program (.mergeWrite g.zone g.row e.2) cls dl y.block g.row 0 with off := pageStart g.row e.2 0 }
    let m := if (m.blk y.die y.block).needErase then
        (m.place g.zone { u with kind := .erase, purpose := .eraseBlock, row := 0 }).modBlk y.die y.block fun b => { b with needErase := false }
      else m
    m.place g.zone u) m

/-- A row of a merge begins: its log map entries are noted, codewords already known lost too, and its pages are read. -/
def Chip.mergeRow (m : Chip) (g : Merge) : Chip :=
  let units := (List.range 1024).map fun i => 1024 * g.row + i
  let taken := units.filterMap fun u => (m.logEntry g.zone u).map fun e => (e.1, e.2, u)
  let lost := units.filter fun u => decide (m.sourceConv g.zone u (some 0) = .bad)
  let pages := m.mergePages g.zone g.row
  let g := { g with taken := g.taken ++ taken, lost := g.lost ++ lost.map (· * 4096), reads := pages.length }
  if pages = [] then m.mergeProgram g
  else pages.foldl (fun (m : Chip) p => m.engineRead p.1 p.2.2.1 p.2.2.2 p.2.1 (.mergeRead p.1) (.merge p.1 p.2.1)) (m.setMerge (some g))

/-- The units and solves of a merge go, and its new stripe's blocks. -/
def Chip.stopMerge (m : Chip) : Chip :=
  match m.zn.merge with
  | none => m
  | some g =>
    let solve (v : Solve) : Bool := match v.purpose with
      | .merge _ _ => true
      | _ => false
    let m := m.cancelUnits fun u => match u.purpose with
      | .mergeRead _ => true
      | .mergeWrite _ _ _ => true
      | _ => (m.solveOf u).any solve
    let m := { m with md := { m.md with solves := m.md.solves.filter fun v => !solve v } }
    (g.members.foldl (fun (m : Chip) y => m.freeBlock y.die y.block) m).setMerge none

/-- Merge (R169): a conventional zone with more than 262,144 units in log blocks gets a new data stripe of its class, written row by row in order. One
zone merges at a time (log entry 171). -/
def Chip.mergeZone (m : Chip) (z : Nat) : Chip :=
  let x := m.zone z
  if x.type ≠ 2 ∨ !m.ownsZone z ∨ m.logUnitsOf z ≤ 262144 ∨ m.zn.merge.isSome then m
  else match m.newStripe (if x.cls = 0 then 2 else x.cls) with
    | (_, none) => m.incF ZNE_MOVES.PLACEFAIL
    | (m, some members) => m.mergeRow { zone := z, members := members, row := 0, reads := 0, left := [], taken := [], lost := [] }

/-- A merge whose new stripe lost a block begins again. -/
def Chip.mergeAgain (m : Chip) (z : Nat) : Chip := m.stopMerge.mergeZone z

/-- A read of the merge ends with the codewords nothing recovered; with the row's last its programs are made. -/
def Chip.mergeRead (m : Chip) (s pg : Nat) (bad : List Nat) : Chip :=
  match m.zn.merge with
  | none => m
  | some g =>
    let lost := bad.filterMap fun w =>
      let b := pg + 4096 * w
      if s = g.zone then some b else (g.taken.find? fun e => decide (logZone e.1 = s ∧ e.2.1 = b / 4096)).map fun e => e.2.2 * 4096
    let g := { g with lost := g.lost ++ lost, reads := g.reads - 1 }
    if g.reads = 0 then m.mergeProgram g else m.setMerge (some g)

/-- Every row is written: the zone takes the new stripe, the map entries it has taken over are cleared, the old stripe is released. -/
def Chip.mergeEnd (m : Chip) (g : Merge) : Chip :=
  let z := g.zone
  let x := m.zone z
  let m := m.setMerge none
  let m := x.members.foldl (fun (m : Chip) y => if y.failed then m else m.leaveBlock y.die y.block) m
  let stale (k : Nat) (u : Nat × Nat) : Bool := decide (u.2 / 2 ^ 20 = z) && g.taken.contains (k, u.1, u.2 % 2 ^ 20)
  let m := { m with zn := { m.zn with
    logBlks := m.zn.logBlks.map fun (e : Nat × LogBlk) => (e.1, { e.2 with units := e.2.units.filter fun u => !stale e.1 u })
    poison := m.zn.poison.filter fun k => decide (k / 2 ^ 21 ≠ z) } }
  let m := m.setStripe z (if x.cls = 0 then 2 else x.cls) g.members
  let m := m.setZone z { m.zone z with rows := 1024, reloc := false, logUnits := m.logUnitsOf z }
  let m := (m.zn.logBlks.flatMap fun e => (e.2.units.filter fun u => decide (u.2 / 2 ^ 20 = z)).map fun u => (e.1, u)).foldl (fun (m : Chip) e =>
    m.delta 0x04 z (some z) (leBytes 4 (e.2.2 % 2 ^ 20) ++ leBytes 8 (2 ^ 20 * e.1 + e.2.1) ++ leBytes 4 0)) m
  let m := (m.setF SPE_POISON.USED m.poisonUsed)
  let m := g.lost.foldl (fun (m : Chip) b => m.poison z (rowOf b) (memberOf (rowOf b) (columnOf b)) (pageOf b) (b % 16384 / 4096)) m
  (m.incF ZNE_MOVES.MERGE).showLog

/-- Member `i` of the merged row is programmed. -/
def Chip.mergeWrote (m : Chip) (z r i : Nat) : Chip :=
  match m.zn.merge with
  | none => m
  | some g =>
    if g.zone ≠ z ∨ g.row ≠ r then m
    else
      let g := { g with left := g.left.filter (· ≠ i) }
      if g.left ≠ [] then m.setMerge (some g)
      else if r = 1023 then m.mergeEnd g
      else m.mergeRow { g with row := r + 1 }

/-! ## Solves end (R255 to R259) -/

/-- The end of a solve, with the codewords that no 16 members gave; its reads still in flight are discarded (R257). -/
def Chip.endSolve (m : Chip) (v : Solve) : Chip :=
  let lost := v.unsolved
  let m := m.cancelUnits fun u => (m.solveOf u).any fun w => decide (w.id = v.id)
  let m := { m with md := { m.md with solves := m.md.solves.filter (·.id ≠ v.id) } }
  let m := if lost.length < v.codewords.length then m.countSolve v else m
  match v.purpose with
  | .part s i =>
    let m := if v.recon && decide (lost = []) then
        let d := ((m.zone v.zone).member v.member).die
        let y := m.die d
        m.setDie d { y with reconAround := min (y.reconAround + 1) (2 ^ 32 - 1) }
      else m
    m.partUnitDone s i v.zone (pageStart v.row v.member v.page) lost
  | .block s i _ => m.partUnitDone s i v.zone (pageStart v.row v.member v.page) lost
  | .move z i r =>
    match m.move? z i with
    | none => m
    | some w =>
      if w.next ≠ r then m
      else
        let m := lost.foldl (fun (m : Chip) k =>
          (m.unrecoverable z (pageStart r i 0 + k * 4096) none).poison z r i (k / 4) (k % 4)) m
        m.moveProgram w
  | .copy pg => m.logCopied (v.zone - 262144) pg lost
  | .merge s pg => m.mergeRead s pg lost
  | .staging => m

/-- Member `i`'s read of a solve came in, with the codewords it could not decode. Reconstruct-around-busy falls back to the
target die at the first failed source (R203). -/
def Chip.solveReport (m : Chip) (id i : Nat) (bad : List Nat) : Chip :=
  match m.md.solves.find? (·.id = id) with
  | none => m
  | some v =>
    let v := { v with waiting := v.waiting.filter (· ≠ i), got := v.got ++ [(i, bad)] }
    if v.recon && decide (bad ≠ []) then
      let m := { m with md := { m.md with solves := m.md.solves.filter (·.id ≠ id) } }
      match v.purpose with
      | .part s p =>
        match m.cmd? s with
        | some c =>
          let y := (m.zone v.zone).member v.member
          m.place v.zone { DUnit.make y.die .read (.hostRead s p) c.cls c.deadline y.block v.row v.page with
            tenant := c.tenant, internal := false, again := true, off := pageStart v.row v.member v.page, cw := v.cw, ncw := v.ncw }
        | none => m
      | _ => m
    else { m with md := { m.md with solves := m.md.solves.map fun w => if w.id = id then v else w } }

end Sys2Proof.Machine
end

