-- ==== Sys2Proof/Machine/Dies.lean ====
section
/-! DEFINITION. Channel engines and dies (R183 to R193, R205, R220 to R244): starting and suspending die operations, the end of
reads with the retry ladder, of programs and of erases, die resets and failures, training, and the media temperature. -/

namespace Sys2Proof.Machine

/-! ## What may start (R184, R192, R193, R244) -/

def TrainSt.blank : TrainSt := { todo := [], ce := none, started := false, fails := [], retry := [], resets := [] }
def Chip.train (m : Chip) (ch : Nat) : TrainSt := tget TrainSt.blank m.md.train ch
def Chip.setTrain (m : Chip) (ch : Nat) (v : TrainSt) : Chip :=
  { m with md := { m.md with train := tset TrainSt.blank m.md.train ch v } }

/-- Queue entries of a die may be started: the channel driven, its island serving, no HOLD, the die in SERVICE or RETIRING. -/
def Chip.dieOpen (m : Chip) (d : Nat) : Bool :=
  let st := m.f FCH_DIE.STATE d
  m.drives d && m.islServes (12 + dieCluster d) && decide (m.f FCH_CTL.HOLD (dieChannel d) = 0) && decide (st = 2 ∨ st = 5)

/-- C(Q) in ticks: the service cost of a read, the nominal time of a program or erase (R192). -/
def Chip.unitCost (m : Chip) (u : DUnit) : Nat :=
  match u.kind with
  | .read => usTicks (m.costUs u)
  | _ => usTicks (m.nominalUs u)

/-- A unit of another tenant in the queue is at risk from `p` (R192). -/
def Chip.atRisk (m : Chip) (p : DUnit) (queue : List DUnit) : Bool :=
  queue.any fun q => !q.internal && decide (q.tenant ≠ p.tenant) &&
    decide (slackAt (m.nowAt (12 + dieCluster p.die) (some q.tenant)) q.deadline < usTicks (m.nominalUs p) + m.unitCost q)

/-- The ledger holds a program or erase (R193, R194). -/
def Chip.ledgerHolds (m : Chip) (p : DUnit) (queue : List DUnit) : Bool :=
  decide (p.kind ≠ .read) && !p.internal && decide (m.f DLS_CTL.LEDGER_EN = 1) &&
    (decide ((m.credit p.tenant p.die).credit < 0) || decide ((m.tablesOf p.epoch).share p.tenant = 0)) && m.atRisk p queue

/-- A program is held outside the media window (R244). -/
def Chip.windowHolds (m : Chip) (u : DUnit) : Bool := decide (u.kind = .program ∧ m.f FCH_DIE.HOT u.die = 1)

/-- No new LC7 Drizzle unit starts while the device barometer is at BPM_BPCFG.DRIZZLE or above (R365). -/
def Chip.drizzleHolds (m : Chip) (u : DUnit) : Bool :=
  decide (u.cls = 7 ∧ (m.f BPM_BPCFG.DRIZZLE ≤ m.f BPM_STAT.DEVBARO ∨ 1 ≤ m.f THM_STAT.LEVEL))

/-- While a power-fail flush runs no new erase or Drizzle unit starts (R453); from the commit on nothing but the flush does (R455). -/
def Chip.flushHolds (m : Chip) (u : DUnit) : Bool :=
  let st := m.f PLP_STAT.STATE
  let drizzle := u.drizzle || match u.purpose with
    | .spill _ _ => decide (u.kind = .program)
    | _ => false
  decide (st = 2 ∨ st = 3) || (decide (st = 1) && (decide (u.kind = .erase) || drizzle))

/-- Count and report a ledger hold once per unit (R193). -/
def Chip.tellLedger (m : Chip) (u : DUnit) : Chip :=
  if u.held then m
  else
    let x := m.die u.die
    let mark (v : DUnit) : DUnit := if v.id = u.id then { v with held := true } else v
    let m := m.setDie u.die { x with queue := x.queue.map mark }
    let t := m.ten u.tenant
    let m := m.setTen u.tenant { t with ldgHolds := min (t.ldgHolds + 1) (2 ^ 32 - 1) }
    (m.incF DLS_LDGHOLD.COUNT).emit (12 + dieCluster u.die) 0x5003 0 (some (m.unitTag u))

/-- The entry the engine starts: the first in the order of R184 that nothing holds; the ledger's holds passed are counted. -/
def Chip.chooseUnit (m : Chip) (queue : List DUnit) : List DUnit → Chip × Option DUnit
  | [] => (m, none)
  | u :: us =>
    if m.windowHolds u ∨ m.drizzleHolds u ∨ m.flushHolds u then m.chooseUnit queue us
    else if m.ledgerHolds u (queue.filter (·.id ≠ u.id)) then (m.tellLedger u).chooseUnit queue us
    else (m, some u)

/-! ## Starting (R183, R184, R187) -/

/-- Start a unit on a die: its nominal time is charged (R191); a read of a block with STEP_VALID starts at that step (R231). -/
def Chip.beginUnit (m : Chip) (u : DUnit) : Chip :=
  let x := m.die u.die
  let b := m.blk u.die u.block
  let u' := { u with ladder := if decide (u.kind = .read) && b.stepValid then [b.lastStep] else [], bad := [], soft := false }
  let x := { x with
    queue := x.queue.filter (·.id ≠ u.id), running := some u', start := m.isl.dtc, readAt := m.isl.dtc,
    served := if x.suspended.isSome then x.served + 1 else x.served }
  (m.setDie u.die x.fill).charge u (usTicks (m.nominalUs u) : Nat)

/-- The suspended operation resumes (R187). -/
def Chip.resume (m : Chip) (d : Nat) (p : DUnit) : Chip :=
  m.setDie d { m.die d with running := some p, suspended := none, suspending := false, served := 0, start := m.isl.dtc }

/-- What a free die does next, with no flush unit on it (R456): inside a suspension the head read, if it may be served, or the resume (R187); otherwise the
chosen entry (R184). -/
def Chip.startDie (m : Chip) (d : Nat) : Chip :=
  let x := m.die d
  if x.running.isSome || (tfind m.plp.flight d).isSome then m
  else match x.suspended with
  | some p =>
    match x.queue with
    | h :: _ =>
      if m.dieOpen d && decide (h.kind = .read ∧ x.served < m.f DLS_SUSPCFG.MAX_READS) && earlier h.deadline p.deadline then
        m.beginUnit h
      else if m.flushHolds p then m else m.resume d p
    | [] => if m.flushHolds p then m else m.resume d p
  | none =>
    if !m.dieOpen d then m
    else match m.chooseUnit x.queue x.queue with
      | (m, some u) => m.beginUnit u
      | (m, none) => m

/-- The suspend decision of R186 for the head read, with the limit of R188. -/
def Chip.evalSusp (m : Chip) (d : Nat) : Chip :=
  let x := m.die d
  match x.running, x.queue with
  | some p, r :: rest =>
    if p.kind = .read ∨ x.suspending ∨ r.kind ≠ .read ∨ !m.dieOpen d then m
    else
      let c := usTicks (m.costUs r)
      let slack := slackAt (m.nowAt (12 + dieCluster d) (some r.tenant)) r.deadline
      if !earlier r.deadline p.deadline || decide (m.remaining p x.start + c ≤ slack) || decide (slack < usTicks (m.suspUs p) + c) then m
      else if p.susp < m.maxSusp d then
        let p := { p with susp := p.susp + 1, busy := p.busy + (m.isl.dtc - x.start) }
        let m := m.setDie d { x with running := some p, suspending := true, suspAt := m.isl.dtc, served := 0 }
        if p.kind = .program then m.incF DLS_SUSPCNT.PROG else m.incF DLS_SUSPCNT.ERASE
      else if r.held then m
      else
        let m := (m.incF DLS_SUSPLIMIT.COUNT).emit (12 + dieCluster d) 0x5004 0 (some (m.unitTag r))
        let m := m.setDie d { m.die d with queue := { r with held := true } :: rest }
        match r.purpose with
        | .hostRead s i =>
          match m.cmd? s with
          | none => m
          | some c =>
            match c.parts[i]? with
            | none => m
            | some pt =>
              let (z, _, _) := m.partPlace pt
              let y := m.zone z
              if r.slc then m
              else
                let t := memberOf r.row (columnOf r.off)
                match m.reconDecide s c y t r with
                | (m, some src) =>
                  (m.setDie d ((m.die d).shed fun u => decide (u.id = r.id))).startSolve z r.row r.page t true src (.part s i) r
                | (m, none) => m
        | _ => m
  | _, _ => m

/-- After any change of a die's queue. -/
def Chip.turn (m : Chip) (d : Nat) : Chip :=
  let x := m.die d
  ((if x.look then m.setDie d { x with look := false } else m).startDie d).evalSusp d

/-- The earliest unit made for a die enters its queue, or its overflow list (R183). Device work that found no device slot free takes one now, or
stays where it is (R120). -/
def Chip.enqueueDie (m : Chip) (d : Nat) : Chip :=
  let free := m.deviceSlot
  let lacks (u : DUnit) : Bool := m.needsSlot u && u.slot.isNone
  match firstUnit (m.md.disp.filter fun u => decide (u.die = d) && !(lacks u && free.isNone)) with
  | none => m
  | some u =>
    let u := if lacks u then { u with slot := free } else u
    let m := { m with md := { m.md with disp := m.md.disp.filter (·.id ≠ u.id) } }
    let x := m.die d
    (m.setDie d { x with overflow := insertUnit u x.overflow }.fill).turn d

/-- A suspended operation's die is ready (R187): the first read served pays for the suspend (R191). -/
def Chip.suspReady (m : Chip) (d : Nat) : Chip :=
  let x := m.die d
  match x.running with
  | none => m
  | some p =>
    if !x.suspending then m
    else
      let m := m.setDie d { x with running := none, suspended := some p, suspending := false }
      let m := m.startDie d
      match (m.die d).running with
      | some r => if r.kind = .read then m.charge r (m.isl.dtc - x.suspAt : Nat) else m
      | none => m

/-- The miss of a unit of the device's own is reported when the unit ends (R205, R206). -/
def Chip.reportLate (m : Chip) (u : DUnit) : Chip :=
  if u.late then m.emit 10 0x5001 ((m.now + 2 ^ 32 - u.deadline % 2 ^ 32) % 2 ^ 32) (some (m.unitTag u)) else m

/-! ## The channel bus (R185) -/

/-- The die's read holds data ready: it runs, is not in the soft decoder, and its array time is over (log entry 170). -/
def Chip.dataReady (m : Chip) (d : Nat) : Bool :=
  let x := m.die d
  (x.running.any fun u => decide (u.kind = .read) && !u.soft) && decide (x.readAt + usTicks m.flash.trUs ≤ m.isl.dtc)

/-- The dies of a channel that hold data ready, in the order of R184. -/
def Chip.busOrder (m : Chip) (ch : Nat) : List Nat :=
  (isort (fun a b => a.1.before b.1) (((List.range 32).map (32 * ch + ·)).filterMap fun d =>
    if m.dataReady d then (m.die d).running.map fun u => (u, d) else none)).map (·.2)

/-- The bus of a channel is free: the first die that holds data ready takes it. -/
def Chip.busNext (m : Chip) (ch : Nat) : Chip :=
  { m with md := { m.md with bus := match m.busOrder ch with
    | d :: _ => tput m.md.bus ch d
    | [] => tdel m.md.bus ch } }

/-- The read of die `d` may end now: its die holds the bus, or the bus was free when its data got ready, before any other's. -/
def Chip.busMine (m : Chip) (d : Nat) : Bool :=
  match tfind m.md.bus (dieChannel d) with
  | some h => decide (h = d) || !m.dataReady h
  | none => (m.busOrder (dieChannel d)).all fun e => decide (e = d ∨ (m.die d).readAt ≤ (m.die e).readAt)

/-- The bus passes on when its holder is no longer in a transfer. -/
def Chip.busLeave (m : Chip) (d : Nat) : Chip := if tfind m.md.bus (dieChannel d) = some d then m.busNext (dieChannel d) else m

/-! ## Failed members and dies (R172, R221, R242) -/

/-- The member of a zone on a die. -/
def Zone.memberOn (x : Zone) (d : Nat) : Option Nat := (List.range x.members.length).find? fun i => decide ((x.member i).die = d)

/-- The member position a stripe's unit reads or programs. -/
def DUnit.position (u : DUnit) : Nat :=
  if u.off < 2 ^ 32 then memberOf (rowOf u.off) (columnOf u.off)
  else if (u.off - 2 ^ 32) / 262144 % 2 = 0 then parityP u.row else parityQ u.row

/-- A read part whose unit cannot be read from its die becomes a repair (R172, R233, R257); what the spill log does not give is lost (R159). -/
def Chip.repairPart (m : Chip) (s i : Nat) (u : DUnit) (bad : List Nat) : Chip :=
  match (m.cmd? s).bind fun c => c.parts[i]? with
  | none => m
  | some p =>
    let z := (m.partPlace p).1
    if u.slc then m.partUnitDone s i z u.off bad
    else m.startSolve z u.row u.page u.position false (m.repairSources (m.zone z) u.position) (.part s i) u

/-- A page the zone engine reads of stripe `z` is in, with codewords that did not decode: these are solved for, or lost in the spill log. -/
def Chip.engineDone (m : Chip) (z : Nat) (u : DUnit) (bad : List Nat) (solve : SolveFor) (done : Chip → List Nat → Chip) : Chip :=
  if bad = [] ∨ u.slc then done m bad
  else m.startSolve z u.row u.page u.position false (m.repairSources (m.zone z) u.position) solve u

/-- FWDDONE for a forwarded operation (R411, R424). -/
def Chip.fwdDone (m : Chip) (req status bits busyUs : Nat) : Chip :=
  let zone := (tfind m.tw.fwdIns req).map (·.zone)
  let m := m.sendFrame 0x0C zone none (leBytes 4 req ++ leBytes 1 status ++ leBytes 1 0 ++ leBytes 2 bits ++ leBytes 4 busyUs) []
  { m with tw := { m.tw with fwdIns := tdel m.tw.fwdIns req } }

/-- The end of a sanitize's block erase: step 6 is behind it, and the last block is erased (R347). -/
def Chip.sanEnd (m : Chip) : Chip := (m.setF TRS_SANSTAT.STATE 2).emit 0 0x6508

/-- A die's next block in a sanitize (R347): every block but the bad ones, one after another; the last die's last block ends
it. -/
def Chip.sanNext (m : Chip) (d : Nat) : Chip :=
  match tfind m.tr.sanErase d with
  | none => m
  | some b =>
    match (List.range (m.flash.userBlocks + m.flash.rsvBlocks)).find? fun k => decide (b ≤ k ∧ (m.blk d k).state ∉ [6, 7]) with
    | some k =>
      let m := { m with tr := { m.tr with sanErase := tput m.tr.sanErase d (k + 1) } }
      m.newUnit (DUnit.make d .erase .sanitize 6 ((m.now + m.stampEpoch.2.deadlineLen 0 6) % 2 ^ 32) k 0 0)
    | none =>
      let m := { m with tr := { m.tr with sanErase := tdel m.tr.sanErase d } }
      if m.tr.sanErase = [] then m.sanEnd else m

/-- A failed die leaves a sanitize. -/
def Chip.sanDrop (m : Chip) (d : Nat) : Chip :=
  if (tfind m.tr.sanErase d).isNone then m
  else
    let m := { m with tr := { m.tr with sanErase := tdel m.tr.sanErase d } }
    if m.tr.sanErase = [] then m.sanEnd else m

/-- A spill whose program did not take goes to another place, all of it. -/
def Chip.spillAgain (m : Chip) (z r : Nat) (u : DUnit) : Chip :=
  let y := m.row z r
  if y.plan.any fun p => decide (p.1 = u.die) then
    ((m.cancelUnits fun v => decide (v.kind = .program ∧ v.purpose = .spill z r)).setRow z r { y with plan := none }).startSpill z r
  else m

/-- A unit returned from a FAILED die (R221): reads are reconstructed, programs handled by R172, erases dropped. -/
def Chip.failUnit (m : Chip) (u : DUnit) : Chip :=
  let m := m.reportLate u
  match u.purpose with
  | .hostRead s i => m.repairPart s i u u.codewords
  | .index s i k => m.indexDone s i k true
  | .recon id i => m.solveReport id i u.codewords
  | .repair id i => m.solveReport id i u.codewords
  | .row z r i => m.rowMemberDone z r i
  | .spill z r => if u.kind = .read then m.spillBack z r u u.codewords else m.spillAgain z r u
  | .logCopy k => m.engineDone (logZone k) u u.codewords (.copy u.off) fun m bad => m.logCopied k u.off bad
  | .mergeRead z => m.engineDone z u u.codewords (.merge z u.off) fun m bad => m.mergeRead z u.off bad
  | .metaData => m.deltasAgain
  | .regionRead d b => m.regionRead d b
  | .forwarded req => m.fwdDone req 3 0 0
  | .sanitize => m.sanDrop u.die
  | _ => m

/-- Every unit of a die: on it, in its queue or overflow list, or on its way there. -/
def Chip.dieUnits (m : Chip) (d : Nat) : List DUnit :=
  let x := m.die d
  x.running.toList ++ x.suspended.toList ++ x.queue ++ x.overflow ++ m.md.disp.filter (fun u => decide (u.die = d))

/-- The operations of a die end unfinished: their nominal charges are corrected to the time they took (R191). -/
def Chip.chargeCut (m : Chip) (d : Nat) : Chip :=
  let x := m.die d
  let m := match x.running with
    | some u =>
      let ran := if u.kind = .read then m.isl.dtc - x.start else if x.suspending then u.busy else u.busy + (m.isl.dtc - x.start)
      m.charge u ((ran : Int) - (usTicks (m.nominalUs u) : Nat))
    | none => m
  match x.suspended with
  | some p => m.charge p ((p.busy : Int) - (usTicks (m.nominalUs p) : Nat))
  | none => m

/-- A die without units. -/
def Chip.clearDie (m : Chip) (d : Nat) : Chip :=
  let m := m.chargeCut d
  let m := m.setDie d { m.die d with running := none, suspended := none, suspending := false, queue := [], overflow := [] }
  { m with md := { m.md with
    disp := m.md.disp.filter fun u => decide (u.die ≠ d)
    softQ := m.md.softQ.filter fun u => decide (u.die ≠ d) } }.busLeave d

/-- The stripes with a member on a die. -/
def Chip.zonesOn (m : Chip) (d : Nat) : List Nat :=
  (m.zn.zones.filter fun e => decide (e.1 < 2 ^ 20) && e.2.members.any fun y => decide (y.die = d)).map (·.1)

/-- A die's state and reason, told to the twin (R426, type 0x06). -/
def Chip.setDieState (m : Chip) (d state reason : Nat) : Chip :=
  ((m.setF FCH_DIE.STATE state d).setF FCH_DIE.REASON reason d).delta 0x06 d none
    (leBytes 1 state ++ leBytes 1 reason ++ leBytes 6 0)

/-- The zones on a FAILED die are degraded and their rebuild begins (R172, R260). -/
def Chip.degradeAll (m : Chip) (d : Nat) : Chip :=
  let hit := m.zonesOn d
  let m := hit.foldl (fun (m : Chip) z => m.degrade z d) m
  if hit = [] then m else (m.setF FCH_DIE.REBUILD 1 d).emit 11 0x6104

/-- The moves a FAILED die was part of: one to it starts again with a new target (R171), one off it becomes a rebuild (R260); a merge to it begins
again. -/
def Chip.failMoves (m : Chip) (d : Nat) : Chip :=
  let to_ := m.zn.moves.filter fun v => decide (v.die = d)
  let off := m.zn.moves.filter fun v => decide (v.die ≠ d ∧ ((m.zone v.zone).member v.member).die = d)
  let m := to_.foldl (fun (m : Chip) v => m.restartMove v) m
  let m := off.foldl (fun (m : Chip) v => m.restartMove { v with rebuild := true }) m
  let m := (m.zn.regionMoves.filter fun v => decide (v.tdie = d)).foldl (fun (m : Chip) v => m.regionAgain v.die v.block) m
  match m.zn.merge with
  | some g => if g.members.any fun y => decide (y.die = d) then m.mergeAgain g.zone else m
  | none => m

/-- A die enters FAILED (R221, R172, R260). -/
def Chip.failDie (m : Chip) (d reason : Nat) : Chip :=
  if m.f FCH_DIE.STATE d = 7 then m
  else
    let us := m.dieUnits d
    let m := ((m.clearDie d).reconAround fun m => m.setDieState d 7 reason).emit (12 + dieCluster d) 0x6008
    let m := us.foldl (fun (m : Chip) u => m.failUnit u) (m.degradeAll d)
    (m.failMoves d).startRebuilds

/-- A die is retired (R242): RETIRING, event 0x6009, and its stripe members move off. -/
def Chip.retireDie (m : Chip) (d reason : Nat) : Chip :=
  let m := (m.setDieState d 5 reason).emit (12 + dieCluster d) 0x6009
  let mine := m.zn.zones.filterMap fun e => if m.ownsStripe e.1 then (e.2.memberOn d).map fun i => (e.1, i) else none
  let m := mine.foldl (fun (m : Chip) e => m.startMove e.1 e.2 false false false) m
  m.checkRetired d

/-- A die past its bad-block limit retires. -/
def Chip.checkBad (m : Chip) (d : Nat) : Chip := if m.badOver d ∧ m.f FCH_DIE.STATE d = 2 then m.retireDie d 7 else m

/-! ## Ends of operations -/

/-- Take a unit off its die with the measured time correcting the nominal charge (R191). -/
def Chip.endUnit (m : Chip) (u : DUnit) (busy : Nat) : Chip :=
  let x := m.die u.die
  let m := m.setDie u.die { x with running := none, suspending := false, busy := x.busy + busy }
  m.charge u ((busy : Int) - (usTicks (m.nominalUs u) : Nat))

/-- Put a unit back in its die's queue, to be issued again. -/
def Chip.requeue (m : Chip) (u : DUnit) : Chip :=
  let x := m.die u.die
  m.setDie u.die { x with queue := insertUnit { u with again := true, ladder := [], bad := [], soft := false, susp := 0, busy := 0 } x.queue }

/-- The stored bytes of a row held for the twin: its 16 data columns from the mirror copy. -/
def Chip.mirRowData (m : Chip) (z r : Nat) : List Byte := memGetBytes m.tw.mirData (2 ^ 33 * z + 4194304 * r) 4194304

/-- The bytes of a page (255: the whole unit) of a member's unit of the twin's row: a data column, or parity computed of them. -/
def Chip.mirPage (m : Chip) (z r t page : Nat) : List Byte :=
  let data := m.mirRowData z r
  let unit := if t = parityP r ∨ t = parityQ r then
      (((tfind m.tw.mirror (rowKey z r)).bind fun x => tfind x.parity t).filter fun u => decide (u.length = 262144)).getD
        (if t = parityP r then parityUnitP data else parityUnitQ data)
    else slice data (262144 * ((t + 36 - r % 18 - 2) % 18)) 262144
  if page = 255 then unit else slice unit (16384 * page) 16384

/-- An injected read that makes no refresh mark and no LAST_STEP (R529). -/
def Chip.quiet (m : Chip) (u : DUnit) : Bool := u.inj && decide (m.f PTB_LDPC.NOMARK = 1)

/-- A read has come in, with the codewords the ladder could not decode (R203, R233, R257): what asked for it goes on. -/
def Chip.readDone (m : Chip) (u : DUnit) (bad : List Nat) (busy : Nat) : Chip :=
  let m := m.reportLate u
  let m := bad.foldl (fun (m : Chip) _ =>
    let m := (m.incF LDP_UNCCNT.COUNT).emit (12 + dieCluster u.die) 0x6005 0 (some (m.unitTag u))
    if m.quiet u then m else m.markRefresh u.die u.block true) m
  match u.purpose with
  | .hostRead s i =>
    match m.cmd? s with
    | none => m
    | some c =>
      match c.parts[i]? with
      | none => m
      | some p => if bad ≠ [] then m.repairPart s i u bad else m.partUnitDone s i (m.partPlace p).1 u.off []
  | .index s i k => m.indexDone s i k (decide (bad ≠ []))
  | .recon id i => m.solveReport id i bad
  | .repair id i => m.solveReport id i bad
  | .regionRead d b => m.regionRead d b
  | .spill z r => m.spillBack z r u bad
  | .logCopy k => m.engineDone (logZone k) u bad (.copy u.off) fun m bad => m.logCopied k u.off bad
  | .mergeRead z => m.engineDone z u bad (.merge z u.off) fun m bad => m.mergeRead z u.off bad
  | .copyRead z i r =>
    match m.move? z i with
    | none => m
    | some v =>
      if v.next ≠ r then m
      else if bad = [] then m.moveProgram v
      else m.startSolve z r 255 i false (m.repairSources (m.zone z) i) (.move z i r) u
  | .forwarded req =>
    match tfind m.tw.fwdIns req with
    | none => m
    | some f =>
      let t := ((m.zone f.zone).memberOn f.die).getD 0
      let m := if bad = [] then m.sendData f.zone none req 0 (slice (m.mirPage f.zone f.row t f.page) (4096 * u.cw) (4096 * u.ncw))
        else m
      m.fwdDone req (if bad = [] then 0 else 2) (m.blk u.die u.block).maxbits (ceilDiv (busy * 2) 125)
  | _ => m

/-- Decode figures of a read feed the block's context and its refresh marks (R231, R234), unless PTB_LDPC keeps marks away. -/
def Chip.noteDecodes (m : Chip) (u : DUnit) (step : Option Nat) (bits : List (Option Nat)) : Chip :=
  let good := bits.filterMap id
  let top := good.foldl max 0
  let m := m.setBlk u.die u.block { m.blk u.die u.block with maxbits := max (m.blk u.die u.block).maxbits (min top 511) }
  let m := match step with
    | some st => if good = [] then m
        else if m.quiet u then m.addF LDP_RETRYCNT.COUNT good.length
        else (((m.addF LDP_RETRYCNT.COUNT good.length).setBlk u.die u.block
          { m.blk u.die u.block with stepValid := true, lastStep := st }).markRefresh u.die u.block false)
    | none => m
  if good.any (fun b => decide (m.f LDP_REFCFG.BITS ≤ b)) && !m.quiet u then m.markRefresh u.die u.block false else m

/-- A read counts toward its block's disturb limit (R234). -/
def Chip.noteRead (m : Chip) (u : DUnit) : Chip :=
  let b := m.blk u.die u.block
  let m := m.setBlk u.die u.block { b with reads := min (b.reads + 1) (2 ^ 32 - 1) }
  if m.f LDP_REFCFG.DISTURB_K * 1000 ≤ b.reads + 1 then m.markRefresh u.die u.block false else m

/-- The hard retry steps orders 1 and 2 may try together (R231). -/
def Chip.hardSteps (m : Chip) : Nat := min (m.f LDP_RRCFG.MAX_HARD) m.flash.retrySteps

/-- The next step of the ladder. -/
def Chip.nextStep (m : Chip) (tried : List Nat) : Option Nat :=
  if m.hardSteps ≤ tried.length then none else (List.range m.flash.retrySteps).find? fun k => decide (k ∉ tried)

/-- Reconstruction in place of the ladder at a host read's first failed decode (R232), charged as R202. -/
def Chip.reconInstead (m : Chip) (s i : Nat) (u : DUnit) : Chip × Bool :=
  match m.cmd? s with
  | none => (m, false)
  | some c =>
    match c.parts[i]? with
    | none => (m, false)
    | some p =>
      let z := (m.partPlace p).1
      let x := m.zone z
      let t := u.position
      if u.slc then (m, false)
      else
        let m := m.reconGain c.tenant
        let cost := reconCost (m.readUs u)
        let late := decide (slackAt (m.nowAt 10 (some c.tenant)) c.deadline < usTicks (m.f LDP_RRCFG.MAX_HARD * (5 + m.readUs u)) + usTicks (m.f DLS_RECONCFG.GUARD_US))
        if !(m.reconOk c) || decide (m.f DLS_CTL.RECON_EN = 0) || !late || decide ((m.ten c.tenant).recon < cost) then (m, false)
        else match m.reconSources x t c.deadline with
          | none => (m, false)
          | some src =>
            let y := m.ten c.tenant
            let m := m.setTen c.tenant { y with recon := y.recon - cost, reconReads := min (y.reconReads + 1) (2 ^ 32 - 1) }
            (m.startSolve z u.row u.page t true src (.part s i) u, true)

/-- A RECON source read. -/
def DUnit.isRecon (u : DUnit) : Bool :=
  match u.purpose with
  | .recon _ _ => true
  | _ => false

/-- PTB_LDPC takes a read of its die at its first attempt (R529): the command it belongs to carries PERTURB from then on. -/
def Chip.ptbLdpc (m : Chip) (u : DUnit) : Chip × DUnit :=
  if m.ptbOn PTB_LDPC.EN && decide (m.f PTB_LDPC.DIE = u.die ∧ u.bad = []) && m.ptbScoped (some u.tenant) then
    let m := m.ptbActed 5 (m.f PTB_LDPC.COUNT) PTB_LDPC.EN
    let m := match u.purpose with
      | .hostRead s _ => m.modCmd s fun c => { c with perturb := true }
      | _ => m
    (m, { u with inj := true })
  else (m, u)

/-- Attempt `k` of an injected read fails whatever was decoded. -/
def Chip.ptbFails (m : Chip) (u : DUnit) (k : Nat) : Bool :=
  u.inj && decide (m.f PTB_CTL.ARMED = 1 ∧ (k ≤ m.f PTB_LDPC.FAILS ∨ m.f PTB_LDPC.FAILS = 63))

/-- An attempt of a read ends with the codewords' corrected bits, none for a failure (missing entries: decoded, 0 bits). The
ladder of R231 holds the die until it ends; RECON source reads never run it (R232). -/
def Chip.readAttempt (m : Chip) (u : DUnit) (decodes : List (Option Nat)) (busy : Nat) : Chip :=
  let (m, u) := m.ptbLdpc u
  let cws := if u.bad = [] then u.codewords else u.bad
  let got := (List.range cws.length).map fun k => if m.ptbFails u (u.ladder.length + 1) then none else decodes.getD k (some 0)
  let bad := (cws.zip got).filterMap fun e => if e.2.isNone then some e.1 else none
  let m := if u.bad = [] then m.noteRead u else m
  let m := m.noteDecodes u u.ladder.getLast? got
  let recon := u.isRecon
  if decide (bad = []) || recon then (m.endUnit u busy).readDone u (if recon then bad else [])  busy
  else
    let (m, moved) := match u.purpose, u.bad with
      | .hostRead s i, [] => m.reconInstead s i u
      | _, _ => (m, false)
    if moved then m.endUnit u busy
    else
      let x := m.die u.die
      match m.nextStep u.ladder with
      | some k => m.setDie u.die { x with running := some { u with ladder := u.ladder ++ [k], bad := bad }, readAt := m.isl.dtc }
      | none =>
        let u := { u with soft := true, bad := bad }
        let m := m.setDie u.die { x with running := some u }
        { m with md := { m.md with softQ := insertUnit u m.md.softQ } }

/-- The cluster's soft decoder ends its earliest unit (R231 order 3, R233, R234). -/
def Chip.softDone (m : Chip) (clus : Nat) (decodes : List (Option Nat)) : Chip :=
  match firstUnit (m.md.softQ.filter fun u => decide (dieCluster u.die = clus)) with
  | none => m
  | some u =>
    let m := { m with md := { m.md with softQ := m.md.softQ.filter (·.id ≠ u.id) } }
    let got := (List.range u.bad.length).map fun k => if m.ptbFails u (u.ladder.length + 2) then none else decodes.getD k none
    let lost := (u.bad.zip got).filterMap fun e => if e.2.isNone then some e.1 else none
    let m := m.addF LDP_SOFTCNT.COUNT (u.bad.length - lost.length)
    let m := if lost.length < u.bad.length then (let n := m.noteDecodes u none got; if m.quiet u then n else n.markRefresh u.die u.block true) else m
    let x := m.die u.die
    if x.running.any (fun v => decide (v.id = u.id)) then
      let busy := m.isl.dtc - x.start
      ((m.endUnit u busy).readDone u lost busy).turn u.die
    else m

/-- A program failed or was interrupted (R228, R238). -/
def Chip.progFailed (m : Chip) (u : DUnit) (interrupted : Bool) : Chip :=
  let m := m.reportLate u
  let st := (m.blk u.die u.block).state
  let m := if interrupted then m.modBlk u.die u.block fun b => if b.state = 2 then b else { b with needErase := true }
    else
      let m := ((m.growBad u.die u.block).incF FCH_ERRCNT.PROGFAIL (dieChannel u.die)).emit (12 + dieCluster u.die) 0x6007
      if st = 3 ∨ st = 4 then m.regionLost u.die u.block st else m
  let m := match u.purpose with
    | .row z _ i => m.startMove z i true false false
    | .copyWrite z i _ => match m.move? z i with
      | some v => m.restartMove v
      | none => m
    | .mergeWrite z _ _ => m.mergeAgain z
    | .metaData => m.deltasAgain
    | .regionWrite d b => m.regionAgain d b
    | .spill z r => { m with zn := { m.zn with spillBlk := tdel m.zn.spillBlk u.die } }.spillAgain z r u
    | .forwarded req => m.fwdDone req 1 0 0
    | _ => m
  m.checkBad u.die

/-- A program ended with good status (R170, R217, R424): its row count, the erase it needed, and what it was for. -/
def Chip.progDone (m : Chip) (u : DUnit) (busy : Nat) : Chip :=
  let m := m.reportLate u
  let m := m.modBlk u.die u.block fun b => { b with rows := max b.rows (u.row + 1), slc := b.slc || u.slc }
  match u.purpose with
  | .row z r i => m.rowMemberDone z r i
  | .copyWrite z i r => m.moveDone z i r
  | .mergeWrite z r i => m.mergeWrote z r i
  | .metaData => m.deltasWrote
  | .regionWrite d b => m.regionWrote d b
  | .forwarded req => m.fwdDone req 0 0 (ceilDiv (busy * 2) 125)
  | _ => m

/-- The work whose erase of another block failed twice takes another one: a move or a merge begins again, a spill goes elsewhere. -/
def Chip.replaceTarget (m : Chip) (d b : Nat) : Chip :=
  match m.zn.moves.find? fun v => decide (v.die = d ∧ v.block = b) with
  | some v => m.restartMove v
  | none =>
    match m.zn.merge with
    | some g => if g.members.any fun y => decide (y.die = d ∧ y.block = b) then m.mergeAgain g.zone else m
    | none =>
      if (tfind m.zn.spillBlk d).any fun e => decide (e.1 = b) then
        let m := { m with zn := { m.zn with spillBlk := tdel m.zn.spillBlk d } }
        (m.zn.rows.filter fun e => e.2.plan.any fun p => decide (p.1 = d ∧ p.2.1 = b)).foldl (fun (m : Chip) e =>
          m.spillAgain (e.1 / 1024) (e.1 % 1024) (DUnit.make d .program (.spill (e.1 / 1024) (e.1 % 1024)) 4 0 b 0 0)) m
      else match m.zn.regionMoves.find? fun v => decide (v.tdie = d ∧ v.tblock = b) with
        | some v => m.regionAgain v.die v.block
        | none => m

/-- The block an erase of a stripe member that failed twice is replaced by: the next of the same die, or the member moves
(R239). -/
def Chip.replaceBlock (m : Chip) (d b : Nat) : Chip :=
  match (m.zn.zones.filter (·.1 < 2 ^ 20)).findSome? fun e => ((List.range e.2.members.length).find? fun i =>
      decide ((e.2.member i).die = d ∧ (e.2.member i).block = b)).map fun i => (e.1, i) with
  | none => m.replaceTarget d b
  | some (z, i) =>
    if (m.takeBlock d (logStripe z)).isSome then
      let (m, t) := m.bindBlock d (logStripe z)
      let x := m.zone z
      let m := (m.setZone z { x with members := x.members.set i t }).delta 0x03 z (some z) (leBytes 1 i ++ leBytes 3 0 ++ leBytes 4 t.word)
      let fix (u : DUnit) : DUnit := if u.die = d ∧ u.block = b then { u with block := t.block } else u
      let y := m.die d
      let m := m.setDie d { y with queue := y.queue.map fix, overflow := y.overflow.map fix }
      if (m.blk d t.block).needErase then
        (m.modBlk d t.block fun k => { k with needErase := false }).place z
          (DUnit.make d .erase .eraseBlock 4 (m.rowDeadline x.tenant m.now) t.block 0 0)
      else m
    else m.startMove z i true false false

/-- An erase ended (R236, R239, R247). -/
def Chip.eraseDone (m : Chip) (u : DUnit) (fail : Bool) (busy : Nat) : Chip :=
  if !fail then
    let m := (m.reportLate u).modBlk u.die u.block Blk.erased
    let m := { m with st := { m.st with erases := tput m.st.erases u.die (tget 0 m.st.erases u.die + 1) } }
    match u.purpose with
    | .forwarded req => m.fwdDone req 0 0 (ceilDiv (busy * 2) 125)
    | .sanitize => m.sanNext u.die
    | _ => m
  else if !u.again then m.requeue u
  else
    let m := (((m.reportLate u).growBad u.die u.block).incF FCH_ERRCNT.ERASEFAIL (dieChannel u.die)).emit (12 + dieCluster u.die) 0x6007
    let m := match u.purpose with
      | .forwarded req => m.fwdDone req 1 0 (ceilDiv (busy * 2) 125)
      | .sanitize => m.sanNext u.die
      | _ => m.replaceBlock u.die u.block
    m.checkBad u.die

/-- A die operation ends (R184, R191): status FAIL for a program or erase, decode results for a read, and its busy time. -/
def Chip.dieDone (m : Chip) (d : Nat) (fail : Bool) (decodes : List (Option Nat)) (busy : Nat) : Chip :=
  let x := m.die d
  match x.running with
  | none => m
  | some u =>
    if u.soft then m
    else match u.kind with
    | .read => if m.busMine d then ((m.readAttempt u decodes busy).busNext (dieChannel d)).turn d else m
    | .program =>
      let per := if u.slc then 1 else 4 / m.flash.cellBits
      if !fail ∧ u.passes + 1 < per then
        let m := m.endUnit u busy
        let x := m.die d
        (m.setDie d { x with queue := insertUnit { u with passes := u.passes + 1, susp := 0, busy := 0 } x.queue }).turn d
      else
        let m := m.endUnit u busy
        (if fail then m.progFailed u false else m.progDone u busy).turn d
    | .erase => ((m.endUnit u busy).eraseDone u fail busy).turn d

/-! ## Resets, watchdogs and timeouts (R227 to R230) -/

/-- Timeouts and watchdogs of a die that lie an hour back or more no longer count (R230). -/
def Chip.hourly (m : Chip) (d : Nat) : Chip :=
  let x := m.die d
  let young (l : List Nat) : List Nat := l.filter fun t => decide (m.isl.dtc < t + 3600 * 62500000)
  m.setDie d { x with timeouts := young x.timeouts, watchdogs := young x.watchdogs }

/-- A die enters RESET: what it was doing is taken off it. -/
def Chip.resetDie (m : Chip) (d : Nat) : Chip :=
  let m := m.chargeCut d
  let x := m.die d
  let m := { m with md := { m.md with softQ := m.md.softQ.filter fun u => decide (u.die ≠ d) } }
  ((m.setDie d { x with running := none, suspended := none, suspending := false, served := 0, start := m.isl.dtc }).busLeave d).setF FCH_DIE.STATE 4 d

/-- A read whose transfer or operation was cut off: reconstructed if R200 to R202 allow, else issued once more, else repaired
(R227). -/
def Chip.rereadOr (m : Chip) (u : DUnit) : Chip :=
  if u.again then m.readDone u u.codewords 0
  else
    let (m, moved) := match u.purpose with
      | .hostRead s i => m.reconInstead s i u
      | _ => (m, false)
    if moved then m else m.requeue u

/-- The state a die returns to: RETIRING if it was being retired, else SERVICE. -/
def Chip.serviceState (m : Chip) (d : Nat) : Nat := let r := m.f FCH_DIE.REASON d; if r = 7 ∨ r = 8 then 5 else 2

/-- The operations of a die that a reset cuts off: the running one by `outcome`, a suspended one as interrupted. -/
def Chip.cutOff (m : Chip) (d : Nat) (outcome : Chip → DUnit → Chip) : Chip :=
  let x := m.die d
  let m := m.resetDie d
  let m := match x.running with
    | some u => outcome m u
    | none => m
  match x.suspended with
  | some p => if p.kind = .erase then m.requeue { p with again := false } else m.progFailed p true
  | none => m

/-- What an operation ended by reset or timeout leaves: a read is read again, a program is interrupted, an erase issued again
(R228). -/
def Chip.interrupted (m : Chip) (u : DUnit) : Chip :=
  match u.kind with
  | .read => m.rereadOr u
  | .program => m.progFailed u true
  | .erase => m.requeue u

/-- The data-phase watchdog of a die's transfer fires (R227, R230). -/
def Chip.dataWatchdog (m : Chip) (d : Nat) (dataIn : Bool) : Chip :=
  match (m.die d).running with
  | none => m
  | some _ =>
    let m := m.hourly d
    let m := if dataIn then m.incF FCH_WDOG.DATAIN (dieChannel d) else m.incF FCH_WDOG.DATAOUT (dieChannel d)
    let m := m.emit (12 + dieCluster d) 0x6003
    let ts := (m.die d).watchdogs ++ [m.isl.dtc]
    let m := m.setDie d { m.die d with watchdogs := ts }
    let m := m.cutOff d fun m u =>
      match u.kind with
      | .read => m.rereadOr u
      | .program => if dataIn && !u.again then m.requeue u else m.progFailed u true
      | .erase => m.requeue u
    if m.f LDP_DIECFG.WD_MAX < ts.length then m.failDie d 6 else m

/-- A die operation has timed out (R228, R230). -/
def Chip.opTimeout (m : Chip) (d : Nat) : Chip :=
  match (m.die d).running with
  | none => m
  | some _ =>
    let m := (m.hourly d).incF FCH_ERRCNT.TIMEOUT (dieChannel d)
    let m := m.emit (12 + dieCluster d) 0x6004
    let ts := (m.die d).timeouts ++ [m.isl.dtc]
    let m := m.setDie d { m.die d with timeouts := ts }
    let m := m.cutOff d Chip.interrupted
    if 2 ≤ ts.length then m.failDie d 5 else m

/-! ## Training (R222 to R226) -/

/-- The dies of a CE. -/
def ceDies (ch ce : Nat) : List Nat := (List.range 4).map fun l => ch * 32 + ce * 4 + l

/-- The next CE in turn is taken for training: its dies in service are held in TRAINING, suspended operations resume (R222,
R223). When none is left FCH_CTL.TRAIN clears. -/
def Chip.nextTrain (m : Chip) (ch : Nat) : Chip :=
  let t := m.train ch
  match t.ce, t.todo with
  | some _, _ => m
  | none, [] => (m.setF FCH_CTL.TRAIN 0 ch).setF FCH_STAT.TRAINING 0 ch
  | none, ce :: rest =>
    let m := m.setTrain ch { t with todo := rest, ce := some ce, started := false }
    (ceDies ch ce).foldl (fun (m : Chip) d =>
      let st := m.f FCH_DIE.STATE d
      if st = 1 ∨ st = 2 ∨ st = 5 then
        let m := m.setF FCH_DIE.STATE 3 d
        match (m.die d).suspended, (m.die d).running with
        | some p, none => m.resume d p
        | _, _ => m
      else m) m

/-- Ask for training of CEs of a channel; one that is not claimed is not driven (R23). -/
def Chip.askTrain (m : Chip) (ch : Nat) (ces : List Nat) : Chip :=
  let t := m.train ch
  if !m.claims (ch / 8) then m
  else (m.setTrain ch { t with todo := t.todo ++ ces.filter fun e => decide (e ∉ t.todo ∧ t.ce ≠ some e) }).nextTrain ch

/-- The channels of a cluster are no longer driven: their training and resets end where they stand, and their dies show SERVICE again, or
RETIRING (R23). -/
def Chip.dropTrain (m : Chip) (k : Nat) : Chip :=
  let m := (List.range 8).foldl (fun (m : Chip) c =>
    let ch := 8 * k + c
    (((m.setTrain ch TrainSt.blank).setF FCH_CTL.TRAIN 0 ch).setF FCH_CTL.RESETDIES 0 ch).setF FCH_STAT.TRAINING 0 ch) m
  (List.range 256).foldl (fun (m : Chip) i =>
    let d := 256 * k + i
    let st := m.f FCH_DIE.STATE d
    if st = 3 ∨ st = 4 ∨ (st = 1 ∧ 10 ≤ m.st.step) then m.setF FCH_DIE.STATE (m.serviceState d) d else m) m

/-- The populated CEs of a channel. -/
def Chip.populated (m : Chip) : List Nat := List.range (min m.flash.ceCount 8)

/-- All four dies of the CE in turn are ready: the run starts (R223). -/
def Chip.startRun (m : Chip) (ch : Nat) : Chip :=
  let t := m.train ch
  match t.ce with
  | some ce =>
    if !t.started && ((ceDies ch ce).all fun d => (m.die d).running.isNone && (m.die d).suspended.isNone) then
      let m := (ceDies ch ce).foldl (fun (m : Chip) d => m.setDie d { m.die d with start := m.isl.dtc }) m
      (m.setTrain ch { t with started := true }).setF FCH_STAT.TRAINING 1 ch
    else m
  | none => m

/-- A run of the CE in turn is over: its dies return to the state they had, the next CE follows. -/
def Chip.endRun (m : Chip) (ch ce reason : Nat) : Chip :=
  let t := m.train ch
  let m := (m.setF FCH_TRAIN.REASON reason ch).setF FCH_TRAIN.CE ce ch
  let m := m.setTrain ch { t with ce := none, started := false }
  let m := (ceDies ch ce).foldl (fun (m : Chip) d => if m.f FCH_DIE.STATE d = 3 then m.setF FCH_DIE.STATE (if m.fbit FCH_STAT.TRAINED ce ch then m.serviceState d else 1) d else m) m
  let m := m.nextTrain ch
  (ceDies ch ce).foldl (fun (m : Chip) d => m.turn d) m

/-- A run did not pass (R223 to R226): counted, reported, retried where the rules say; at start the half rate follows three
failures and FAILED six. -/
def Chip.runFailed (m : Chip) (ch ce reason : Nat) (retry : Bool) : Chip :=
  let t := m.train ch
  let n := tget 0 t.fails ce + 1
  let served := m.fbit FCH_STAT.TRAINED ce ch
  let m := m.setTrain ch { t with fails := tset 0 t.fails ce (if served ∧ 3 ≤ n then 0 else n),
                                  retry := if retry ∨ !served then t.retry ++ [ce] else t.retry }
  let m := (m.incF FCH_TRAIN.FAILS ch).emitAs (served && decide (3 ≤ n)) (12 + ch / 8) 0x6001 0 none
  let m := m.endRun ch ce reason
  if !served ∧ 6 ≤ n then
    let t := m.train ch
    let m := m.setTrain ch { t with retry := t.retry.filter (· ≠ ce) }
    (ceDies ch ce).foldl (fun (m : Chip) d => m.failDie d 3) m
  else m

/-- A run ends with its narrowest read and write eyes (R225, R226). -/
def Chip.runEyes (m : Chip) (ch ce rd wr : Nat) : Chip :=
  let t := m.train ch
  let lp := decide (m.flash.iface = 1)
  if rd < m.flash.minEyePs ∨ (lp ∧ wr < m.flash.minEyePs) then m.runFailed ch ce 7 false
  else
    let half := !m.fbit FCH_STAT.TRAINED ce ch && decide (3 ≤ tget 0 t.fails ce)
    let m := m.setTrain ch { t with fails := tset 0 t.fails ce 0, retry := t.retry.filter (· ≠ ce) }
    let m := (m.setF FCH_EYE.RD_PS (min rd 65535) (8 * ch + ce)).setF FCH_EYE.WR_PS (if lp then min wr 65535 else 0) (8 * ch + ce)
    let m := m.setBit FCH_STAT.TRAINED ce true ch
    let m := m.setF FCH_STAT.MODE (if lp then 3 else 2) ch
    let rate := if half ∨ m.f FCH_DIE.SLOW (ch * 32 + ce * 4) = 1 then m.flash.rate / 2 else m.flash.rate
    let m := m.setF FCH_STAT.RATE_MTS (max (m.f FCH_STAT.RATE_MTS ch) rate) ch
    let m := if half then
        ((ceDies ch ce).foldl (fun (m : Chip) d => m.setF FCH_DIE.SLOW 1 d) (m.setF FCH_STAT.SLOW 1 ch)).emit (12 + ch / 8) 0x6002
      else m
    let m := (ceDies ch ce).foldl (fun (m : Chip) d =>
      m.setDie d { m.die d with trainTemp := toSigned 8 (m.f FCH_DIE.TEMP_C d), trainAt := m.isl.dtc }) m
    m.endRun ch ce (if half then 8 else 1)

/-- A run is abandoned (R224): previous values stay, the CE's dies are reset, and it is retried. -/
def Chip.abandonRun (m : Chip) (ch ce reason : Nat) : Chip :=
  let m := m.runFailed ch ce reason true
  (ceDies ch ce).foldl (fun (m : Chip) d =>
    if m.f FCH_DIE.STATE d = 2 ∨ m.f FCH_DIE.STATE d = 5 then m.cutOff d Chip.interrupted else m) m

/-- A die reset ends (R229): the die serves again, or is FAILED, and the next reset of its channel follows. At start it ends the
identification too (R216, R217, R219); when no die of the channel is left to reset, its CEs train. -/
def Chip.dieResetDone (m : Chip) (d : Nat) (r : DieReset) : Chip :=
  let ch := dieChannel d
  let t := m.train ch
  if m.f FCH_DIE.STATE d = 1 then
    if d ∉ t.resets then m
    else
      let m := m.setTrain ch { t with resets := t.resets.filter (· ≠ d) }
      let m := match (if m.flash.unfit && decide (r ≠ .noAnswer) then DieReset.badGeometry else r) with
        | .ok => m
        | .noSuspend => m.setF FCH_DIE.NOSUSP 1 d
        | .noAnswer => m.failDie d 1
        | .badGeometry => m.failDie d 2
        | .notReady => m.failDie d 4
      if (m.train ch).resets = [] then m.askTrain ch m.populated else m
  else if m.f FCH_DIE.STATE d ≠ 4 then m
  else
    let m := if r = .ok ∨ r = .noSuspend then (m.setF FCH_DIE.STATE (m.serviceState d) d).turn d else m.failDie d 4
    match (m.train ch).resets with
    | e :: rest => (m.setTrain ch { m.train ch with resets := rest }).cutOff e Chip.interrupted
    | [] => m.setF FCH_CTL.RESETDIES 0 ch

/-! ## Media temperature (R243, R244, R495, R499) -/

/-- THM_MEDIA and the hold of R499 follow the dies' temperatures and windows. -/
def Chip.mediaView (m : Chip) : Chip :=
  let ds := m.serving
  let ts := ds.map fun d => toSigned 8 (m.f FCH_DIE.TEMP_C d)
  match ts with
  | [] => m
  | t :: rest =>
    let out := (ds.filter fun d => decide (m.f FCH_DIE.HOT d = 1)).length
    let m := (m.setF THM_MEDIA.MAX_C (ofSigned 8 (rest.foldl max t))).setF THM_MEDIA.MIN_C (ofSigned 8 (rest.foldl min t))
    let m := m.setF THM_MEDIA.OUT (min out 4095)
    let all := decide (out = ds.length)
    let m := if all && !m.md.mediaTold then m.emit 0 0x6D07 else m
    { m with md := { m.md with mediaTold := all } }

/-- The reading of cluster `k`'s diode in whole degrees (R491: diode 17 + k; log entry 23). -/
def Chip.clusterTemp (m : Chip) (k : Nat) : Int :=
  let t := toSigned 10 (m.f THM_SENS.TEMP (17 + k))
  if t % 2 = 1 ∧ Config.wholeUp t then t / 2 + 1 else t / 2

/-- A die's temperature is read (R243, R244): `none` when the read fails. -/
def Chip.dieTemp (m : Chip) (d : Nat) (temp : Option Int) : Chip :=
  let read := temp.filter fun t => decide (-40 ≤ t ∧ t ≤ 125)
  let m := m.setDie d { m.die d with tempOk := read.isSome }
  let valid := ((ceDies (dieChannel d) (dieCe d)).filter fun e => decide (e ≠ d) && (m.die e).tempOk).map fun e =>
    toSigned 8 (m.f FCH_DIE.TEMP_C e)
  let t : Int := match read, valid with
    | some t, _ => t
    | none, v :: vs => vs.foldl max v
    | none, [] => m.clusterTemp (dieCluster d)
  let m := m.setF FCH_DIE.TEMP_C (ofSigned 8 t) d
  let th := (m.clusterTables (dieCluster d)).therm
  let lo := toSigned 16 th.mediaLo
  let hi := toSigned 16 th.mediaHi
  let hyst : Int := (th.hyst : Nat)
  let was := m.f FCH_DIE.HOT d
  let now := if was = 1 then (if lo + hyst ≤ t ∧ t ≤ hi - hyst then 0 else 1) else if t < lo ∨ hi < t then 1 else 0
  let m := if was ≠ now then (m.setF FCH_DIE.HOT now d).emit (12 + dieCluster d) 0x600A else m
  let m := m.mediaView
  let x := m.die d
  let moved := decide ((m.f LDP_TRAINCFG.RETRAIN_C : Int) < (if t < x.trainTemp then x.trainTemp - t else t - x.trainTemp))
  let due := decide (62500000 * (m.f LDP_TRAINCFG.RETRAIN_MIN * 60) ≤ m.isl.dtc - x.trainAt)
  let m := if moved && due && m.drives d && m.fbit FCH_STAT.TRAINED (dieCe d) (dieChannel d) then m.askTrain (dieChannel d) [dieCe d] else m
  m.turn d

end Sys2Proof.Machine
end

