-- ==== Sys2Proof/Machine/Engines.lean ====
section
/-! DEFINITION. The engines of XFM (R282): which blocks wait for the 12 compress and the 24 decompress engines, and which block each engine holds. -/

namespace Sys2Proof.Machine

/-! ## What a write hands to compression (R270, R282) -/

/-- The bytes a write carries; zeros for Write Zeroes. -/
def Cmd.payload (c : Cmd) (lbaLog : Nat) : List Byte :=
  if opcodeOf c.entry = 0x08 then List.replicate (c.nlb * 2 ^ lbaLog) 0 else c.data

/-- A write that runs and is not held. -/
def Cmd.writing (c : Cmd) : Bool := !c.admin && isWriteOp (opcodeOf c.entry) && decide (c.phase = .running ∧ c.hold = .free)

/-- The zone type a command's data path follows. -/
def Chip.elasticCmd (m : Chip) (c : Cmd) : Bool := ((m.ns? (nsidOf c.entry)).map (·.elastic)).getD false

/-- The requester of a write's blocks (R351): its host port's HRX, or the sub-link a forwarded one came over. -/
def Chip.blockRequester (m : Chip) (c : Cmd) : Nat := if c.peer.isSome then 32 + m.subFor c.zone else m.slotOf c.fn / 4

/-- The compress engine of lowest number that is idle. -/
def Chip.idleCompress (m : Chip) : Option Nat := (List.range 12).find? fun e => (tfind m.eng.comp e).isNone

/-- The blocks that wait for a compress engine, by requester, acceptance, slot and piece: their bytes are all here, and no engine holds them. -/
def Chip.waitingBlocks (m : Chip) : List (Nat × Nat × Nat × Nat) :=
  (m.q.slots.filter fun e => e.2.writing && m.elasticCmd e.2).flatMap fun e =>
    let log := ((m.ns? (nsidOf e.2.entry)).map (·.lbaLog)).getD 12
    let a := e.2.off * 2 ^ log
    let ps := piecesOf a (e.2.nlb * 2 ^ log)
    ((List.range ps.length).filter fun k => decide (e.2.blocks.length ≤ k) &&
      (ps[k]?).any (fun p => decide (p.1 - a + p.2 ≤ (e.2.payload log).length)) && m.eng.comp.all fun h => decide (h.2 ≠ (e.1, k))).map
      fun k => (m.blockRequester e.2, e.2.seq, e.1, k)

/-- The requesters that request at instance 8: those with a waiting block, while an engine is idle. -/
def Chip.blockRequests (m : Chip) : List Nat := if m.idleCompress.isNone then [] else (m.waitingBlocks.map (·.1)).eraseDups

/-- A requester's grant at instance 8 gives its block accepted first to the idle engine of lowest number (log entry 180). -/
def Chip.dispatchBlock (m : Chip) (r : Nat) : Chip :=
  let ws := isort (fun a b => decide (a.2.1 < b.2.1 ∨ (a.2.1 = b.2.1 ∧ a.2.2.2 ≤ b.2.2.2))) (m.waitingBlocks.filter (·.1 = r))
  match m.idleCompress, ws with
  | some e, (_, _, s, k) :: _ => { m with eng := { m.eng with comp := tput m.eng.comp e (s, k) } }
  | _, _ => m

/-- The engine that holds a piece of a write. -/
def Chip.compressEngine (m : Chip) (s k : Nat) : Option Nat := (m.eng.comp.find? fun h => decide (h.2 = (s, k))).map (·.1)

/-! ## What a read hands to decompression (R282, R283) -/

/-- The stored bytes of the block at `lbaOff` of a granule, from the first to behind the last: the headers from byte `a` on are walked, at most `n` of
them (R283). -/
def findBlock (lbaOff : Nat) : Nat → List Byte → Nat → Option (Nat × Nat)
  | _, _, 0 => none
  | a, bs, n + 1 =>
    if bs.length < 24 then none
    else
      let u := ceilDiv (24 + fieldAt bs 8 4) 256 * 256
      if fieldAt bs 20 2 = lbaOff then some (a, a + u) else findBlock lbaOff (a + u) (bs.drop u) n

/-- The blocks whose headers lie from byte `a` on, by their offset in the granule and their original length: at most `n` of them. -/
def blockHeads : List Byte → Nat → List (Nat × Nat)
  | _, 0 => []
  | bs, n + 1 =>
    if bs.length < 24 then []
    else (fieldAt bs 20 2, fieldAt bs 4 4) :: blockHeads (bs.drop (ceilDiv (24 + fieldAt bs 8 4) 256 * 256)) n

/-- The ranges cover the bytes from `a` to below `e`. -/
def covers (a e : Nat) (rs : List (Nat × Nat)) : Bool := decide (keepRanges a e (isort (fun x y => decide (x.1 ≤ y.1)) rs) = [])

/-- The order of R46 and R181 between two commands' work: deadline, class, then acceptance. -/
def Cmd.before (a b : Cmd) : Bool :=
  if earlier a.deadline b.deadline then true
  else if earlier b.deadline a.deadline then false
  else if a.cls ≠ b.cls then decide (a.cls < b.cls)
  else decide (a.seq ≤ b.seq)

/-- The blocks of a part that its request covers and that have neither been verified nor lost: its work for the decompress engines once its data
is in. -/
def Chip.partBlocks (m : Chip) (p : Part) : List Nat :=
  if (m.zone p.zone).type ≠ 1 ∨ p.done ∨ p.left ≠ 0 ∨ p.src = .zeros ∨ p.src = .wait ∨ p.src = .bad then []
  else
    let g := 65536 * (p.off / 65536)
    let (z, a, b) := m.partPlace p
    ((blockHeads (memGetBytes m.zn.phys (2 ^ 33 * z + a) (b - a)) 128).filter fun h =>
      let lo := max p.off (g + 512 * h.1)
      let hi := min (p.off + p.len) (g + 512 * h.1 + h.2)
      decide (lo < hi) && !covers lo hi (p.decoded ++ p.lost)).map (·.1)

/-- The blocks that wait for a decompress engine, in deadline order. -/
def Chip.waitingDecodes (m : Chip) : List DecJob :=
  let jobs := m.q.slots.flatMap fun e => ((List.range e.2.parts.length).zip e.2.parts).flatMap fun (i, p) =>
    (m.partBlocks p).map fun o => (e.2, ({ slot := e.1, part := i, lbaOff := o, live := true } : DecJob))
  ((isort (fun x y => x.1.before y.1) jobs).map (·.2)).filter fun j => m.eng.decomp.all fun h => decide (h.2 ≠ j)

/-- Idle decompress engines take waiting blocks, the lowest number first. -/
def Chip.dispatchDecodes (m : Chip) : Chip :=
  let idle := (List.range 24).filter fun e => (tfind m.eng.decomp e).isNone
  { m with eng := { m.eng with decomp := (idle.zip m.waitingDecodes).foldl (fun t e => tput t e.1 e.2) m.eng.decomp } }

end Sys2Proof.Machine
end

