-- ==== Sys2Proof/Machine/Queues.lean ====
section
/-! DEFINITION. Doorbells, fetch arbitration, the arrival and checks of submission queue entries, and the queue commands of the
admin queue (R105 to R126, R138, R139). -/

namespace Sys2Proof.Machine

/-! ## Ports and functions -/

/-- A function the image declares and, for a virtual one, that its physical function enables (R86). -/
def Chip.fnLive (m : Chip) (f : Nat) : Bool :=
  match m.img.tables.func? f with
  | none => false
  | some r => decide (r.type = 0) || decide (f ∈ (m.img.tables.vfsOf r.parent).take (m.fn r.parent).numVfs)

/-- The link of a port carries TLPs: it is in L0, on its way back there, or in L1. -/
def Chip.linkUp (m : Chip) (q : Nat) : Bool := decide (m.f HPT_PSTAT.STATE q ∈ [2, 3, 4])

/-- A function a host sees: a live one on a port whose link is up (R83). -/
def Chip.fnSeen (m : Chip) (f : Nat) : Bool := m.fnLive f && m.linkUp (m.slotOf f)

/-- A stream is Secure: the link stream (8), or a selective one. -/
def Chip.streamSecure (m : Chip) (q stream : Nat) : Bool :=
  if stream = 8 then decide (m.f HPT_IDESTAT.LINK_SECURE q = 1) else m.fbit HPT_IDESTAT.SEL_SECURE stream q

/-- A stream that covers function `f` on slot `q` is Secure (R92): the link stream, or a selective one whose RID range holds the function's routing
number. -/
def Chip.secureFor (m : Chip) (q f : Nat) : Bool :=
  m.streamSecure q 8 || (m.port q).streams.any fun e =>
    decide (e.1 < 8) && m.streamSecure q e.1 && decide (e.2.lo ≤ m.img.tables.routing f ∧ m.img.tables.routing f ≤ e.2.hi)

/-- A function needs a Secure stream (FUNC.FLAGS bit 0, R92). -/
def Chip.needsIde (m : Chip) (f : Nat) : Bool := ((m.img.tables.func? f).map fun r => bitOf r.flags 0).getD false

/-- The device may issue TLPs for a function (R92, R93): not after its stream has failed, and only inside a Secure stream where it needs one. -/
def Chip.dmaOk (m : Chip) (f : Nat) : Bool := !(m.fn f).cfs && (!m.needsIde f || m.secureFor (m.slotOf f) f)

/-- The tenant of a function. -/
def Chip.fnTenant (m : Chip) (f : Nat) : Nat :=
  match m.img.tables.func? f with
  | some r => r.tenant
  | none => 0

/-- An access to an unmapped BAR0 offset (R89). -/
def Chip.unmapped (m : Chip) (q : Nat) : Chip := m.incF HPT_ERRCNT.UNMAPPED q

/-! ## Doorbells (R112 to R114) -/

/-- Log the first failing doorbell since VALID was cleared (R113). -/
def Chip.logDoorbell (m : Chip) (cq reg : Bool) (f y v : Nat) : Chip :=
  if m.f QIE_DBLOG1.VALID = 1 then m
  else (((((m.setF QIE_DBLOG0.CQ (b1 cq)).setF QIE_DBLOG0.REG (b1 reg)).setF QIE_DBLOG0.FUNC f).setF QIE_DBLOG0.QID y).setF
    QIE_DBLOG1.VALID 1).setF QIE_DBLOG1.VALUE v

/-- A doorbell of a queue that does not exist. -/
def Chip.badRegister (m : Chip) (cq : Bool) (f y v : Nat) : Chip :=
  (((m.incF QIE_DBERR.REGISTER).logDoorbell cq true f y v).emit (2 + m.slotOf f / 4) 0x4020).aen f 0 0x01 0x01

/-- A doorbell with an invalid value; `e` is the DB_ERR code. -/
def Chip.badValue (m : Chip) (cq : Bool) (i e f y v : Nat) : Chip :=
  let m := m.setQc i { m.qc i with dbErr := e }
  (((m.incF QIE_DBERR.VALUE).logDoorbell cq false f y v).emit (2 + m.slotOf f / 4) 0x4021).aen f 0 0x02 0x01

/-- A valid SQ tail adds a doorbell time pair; with 4 held, the newest takes the tail and keeps its own time (R114). -/
def QCtx.ring (x : QCtx) (v dtc : Nat) : QCtx :=
  let pairs := match x.pairs.reverse with
    | last :: rest => if 4 ≤ x.pairs.length then (rest.reverse) ++ [(v, last.2)] else x.pairs ++ [(v, dtc)]
    | [] => [(v, dtc)]
  { x with sqTail := v, pairs := pairs.filter fun p => decide (p.1 ≠ x.sqHead) }

/-- The distance from `a` to `b` in a ring of `n + 1` entries. -/
def ringDist (n a b : Nat) : Nat := (b + (n + 1) - a % (n + 1)) % (n + 1)

/-- SQ y tail doorbell of function f (R113, R114, R139). -/
def Chip.sqTail (m : Chip) (f y v : Nat) : Chip :=
  if !m.fnSeen f then m
  else match m.img.tables.qctxOf f y with
  | none => m.unmapped (m.slotOf f)
  | some i =>
    let x := m.qc i
    if x.sqState = 2 ∨ x.sqState = 3 then m
    else if !x.sqValid then m.badRegister false f y v
    else if x.sqSize < v then m.badValue false i 1 f y v
    else m.setQc i (x.ring v m.isl.dtc)

/-- CQ y head doorbell of function f (R113). -/
def Chip.cqHead (m : Chip) (f y v : Nat) : Chip :=
  if !m.fnSeen f then m
  else match m.img.tables.qctxOf f y with
  | none => m.unmapped (m.slotOf f)
  | some i =>
    let x := m.qc i
    if x.sqState = 3 then m
    else if !x.cqValid then m.badRegister true f y v
    else if x.cqSize < v then m.badValue true i 2 f y v
    else if ringDist x.cqSize x.cqHead x.cqTail < ringDist x.cqSize x.cqHead v then m.badValue true i 3 f y v
    else m.setQc i { x with cqHead := v }

/-! ## Slots and credit (R120 to R123) -/

def hostSlots : Nat := 61440
def adminSlots : Nat := 63488

/-- The command slots held by commands of an SQ context. -/
def Chip.sqHeld (m : Chip) (i : Nat) : Nat := (m.q.slots.filter fun e => decide (e.2.q = i ∧ e.2.peer = none)).length

/-- The credit of a CQ context (R123). -/
def Chip.cqCredit (m : Chip) (i : Nat) : Nat :=
  let x := m.qc i
  let held := (m.q.slots.filter fun e => decide (e.2.peer = none ∧ (m.qc e.2.q).sqCq = i)).length
  x.cqSize - ringDist x.cqSize x.cqHead x.cqTail - held

/-- The I/O slots a tenant's commands hold. -/
def Chip.tenSlots (m : Chip) (t : Nat) : Nat :=
  (m.q.slots.filter fun e => !e.2.admin && decide (e.2.tenant = t ∧ e.2.peer = none)).length

/-- The slots a tenant may still take (R122). -/
def Chip.tenRoom (m : Chip) (t : Nat) : Nat :=
  let held := m.tenSlots t
  let a := m.f QIE_TSLOT.CAP - held
  if m.freeIn 0 hostSlots < m.f QIE_TSLOT.LOWFREE then min a (max 16 (61440 * m.stampEpoch.2.share t / 1024) - held) else a

/-- Intake is stopped: power-fail commit or fence, or a fenced controller (R434, R455). -/
def Chip.fetchStopped (m : Chip) : Bool :=
  decide (m.f QIE_CTL.FETCH_PAUSE = 1 ∨ m.f TRS_SANSTAT.STATE = 1 ∨ m.f PLP_STAT.STATE = 2 ∨ m.f PLP_STAT.STATE = 3 ∨
    m.f TWN_STAT.STATE = 7) || m.plp.intakeFenced || m.dr.dead

/-- The entries of an SQ from head to tail that no slot is reserved for, in order. -/
def Chip.sqFree (m : Chip) (i : Nat) : List Nat :=
  let x := m.qc i
  let held := (m.q.slots.filter fun e => decide (e.2.q = i ∧ e.2.peer = none ∧ (e.2.phase = .reserved ∨ e.2.phase = .fetched))).map (·.2.off)
  ((List.range (ringDist x.sqSize x.sqHead x.sqTail)).map fun k => (x.sqHead + k) % (x.sqSize + 1)).filter fun k => decide (k ∉ held)

/-- The first of some ring entries that follow one another. -/
def ringRun (n : Nat) : List Nat → List Nat
  | [] => []
  | [a] => [a]
  | a :: b :: l => if b = (a + 1) % (n + 1) then a :: ringRun n (b :: l) else [a]

/-- SQ entries waiting and not yet asked for, that one burst may take. -/
def Chip.sqRun (m : Chip) (i : Nat) : List Nat := ringRun (m.qc i).sqSize (m.sqFree i)
def Chip.sqWaiting (m : Chip) (i : Nat) : Nat := (m.sqRun i).length

/-- An SQ has work, whatever credit and slots allow. -/
def Chip.sqReady (m : Chip) (i : Nat) : Bool :=
  let x := m.qc i
  x.sqValid && decide (x.sqState = 1) && decide (0 < m.sqWaiting i)

/-- The entries a burst of an SQ may ask for now (R116, R121 to R123). -/
def Chip.burst (m : Chip) (f i : Nat) : Nat :=
  let admin := decide (262144 ≤ i)
  let free := if admin then m.freeIn hostSlots adminSlots else m.freeIn 0 hostSlots
  let room := if admin then free else min free (m.tenRoom (m.fnTenant f))
  if (m.fn f).shn ≠ 0 then 0
  else min (min (2 ^ (m.fn f).ab) 8) (min (m.sqWaiting i) (min (m.cqCredit (m.qc i).sqCq) room))

/-- The SQ contexts of a function in the order of its arbitration: admin first, then I/O queues in turn after the last one
served; under weighted round robin urgent queues first, then the classes from the one in turn, each with a turn of its own (R116). -/
def Chip.sqOrder (m : Chip) (f : Nat) : List Nat :=
  let fs := m.fn f
  let n := m.img.tables.qcount f
  let ios := ((List.range n).map (· + 1)).filterMap fun y => m.img.tables.qctxOf f y
  let turn (p : Nat) (l : List Nat) : List Nat := let k := tget 0 fs.rrNext p; (l.filter fun i => decide (k ≤ i)) ++ l.filter fun i => decide (i < k)
  let cls (p : Nat) : List Nat := turn p (ios.filter fun i => decide ((m.qc i).sqPrio = p))
  let next (p : Nat) : Nat := if p = 3 then 1 else p + 1
  let c := fs.wrrClass
  (262144 + f) :: (if fs.wrr then cls 0 ++ cls c ++ cls (next c) ++ cls (next (next c)) else turn 0 ios)

/-- The weight of a class under weighted round robin. -/
def FnSt.weight (x : FnSt) (p : Nat) : Nat := (if p = 1 then x.hpw else if p = 2 then x.mpw else x.lpw) + 1

/-- The turn after a burst of `k` entries from SQ `i` of a class. -/
def FnSt.served (x : FnSt) (i prio k : Nat) : FnSt :=
  if 262144 ≤ i then x
  else
    let x := { x with rrNext := tset 0 x.rrNext (if x.wrr then prio else 0) (i + 1) }
    if !x.wrr ∨ prio = 0 then x
    else
      let used := if prio = x.wrrClass then x.wrrUsed + k else k
      if x.weight prio ≤ used then { x with wrrClass := if prio = 3 then 1 else prio + 1, wrrUsed := 0 }
      else { x with wrrClass := prio, wrrUsed := used }

def Cmd.blank : Cmd :=
  { fn := 0, q := 0, admin := false, entry := [], phase := .reserved, arrival := 0, acceptedAt := 0, tenant := 0, epoch := 0, cls := 0,
    deadline := 0, abortMiss := false, hint := 0, gust := false, seq := 0, zone := none, off := 0, nlb := 0, want := 0,
    data := [], dataOpen := false, ptrs := [], list := none, burst := 0, tabled := false, refs := [], hold := .free, told := [], staged := false, folded := false, mirrored := false, resv := 0,
    level := 0, enc := 0, blocks := [], parts := [], missAt := none, progress := 0, fwd := false, peer := none, perturb := false }

/-- The lowest free slot of a range. -/
def Chip.pickSlot (m : Chip) (lo hi : Nat) : Option Nat :=
  let used := (m.q.slots.map (·.1)).filter (lo ≤ ·)
  let s := used.foldl (fun s k => if k = s then s + 1 else s) lo
  if s < hi then some s else none

/-- Reserve one slot for entry `k` of SQ `i`, in the burst of this moment. -/
def Chip.reserve (m : Chip) (f i k : Nat) : Chip :=
  let admin := decide (262144 ≤ i)
  match (if admin then m.pickSlot hostSlots adminSlots else m.pickSlot 0 hostSlots) with
  | none => m
  | some s => m.putCmd s { Cmd.blank with
      fn := f, q := i, admin := admin, tenant := m.fnTenant f, off := k, burst := m.q.burst, progress := m.isl.dtc }

/-- Ask for a burst of `k` entries of SQ `i`: one fetch read, or two where the queue wraps (R117). -/
def Chip.fetchBurst (m : Chip) (f i k : Nat) : Chip :=
  let x := m.qc i
  let es := (m.sqRun i).take k
  let start := es.headD 0
  let first := min k (x.sqSize + 1 - start)
  let m := es.foldl (fun (m : Chip) e => m.reserve f i e) m
  let m := { m with q := { m.q with burst := m.q.burst + 1 } }
  let m := m.hostRead f i 1 [(x.sqBase + 64 * start, first * 64)]
  let m := if first < k then m.hostRead f i 1 [(x.sqBase, (k - first) * 64)] else m
  m.setFn f ((m.fn f).served i x.sqPrio k)

/-- Try the SQs of a function in order: those with work but no credit are counted and passed; those whose tenant may take no slot are passed, the
turn counted once (`told`); the first that may ask for entries does (R115, R122, R123). -/
def Chip.serveFn (m : Chip) (f : Nat) (told : Bool) : List Nat → Chip × Bool
  | [] => (m, false)
  | i :: is =>
    if !m.sqReady i then m.serveFn f told is
    else if m.cqCredit (m.qc i).sqCq = 0 then (m.incF QIE_CQHOLD.COUNT).serveFn f told is
    else if i < 262144 ∧ m.tenRoom (m.fnTenant f) = 0 then (if told then m else m.incF QIE_TSKIP.COUNT).serveFn f true is
    else if m.burst f i = 0 then m.serveFn f told is
    else (m.fetchBurst f i (m.burst f i), true)

/-- Serve the first function in turn that has an eligible SQ. -/
def Chip.serveHst (m : Chip) (h : Nat) : List Nat → Chip
  | [] => m
  | f :: fs =>
    let (m1, ok) := m.serveFn f false (m.sqOrder f)
    if ok then { m1 with q := { m1.q with rrFn := tset 0 m1.q.rrFn h (f + 1) } } else m1.serveHst h fs

/-- One fetch turn of an HST island (R115 to R117): for functions the device may issue TLPs for (R92, R93), on a link that is not in Recovery. -/
def Chip.sqFetch (m : Chip) (h : Nat) : Chip :=
  if m.fetchStopped then m
  else
    let fns := ((m.img.tables.funcs.map (·.func)).filter fun f => decide (m.slotOf f / 4 = h ∧ m.f HPT_PSTAT.STATE (m.slotOf f) ≠ 3) &&
      m.fnSeen f && (m.fn f).en && m.dmaOk f)
    let fns := isort (fun a b => decide (a ≤ b)) fns
    let turn := tget 0 m.q.rrFn h
    m.serveHst h (fns.filter (turn ≤ ·) ++ fns.filter (· < turn))

/-! ## Checks of R126 -/

/-- A failed check: status, event and counter. -/
structure CFail where
  status : Status
  event : Nat
  count : Fld

def supported (admin : Bool) (op : Nat) : Bool :=
  if admin then decide (op ∈ [0x00, 0x01, 0x02, 0x04, 0x05, 0x06, 0x08, 0x09, 0x0A, 0x0C, 0x0D, 0x10, 0x11, 0x15, 0x80, 0x84])
  else decide (op ∈ [0x00, 0x01, 0x02, 0x08, 0x09, 0x79, 0x7A, 0x7D])

/-- The opcode names a range of logical blocks by SLBA. -/
def hasLba (op : Nat) : Bool := decide (op ∈ [0x01, 0x02, 0x08, 0x79, 0x7A, 0x7D])
def isZoneOp (op : Nat) : Bool := decide (op = 0x79 ∨ op = 0x7A ∨ op = 0x7D)

/-- The bytes of data a command moves with the host. -/
def Chip.xferBytes (m : Chip) (admin : Bool) (e : List Byte) : Nat :=
  let op := opcodeOf e
  if admin then
    (if op = 0x02 then (65536 * (dw e 11 % 65536) + bits (dw e 10) 31 16 + 1) * 4
     else if op = 0x11 then (dw e 10 + 1) * 4
     else if op = 0x06 ∨ op = 0x15 ∨ (op = 0x0D ∧ bits (dw e 10) 3 0 = 0) then 4096
     else 0)
  else if op = 0x01 ∨ op = 0x02 ∨ op = 0x7D then nlbOf e * 2 ^ (((m.ns? (nsidOf e)).map (·.lbaLog)).getD 12)
  else if op = 0x7A then (dw e 12 + 1) * 4
  else if op = 0x09 then (bits (dw e 10) 7 0 + 1) * 16
  else 0

/-- The reserved bits of an entry, as (dword, mask), by opcode (NVMe; log entry 159). -/
def reservedBits (admin : Bool) (op : Nat) : List (Nat × Nat) :=
  let rest := (List.range 6).map fun i => (10 + i, 0xFFFFFFFF)
  (0, 0x3C00) ::
    (if admin then
      (if op = 0x00 ∨ op = 0x04 then [(10, 0xFFFF0000)]
       else if op = 0x01 then [(11, 0xFFF8)]
       else if op = 0x05 then [(11, 0xFFFC)]
       else if op = 0x06 then [(10, 0xFF00)]
       else if op = 0x0C then rest
       else [])
     else if op = 0x00 then rest
     else if op = 0x01 ∨ op = 0x02 then [(12, 0x020F0000)]
     else if op = 0x08 ∨ op = 0x7D then [(12, 0x000F0000)]
     else if op = 0x09 then [(10, 0xFFFFFF00), (11, 0xFFFFFFF8)]
     else if op = 0x79 then [(13, 0x00FFFC00)]
     else if op = 0x7A then [(13, 0x00FE0000)]
     else [])

/-- The reserved fields of an entry are 0 (check 2). -/
def reservedClear (admin : Bool) (e : List Byte) : Bool := (reservedBits admin (opcodeOf e)).all fun r => decide (dw e r.1 &&& r.2 = 0)

/-- The LBAs of a namespace. -/
def Ns.lbas (n : Ns) : Nat := n.zones.length * n.zoneLbas

/-- The namespace a command may reach: it exists, belongs to the function's tenant and is attached (check 4, R177). -/
def Chip.reach? (m : Chip) (f nsid : Nat) : Option Ns :=
  (m.ns? nsid).bind fun n => if n.tenant = m.fnTenant f ∧ m.cntlid f ∈ n.attached then some n else none

/-- The device has what a supported opcode asks for: the feature, log page, zone action, namespace management selection, commit
action or sanitize action (log entry 32). -/
def hasRow (admin : Bool) (e : List Byte) : Bool :=
  let op := opcodeOf e
  let d := dw e 10
  if admin then
    if op = 0x09 ∨ op = 0x0A then decide (bits d 7 0 ∈ [0x01, 0x07, 0xC8])
    else if op = 0x02 then decide (bits d 7 0 ∈ [0x03, 0x0C, 0xBF, 0xC0, 0xC1])
    else if op = 0x0D then decide (bits d 3 0 < 2)
    else if op = 0x10 then decide (bits d 5 3 < 4)
    else if op = 0x84 then decide (1 ≤ bits d 2 0 ∧ bits d 2 0 ≤ 4)
    else true
  else if op = 0x79 then decide (bits (dw e 13) 7 0 ∈ [1, 2, 3, 4, 5, 0x10])
  else if op = 0x7A then decide (bits (dw e 13) 7 0 ∈ [0, 1, 0xF])
  else true

/-- Checks 1 to 8 of R126 in order, with the ANA state after check 4: the first failure, and whether it is counted. Of an admin command check 4 is
made by its own row (`badNs`). -/
def Chip.checks (m : Chip) (s : Nat) (c : Cmd) : Option (Status × Option CFail) :=
  let e := c.entry
  let op := opcodeOf e
  let fail (st : Status) (ev : Nat) (f : Fld) : Option (Status × Option CFail) := some (st, some ⟨st, ev, f⟩)
  if m.f TRS_SANSTAT.STATE = 1 then some (stSanitize, none)
  else if !supported c.admin op then fail stInvalidOpcode 0x4001 QIE_CMDERR0.OPCODE
  else if fuseOf e ≠ 0 ∨ psdtOf e = 3 ∨ !reservedClear c.admin e then fail stInvalidField 0x4002 QIE_CMDERR0.FIELD
  else if m.q.slots.any (fun x => decide (x.1 ≠ s ∧ x.2.q = c.q ∧ x.2.peer = none ∧ x.2.phase ≠ .reserved ∧ x.2.phase ≠ .fetched) &&
      decide (cidOf x.2.entry = cidOf e)) then fail stCidConflict 0x4003 QIE_CMDERR1.CIDCONF
  else if !hasRow c.admin e then some (if c.admin then stInvalidField else stNoAction, none)
  else if c.admin then
    (if 2097152 < m.xferBytes true e then fail stInvalidField 0x4006 QIE_CMDERR0.FIELD
     else match descFail e (m.xferBytes true e) with
     | some st => fail st 0x4008 QIE_CMDERR2.DESC
     | none => none)
  else if op = 0x00 ∧ nsidOf e = 0xFFFFFFFF then none
  else match m.reach? c.fn (nsidOf e) with
  | none => fail stInvalidNs 0x4004 QIE_CMDERR1.NSID
  | some n =>
    match anaStatus (m.ana n.ana) with
    | some st => some (st, none)
    | none =>
      if n.conv && isZoneOp op then fail stInvalidOpcode 0x4001 QIE_CMDERR0.OPCODE
      else if (avfortBits op).isSome ∧ (8 ≤ lcxOf e ∨ 5 ≤ phintOf e) then fail stInvalidField 0x4005 QIE_CMDERR0.FIELD
      else if m.xferBytes false e > (if op = 0x7D then 1048576 else 2097152) then fail stInvalidField 0x4006 QIE_CMDERR0.FIELD
      else if hasLba op && decide (n.lbas < slbaOf e + (if op = 0x79 ∨ op = 0x7A then 1 else nlbOf e)) &&
          !(decide (op = 0x79) && bitOf (dw e 13) 8) then fail stLbaRange 0x4007 QIE_CMDERR2.LBARANGE
      else match descFail e (m.xferBytes false e) with
      | some st => fail st 0x4008 QIE_CMDERR2.DESC
      | none => none

/-- The arrival time of an entry: the DTC of the oldest pair whose tail covers it (R114). -/
def QCtx.arrival (x : QCtx) (idx now : Nat) : Nat :=
  match x.pairs.find? fun p => decide (ringDist x.sqSize x.sqHead idx < ringDist x.sqSize x.sqHead p.1) with
  | some p => p.2
  | none => now

/-- The head passes one fetched entry; pairs wholly fetched are dropped (R114). -/
def QCtx.advance (x : QCtx) : QCtx :=
  let h := if x.sqHead ≥ x.sqSize then 0 else x.sqHead + 1
  { x with sqHead := h, fetched := (x.fetched + 1) % 2 ^ 32, pairs := x.pairs.filter fun p => decide (p.1 ≠ h) }

/-- The stamp of acceptance: order, epoch, class, hint, deadline, ABORT_MISS, and the zone and range (R118, R119, R124, R125,
R207). -/
def Chip.stamp (m : Chip) (c : Cmd) : Cmd :=
  let (e, t) := m.stampEpoch
  let cls := classOf c.admin c.entry
  let op := opcodeOf c.entry
  let table := t.latTable c.tenant
  let ns := m.ns? (nsidOf c.entry)
  let span := (ns.map (·.zoneLbas)).getD 1
  let zoned := !c.admin && hasLba op
  let mask := ((t.lat? table).map (·.abortMask)).getD 0
  { c with
    phase := .accepted, acceptedAt := m.isl.dtc, seq := m.q.seq, epoch := e, cls := cls, hint := if c.admin then 0 else phintOf c.entry,
    deadline := (c.arrival + t.deadlineLen table cls) % 2 ^ 32,
    abortMiss := !c.admin && decide (op = 0x02 ∨ isWriteOp op) && decide (cls < 7) && bitOf mask cls,
    zone := if zoned then ns.bind fun n => n.zones[slbaOf c.entry / span]? else none,
    off := if zoned then slbaOf c.entry % span else 0,
    nlb := if zoned ∧ op ≠ 0x79 ∧ op ≠ 0x7A then nlbOf c.entry else 0,
    level := if c.admin then 0 else (ns.map fun n => if n.elastic then n.level else 0).getD 0,
    want := if !c.admin ∧ (op = 0x01 ∨ op = 0x7D ∨ op = 0x09) then m.xferBytes false c.entry else 0 }

/-- A submission queue entry arrives in its reserved slot (R121). -/
def Chip.entryArrives (m : Chip) (s : Nat) (e : List Byte) : Chip :=
  match m.cmd? s with
  | none => m
  | some c =>
    if c.phase ≠ .reserved then m
    else m.putCmd s { c with phase := .fetched, entry := slice (e ++ List.replicate 64 0) 0 64, progress := m.isl.dtc }

/-- CMD accepts a fetched entry (R114, R118, R119, R126); one of an SQ being deleted ends (R139). -/
def Chip.accept (m : Chip) (s : Nat) : Chip :=
  match m.cmd? s with
  | none => m
  | some c =>
    let x := m.qc c.q
    let c := { c with arrival := x.arrival c.off m.isl.dtc, progress := m.isl.dtc }
    let m := m.setQc c.q x.advance
    let c := m.stamp c
    let m := { m with q := { m.q with seq := m.q.seq + 1 } }
    let m := m.putCmd s c
    if x.sqState = 2 then m.finish s (some stSqDeleted)
    else
      match m.checks s c with
      | none => m
      | some (st, some f) => ((m.incF f.count).emit 10 f.event 0 (some (m.cmdTag s c))).finish s (some st)
      | some (st, none) => m.finish s (some st)

/-- The fetched entry of an island that CMD accepts next: entries of an SQ in ring order, those of its SQs in the order of their bursts. -/
def Chip.nextOf (m : Chip) (h : Nat) : Option Nat :=
  ((isort (fun a b => decide (a.2.burst ≤ b.2.burst)) (m.q.slots.filter fun e =>
    decide (e.2.phase = .fetched ∧ m.slotOf e.2.fn / 4 = h ∧ e.2.off = (m.qc e.2.q).sqHead))).head?).map (·.1)

/-- CMD accepts from the islands in turn, one command each (R118), at most `n`. -/
def Chip.acceptRound (m : Chip) : Nat → Chip
  | 0 => m
  | n + 1 =>
    match ((List.range 8).map fun k => (m.q.rrHst + k) % 8).findSome? fun h => (m.nextOf h).map fun s => (h, s) with
    | none => m
    | some (h, s) => (({ m with q := { m.q with rrHst := (h + 1) % 8 } } : Chip).accept s).acceptRound n

def Chip.acceptAll (m : Chip) : Chip := m.acceptRound ((m.q.slots.filter fun e => decide (e.2.phase = .fetched)).length)

/-! ## Admin queue commands -/

/-- Run an admin command of an opcode in an accepted slot. -/
def Chip.adminCmd (m : Chip) (s op : Nat) (g : Cmd → Chip → Chip) : Chip :=
  match m.cmd? s with
  | some c => if c.admin ∧ c.phase = .accepted ∧ opcodeOf c.entry = op then g c m else m
  | none => m

/-- A queue context returns to what a reset leaves: words 9 and 15 stay (R475). -/
def QCtx.wipe (x : QCtx) : QCtx := { QCtx.blank with func := x.func, qid := x.qid }

/-- Create I/O Submission Queue (R108). -/
def Chip.createSq (m : Chip) (s : Nat) : Chip :=
  m.adminCmd s 0x01 fun c m =>
    let y := bits (dw c.entry 10) 15 0
    let cqid := bits (dw c.entry 11) 31 16
    if y = 0 ∨ m.img.tables.qcount c.fn < y then m.finish s (some stQidInvalid)
    else match m.img.tables.qctxOf c.fn y with
    | none => m.finish s (some stQidInvalid)
    | some i =>
      if (m.qc i).sqValid then m.finish s (some stQidInvalid)
      else if !bitOf (dw c.entry 11) 0 then m.finish s (some stInvalidField)
      else match m.img.tables.qctxOf c.fn cqid with
      | none => m.finish s (some stCqInvalid)
      | some k =>
        if cqid = 0 ∨ m.img.tables.qcount c.fn < cqid ∨ !(m.qc k).cqValid then m.finish s (some stCqInvalid)
        else
          let m := m.setQc i { m.qc i with
            sqBase := prp1Of c.entry / 4096 * 4096, sqValid := true, sqSize := bits (dw c.entry 10) 31 16, sqHead := 0,
            sqTail := 0, sqPrio := if (m.fn c.fn).wrr then bits (dw c.entry 11) 2 1 else 0, sqState := 1, sqCq := k,
            func := c.fn, qid := y, pairs := [] }
          m.finish s (some stOk)

/-- Create I/O Completion Queue (R108). -/
def Chip.createCq (m : Chip) (s : Nat) : Chip :=
  m.adminCmd s 0x05 fun c m =>
    let y := bits (dw c.entry 10) 15 0
    if y = 0 ∨ m.img.tables.qcount c.fn < y then m.finish s (some stQidInvalid)
    else match m.img.tables.qctxOf c.fn y with
    | none => m.finish s (some stQidInvalid)
    | some i =>
      if (m.qc i).cqValid then m.finish s (some stQidInvalid)
      else if !bitOf (dw c.entry 11) 0 then m.finish s (some stInvalidField)
      else
        let m := m.setQc i { m.qc i with
          cqBase := prp1Of c.entry / 4096 * 4096, cqValid := true, cqIen := bitOf (dw c.entry 11) 1, cqPhase := 1,
          cqSize := bits (dw c.entry 10) 31 16, cqHead := 0, cqTail := 0, cqIv := bits (dw c.entry 11) 26 16, func := c.fn,
          qid := y }
        m.finish s (some stOk)

/-- Delete I/O Completion Queue (R108). -/
def Chip.deleteCq (m : Chip) (s : Nat) : Chip :=
  m.adminCmd s 0x04 fun c m =>
    let y := bits (dw c.entry 10) 15 0
    match m.img.tables.qctxOf c.fn y with
    | none => m.finish s (some stQidInvalid)
    | some i =>
      if y = 0 ∨ !(m.qc i).cqValid then m.finish s (some stQidInvalid)
      else if m.q.qctx.any fun e => decide (e.2.sqState ≠ 0 ∧ e.1 < 262144 ∧ e.2.sqCq = i) then m.finish s (some stQDeletion)
      else
        let x := m.qc i
        let m := m.setQc i { x with cqBase := 0, cqValid := false, cqIen := false, cqPhase := 0, cqSize := 0, cqHead := 0,
                                    cqTail := 0, cqIv := 0 }
        m.finish s (some stOk)

/-- Delete I/O Submission Queue (R139): fetch stops, uncommitted commands end with Aborted due to SQ Deletion (entries still on their way when they
arrive), and the Delete completes after the last completion of the SQ. Commands end in slot order; a later write that R132 has ended meanwhile keeps
Command Interrupted (log entry 160). -/
def Chip.deleteSq (m : Chip) (s : Nat) : Chip :=
  m.adminCmd s 0x00 fun c m =>
    let y := bits (dw c.entry 10) 15 0
    match m.img.tables.qctxOf c.fn y with
    | none => m.finish s (some stQidInvalid)
    | some i =>
      let x := m.qc i
      if y = 0 ∨ !x.sqValid ∨ x.sqState = 2 then m.finish s (some stQidInvalid)
      else
        let m := m.setQc i { x with sqState := 2 }
        let m := m.modCmd s fun c => { c with phase := .running }
        let mine := m.q.slots.filter fun e => decide (e.2.q = i ∧ e.2.peer = none)
        let m := (mine.filter fun e => decide (e.2.phase ≠ .reserved ∧ e.2.phase ≠ .committed)).foldl
          (fun (m : Chip) e => if (m.cmd? e.1).isSome then m.endCmd e.1 (some stSqDeleted) else m) m
        m.finishDelete i

/-- A command's units, its source reads among them, are on a die or in a die queue (R138). -/
def Chip.onDie (m : Chip) (s : Nat) : Bool :=
  m.md.dies.any fun e => (e.2.queue ++ e.2.running.toList).any fun u => decide (m.unitSlot u = some s)

/-- Abort (R138): the named command of the function ends unless it has committed or, for a read, has a part in a die queue. -/
def Chip.abort (m : Chip) (s : Nat) : Chip :=
  m.adminCmd s 0x08 fun c m =>
    let sqid := bits (dw c.entry 10) 15 0
    let cid := bits (dw c.entry 10) 31 16
    let target := (m.img.tables.qctxOf c.fn sqid).bind fun i =>
      m.q.slots.find? fun e => decide (e.1 ≠ s ∧ e.2.q = i ∧ e.2.peer = none ∧ e.2.phase ≠ .reserved ∧ e.2.phase ≠ .committed) &&
        decide (cidOf e.2.entry = cid) && !(decide (opcodeOf e.2.entry = 0x02) && m.onDie e.1)
    match target with
    | some (t, _) => (m.endCmd t (some stAborted)).finish s (some stOk) 0
    | none => m.finish s (some stOk) 1

/-- Asynchronous Event Request: completed by the oldest event held for the function, else outstanding (R113, R205). -/
def Chip.asyncRequest (m : Chip) (s : Nat) : Chip :=
  m.adminCmd s 0x0C fun c m =>
    let fs := m.fn c.fn
    match fs.events with
    | (t, i, p) :: rest => (m.setFn c.fn { fs with events := rest }).finish s (some stOk) (65536 * p + i * 256 + t)
    | [] => (m.setFn c.fn { fs with aers := fs.aers ++ [s] }).modCmd s fun c => { c with phase := .running }

end Sys2Proof.Machine
end

