-- ==== Sys2Proof/Machine/Ports.lean ====
section
/-! DEFINITION. Host ports (R82 to R101): training, link loss and resets of ports, functions and controllers (R98 to R100, R472 to
R475), data that stops (R94 to R97), IDE streams, hostile traffic, doorbells and fetch; with the meanings of their rows. -/

namespace Sys2Proof.Machine

/-! ## Resets of functions (R98, R100, R475) -/

/-- Free dies with waiting entries look again at what they may start, and busy ones at a new head of their queue (R186). -/
def Chip.wakeDies (m : Chip) : Chip :=
  (m.md.dies.filter fun e => e.2.look || e.2.running.isNone && decide (e.2.queue ≠ [])).foldl (fun (m : Chip) e => m.turn e.1) m

/-- The writes and appends accepted before a Flush that it waits for (R134). -/
def Chip.flushWaits (m : Chip) (c : Cmd) : Bool :=
  m.q.slots.any fun e => !e.2.admin && isWriteOp (opcodeOf e.2.entry) && decide (e.2.seq < c.seq ∧ (e.2.phase = .accepted ∨ e.2.phase = .running)) &&
    (if nsidOf c.entry = 0xFFFFFFFF then
      ((m.ns? (nsidOf e.2.entry)).map fun n => decide (m.cntlid c.fn ∈ n.attached)).getD false
     else decide (nsidOf e.2.entry = nsidOf c.entry))

/-- The Flushes whose writes are done complete (R134). -/
def Chip.flushes (m : Chip) : Chip :=
  (m.q.slots.filter fun e => !e.2.admin && decide (opcodeOf e.2.entry = 0x00 ∧ e.2.phase = .running)).foldl (fun (m : Chip) e =>
    if m.flushWaits e.2 then m else m.finish e.1 (some stOk)) m

/-- Requests that wait on a pool are granted what is free now (R359). -/
def Chip.grantAll (m : Chip) : Chip :=
  (m.bp.pools.filter fun e => decide (e.2.wait ≠ [])).foldl (fun (m : Chip) e => m.grantPool e.1) m

/-- After a command that ended commands, freed buffers or changed a level: requests that wait on pools are granted, held writes that may go are
released (R198, R366), Flushes complete (R134), blocks no read needs are freed (R147), the staging barometer may start a spill (R158), metadata records
go to flash, idle decompress engines take blocks (R282), and free dies may start what a level held (R365). -/
def Chip.settle (m : Chip) : Chip := ((m.grantAll.pump.flushes.freeLeft.regionWork.spillPressure.writeDeltas false).dispatchDecodes).wakeDies

/-- Every command of a function ends internally, without completion; what has committed stays, and a second record still to be made is made (R98,
R99, R136). -/
def Chip.endFnCmds (m : Chip) (f : Nat) : Chip :=
  (m.q.slots.filter fun e => decide (e.2.fn = f ∧ e.2.peer = none)).foldl (fun (m : Chip) e =>
    match m.cmd? e.1 with
    | none => m
    | some c => if c.phase = .reserved then m.freeSlot e.1
        else match (if c.phase = .committed then c.zone.bind fun z => (m.nextRecord z c).map fun r => (z, r) else none) with
        | some (z, r) => ((m.commitRecord e.1 z r).finish e.1 none).reclassify z
        | none => m.endCmd e.1 none) m

/-- The queue contexts of a function, admin first. -/
def Chip.fnCtxs (m : Chip) (f : Nat) : List Nat :=
  (262144 + f) :: ((List.range (m.img.tables.qcount f)).map (· + 1)).filterMap fun y => m.img.tables.qctxOf f y

/-- The queue contexts of a function are wiped; its admin queue reads HALTED (R475). -/
def Chip.wipeQueues (m : Chip) (f : Nat) : Chip :=
  (m.fnCtxs f).foldl (fun (m : Chip) i =>
    let x := (m.qc i).wipe
    m.setQc i (if 262144 ≤ i then { x with sqState := 3, func := f } else x)) m

/-- A function is reset as by its port (R98), or, with `keep`, as a controller reset, which keeps the PCIe configuration
(R472), and the addresses and sizes of the admin queues as written (NVMe, log entry 166). -/
def Chip.resetFn (m : Chip) (keep : Bool) (f : Nat) : Chip :=
  let m := (m.endFnCmds f).wipeQueues f
  let x := m.fn f
  m.setFn f (if keep then { FnSt.blank with numVfs := x.numVfs, pcie := x.pcie, aqa := x.aqa, asq := x.asq, acq := x.acq } else FnSt.blank)

/-- The port slot's functions are reset (R98). -/
def Chip.resetPortFns (m : Chip) (q : Nat) : Chip :=
  ((m.img.tables.fnsOnSlot q).foldl (fun (m : Chip) f => m.resetFn false f) m).settle

/-- A port is in use: an image put a port in the slot (R82). -/
def Chip.portUsed (m : Chip) (q : Nat) : Bool := decide (m.f HPT_PCFG.VALID q = 1)

/-- The link of a port is lost: no speed, no width, RETRAIN over, what waited for credit gone. -/
def Chip.linkGone (m : Chip) (q state : Nat) : Chip :=
  let m := (((m.setF HPT_PSTAT.STATE state q).setF HPT_PSTAT.SPEED 0 q).setF HPT_PSTAT.NEG_WIDTH 0 q).setF HPT_PSTAT.FLIT 0 q
  (m.setF HPT_PCTL.RETRAIN 0 q).setPort q { m.port q with relinking := false, owed := [] }

/-- LINKDOWN: the link leaves L0 for DETECT or DISABLED. -/
def Chip.tellDown (m : Chip) (q : Nat) : Chip := if m.linkUp q then m.setF HPT_EVT.LINKDOWN 1 q else m

/-- PERST_nk asserts (R83, R98). -/
def execPerstAssert (g : Grp) (s : State) : Host.Outcome State Fault Refusal :=
  run s fun m =>
    let m := { m with q := { m.q with perst := m.q.perst ||| 2 ^ g.val } }
    (List.range 4).foldl (fun (m : Chip) i =>
      let q := 4 * g.val + i
      if m.portUsed q then ((m.tellDown q).linkGone q 0).resetPortFns q else m) m

/-- A group's ports that nothing keeps from it begin to train. -/
def Chip.startTraining (m : Chip) (q : Nat) : Chip :=
  if m.portUsed q ∧ m.f HPT_PSTAT.STATE q = 0 ∧ m.f HPT_PCTL.DISABLE q = 0 ∧ !bitOf m.q.perst (q / 4) then m.setF HPT_PSTAT.STATE 1 q
  else m

/-- The physical function of a port. -/
def Chip.portPf (m : Chip) (q : Nat) : Option Nat :=
  (m.img.tables.fnsOnSlot q).find? fun f => ((m.img.tables.func? f).map fun r => decide (r.type = 0)).getD false

/-- The highest rate a link takes (R84, R85): the lower of both ends', and no more than 32 GT/s without FLIT mode. -/
def linkRate (max rate : Nat) (flit : Bool) : Nat := min (min rate max) (if flit then 6 else 5)

/-- What waited for posted credit goes out, in order (R97). -/
def Chip.payOwed (m : Chip) (q : Nat) : Chip :=
  let p := m.port q
  p.owed.foldl (fun (m : Chip) o => m.send o) (m.setPort q { p with relinking := false, owed := [] })

/-- A port's link comes up, within what the image declares (R84). Back from Recovery it ends a retrain or a credit stall (R97). From L0 a link whose
physical function enables ASPM goes to L1 (R85); how a link leaves L0 and L1 by itself is log entry 157. -/
def Chip.trainEnd (m : Chip) (q rate width : Nat) (e : LinkEnd) : Chip :=
  let st := m.f HPT_PSTAT.STATE q
  if !m.portUsed q then m
  else
    match e with
    | .l1 => if st = 2 ∧ ((m.portPf q).map fun f => (m.fn f).pcie.aspm).getD false then m.setF HPT_PSTAT.STATE 4 q else m
    | .l0 flit =>
      if ¬(st = 1 ∨ st = 3 ∨ st = 4) then m
      else
        let w := min width (m.f HPT_PCFG.WIDTH q)
        let m := (m.setF HPT_PSTAT.STATE 2 q).setF HPT_PSTAT.SPEED (linkRate (m.f HPT_PCFG.MAX_GEN q) rate flit) q
        let m := (m.setF HPT_PSTAT.NEG_WIDTH w q).setF HPT_PSTAT.FLIT (b1 flit) q
        let m := (m.setF HPT_PCTL.RETRAIN 0 q).payOwed q
        if w < m.f HPT_PCFG.WIDTH q then m.emit (2 + q / 4) 0x2001 q else m

def execPortTrainDone (q : PSlot) (rate width : Nat) (e : LinkEnd) (s : State) : Host.Outcome State Fault Refusal :=
  run s fun m => m.trainEnd q.val rate width e

/-- A hot reset on a port whose link is up (R98): the functions are reset, and the link trains again. -/
def execHotReset (q : PSlot) (s : State) : Host.Outcome State Fault Refusal :=
  run s fun m =>
    if !m.portUsed q.val ∨ !m.linkUp q.val then m
    else
      let m := ((m.setF HPT_EVT.HOTRESET 1 q.val).linkGone q.val 5).resetPortFns q.val
      (m.setF HPT_PSTAT.STATE 0 q.val).startTraining q.val

/-- A port's link goes down: DETECT, and it trains again unless something keeps it from it (R98). -/
def Chip.linkDown (m : Chip) (q : Nat) : Chip := ((m.tellDown q).linkGone q 0).resetPortFns q

def execLinkDown (q : PSlot) (s : State) : Host.Outcome State Fault Refusal :=
  run s fun m => if m.portUsed q.val ∧ m.linkUp q.val then (m.linkDown q.val).startTraining q.val else m

/-- A surprise link down (R98). -/
def execSurpriseLinkDown (q : PSlot) (s : State) : Host.Outcome State Fault Refusal :=
  run s fun m =>
    if m.portUsed q.val ∧ m.linkUp q.val then ((m.setF HPT_EVT.SURPRISE 1 q.val).linkDown q.val).startTraining q.val else m

/-- A function level reset; a physical function's reaches its virtual functions (R100). -/
def execFunctionLevelReset (f : Fn) (s : State) : Host.Outcome State Fault Refusal :=
  run s fun m =>
    match m.img.tables.func? f.val with
    | none => m
    | some r =>
      let m := if r.type = 0 then (m.img.tables.vfsOf f.val).foldl (fun (m : Chip) v => m.resetFn false v) m else m
      (m.resetFn false f.val).settle

/-- HPT_PCTL.RETRAIN: the link goes into Recovery (R97, HPT_PCTL). -/
def Chip.portRetrain (m : Chip) (q : Nat) : Chip :=
  if m.portUsed q ∧ m.f HPT_PSTAT.STATE q = 2 then (m.setF HPT_PCTL.RETRAIN 1 q).setF HPT_PSTAT.STATE 3 q else m

/-- HPT_PCTL.DISABLE: 1 holds the link in DISABLED as a link down, 0 lets it train (R98). -/
def Chip.portDisable (m : Chip) (q : Nat) (v : Bool) : Chip :=
  if !m.portUsed q then m.setF HPT_PCTL.DISABLE (b1 v) q
  else if v then
    if m.f HPT_PCTL.DISABLE q = 1 then m
    else ((m.setF HPT_PCTL.DISABLE 1 q).linkDown q).setF HPT_PSTAT.STATE 6 q
  else if m.f HPT_PCTL.DISABLE q = 0 then m
  else ((m.setF HPT_PCTL.DISABLE 0 q).setF HPT_PSTAT.STATE 0 q).startTraining q

/-- HPT_PCTL.RETRAIN clears 100 ms after it was set when the link has not returned to L0. -/
def execRetrainTimeout (q : PSlot) (s : State) : Host.Outcome State Fault Refusal :=
  run s fun m => if m.f HPT_PSTAT.STATE q.val = 2 then m else m.setF HPT_PCTL.RETRAIN 0 q.val

/-! ## Hostile traffic (R89, R92, R101) -/

/-- The AER log of a port takes a fault, and the header of the first (R85). -/
def Chip.aerLog (m : Chip) (q : Nat) (why : TlpFault) (header : List Byte) : Chip :=
  let p := m.port q
  m.setPort q { p with
    aer := if why ∈ p.aer then p.aer else p.aer ++ [why], aerHeader := if p.aerHeader.isNone then some (header.take 16) else p.aerHeader }

/-- A malformed, ECRC-failing or undecoded TLP (R101): counted and logged; a request no BAR decodes that awaits a completion gets Unsupported
Request, any other is dropped. Only a link without FLIT mode checks ECRC (R85). -/
def execMalformedTlp (q : PSlot) (t : BadTlp) (s : State) : Host.Outcome State Fault Refusal :=
  run s fun m =>
    if t.why = .ecrc ∧ m.f HPT_PSTAT.FLIT q.val = 1 then m
    else
      let m := (m.incF HPT_ERRCNT.MALFORMED q.val).aerLog q.val t.why t.header
      if t.why = .undecoded ∧ t.isRequest then m.send (.tlpUr q.val) else m

/-- A TLP for a function that requires IDE arrives outside a Secure stream (R92): a write is dropped and counted, a read is unsupported. -/
def Chip.nonsecure (m : Chip) (f : Nat) (isRead : Bool) : Chip :=
  let q := m.slotOf f
  if !m.needsIde f then m else if isRead then m.send (.tlpUr q) else m.incF HPT_DROPCNT.DROPS q

def execNonsecureTlp (f : Fn) (isRead : Bool) (s : State) : Host.Outcome State Fault Refusal := run s fun m => m.nonsecure f.val isRead

/-- A stream becomes Secure, or is no more. -/
def Chip.setSecure (m : Chip) (q stream : Nat) (v : Bool) : Chip :=
  if stream = 8 then m.setF HPT_IDESTAT.LINK_SECURE (b1 v) q else m.setBit HPT_IDESTAT.SEL_SECURE stream v q

/-- A stream of a port (8: the link stream) leaves Secure, and its keys are gone (R93): the functions that depended on it end their commands and set
CSTS.CFS. -/
def execIdeStreamFail (q : PSlot) (stream : Fin 9) (s : State) : Host.Outcome State Fault Refusal :=
  run s fun m =>
    let dep (m : Chip) (f : Nat) : Bool := m.needsIde f && m.secureFor q.val f
    let fns := m.img.tables.fnsOnSlot q.val
    let was := fns.filter (dep m)
    if !m.streamSecure q.val stream.val then m
    else
      let m := m.setSecure q.val stream.val false
      let p := m.port q.val
      let x := (tfind p.streams stream.val).getD IdeStream.blank
      let m := m.setPort q.val { p with streams := tput p.streams stream.val { x with keys := [], runs := [] } }
      let lost := was.filter fun f => !dep m f
      let m := lost.foldl (fun (m : Chip) f => let m := m.endFnCmds f; m.setFn f { m.fn f with cfs := true }) m
      ((m.setF HPT_EVT.IDEFAIL 1 q.val).emit (2 + q.val / 4) 0x2002 q.val).settle

/-- A controller becomes ready: its admin queue runs (R465). One that needs a Secure stream waits for it (R92). -/
def Chip.fnReady (m : Chip) (f : Nat) : Chip :=
  let x := m.fn f
  if !x.enHeld || !m.dmaOk f then m
  else
    let m := m.setFn f { x with en := true, enHeld := false, rdy := true }
    let y := m.qc (262144 + f)
    m.setQc (262144 + f) { y with sqState := 1 }

/-- An established SPDM session of a port's physical function (R91): IDE_KM runs inside it. -/
def Chip.ideSession (m : Chip) (q : Nat) : Bool :=
  match m.portPf q with
  | some f => (((tfind m.tr.spdm f).map (·.sessions)).getD []).any (·.2)
  | none => false

/-- IDE_KM KEY_PROG (R91): a substream's key of a key set is programmed. -/
def Chip.keyProg (m : Chip) (q stream sub keyset : Nat) : Chip :=
  if !m.portUsed q || !m.ideSession q then m
  else
    let p := m.port q
    let x := (tfind p.streams stream).getD IdeStream.blank
    m.setPort q { p with streams := tput p.streams stream { x with keys := (sub, keyset) :: x.keys.filter fun k => decide (k ≠ (sub, keyset)) } }

/-- IDE_KM K_SET_GO (R91): a substream goes on with a key set that has been programmed. A stream is Secure once each of its six substreams, three
in each direction, runs (log entry 158), and controllers that waited for it become ready. -/
def Chip.kSetGo (m : Chip) (q stream sub keyset : Nat) : Chip :=
  let p := m.port q
  let x := (tfind p.streams stream).getD IdeStream.blank
  if !m.portUsed q || !m.ideSession q || decide ((sub, keyset) ∉ x.keys) then m
  else
    let runs := (sub, keyset) :: x.runs.filter fun r => decide (r.1 ≠ sub)
    let m := m.setPort q { p with streams := tput p.streams stream { x with runs := runs } }
    if runs.length < 6 then m
    else
      let m := m.setSecure q stream true
      let m := if stream < 8 then m.setBit HPT_IDESTAT.SEL_KEYSET stream (runs.all fun r => decide (r.2 = 1)) q else m
      if m.st.step ≠ 14 then m else (m.img.tables.fnsOnSlot q).foldl (fun (m : Chip) f => m.fnReady f) m

def execKSetGo (q : PSlot) (x : SubStream) (keyset : Fin 2) (s : State) : Host.Outcome State Fault Refusal :=
  run s fun m => m.kSetGo q.val x.stream.val x.sub.val keyset.val

/-! ## Data that stops (R94 to R97) -/

/-- A command that carries host data ends with Data Transfer Error (R94 to R97). -/
def Chip.dataError (m : Chip) (s : Nat) : Chip := (m.endCmd s (some stDataTransfer)).settle

/-- A PRP list or SGL segment of a command is in (R94, R102): what it names, the next one, or once all are in the command's data; a bad entry ends
it as check 8 of R126. A read whose data waited for it goes on. -/
def Chip.listIn (m : Chip) (s : Nat) (c : Cmd) (bytes : List Byte) : Chip :=
  let len := max c.want (m.xferBytes c.admin c.entry)
  match listPtrs (decide (psdtOf c.entry = 0)) len c.ptrs bytes with
  | .error sc => (((m.incF QIE_CMDERR2.DESC).emit 10 0x4008 0 (some (m.cmdTag s c))).endCmd s (some ⟨0, sc, true⟩)).settle
  | .ok (ps, next) =>
    let m := m.modCmd s fun c => { c with ptrs := ps, list := next }
    match next with
    | some a => m.hostRead c.fn s 3 [a]
    | none => ((m.askData s).settleRead s).settle

/-- A PCIe completion for a command's read arrives (R94, R96): a list or segment, data in order, or a status that ends the command. -/
def execDataCompletion (slot : SlotId) (q : PSlot) (bytes : List Byte) (status : DataStatus) (s : State) :
    Host.Outcome State Fault Refusal :=
  run s fun m =>
    match m.cmd? slot.val with
    | none => m.incF HPT_LATECNT.LATE q.val
    | some c =>
      if !c.takesData then m.incF HPT_LATECNT.LATE q.val
      else match status with
      | .poisoned => (m.incF HPT_ERRCNT.POISONED q.val).dataError slot.val
      | .ok =>
        match c.list with
        | some l => m.listIn slot.val c (slice (bytes ++ List.replicate l.2 0) 0 l.2)
        | none => m.modCmd slot.val fun c =>
          let d := (c.data ++ bytes).take c.want
          { c with data := d, dataOpen := decide (d.length < c.want) }

/-- The data-stall timer of a command reaches its limit (R94). -/
def execDataStallTimeout (slot : SlotId) (s : State) : Host.Outcome State Fault Refusal :=
  run s fun m =>
    match m.cmd? slot.val with
    | some c => if c.takesData then (m.incF HPT_ABORTCNT.STALL (m.slotOf c.fn)).dataError slot.val else m
    | none => m

/-- A command that posts data to the host: a Read, a Zone Management Receive, Identify or Get Log Page. -/
def Cmd.givesData (c : Cmd) : Bool :=
  let op := opcodeOf c.entry
  if c.admin then decide (op = 0x02 ∨ op = 0x06) else decide (op = 0x02 ∨ op = 0x7A)

/-- Posted credit of a port has stalled for its limit (R97): the link recovers, and commands that have not posted their data end, their completions
held until credit returns. -/
def execCreditStallTimeout (q : PSlot) (s : State) : Host.Outcome State Fault Refusal :=
  run s fun m =>
    if !m.portUsed q.val ∨ m.f HPT_PSTAT.STATE q.val ≠ 2 then m
    else
      let m := ((m.setF HPT_EVT.CREDSTALL 1 q.val).emit (2 + q.val / 4) 0x2003 q.val).setF HPT_PSTAT.STATE 3 q.val
      let m := m.setPort q.val { m.port q.val with relinking := true }
      let fns := m.img.tables.fnsOnSlot q.val
      let mine := m.q.slots.filter fun e => decide (e.2.fn ∈ fns ∧ e.2.peer = none ∧ (e.2.phase = .accepted ∨ e.2.phase = .running)) &&
        e.2.givesData
      (mine.foldl (fun (m : Chip) e => if (m.cmd? e.1).isSome then m.endCmd e.1 (some stDataTransfer) else m) m).settle

/-- The link is not back 100 ms after a credit stall (R97). -/
def execCreditRecoveryTimeout (q : PSlot) (s : State) : Host.Outcome State Fault Refusal :=
  run s fun m =>
    if (m.port q.val).relinking then ((m.setF HPT_EVT.SURPRISE 1 q.val).linkDown q.val).startTraining q.val else m

/-! ## Fetch -/

def execSqFetch (h : Grp) (s : State) : Host.Outcome State Fault Refusal := run s fun m => m.sqFetch h.val

/-- The entries of a burst's reserved slots arrive, 64 bytes each, of which missing ones read 0, and CMD accepts what it can. -/
def execSqEntryArrival (first : SlotId × List Byte) (more : List (SlotId × List Byte)) (s : State) : Host.Outcome State Fault Refusal :=
  run s fun m => (((first :: more).foldl (fun (m : Chip) e => m.entryArrives e.1.val e.2) m).acceptAll).settle

end Sys2Proof.Machine
end

