-- ==== Sys2Proof/Machine/Intake.lean ====
section
/-! DEFINITION. Intake of I/O commands (R126 to R139, R145 to R149): Read, Write, Write Zeroes, Zone Append, Dataset Management,
Flush, their way through compression, encryption, parity and the twin, commit, and forwarded commands (R427). -/

namespace Sys2Proof.Machine

/-! ## Forwarded commands (R427) -/

/-- Send a command to the twin, home of its namespace's ANA group: FWDCMD with the entry; the data of a write is asked for at
once. With forwarded I/O disabled the group is Inaccessible (R428). -/
def Chip.forwardCmd (m : Chip) (s : Nat) (c : Cmd) : Chip :=
  if m.f TWN_STAT.FWD_EN = 0 then m.finish s (some ⟨3, 0x02, false⟩)
  else
    let n := m.ns? (nsidOf c.entry)
    let m := m.sendFrame 0x0D c.zone (some c.deadline)
      (leBytes 2 c.fn ++ leBytes 4 c.q ++ leBytes 2 s ++ leBytes 2 c.tenant ++ leBytes 1 c.cls ++
        leBytes 1 (b1 c.abortMiss + 2 * b1 ((n.map (·.elastic)).getD false)) ++ leBytes 2 ((n.map (·.keySlot)).getD 0x3FFF) ++
        leBytes 1 c.level) c.entry
    let m := m.incF TWN_FWDCNT.CMDS
    let m := m.modCmd s fun c => { c with phase := .running, fwd := true, dataOpen := decide (c.want ≠ 0) }
    if opcodeOf c.entry = 0x02 then m.askPtrs s (m.xferBytes false c.entry) else if c.want ≠ 0 then m.fetchData s c.want else m

/-- The zone action of a Zone Management Send in dword 13 bits [7:0], and Select All in bit 8. -/
def zsaOf (e : List Byte) : Nat := bits (dw e 13) 7 0
def selectAll (e : List Byte) : Bool := bitOf (dw e 13) 8

/-- The zones an I/O command names. -/
def Chip.cmdZones (m : Chip) (c : Cmd) : List Nat :=
  match m.ns? (nsidOf c.entry) with
  | none => []
  | some n =>
    if opcodeOf c.entry = 0x79 ∧ selectAll c.entry then n.zones
    else if hasLba (opcodeOf c.entry) then (n.ranges (slbaOf c.entry) (max 1 c.nlb)).map (·.1) else []

/-- No command accepted earlier still has its row to come for a zone this one names: commands of a zone are taken in acceptance order (R118, R131). -/
def Chip.zoneTurn (m : Chip) (c : Cmd) : Bool :=
  let zs := m.cmdZones c
  m.q.slots.all fun e => e.2.admin || decide (c.seq ≤ e.2.seq ∨ e.2.phase ≠ .accepted ∨ e.2.ptrs ≠ []) || m.slotClearing e.2 ||
    (m.cmdZones e.2).all fun z => decide (z ∉ zs)

/-- Run an accepted I/O command of an opcode on this controller, or forward it (R144, R427). A command whose namespace waits for
a Format's new key stays where it is (R302), and one whose zone waits for the row of an earlier command (R131). -/
def Chip.ioCmd (m : Chip) (s op : Nat) (g : Cmd → Ns → Chip → Chip) : Chip :=
  match m.cmd? s with
  | none => m
  | some c =>
    if c.admin ∨ c.phase ≠ .accepted ∨ opcodeOf c.entry ≠ op ∨ m.slotClearing c ∨ !m.zoneTurn c then m
    else match m.ns? (nsidOf c.entry) with
    | none => m
    | some n =>
      let mine := match c.zone with
        | some z => m.ownsZone z
        | none => decide (anaHome n.ana = m.side) || m.aloneNow
      if mine || c.peer.isSome then g c n m else m.forwardCmd s c

/-! ## Reads (R127, R148, R149) -/

/-- A Read: its zones are checked, its range is cut into parts by source, and each part starts (R127, R148). This row is the moment of CMD's
acceptance at which R127 classifies (log entry 161). -/
def Chip.read (m : Chip) (s : Nat) : Chip :=
  m.ioCmd s 0x02 fun c n m =>
    let rs := n.ranges (slbaOf c.entry) (nlbOf c.entry)
    if rs.any fun r => decide ((m.zone r.1).state = zso) then m.failZone s c zfOffline
    else
      let parts := rs.flatMap fun r => m.cutParts r.1 none (r.2.2 / 512 + 4) r.2.1 r.2.2
      let m := (m.addF QIE_WBHIT.COUNT (stretches .buffer parts)).addF QIE_OVLWAIT.COUNT (stretches .wait parts)
      let m := m.modCmd s fun c => { c with phase := .running, parts := parts }
      let m := if c.peer.isSome then m else m.askPtrs s (m.xferBytes false c.entry)
      let m := (List.range parts.length).foldl (fun (m : Chip) i => m.startPart s i) m
      m.settleRead s

def execRead (slot : SlotId) (s : State) : Host.Outcome State Fault Refusal := run s fun m => (m.read slot.val).settle

/-! ## Writes and appends (R131, R145, R148, R162) -/

/-- An elastic command that does not fit leaves its zone pending Full (R162). -/
def Chip.markPending (m : Chip) (z : Nat) (e : ZFail) (x : Zone) (off nlb cap : Nat) : Chip :=
  if e.event = 0x4032 ∧ x.state ≠ zsf ∧ !x.pending ∧ off + nlb ≤ cap then
    (m.setZone z { m.zone z with pending := true }).checkPending z
  else m

/-- A write that arrives clears the clean mark (R478), and with it the hold of R486. -/
def Chip.unclean (m : Chip) : Chip :=
  if m.st.clean ∨ m.st.shutting then
    ({ m with st := { m.st with clean := false, shutting := false }, tw := { m.tw with heldHb := false } } : Chip).setF PWR_STAT.PAIRHOLD 0
  else m

/-- The bytes beside a conventional write's own in its first and its last 4 KiB unit, as (zone, offset, length). -/
def Ns.besides (n : Ns) (c : Cmd) : List (Nat × Nat × Nat) :=
  (n.ranges (slbaOf c.entry) c.nlb).flatMap fun r =>
    let e := r.2.1 + r.2.2
    (if r.2.1 % 4096 = 0 then [] else [(r.1, r.2.1 / 4096 * 4096, r.2.1 % 4096)]) ++
      (if e % 4096 = 0 then [] else [(r.1, e, 4096 - e % 4096)])

/-- A conventional write that is smaller than 4 KiB or unaligned reads what it is merged with (R168). -/
def Chip.readBesides (m : Chip) (s : Nat) (c : Cmd) (n : Ns) : Chip :=
  let parts := (n.besides c).flatMap fun r => m.cutParts r.1 (some c.seq) 4 r.2.1 r.2.2
  (List.range parts.length).foldl (fun (m : Chip) i => m.startPart s i) (m.modCmd s fun c => { c with parts := parts })

/-- A write or append is accepted (R131): checks 1 to 10 of R148, RWP and RPP advance, then the holds of R133, R198 and R366, and
its data is asked for. -/
def Chip.write (m : Chip) (s op : Nat) (append : Bool) : Chip :=
  m.ioCmd s op fun c n m =>
    match c.zone with
    | none => m
    | some z =>
      let x := m.zone z
      if x.type = 2 then
        let zs := m.cmdZones c
        if zs.any fun z => decide ((m.zone z).state = zso) then m.failZone s c zfOffline
        else if zs.any fun z => decide ((m.zone z).state = zsro) then m.failZone s c zfReadOnly
        else
          let m := zs.foldl (fun (m : Chip) z => m.setZone z { m.zone z with lastWrite := m.now }) m
          (((m.modCmd s fun c => { c with phase := .running }).unclean).takeIn s).readBesides s c n
      else
        let cap := n.zoneLbas
        let off := if append then x.rwp else c.off
        let resv := if x.type = 1 then reserveUnits (off * 2 ^ n.lbaLog) (c.nlb * 2 ^ n.lbaLog) else 0
        match x.checkWrite append c.off c.nlb cap resv with
        | some e => ((m.failZone s c e).markPending z e x off c.nlb cap)
        | none =>
          match m.takeZone z zsio c.hint with
          | (m, some e) => m.failZone s c e
          | (m, none) =>
            let x := m.zone z
            let m := m.setZone z { x with rwp := x.rwp + c.nlb, rpp := x.rpp + resv, lastWrite := m.now }
            let m := m.modCmd s fun c => { c with phase := .running, off := off, resv := resv }
            m.unclean.takeIn s

def execWrite (slot : SlotId) (s : State) : Host.Outcome State Fault Refusal := run s fun m => (m.write slot.val 0x01 false).settle

/-- Write Zeroes: a write of zeros under every rule of the zone (R145). -/
def execWriteZeroes (slot : SlotId) (s : State) : Host.Outcome State Fault Refusal :=
  run s fun m => (m.write slot.val 0x08 false).settle

def execZoneAppend (slot : SlotId) (s : State) : Host.Outcome State Fault Refusal :=
  run s fun m => (m.write slot.val 0x7D true).settle

/-- Dataset Management reads its ranges (R94), completes and changes no data (R145). One that came from the twin has none to read. -/
def Chip.deallocate (m : Chip) (s : Nat) : Chip :=
  match m.cmd? s with
  | none => m
  | some c =>
    if !c.admin && decide (opcodeOf c.entry = 0x09 ∧ c.phase = .running) && !c.fwd && !c.takesData then m.finish s (some stOk)
    else m.ioCmd s 0x09 fun c _ m =>
      if c.peer.isSome then m.finish s (some stOk)
      else (m.modCmd s fun c => { c with phase := .running, dataOpen := true }).fetchData s c.want

def execDatasetManagement (slot : SlotId) (s : State) : Host.Outcome State Fault Refusal := run s fun m => m.deallocate slot.val

/-- A Flush completes once every earlier write and append of its namespace, or of every attached one, is done (R134); before that
it waits. -/
def execFlush (slot : SlotId) (s : State) : Host.Outcome State Fault Refusal :=
  run s fun m =>
    match m.cmd? slot.val with
    | some c =>
      if !c.admin && decide (c.phase = .accepted ∧ opcodeOf c.entry = 0x00) then
        (if m.flushWaits c then m.modCmd slot.val fun c => { c with phase := .running } else m.finish slot.val (some stOk))
      else m
    | none => m

/-! ## Compression (R270 to R274) -/

/-- A compress engine ends the block it holds that is next of a command, and is idle (R282), with the payload it made of it (R270, R273, R281); one that no engine of the level makes is
none (log entry 174). Its last unit goes on with FLUSH, and with RAW where it is stored raw (R49, R270). -/
def execCompressBlockDone (slot : SlotId) (payload : List Byte) (s : State) : Host.Outcome State Fault Refusal :=
  run s fun m =>
    match m.cmd? slot.val with
    | none => m
    | some c =>
      match m.compressEngine slot.val c.blocks.length with
      | none => m
      | some e =>
      let log := ((m.ns? (nsidOf c.entry)).map (·.lbaLog)).getD 12
      let first := c.off * 2 ^ log
      let pieces := piecesOf first (c.nlb * 2 ^ log)
      match pieces[c.blocks.length]? with
      | none => m
      | some (b, k) =>
        let orig := slice (c.payload log) (b - first) k
        if !c.writing || !m.elasticCmd c || decide (orig.length < k) || !mayEmit c.level orig payload then m
        else
          let (blk, raw) := makeBlock c.level (b % 65536 / 512) (decide ((b + k) % 65536 ≠ 0)) orig payload
          let m := if raw then m.incF CMP_RAWCNT.COUNT else m.incF CMP_BLKCNT.COUNT
          let m := (m.addWide CMP_INBYTES_LO.BYTES CMP_INBYTES_HI.BYTES k).addWide CMP_OUTBYTES_LO.BYTES CMP_OUTBYTES_HI.BYTES blk.length
          let ends := if c.blocks.length + 1 = pieces.length then [142] else []
          let m := m.send (.unit 26 (m.cmdUnitTag slot.val c c.kind ([155] ++ (if c.blocks = [] then [141] else []) ++ ends ++ (if raw then [156] else []))))
          let m := { m with eng := { m.eng with comp := tdel m.eng.comp e } }
          m.modCmd slot.val fun c => { c with blocks := c.blocks ++ [(b / 65536, blk)] }

/-- A decompress engine ends a block of a read part: the block at `lbaOff` (512 B units in its granule) as XFM received it,
decrypted (R283, R285); a block outside the request is skipped. A first failure is re-read by repair, a second ends the block's bytes unrecovered. -/
def Chip.decompressed (m : Chip) (s i lbaOff : Nat) (stored : List Byte) : Chip :=
  match m.cmd? s with
  | none => m
  | some c =>
    match c.parts[i]? with
    | none => m
    | some p =>
      let at_ := 65536 * (p.off / 65536) + lbaOff * 512
      if (m.zone p.zone).type ≠ 1 ∨ p.done ∨ p.left ≠ 0 ∨ p.src = .zeros ∨ p.src = .wait ∨ p.src = .bad ∨ p.off + p.len ≤ at_ ∨
          (openBlock stored ≠ .headerError ∧ at_ + fieldAt stored 4 4 ≤ p.off) then m
      else
        let tag := some (m.cmdTag s c)
        let g := 65536 * (p.off / 65536)
        let again := decide (lbaOff ∈ p.tried)
        let (z, a, b) := m.partPlace p
        let x := m.zone z
        let (a, b) := (findBlock lbaOff a (memGetBytes m.zn.phys (2 ^ 33 * z + a) (b - a)) 128).getD (a, b)
        let mem := x.member (memberOf (rowOf a) (columnOf a))
        let close (m : Chip) : Chip :=
          let m := m.modCmd s fun c =>
            match c.parts[i]? with
            | some p => { c with parts := c.parts.set i { p with done := covers p.off (p.off + p.len) (p.decoded ++ p.lost) } }
            | none => c
          m.settleRead s
        let failed (cause : Nat) : Chip :=
          if !again then
            let m := if cause = 0 then m else m.incF CMP_ERR.DECODE
            let pages := (pagesOf a b).filter fun pg => decide (rowOf pg < x.rows)
            let m := m.modCmd s fun c => { c with parts := c.parts.set i { p with tried := p.tried ++ [lbaOff], left := pages.length } }
            pages.foldl (fun (m : Chip) pg =>
              let t := memberOf (rowOf pg) (columnOf pg)
              m.startSolve z (rowOf pg) (pageOf pg) t false (m.repairSources x t) (.block s i lbaOff) (m.readUnit s i z c a b pg)) m
          else
            let m := (m.incF CMP_CHKERR.FAILED).emit 26 0x6202 0 tag
            let m := if m.f CMP_LOG0.VALID = 1 then m
              else ((((m.setF CMP_LOG0.VALID 1).setF CMP_LOG0.CAUSE cause).setF CMP_LOG0.ZONE p.zone).setF CMP_LOG1.LBA_OFF
                lbaOff).setF CMP_LOG1.GRANULE (p.off / 65536)
            let len := if 512 ≤ fieldAt stored 4 4 ∧ fieldAt stored 4 4 ≤ 65536 then fieldAt stored 4 4 else 65536
            let lo := max p.off (g + lbaOff * 512)
            let hi := min (p.off + p.len) (g + lbaOff * 512 + len)
            close (m.modCmd s fun c => { c with parts := c.parts.set i { p with
              lost := if lo < hi then p.lost ++ [(lo, hi - lo)] else p.lost } })
        match openBlock stored with
        | .good orig =>
          let m := if again then ((m.incF CMP_CHKERR.RECOVERED).emit 26 0x6201 0 tag).markRefresh mem.die mem.block true else m
          close (m.modCmd s fun c => { c with parts := c.parts.set i { p with
            decoded := p.decoded ++ [(g + lbaOff * 512, orig.length)] } })
        | .checkMismatch => failed 0
        | .decodeError => failed 1
        | .headerError => failed 2

/-- The row: a decompress engine ends its block, and is idle (R282); one whose command is gone gives nothing. -/
def Chip.decodeEnds (m : Chip) (s i lbaOff : Nat) (stored : List Byte) : Chip :=
  match m.eng.decomp.find? fun h => decide (h.2.slot = s ∧ h.2.part = i ∧ h.2.lbaOff = lbaOff) with
  | none => m
  | some (e, j) =>
    let m := { m with eng := { m.eng with decomp := tdel m.eng.decomp e } }
    (if j.live then m.decompressed s i lbaOff stored else m).settle

def execDecompressBlockDone (slot : SlotId) (part : Nat) (lbaOff : Fin 128) (stored : List Byte) (s : State) :
    Host.Outcome State Fault Refusal :=
  run s fun m => m.decodeEnds slot.val part lbaOff.val stored

/-! ## Encryption, mirror and parity (R135, R250, R290, R423) -/

/-- The bytes a command stores, in the clear: its blocks, or its data. -/
def Chip.storedPlain (m : Chip) (c : Cmd) : List Byte :=
  if m.elasticCmd c then c.blocks.flatMap (·.2) else c.payload (((m.ns? (nsidOf c.entry)).map (·.lbaLog)).getD 12)

/-- All of a command's stored bytes are there to be encrypted. -/
def Chip.allStored (m : Chip) (c : Cmd) : Bool :=
  let log := ((m.ns? (nsidOf c.entry)).map (·.lbaLog)).getD 12
  if m.elasticCmd c then decide (c.blocks.length = (piecesOf (c.off * 2 ^ log) (c.nlb * 2 ^ log)).length)
  else decide (c.data.length = c.want)

/-- The stripe offset where a command's stored bytes go: its own place, or behind the earlier writes of an elastic zone. -/
def Chip.storedAt (m : Chip) (z : Nat) (c : Cmd) : Nat :=
  if m.elasticCmd c then
    ((m.zone z).pfp + (((m.writers z).filter fun e => decide (e.2.seq < c.seq)).map fun e =>
      let left := if e.2.phase = .committed then ((m.nextRecord z e.2).map (·.blocks)).getD [] else e.2.blocks
      (left.map fun b => ceilDiv b.2.length 256).sum).sum) * 256
  else c.off * 2 ^ (m.zoneLog z)

/-- Encrypted data goes to the twin: MIRROR frames of the row it lies in (R423), or FWDDATA of a forwarded write, of
which a copy is kept (R427). A command
that came from the twin is mirrored there already. -/
def Chip.mirrorData (m : Chip) (s : Nat) (c : Cmd) (z : Nat) : Chip :=
  let at_ := m.storedAt z c
  let plain := m.storedPlain c
  if c.peer.isSome ∨ (!c.fwd && !m.paired) then m
  else
    if c.fwd then
      let stored := m.cipher z (c.off * 2 ^ m.zoneLog z) plain
      let m := if m.elasticCmd c then m else m.keepCopy z (c.off * 2 ^ m.zoneLog z) c.deadline stored
      if opcodeOf c.entry = 0x08 ∧ !m.elasticCmd c then m else m.sendData z (some c.deadline) s 0 stored
    else
      (chunks4k (m.cipher z at_ plain)).foldl (fun (m : Chip) k =>
        let o := at_ + k.1
        m.sendFrame 0x05 (some z) (some c.deadline)
          (leBytes 2 (rowOf o) ++ leBytes 4 (o % 4194304) ++ leBytes 2 s ++
            leBytes 2 (((m.ns? (nsidOf c.entry)).map (·.keySlot)).getD 0x3FFF) ++ leBytes 2 (b1 (m.elasticCmd c))) k.2) m

/-- XTS work that waits: a write with stored bytes not yet encrypted. -/
def Chip.xtsMore (m : Chip) (c : Cmd) : Bool := c.writing && !c.staged && decide (c.enc < ceilDiv (m.storedPlain c).length 256)

/-- A command's XTS work is on one of the 32 lanes: fewer than 32 stand before it. Lanes switch at every 256 B data unit (R297). -/
def Chip.onXts (m : Chip) (s : Nat) (c : Cmd) : Bool :=
  decide ((m.q.slots.filter fun e => decide (e.1 ≠ s) && m.xtsMore e.2 && e.2.before c).length < 32)

/-- An XTS lane has done `units` more data units of a write (R290, R303); with the last the data is staged. -/
def Chip.xtsDone (m : Chip) (s units : Nat) : Chip :=
  match m.cmd? s with
  | none => m
  | some c =>
    match c.zone with
    | none => m
    | some z =>
      if !c.writing || c.staged || !m.onXts s c then m
      else if !m.keyLoaded (nsidOf c.entry) then ((m.keyError s c).endCmd s (some stNsNotReady))
      else
        let have_ := ceilDiv (m.storedPlain c).length 256
        let n := min (c.enc + units) have_
        let m := m.addWide CPH_XTSBYTES_LO.BYTES CPH_XTSBYTES_HI.BYTES ((n - c.enc) * 256)
        if m.allStored c ∧ n = have_ then (m.modCmd s fun c => { c with enc := n, staged := true }).mirrorData s c z
        else m.modCmd s fun c => { c with enc := n }

def execXtsUnitDone (slot : SlotId) (units : Nat) (s : State) : Host.Outcome State Fault Refusal :=
  run s fun m => (m.xtsDone slot.val units).settle

/-- The granule entries of a command's blocks: granule and index entry with WRITTEN set (R161, R411). -/
def granuleEntries : Nat → List (Nat × List Byte) → List Byte
  | _, [] => []
  | pfp, (g, b) :: t => leBytes 4 g ++ leBytes 4 (2 ^ 31 + pfp) ++ granuleEntries (pfp + ceilDiv b.length 256) t

/-- The COMMIT frames of a command, one for each record (R136, R423), each with the pointers and granule entries of its own record. -/
def Chip.sendCommit (m : Chip) (s z : Nat) (c : Cmd) : Chip :=
  let cap := ((m.ns? (m.zone z).nsid).map (·.zoneLbas)).getD 0
  let frame (m : Chip) (x : Zone) (r : Cmd) (more : Bool) : Chip :=
    let y := x.afterCommit r
    m.sendFrame 0x06 (some z) (some c.deadline)
      (leBytes 4 (r.off + r.nlb) ++ leBytes 4 x.rwp ++ leBytes 4 y.pfp ++ leBytes 2 s ++ leBytes 2 (b1 more + 2 * b1 (decide (r.off + r.nlb = cap))))
      (if x.type = 1 then granuleEntries x.pfp r.blocks else []) (if more then none else some s)
  match m.records z c with
  | [r1, r2] => frame (frame m (m.zone z) r1 true) ((m.zone z).afterCommit r1) r2 false
  | _ => frame m (m.zone z) c false

/-- Every earlier write of the zone has committed or ended (R131, R250); in a conventional namespace, every earlier one with an entry of the range
table that it overlaps (R133). -/
def Chip.inTurn (m : Chip) (z : Nat) (c : Cmd) : Bool :=
  if (m.zone z).type = 2 then
    m.q.slots.all fun e => decide (c.seq ≤ e.2.seq ∨ nsidOf e.2.entry ≠ nsidOf c.entry) || !e.2.tabled ||
      decide (slbaOf e.2.entry + e.2.nlb ≤ slbaOf c.entry ∨ slbaOf c.entry + c.nlb ≤ slbaOf e.2.entry)
  else (m.writers z).all fun e => decide (c.seq ≤ e.2.seq)

/-- A command's data is folded into its row's accumulators (R250); the conditions of the commit but the twin's word then hold,
and its COMMIT frame goes out (R423). -/
def Chip.parityFold (m : Chip) (s : Nat) : Chip :=
  match m.cmd? s with
  | none => m
  | some c =>
    match c.zone with
    | none => m
    | some z =>
      if !c.writing || !c.staged || c.folded || c.fwd || !m.inTurn z c then m
      else
        let m := m.modCmd s fun c => { c with folded := true }
        if m.paired then m.sendCommit s z c else m

def execParityFold (slot : SlotId) (s : State) : Host.Outcome State Fault Refusal := run s fun m => m.parityFold slot.val

/-! ## Commit (R135, R136, R149, R163, R165) -/

/-- A request of the command for a buffer still waits (R135: its data is not in the staging pool yet). -/
def Chip.asksPool (m : Chip) (s : Nat) : Bool := m.bp.pools.any fun e => e.2.wait.any fun q => decide (q.work = s)

/-- The commit conditions of R135 hold, or the first of two records has been made (R136). -/
def Chip.canCommit (m : Chip) (s z : Nat) (c : Cmd) : Bool :=
  decide (c.phase = .committed) ||
    (c.writing && c.parts.all (·.done) && c.staged && c.folded && !c.fwd && (c.mirrored || !m.paired) && m.inTurn z c && !m.asksPool s)

/-- A write or append makes its next commit record (R135, R136). After the last the completion is posted, and the zone becomes Full at its capacity
(R149) or when no granule fits any more (R163); reads that waited are classified again. -/
def Chip.commit (m : Chip) (s : Nat) : Chip :=
  match m.cmd? s with
  | none => m
  | some c =>
    match c.zone with
    | none => m
    | some z =>
      if !m.canCommit s z c then m
      else if c.parts.any fun p => decide (p.lost ≠ []) then m.endCmd s (some stUnrecovered)
      else
        match m.nextRecord z c with
        | none => m
        | some r =>
          let m := m.commitRecord s z r
          if c.phase = .running ∧ 1 < (m.records z c).length then (m.modCmd s fun c => { c with phase := .committed }).reclassify z
          else
            let x := m.zone z
            let cap := ((m.ns? x.nsid).map (·.zoneLbas)).getD 0
            let alba := x.zidx * cap + c.off
            let m := m.finish s (some stOk) (if opcodeOf c.entry = 0x7D then alba else 0)
            let m := if x.type ≠ 2 ∧ x.cwp = cap then m.makeFull z false else m.lastGranule z
            (m.checkPending z).reclassify z

def execWriteCommit (slot : SlotId) (s : State) : Host.Outcome State Fault Refusal := run s fun m => (m.commit slot.val).settle

end Sys2Proof.Machine
end

