-- ==== Sys2Proof/Machine/ZoneMgmt.lean ====
section
/-! DEFINITION. Zone Management Send and Receive (R145 to R148, R173, R174), spills, log maintenance and relocation as the
device's own work (R158 to R171), and solves and rebuild pacing (R255 to R265). -/

namespace Sys2Proof.Machine

/-! ## Zone Management Send (R146, R147) -/

/-- No write or append of a zone accepted before the command is still under way (R147). -/
def Chip.zoneQuiet (m : Chip) (z seq : Nat) : Bool :=
  m.q.slots.all fun e => e.2.admin || !isWriteOp (opcodeOf e.2.entry) || decide (e.2.zone ≠ some z ∨ seq ≤ e.2.seq) ||
    !(decide (e.2.phase = .accepted ∨ e.2.phase = .running))

/-- The outcome of an action: no change or success, or the code of order 9 of R148. -/
inductive ZAct where
  | same
  | go
  | code (sc : Nat)
deriving DecidableEq, Repr

/-- The table of R146 for Open, Close, Finish, Reset and Offline (actions 3, 1, 2, 4, 5). -/
def zoneAction (act st : Nat) : ZAct :=
  if act = 5 then (if st = zsro then .go else if st = zso then .same else .code 0xBF)
  else if st = zso then .code 0xBB
  else if st = zsro then .code 0xBA
  else if act = 3 then (if st = zseo then .same else if st = zsf then .code 0xBF else .go)
  else if act = 1 then (if st = zsc then .same else if st = zsio ∨ st = zseo then .go else .code 0xBF)
  else if act = 2 then (if st = zsf then .same else .go)
  else if st = zse then .same
  else .go

/-- Close (R146(c)): an open zone becomes Closed, or Empty when it holds nothing. -/
def Chip.closeZone (m : Chip) (z : Nat) : Chip :=
  let x := m.zone z
  if x.cwp = 0 ∧ m.uncommitted z = 0 then (m.releaseStripe z true).setZoneState z zse else m.setZoneState z zsc

/-- Finish (R146(d), R157): a partial row is padded with zeros and programmed; the zone is Full. From Empty it has no stripe. -/
def Chip.finishZone (m : Chip) (z : Nat) : Chip :=
  let part := m.filledBytes z % 4194304
  let r := m.filledBytes z / 4194304
  let m := if part = 0 ∨ (m.zone z).members = [] then m else (m.touchRow z r).completeRow z r
  m.makeFull z false

/-- Reset (R146(e), R147, R171, R259): relocations stop, the blocks return awaiting erase, pointers and poison go; the twin
releases its mirror copy (R424). -/
def Chip.resetZone (m : Chip) (z : Nat) : Chip :=
  let rows := (m.zn.rows.filter fun e => decide (e.1 / 1024 = z)).map (·.1 % 1024)
  let m := if m.zn.merge.any fun g => decide (g.zone = z) then m.stopMerge else m
  let m := (m.stopMoves z).releaseZone z
  let m := rows.foldl (fun (m : Chip) r => m.releaseBuffers (rowWork z r)) m
  let m := if m.paired ∧ rows ≠ [] then
      m.sendFrame 0x07 (some z) none (leBytes 2 (rows.foldl max 0) ++ leBytes 1 2 ++ leBytes 4 0) []
    else m
  (m.clearZoneData z).setZoneState z zse

/-- Take one action on one zone that allows it: none on success, else the failed check of R148. -/
def Chip.zoneDo (m : Chip) (z act hint : Nat) : Chip × Option ZFail :=
  let x := m.zone z
  if x.state = zso ∧ act ≠ 5 then (m, some zfOffline)
  else match zoneAction act x.state with
    | .same => (m, none)
    | .code sc => (m, some (zfTransition sc))
    | .go =>
      if act = 3 then m.takeZone z zseo hint
      else if act = 1 then (m.closeZone z, none)
      else if act = 2 then (m.finishZone z, none)
      else if act = 4 then (m.resetZone z, none)
      else (m.setZoneState z zso, none)

/-- The states a Select All action names (NVMe): Open: Closed; Close: open; Finish: open or Closed; Reset: open, Closed or Full;
Offline: Read Only (log entry 26). -/
def selectsState (act st : Nat) : Bool :=
  if act = 3 then decide (st = zsc)
  else if act = 1 then zoneOpen st
  else if act = 2 then zoneOpen st || decide (st = zsc)
  else if act = 4 then zoneOpen st || decide (st = zsc ∨ st = zsf)
  else decide (st = zsro)

/-- A Zone Management Send of an action, on its zone or on every zone it selects; it acts only once the earlier writes of those
zones are done (R147). -/
def Chip.zoneSend (m : Chip) (s act : Nat) : Chip :=
  m.ioCmd s 0x79 fun c n m =>
    if zsaOf c.entry ≠ act then m
    else if selectAll c.entry then
      let zs := n.zones.filter fun z => selectsState act (m.zone z).state
      if !zs.all (m.zoneQuiet · c.seq) then m
      else ((zs.foldl (fun (m : Chip) z => (m.zoneDo z act c.hint).1) m).finish s (some stOk))
    else match c.zone with
    | none => m
    | some z =>
      if !m.zoneQuiet z c.seq then m
      else match m.zoneDo z act c.hint with
        | (m, none) => (m.finish s (some stOk)).reclassify z
        | (m, some e) => m.failZone s c e

def execOpenZone (slot : SlotId) (s : State) : Host.Outcome State Fault Refusal := run s fun m => (m.zoneSend slot.val 3).settle
def execCloseZone (slot : SlotId) (s : State) : Host.Outcome State Fault Refusal := run s fun m => (m.zoneSend slot.val 1).settle
def execFinishZone (slot : SlotId) (s : State) : Host.Outcome State Fault Refusal := run s fun m => (m.zoneSend slot.val 2).settle
def execResetZone (slot : SlotId) (s : State) : Host.Outcome State Fault Refusal := run s fun m => (m.zoneSend slot.val 4).settle
def execOfflineZone (slot : SlotId) (s : State) : Host.Outcome State Fault Refusal := run s fun m => (m.zoneSend slot.val 5).settle

/-- Set Zone Descriptor Extension ends with Invalid Field in Command (R145). -/
def execSetZoneDescriptorExtension (slot : SlotId) (s : State) : Host.Outcome State Fault Refusal :=
  run s fun m => m.ioCmd slot.val 0x79 fun c _ m =>
    if zsaOf c.entry = 0x10 then m.finish slot.val (some stNoAction) else m

/-! ## Zone Management Receive (R145, R173, R174) -/

/-- The Receive action, state filter (Zone Receive Action Specific for Report Zones, dword 14 for the Avfort report) and partial
bit of dword 13. -/
def zraOf (e : List Byte) : Nat := bits (dw e 13) 7 0
def partialBit (e : List Byte) : Bool := bitOf (dw e 13) 16

/-- The NVMe state filter codes: 0 all, 1 Empty, 2 Implicitly Opened, 3 Explicitly Opened, 4 Closed, 5 Full, 6 Read Only,
7 Offline (log entry 26). -/
def filterState (f st : Nat) : Bool :=
  match f with
  | 0 => true
  | 1 => decide (st = zse)
  | 2 => decide (st = zsio)
  | 3 => decide (st = zseo)
  | 4 => decide (st = zsc)
  | 5 => decide (st = zsf)
  | 6 => decide (st = zsro)
  | 7 => decide (st = zso)
  | _ => false

/-- A 64-byte zone descriptor: type, state, attributes (ZFC), capacity, start and write pointer, the CWP (R145). -/
def Chip.zoneDescriptor (m : Chip) (n : Ns) (z : Nat) : List Byte :=
  let x := m.zone z
  leBytes 1 2 ++ leBytes 1 (x.state * 16) ++ leBytes 1 (b1 x.zfc) ++ leBytes 5 0 ++ leBytes 8 n.zoneLbas ++
    leBytes 8 (x.zidx * n.zoneLbas) ++ leBytes 8 (x.zidx * n.zoneLbas + x.cwp) ++ List.replicate 32 0

/-- A report: a 64-byte header with the number of records, and as many records as the buffer holds, from the zone of SLBA on. -/
def Chip.report (m : Chip) (c : Cmd) (n : Ns) (filter size : Nat) (rec : Nat → List Byte) : List Byte :=
  let bytes := (dw c.entry 12 + 1) * 4
  let zs := (n.zones.drop (slbaOf c.entry / n.zoneLbas)).filter fun z => filterState filter (m.zone z).state
  let fit := (bytes - 64) / size
  let count := if partialBit c.entry then min fit zs.length else zs.length
  (leBytes 8 count ++ List.replicate 56 0 ++ (zs.take fit).flatMap rec).take bytes

def Chip.zoneReceive (m : Chip) (s act : Nat) (g : Cmd → Ns → Chip → Chip) : Chip :=
  m.ioCmd s 0x7A fun c n m => if zraOf c.entry = act then g c n m else m

/-- A report goes to the host, once the command's pointers are known. -/
def Chip.giveReport (m : Chip) (s : Nat) (bytes : List Byte) : Chip :=
  m.withPtrs s bytes.length fun _ m => (m.giveHost s 0 bytes).finish s (some stOk)

def execReportZones (slot : SlotId) (s : State) : Host.Outcome State Fault Refusal :=
  run s fun m => m.zoneReceive slot.val 0 fun c n m =>
    m.giveReport slot.val (m.report c n (bits (dw c.entry 13) 15 8) 64 (m.zoneDescriptor n))

/-- Extended Report Zones ends with Invalid Field in Command (R145). -/
def execExtendedReportZones (slot : SlotId) (s : State) : Host.Outcome State Fault Refusal :=
  run s fun m => m.zoneReceive slot.val 1 fun _ _ m => m.finish slot.val (some stNoAction)

/-- The Avfort zone report (R173): one 128-byte context per zone. -/
def execAvfortZoneReport (slot : SlotId) (s : State) : Host.Outcome State Fault Refusal :=
  run s fun m => m.zoneReceive slot.val 0xF fun c n m =>
    m.giveReport slot.val (m.report c n (bits (dw c.entry 14) 3 0) 128 fun z => (m.zoneWords z).flatMap (leBytes 4))

/-! ## The zone engine's own work -/

/-- A row has had no data for AGE_MS. -/
def Chip.aged (m : Chip) (z r : Nat) : Bool := decide ((m.row z r).lastData + 62500 * m.f ZNE_SPILLCFG.AGE_MS ≤ m.isl.dtc)

/-- A zone has had no data for AGE_MS (R158): its rows that are not programmed are spilled, of a conventional one those of its log blocks that are as
old. -/
def Chip.spillAged (m : Chip) (z : Nat) : Chip :=
  (((m.stagedStripes z).flatMap m.openRows).filter fun e => decide (e.1 = z) || m.aged e.1 e.2).foldl (fun (m : Chip) e => m.startSpill e.1 e.2) m

def execSpillAgeTimeout (z : ZoneId) (s : State) : Host.Outcome State Fault Refusal := run s fun m => m.spillAged z.val

/-- A program unit of a spill of row `r` of a stripe. -/
def DUnit.spills (u : DUnit) (z r : Nat) : Bool := decide (u.kind = .program ∧ u.purpose = .spill z r)

def execLogCompaction (s : State) : Host.Outcome State Fault Refusal := run s fun m => m.compactLog.settle
def execZoneMerge (z : ZoneId) (s : State) : Host.Outcome State Fault Refusal := run s fun m => (m.mergeZone z.val).settle

/-- A member scheduled for refresh or a wear move starts to be relocated (R170). -/
def execMemberRelocation (z : ZoneId) (i : Fin 18) (s : State) : Host.Outcome State Fault Refusal :=
  run s fun m =>
    let x := m.zone z.val
    let y := x.member i.val
    if x.members = [] ∨ y.failed ∨ !m.ownsStripe z.val then m
    else m.startMove z.val i.val (m.blk y.die y.block).urgent false false

/-! ## Solves, rebuild pacing and verify (R255, R262, R264, R265) -/

/-- A solve is ready for the lane: 16 members have decoded every codeword, or nothing more will come in. -/
def Solve.ready (v : Solve) : Bool := decide (v.unsolved = []) || decide (v.waiting = [])

/-- The order the solving lane is granted in (R254): by deadline, then class, then age. -/
def Solve.before (a b : Solve) : Bool :=
  if earlier a.deadline b.deadline then true
  else if earlier b.deadline a.deadline then false
  else if a.cls ≠ b.cls then decide (a.cls < b.cls)
  else decide (a.id ≤ b.id)

/-- The parity engine's lane ends a solve: of those ready, the first in its order. -/
def execRowSolveDone (id : Nat) (s : State) : Host.Outcome State Fault Refusal :=
  run s fun m =>
    match m.md.solves.find? (·.id = id) with
    | some v => if v.ready && (m.md.solves.filter (·.ready)).all v.before then (m.endSolve v).settle else m
    | none => m

/-- The rebuild bucket gains `us` µs of RATE_MBS, up to 4 MiB, and waiting rows start (R262). -/
def execRebuildBucketRefill (us : Nat) (s : State) : Host.Outcome State Fault Refusal :=
  run s fun m =>
    let m := { m with md := { m.md with rebuildBytes := min 4194304 (m.md.rebuildBytes + us * m.f SPE_RBCFG.RATE_MBS) } }
    let m := m.startRebuilds
    let waiting := m.zn.moves.filter fun v => v.rebuild && v.queued
    let m := m.setF SPE_STAT.PAUSED (b1 (waiting.any fun v => m.rebuildPaused v.zone))
    waiting.foldl (fun (m : Chip) v => match m.move? v.zone v.member with
      | some w => m.goMove w
      | none => m) m

/-- The rows parity verify reads of a zone (R264). -/
def Chip.verifyRows (m : Chip) (z : Nat) : List Nat :=
  let st := m.f SPE_VFYCFG.STRIDE
  (List.range (m.zone z).rows).filter fun r => decide (r % st = 0) && !m.poisoned z (4194304 * r) (4194304 * (r + 1)) &&
    !m.poisoned z (2 ^ 32 + 524288 * r) (2 ^ 32 + 524288 * (r + 1))

/-- A row's nonzero syndromes are located (R265): the wrong member's block is marked for urgent refresh and its relocation
rebuilds the row, or the row is reported. -/
def Chip.verifyRow (m : Chip) (z r : Nat) (syn : List (Nat × Nat)) : Chip :=
  let fix (m : Chip) (t : Nat) : Chip :=
    let y := (m.zone z).member t
    let m : Chip := { m with zn := { m.zn with located := if (z, t, r) ∈ m.zn.located then m.zn.located else m.zn.located ++ [(z, t, r)] } }
    ((m.incF SPE_VFYERR.REPAIRED).emit 11 0x6103).markRefresh y.die y.block true
  match locateAll syn with
  | .clean => m
  | .parityP => fix m (parityP r)
  | .parityQ => fix m (parityQ r)
  | .column x => fix m (memberOf r x)
  | .unlocated => (m.incF SPE_VFYERR.UNLOCATED).emit 11 0x6106 (z * 1024 + r)

/-- A verify pass (R264): the rows' units are read as Drizzle; `found` gives the nonzero syndromes the pass meets, by zone and
row (log entry 22). -/
def execParityVerifyTimer (found : List (Nat × Nat × List (Nat × Nat))) (s : State) : Host.Outcome State Fault Refusal :=
  run s fun m =>
    if m.f SPE_CTL.VERIFY_EN = 0 ∨ m.f SPE_VFYCFG.HOURS = 0 then m
    else
      let dl := (m.now + m.stampEpoch.2.deadlineLen 0 7) % 2 ^ 32
      let zs := (m.zn.zones.filter fun e => m.ownsStripe e.1 && decide (e.2.members ≠ [])).map (·.1)
      let m := zs.foldl (fun (m : Chip) z =>
        (m.verifyRows z).foldl (fun (m : Chip) r =>
          let m := m.incF SPE_VFYROWS.COUNT
          (m.zone z).liveMembers.foldl (fun (m : Chip) i =>
            let y := (m.zone z).member i
            m.place z { DUnit.make y.die .read (.verify z r) 7 dl y.block r 255 with off := pageStart r i 0 }) m) m) m
      found.foldl (fun (m : Chip) e => if e.1 ∈ zs ∧ e.2.1 ∈ m.verifyRows e.1 then m.verifyRow e.1 e.2.1 e.2.2 else m) m

end Sys2Proof.Machine
end

