-- ==== Sys2Proof/Machine/Media.lean ====
section
/-! DEFINITION. The commands of die engines and media management (R183 to R246), of quotas and misses (R196 to R207), and the
indirect windows onto contexts (R111, R175, R210, R246). -/

namespace Sys2Proof.Machine

/-! ## Units and dies -/

def execDieUnitEnqueue (d : Die) (s : State) : Host.Outcome State Fault Refusal := run s fun m => m.enqueueDie d.val

def execSuspendReady (d : Die) (s : State) : Host.Outcome State Fault Refusal := run s fun m => m.suspReady d.val

def execDataPhaseWatchdog (d : Die) (dataIn : Bool) (s : State) : Host.Outcome State Fault Refusal :=
  run s fun m => (m.dataWatchdog d.val dataIn).settle

def execDieOperationTimeout (d : Die) (s : State) : Host.Outcome State Fault Refusal :=
  run s fun m => (m.opTimeout d.val).settle

def execSoftDecodeDone (c : Clus) (decodes : List (Option Nat)) (s : State) : Host.Outcome State Fault Refusal :=
  run s fun m => (m.softDone c.val decodes).settle

/-! ## Channel controls (FCH_CTL) -/

/-- The dies of a channel. -/
def chanDies (ch : Nat) : List Nat := (List.range 32).map fun i => ch * 32 + i

/-- FCH_CTL.HOLD: the dies of the channel start nothing, suspended operations resume; cleared, they go on (R184). -/
def Chip.chanHold (m : Chip) (ch : Nat) (v : Bool) : Chip :=
  (chanDies ch).foldl (fun (m : Chip) d => m.turn d) (m.setF FCH_CTL.HOLD (b1 v) ch)

/-- FCH_CTL.RESETDIES: the in-service dies are reset one after another; ignored on an unclaimed channel (R229). -/
def Chip.chanReset (m : Chip) (ch : Nat) : Chip :=
  if !m.claims (ch / 8) then m
  else
    match (chanDies ch).filter fun d => let st := m.f FCH_DIE.STATE d; decide (st = 2 ∨ st = 3 ∨ st = 5) with
    | [] => m
    | d :: rest =>
      let t := m.train ch
      ((m.setF FCH_CTL.RESETDIES 1 ch).setTrain ch { t with resets := rest }).cutOff d Chip.interrupted

/-- FCH_CTL.TRAIN: every populated CE trains, one after another (R222). -/
def Chip.chanTrain (m : Chip) (ch : Nat) : Chip :=
  if !m.claims (ch / 8) then m else (m.setF FCH_CTL.TRAIN 1 ch).askTrain ch m.populated

/-- ZQ CALIBRATION SHORT, every 100 ms per target (R215): it changes nothing the device holds. -/
def execZqShortTimer (_ch : Chan) (_ce : Grp) (s : State) : Host.Outcome State Fault Refusal := run s fun m => m

/-- A die's temperature comes in; `none` when its read fails (R243, R244). -/
def execDieTempPoll (d : Die) (temp : Option Int) (s : State) : Host.Outcome State Fault Refusal :=
  run s fun m =>
    let st := m.f FCH_DIE.STATE d.val
    if m.drives d.val ∧ 2 ≤ st ∧ st ≤ 5 then (m.dieTemp d.val temp).settle else m

/-! ## Scrub, wear and retirement (R235, R240, R242) -/

/-- The rows a scrub pass reads of a block: every STRIDE-th and the last programmed one. -/
def scrubRows (stride rows : Nat) : List Nat := (List.range rows).filter fun r => decide (r % stride = 0 ∨ r + 1 = rows)

/-- A scrub pass (R235): reads of LC7 of every programmed block on the claimed channels. -/
def execScrubPassTimer (s : State) : Host.Outcome State Fault Refusal :=
  run s fun m =>
    if m.f LDP_SCRUBCFG.HOURS = 0 then m
    else
      let dl := (m.now + m.stampEpoch.2.deadlineLen 0 7) % 2 ^ 32
      let bs := m.md.blocks.filter fun e => decide (2 ≤ e.2.state ∧ e.2.state ≤ 5 ∧ 0 < e.2.rows) && m.drives (e.1 / 8192)
      bs.foldl (fun (m : Chip) e =>
        (scrubRows (m.f LDP_SCRUBCFG.STRIDE) e.2.rows).foldl (fun (m : Chip) r =>
          m.newUnit (DUnit.make (e.1 / 8192) .read .scrub 7 dl (e.1 % 8192) r 255)) m) m

/-- The member block of a Full zone with the lowest erase count on a die: (erases, zone, member). -/
def Chip.coldest (m : Chip) (d : Nat) : Option (Nat × Nat × Nat) :=
  (m.zn.zones.filter fun e => decide (e.2.state = zsf ∧ e.1 < 262144) && m.ownsZone e.1).foldl (fun best e =>
    match e.2.memberOn d with
    | none => best
    | some i =>
      let n := (m.blk d (e.2.member i).block).erases
      match best with
      | some b => if n < b.1 then some (n, e.1, i) else best
      | none => some (n, e.1, i)) none

/-- Static wear levelling of one die (R240). -/
def Chip.wearDie (m : Chip) (d : Nat) : Chip :=
  if m.zn.moves.any fun v => v.wear && decide (((m.zone v.zone).member v.member).die = d) then m
  else
    match m.coldest d, leastWorn (m.freeBlocks d) with
    | some (n, z, i), some e =>
      if n + m.f LDP_WEARCFG.WEAR_GAP ≤ e.2.erases then
        let m1 := m.startMove z i false false true
        if m.zn.moves.length < m1.zn.moves.length then m1.incF LDP_WEARCNT.COUNT else m1
      else m
    | _, _ => m

def execWearLevelTimer (s : State) : Host.Outcome State Fault Refusal :=
  run s fun m =>
    if m.f LDP_WEARCFG.WEAR_GAP = 0 then m
    else (m.serving.filter fun d => decide (m.f FCH_DIE.STATE d = 2)).foldl (fun (m : Chip) d => m.wearDie d) m

/-- LDP_DIECMD GO with OP 1: the die is retired, or the request is refused for a die not in SERVICE (R242). -/
def Chip.dieCmd (m : Chip) (d : Nat) : Chip :=
  if m.f FCH_DIE.STATE d = 2 then m.retireDie d 8 else m.cfgEvent (LDP_DIECMD.GO.off 0)

/-! ## Quotas and misses -/

/-- A tenant's buckets gain `us` µs of quota, and what they now allow is released (R196, R198). -/
def execQuotaBucketRefill (t : Ten) (us : Nat) (s : State) : Host.Outcome State Fault Refusal :=
  run s fun m =>
    match m.tenRec t.val with
    | none => m
    | some r => if r.quota = 0 then m else (m.setTen t.val ((m.ten t.val).refill r us)).settle

/-- A miss of class `cls`, of a tenant or of the device's own (R206). -/
def Chip.countMiss (m : Chip) (cls : Nat) (tenant : Option Nat) : Chip :=
  let m := if cls % 2 = 0 then m.incF DLS_MISS.EVEN (cls / 2) else m.incF DLS_MISS.ODD (cls / 2)
  match tenant with
  | none => m
  | some t =>
    let x := m.ten t
    m.setTen t { x with miss := x.miss.set cls (sat16 (x.miss.getD cls 0)), lastMiss := m.now }

/-- The dies on which a part of a command runs or waits (R206). -/
def Chip.diesOf (m : Chip) (s : Nat) : List Nat :=
  let part (u : DUnit) : Bool := decide (m.unitSlot u = some s)
  (m.md.dies.filter fun e => e.2.running.any part || e.2.queue.any part || e.2.overflow.any part).map (·.1)

/-- The slack of a deadline has expired (R46, R205). -/
def Chip.expired (m : Chip) (tenant : Option Nat) (deadline : Nat) : Bool := decide (slackAt (m.nowAt 10 tenant) deadline = 0)

/-- A command misses: counted once, and aborted where its tag says so (R206, R207). -/
def Chip.missSlot (m : Chip) (s : Nat) : Chip :=
  match m.cmd? s with
  | none => m
  | some c =>
    if c.missAt.isSome ∨ !m.expired (some c.tenant) c.deadline ∨ c.phase = .reserved ∨ c.phase = .fetched ∨ c.phase = .committed ∨
        (c.admin && decide (opcodeOf c.entry = 0x0C)) then m
    else
      let m := m.countMiss c.cls (some c.tenant)
      let m := (m.diesOf s).foldl (fun (m : Chip) d => let x := m.die d; m.setDie d { x with misses := x.misses + 1 }) m
      let m := m.putCmd s { c with missAt := some m.isl.dtc }
      if !c.abortMiss then m
      else
        let x := m.ten c.tenant
        let m := m.setTen c.tenant { x with aborts := sat16 x.aborts }
        (((m.incF DLS_ABORTCNT.COUNT).emit 10 0x5002 0 (some (m.cmdTag s c))).endCmd s (some stDeadline)).settle

/-- A unit whose end is its own and no command's (R205). -/
def DUnit.own (u : DUnit) : Bool :=
  match u.purpose with
  | .hostRead _ _ => false
  | .recon _ _ => false
  | .repair _ _ => false
  | .index _ _ _ => false
  | .dropped => false
  | .forwarded _ => false
  | _ => true

/-- A unit of the device's own misses: not yet placed, on a die, or forwarded to the twin. -/
def Chip.missUnit (m : Chip) (id : Nat) : Chip :=
  let mine (u : DUnit) : Bool := decide (u.id = id)
  let mark (u : DUnit) : DUnit := if u.id = id then { u with late := true } else u
  let missed (u : DUnit) : Bool := !u.late && u.own && m.expired none u.deadline
  let count (u : DUnit) : Chip := m.countMiss u.cls (if u.internal then none else some u.tenant)
  match m.md.dies.find? fun e => (e.2.running.any mine) || (e.2.suspended.any mine) || (e.2.queue.any mine) || (e.2.overflow.any mine) with
  | none =>
    match (m.md.disp ++ m.tw.fwds.map (·.2.unit)).find? mine with
    | none => m
    | some u =>
      if !missed u then m
      else
        let m := count u
        { m with
          md := { m.md with disp := m.md.disp.map mark }
          tw := { m.tw with fwds := m.tw.fwds.map fun e => (e.1, { e.2 with unit := mark e.2.unit }) } }
  | some (d, x) =>
    match (x.running.toList ++ x.suspended.toList ++ x.queue ++ x.overflow).find? mine with
    | none => m
    | some u =>
      if !missed u then m
      else
        let m := count u
        m.setDie d { x with running := x.running.map mark, suspended := x.suspended.map mark, queue := x.queue.map mark,
                            overflow := x.overflow.map mark, misses := x.misses + 1 }

def execDeadlineMiss (w : MissOf) (s : State) : Host.Outcome State Fault Refusal :=
  run s fun m => match w with
    | .slot i => m.missSlot i.val
    | .unit id => m.missUnit id

/-! ## Indirect windows -/

/-- The function and NVMe queue identifier that own a queue context (R105, R106). -/
def Chip.qctxOwner (m : Chip) (i : Nat) : Option (Nat × Nat) :=
  if 262144 ≤ i then (m.img.tables.func? (i - 262144)).map fun r => (r.func, 0)
  else (m.img.tables.qalloc.find? fun r => decide (r.first ≤ i ∧ i < r.first + r.count)).map fun r => (r.func, i - r.first + 1)

/-- The 16 words of a queue context (R110). -/
def Chip.qctxWords (m : Chip) (i : Nat) : List Nat :=
  match m.qctxOwner i with
  | none => List.replicate 16 0
  | some (f, y) =>
    let x := m.qc i
    [x.sqBase % 2 ^ 32 / 4096 * 4096 + b1 x.sqValid, x.sqBase / 2 ^ 32, 65536 * x.sqSize + x.sqHead,
     65536 * x.sqTail + 16384 * x.sqPrio + x.sqState, x.sqCq,
     x.cqBase % 2 ^ 32 / 4096 * 4096 + b1 x.cqIen * 8 + x.cqPhase * 4 + b1 x.cqValid, x.cqBase / 2 ^ 32,
     65536 * x.cqSize + x.cqHead, 65536 * x.cqTail + x.cqIv, 65536 * f + y,
     65536 * (m.sqHeld i) + (if x.cqValid then m.cqCredit i else 0), 2 ^ 28 * x.dbErr + x.pairs.length, x.fetched, x.completed,
     (match x.pairs with | p :: _ => p.2 % 2 ^ 32 | [] => 0), 0]

/-- The operation a die context shows: what runs on the die, else what is suspended, else a reset or training (R211). -/
def Chip.dieOp (m : Chip) (d : Nat) : Nat :=
  let x := m.die d
  match x.running, x.suspended with
  | some u, _ => u.kind.rank + 1
  | none, some p => if p.kind = .program then 4 else 5
  | none, none => if m.f FCH_DIE.STATE d = 3 ∨ m.f FCH_DIE.STATE d = 4 then 6 else 0

/-- The 8 words of a die context (R211). -/
def Chip.dieWords (m : Chip) (d : Nat) : List Nat :=
  let x := m.die d
  let st := m.f FCH_DIE.STATE d
  let cur := match x.running with
    | some u => some u
    | none => x.suspended
  let used := match cur with
    | some u => if u.kind = .read then 0 else min u.susp 3
    | none => 0
  let est := match x.running with
    | some u => (x.start + (usTicks (m.nominalUs u) - u.busy)) % 2 ^ 32
    | none => 0
  [2 ^ 31 * (b1 (m.drives d)) + 2 ^ 30 * (b1 (decide (2 ≤ st ∧ st ≤ 5))) + 2 ^ 27 * (m.dieOp d) + 2 ^ 25 * used + x.queue.length,
   2 ^ 31 * (b1 (decide (x.queue ≠ []))) + (match cur with | some u => u.tenant | none => 0),
   if cur.isSome then x.start % 2 ^ 32 else 0, est, (match x.queue with | u :: _ => u.deadline % 2 ^ 32 | [] => 0),
   x.busy / 62500 % 2 ^ 32, x.misses % 2 ^ 32, x.reconAround % 2 ^ 32]

/-- The 16 words of a tenant context (R212). -/
def Chip.tenantWords (m : Chip) (t : Nat) : List Nat :=
  match m.tenRec t with
  | none => List.replicate 16 0
  | some r =>
    let x := (m.reconGain t).ten t
    let held := m.q.slots.any fun e => decide (e.2.tenant = t ∧ e.2.hold = .quota)
    let nss := m.zn.ns.filter fun n => decide (n.tenant = t)
    [2 ^ 31 + 2 ^ 30 * (b1 (bitOf r.flags 0)) + 2 ^ 29 * (b1 (bitOf r.flags 1)) + 2 ^ 28 * (b1 held) + 65536 * r.lattable + nss.length,
     r.quota, ofSigned 32 (x.quota / 1024), x.gust / 1024,
     65536 * (m.stampEpoch.2.share t) + m.stampEpoch.2.recon t, ofSigned 32 (x.recon / 64000),
     65536 * (m.tenSlots t) + m.tenantActive t, (nss.map fun n => n.zones.length).sum] ++
    ((List.range 4).map fun i => 65536 * (x.miss.getD (2 * i + 1) 0) + x.miss.getD (2 * i) 0) ++
    [x.lastMiss, x.reconReads, x.ldgHolds, 65536 * x.quotaHolds + x.aborts]

/-- The 4 words of a block context (R247). -/
def Blk.words (x : Blk) : List Nat :=
  [2 ^ 28 * x.state + 2 ^ 27 * (b1 x.refresh) + 2 ^ 26 * (b1 x.urgent) + 2 ^ 25 * (b1 x.outwin) + 2 ^ 24 * (b1 x.slc) +
    2 ^ 23 * (b1 x.stepValid) + 65536 * (x.lastStep % 64) + x.rows, x.erases, x.reads, x.maxbits]

/-- Fill a window register array with words. -/
def Chip.setWords (m : Chip) (f : Fld) (ws : List Nat) : Chip :=
  (List.range ws.length).foldl (fun (m : Chip) i => m.setF f (ws.getD i 0) i) m

/-- A write to an index register: an index out of range changes nothing and is a configuration-class event; any other starts a
copy. -/
def Chip.idxWrite (m : Chip) (w : Win) (v : Nat) : Chip :=
  match w with
  | .qcx =>
    let i := v % 2 ^ 19
    if 266271 < i then m.cfgEvent (QCX_IDX.INDEX.off 0) else (m.setF QCX_IDX.INDEX i).setF QCX_STAT.READY 0
  | .zcx => (m.setF ZNE_ZCX_IDX.ZONE v).setF ZNE_ZCX_STAT.READY 0
  | .dcx =>
    let d := v % 4096
    if 3071 < d then m.cfgEvent (DLS_DCX_IDX.DIE.off 0) else (m.setF DLS_DCX_IDX.DIE d).setF DLS_DCX_STAT.READY 0
  | .tnt => (m.setF TNT_IDX.TENANT v).setF TNT_STAT.READY 0
  | .ldg =>
    if 3071 < v % 4096 then m.cfgEvent (TNT_LDG_IDX.DIE.off 0)
    else ((m.setF TNT_LDG_IDX.TENANT (bits v 23 12)).setF TNT_LDG_IDX.DIE (v % 4096)).setF TNT_LDG_STAT.READY 0
  | .blk =>
    if 3071 < v % 4096 ∨ 5119 < bits v 24 12 then m.cfgEvent (LDP_BLK_IDX.DIE.off 0)
    else ((m.setF LDP_BLK_IDX.BLOCK (bits v 24 12)).setF LDP_BLK_IDX.DIE (v % 4096)).setF LDP_BLK_STAT.READY 0

/-- A copy completes and READY is set. -/
def Chip.windowDone (m : Chip) (w : Win) : Chip :=
  match w with
  | .qcx =>
    let i := m.f QCX_IDX.INDEX
    if m.f QCX_STAT.READY = 1 then m
    else ((m.setWords QCX_W.WORD (m.qctxWords i)).setF QCX_STAT.MISS (b1 (m.qctxOwner i).isNone)).setF QCX_STAT.READY 1
  | .zcx =>
    let z := m.f ZNE_ZCX_IDX.ZONE
    if m.f ZNE_ZCX_STAT.READY = 1 then m
    else ((m.setWords ZNE_ZCX_W.WORD (m.zoneWords z)).setF ZNE_ZCX_STAT.UNUSED (b1 (decide ((m.zone z).nsid = 0)))).setF
      ZNE_ZCX_STAT.READY 1
  | .dcx =>
    let d := m.f DLS_DCX_IDX.DIE
    if m.f DLS_DCX_STAT.READY = 1 then m
    else
      let off := !m.islServes (12 + dieCluster d)
      let other := !m.drives d
      (((m.setWords DLS_DCX_W.WORD (if off || other then List.replicate 8 0 else m.dieWords d)).setF DLS_DCX_STAT.OFF (b1 off)).setF
        DLS_DCX_STAT.NOTOWNED (b1 other)).setF DLS_DCX_STAT.READY 1
  | .tnt =>
    let t := m.f TNT_IDX.TENANT
    if m.f TNT_STAT.READY = 1 then m
    else ((m.setWords TNT_W.WORD (m.tenantWords t)).setF TNT_STAT.UNUSED (b1 (m.tenRec t).isNone)).setF TNT_STAT.READY 1
  | .ldg =>
    let d := m.f TNT_LDG_IDX.DIE
    let t := m.f TNT_LDG_IDX.TENANT
    if m.f TNT_LDG_STAT.READY = 1 then m
    else if !m.drives d then ((m.setWords TNT_LDG_W.WORD [0, 0]).setF TNT_LDG_STAT.NOTOWNED 1).setF TNT_LDG_STAT.READY 1
    else
      let c := m.credit t d
      let m := { m with md := { m.md with ledger := tput m.md.ledger (ldgKey t d) c } }
      ((m.setWords TNT_LDG_W.WORD [ofSigned 32 c.credit, c.last]).setF TNT_LDG_STAT.NOTOWNED 0).setF TNT_LDG_STAT.READY 1
  | .blk =>
    let d := m.f LDP_BLK_IDX.DIE
    let b := m.f LDP_BLK_IDX.BLOCK
    let beyond := decide (m.flash.userBlocks + m.flash.rsvBlocks ≤ b)
    if m.f LDP_BLK_STAT.READY = 1 then m
    else ((m.setWords LDP_BLK_W.WORD (if beyond then [0, 0, 0, 0] else (m.blk d b).words)).setF LDP_BLK_STAT.BEYOND (b1 beyond)).setF
      LDP_BLK_STAT.READY 1

end Sys2Proof.Machine
end

