-- ==== Sys2Proof/Machine/Enva.lean ====
section
/-! DEFINITION. The embedded non-volatile array (R310 to R330): flag words, erase counts, spare sectors, the CW's command
sequence and read buffer, the whole-array erase and the recovery at start. -/

namespace Sys2Proof.Machine

/-! ## Flag words (R313, R326) -/

/-- The firmware and image bank ACTIVE names, 0 A or 1 B: any value but the four valid ones reads as A and A. -/
def EnvaSt.banks (n : EnvaSt) : Nat × Nat :=
  if n.active ∈ [0xC3A00000, 0xC3A00001, 0xC3A00010, 0xC3A00011] then (n.active / 16 % 16, n.active % 16) else (0, 0)

/-- Write one field of ACTIVE afresh: the firmware bank or the image bank (R326, R330). -/
def EnvaSt.nameFw (n : EnvaSt) (f : Nat) : EnvaSt := { n with active := 0xC3A00000 + 0x10 * f + n.banks.2 }
def EnvaSt.nameImg (n : EnvaSt) (i : Nat) : EnvaSt := { n with active := 0xC3A00000 + 0x10 * n.banks.1 + i }

/-- The protection level (R338). -/
def Chip.level (m : Chip) : Nat :=
  if m.nv.level2 then 2
  else if m.nv.level = 0 ∨ m.nv.level = 0xFFFFFFFF then 0
  else if m.nv.level = 0x1E7E0002 then 2
  else 1

def levelWord (l : Nat) : Nat := if l = 0 then 0 else 0x1E7E0000 + l

/-! ## Sectors of class D (R311, R324) -/

/-- The header of sector `i` of a region, with its erase count: 30 bytes and their CRC-16. -/
def sectorHeader (i ecnt : Nat) : List Byte :=
  let h : List Byte := [0x4E, 0x56] ++ leBytes 2 i ++ leBytes 4 ecnt ++ List.replicate 22 0
  h ++ leBytes 2 (crc16 h)

/-- A unit is a header of sector `i` that checks. -/
def headerOk (i : Nat) (u : List Byte) : Bool :=
  decide (u.length = 32 ∧ u.take 2 = [0x4E, 0x56] ∧ fieldAt u 2 2 = i ∧ fieldAt u 30 2 = crc16 (u.take 30))

/-! ## Erase counts and spares (R318) -/

/-- The sector that stands for a logical sector. -/
def EnvaSt.phys (n : EnvaSt) (s : Nat) : Nat := (tfind n.spares s).getD s

/-- The sector that stands for sector `i` of the region from `first` on has a header that checks. -/
def EnvaSt.headed (n : EnvaSt) (first i : Nat) : Bool := ((tfind n.units (n.phys (first + i) * 2048)).any (headerOk i))

/-- The number of the first unit of a class D sector behind those programmed. -/
def EnvaSt.nextUnit (n : EnvaSt) (first i : Nat) : Nat :=
  let p := n.phys (first + i)
  p * 2048 + (n.units.filter fun e => decide (e.1 / 2048 = p)).length

/-- ECNT of a sector rises before its erase, with the event at 90 % of the endurance. -/
def Chip.countErase (m : Chip) (s : Nat) : Chip :=
  let n := tget 0 m.nv.ecnt s + 1
  let m := { m with nv := { m.nv with ecnt := tset 0 m.nv.ecnt s n } }
  if n = 90000000 then m.emit 1 0x6403 else m

/-- Erases of `n` sectors from `s` up. -/
def Chip.countErases (m : Chip) (s n : Nat) : Chip := ((List.range n).map (s + ·)).foldl (fun (m : Chip) k => m.countErase k) m

/-- The sector is worn out. -/
def EnvaSt.worn (n : EnvaSt) (s : Nat) : Bool := decide (100000000 ≤ tget 0 n.ecnt s)

/-- The erase of the sector that stands for sector `i` of the class D region that begins at `first`: its units go, and its owner writes the header of
R324 into the first. -/
def Chip.eraseInto (m : Chip) (first i : Nat) : Chip :=
  let p := m.nv.phys (first + i)
  let m := m.countErase p
  { m with nv := { m.nv with
    units := tput (m.nv.units.filter fun e => decide (e.1 / 2048 ≠ p)) (p * 2048) (sectorHeader i (tget 0 m.nv.ecnt p)) } }

/-- The device records take one more unit in both copies (R318): the log rotates through the 32 sectors of each, and a sector is erased when it comes to
be written. -/
def Chip.recordUnit (m : Chip) : Chip :=
  let k := m.nv.recAt
  let m := if k % 2047 = 0 then (m.eraseInto 224 (k / 2047)).eraseInto 480 (k / 2047) else m
  { m with nv := { m.nv with recAt := (k + 1) % (32 * 2047) } }

/-- A class D sector that failed is replaced by the lowest free spare sector; the map is held in the device records (R318, R330). -/
def Chip.spareSector (m : Chip) (s : Nat) : Chip :=
  let used := m.f NVA_SPARE.USED
  if 208 ≤ used then m.emit 1 0x6406
  else ((({ m with nv := { m.nv with spares := tput m.nv.spares s (800 + used) } } : Chip)).setF NVA_SPARE.USED (used + 1)).recordUnit.emit 1 0x6404

/-- A class D sector is erased for reuse: a worn one is replaced (R318). -/
def Chip.eraseSector (m : Chip) (first i : Nat) : Chip :=
  if m.nv.worn (m.nv.phys (first + i)) then (m.spareSector (first + i)).eraseInto first i else m.eraseInto first i

/-- A class D sector whose header does not check is erased before its next use (R324). -/
def Chip.useSector (m : Chip) (first i : Nat) : Chip := if m.nv.headed first i then m else m.eraseSector first i

/-- Bytes are programmed into the next units of a class D sector. -/
def Chip.programUnits (m : Chip) (first i : Nat) (bytes : List Byte) : Chip :=
  let m := m.useSector first i
  let at_ := m.nv.nextUnit first i
  { m with nv := { m.nv with units := (List.range (ceilDiv bytes.length 32)).foldl (fun t k => tput t (at_ + k) (slice bytes (32 * k) 32)) m.nv.units } }

/-! ## What on-chip firmware does to the array (R312, R321) -/

/-- A flag word is rewritten whole. -/
def EnvaSt.flag (n : EnvaSt) : FlagOp → EnvaSt
  | .image i => n.nameImg i
  | .firmware f => n.nameFw f
  | .alarmed v => { n with alarmed := v }
  | .level v => { n with level := v }
  | .floor v => { n with floor := max n.floor v }

/-- An operation of on-chip firmware takes its pulses; when ACTIVE changes, the code buffer and the branch cache are cleared (R317). -/
def Chip.arrayRun (m : Chip) : ArrayOp → Chip
  | .flag o =>
    let n := m.nv.flag o
    { m with nv := if n.active = m.nv.active then n else { n with prefetch := [], branch := [] } }
  | .record => m.recordUnit
  | .erase first i => m.eraseSector first i
  | .program first i bytes => m.programUnits first i bytes

/-- During a brown-out no pulse starts: what is asked for waits, in its order (R321). -/
def Chip.array (m : Chip) (o : ArrayOp) : Chip :=
  if m.f NVA_STAT.BROWNOUT = 1 then { m with nv := { m.nv with queue := m.nv.queue ++ [o] } } else m.arrayRun o

/-! ## Code fetch (R317): lines of 32 B, numbered through the array -/

/-- A fetch that misses the prefetch buffer loads its line and the next 3 sequential ones. -/
def Chip.codeFetch (m : Chip) (line : Nat) : Chip :=
  if line ∈ m.nv.prefetch then m else { m with nv := { m.nv with prefetch := [line, line + 1, line + 2, line + 3] } }

/-- A taken branch: a target line in the branch cache costs no array read, any other is fetched and takes a place, the oldest going. -/
def Chip.codeBranch (m : Chip) (line : Nat) : Chip :=
  if line ∈ m.nv.branch then m
  else let m := m.codeFetch line; { m with nv := { m.nv with branch := (line :: m.nv.branch).take 64 } }

/-- A pulse ends in a sector of firmware bank `b`: what the buffer and the cache hold of it is cleared. -/
def Chip.codeClear (m : Chip) (b : Nat) : Chip :=
  let keep (l : Nat) : Bool := decide (l / 524288 ≠ b)
  { m with nv := { m.nv with prefetch := m.nv.prefetch.filter keep, branch := m.nv.branch.filter keep } }

/-- A class F bank cannot be erased (R318). -/
def Chip.bankWorn (m : Chip) (first n : Nat) : Bool := ((List.range n).map (first + ·)).any m.nv.worn

/-! ## The IV counter (R294) -/

/-- Use one count of the device IV counter, raising the reserve first when the count reaches it. -/
def Chip.ivCount (m : Chip) : Nat := 2 ^ 32 * (m.f CPH_IVCTR_HI.COUNT) + m.f CPH_IVCTR_LO.COUNT

def Chip.useIv (m : Chip) : Chip :=
  let n := m.ivCount
  let m := if m.nv.ivReserve ≤ n then ({ m with nv := { m.nv with ivReserve := n + 65536 } } : Chip).array .record else m
  m.addWide CPH_IVCTR_LO.COUNT CPH_IVCTR_HI.COUNT 1

/-! ## The CW's sequence (R319, R320) -/

def hostLo : Nat := 1008 * 65536
def hostHi : Nat := 1024 * 65536

/-- The operation or sequence ends with a result, and the sequence relocks. -/
def Chip.nvaEnd (m : Chip) (result : Nat) : Chip :=
  let m := ((m.setF NVA_STAT.RESULT result).setF NVA_STAT.SEQ 0).setF NVA_STAT.BUSY 0
  { m with nv := { m.nv with op := none, words := [] } }

def Chip.seqErr (m : Chip) : Chip := (m.nvaEnd 2).incF NVA_ERRCNT.SEQERR

/-- A write of a sequence register while BUSY is discarded and counted. -/
def Chip.nvaGuard (m : Chip) (g : Chip → Chip) : Chip := if m.f NVA_STAT.BUSY = 1 then m.incF NVA_ERRCNT.SEQERR else g m

def Chip.nvaKey (m : Chip) (v : Nat) : Chip :=
  m.nvaGuard fun m =>
    if m.f NVA_STAT.SEQ = 0 ∧ v = 0xA5C3 then m.setF NVA_STAT.SEQ 1
    else if m.f NVA_STAT.SEQ = 1 ∧ v = 0x3C5A then m.setF NVA_STAT.SEQ 2
    else m.seqErr

def Chip.nvaCmd (m : Chip) (v : Nat) : Chip :=
  m.nvaGuard fun m =>
    let op := v % 16
    if m.f NVA_STAT.SEQ ≠ 2 ∨ op = 0 then m.seqErr
    else if 3 < op then m.nvaEnd 4
    else (m.setF NVA_CMD.OP op).setF NVA_STAT.SEQ 3

/-- An execute-only region covers a sector (R329). -/
def Chip.inXo (m : Chip) (s : Nat) : Bool :=
  (List.range 8).any fun i => decide (m.f NVA_XO.VALID i = 1 ∧ m.f NVA_XO.FIRST i ≤ s ∧ s ≤ m.f NVA_XO.LAST i)

def Chip.nvaAddr (m : Chip) (v : Nat) : Chip :=
  m.nvaGuard fun m =>
    let a := v % 2 ^ 26
    let op := m.f NVA_CMD.OP
    if m.f NVA_STAT.SEQ ≠ 3 then m.seqErr
    else
      let m := m.setF NVA_ADDR.ADDR a
      if a % (if op = 1 then 32 else 65536) ≠ 0 then m.nvaEnd 5
      else if a < hostLo ∨ m.inXo (a / 65536) then (m.nvaEnd 6).incF NVA_ERRCNT.PROTECTED
      else
        let m := (m.setF NVA_STAT.SEQ 4).setF NVA_STAT.DATACNT 0
        if op = 1 then m
        else
          let m := m.setF NVA_STAT.BUSY 1
          { m with nv := { m.nv with op := some { op := op, addr := a, data := [], started := false, pulse := false, count := 0 } } }

def Chip.nvaData (m : Chip) (v : Nat) : Chip :=
  m.nvaGuard fun m =>
    let seq := m.f NVA_STAT.SEQ
    if (seq ≠ 4 ∧ seq ≠ 5) ∨ m.f NVA_CMD.OP ≠ 1 then m.seqErr
    else
      let ws := m.nv.words ++ leBytes 4 v
      let m := ((m.setF NVA_STAT.SEQ 5).setF NVA_STAT.DATACNT (ws.length / 4))
      let m := { m with nv := { m.nv with words := ws } }
      if ws.length < 32 then m
      else
        let m := m.setF NVA_STAT.BUSY 1
        { m with nv := { m.nv with op := some { op := 1, addr := m.f NVA_ADDR.ADDR, data := ws, started := false, pulse := false, count := 0 } } }

/-- More than 1 ms has passed between two steps. -/
def Chip.nvaTimeout (m : Chip) : Chip :=
  if m.f NVA_STAT.SEQ = 0 ∨ m.f NVA_STAT.BUSY = 1 then m else m.nvaEnd 3

/-! ## Pulses (R314, R318, R321) -/

def Chip.setOp (m : Chip) (o : NvaOp) : Chip := { m with nv := { m.nv with op := some o } }

/-- The 32 B unit an address names in the sector that stands for its own. -/
def EnvaSt.unit (n : EnvaSt) (a : Nat) : Nat := n.phys (a / 65536) * 2048 + a % 65536 / 32

/-- The waiting operation of a kind starts. -/
def Chip.nvaStart (m : Chip) (kind : Nat) : Chip :=
  match m.nv.op with
  | none => m
  | some o =>
    let sec := m.nv.phys (o.addr / 65536)
    let go (m : Chip) : Chip := m.setOp { o with started := true, pulse := decide (m.f NVA_STAT.BROWNOUT = 0) }
    if o.op ≠ kind ∨ o.started then m
    else if kind = 1 then (if (tfind m.nv.units (m.nv.unit o.addr)).isSome then m.nvaEnd 7 else go m)
    else if kind = 2 then
      if m.nv.worn sec then (m.spareSector (o.addr / 65536)).nvaEnd 8 else go (m.countErase sec)
    else (m.setF NVA_STAT.BLANK (b1 (m.nv.units.all fun e => decide (e.1 / 2048 ≠ sec)))).nvaEnd 1

/-- A pulse has ended and its verify says whether it took: the operation ends, or has its next pulse. -/
def Chip.nvaPulse (m : Chip) (ok : Bool) : Chip :=
  match m.nv.op with
  | none => m
  | some o =>
    if !o.pulse then m
    else
      let n := o.count + 1
      let sec := m.nv.phys (o.addr / 65536)
      let again := m.setOp { o with count := n, pulse := decide (m.f NVA_STAT.BROWNOUT = 0) ∧ m.f NVA_STAT.PENDRST = 0 }
      if o.op = 1 then
        if ok then ({ m with nv := { m.nv with units := tput m.nv.units (m.nv.unit o.addr) o.data } } : Chip).nvaEnd 1
        else if n < 2 then again
        else m.nvaEnd 9
      else if ok then
        ({ m with nv := { m.nv with units := m.nv.units.filter fun e => decide (e.1 / 2048 ≠ sec) } } : Chip).nvaEnd 1
      else if n < 150 then again
      else (m.spareSector (o.addr / 65536)).nvaEnd 9

/-! ## The persistent fault log (R519): sectors 784 to 799, 2,047 entries each -/

/-- A notice takes the next entry, in a sector whose header checks; the first of a sector has the sector ahead erased. -/
def Chip.plogPut (m : Chip) (n : Notice) : Chip :=
  let k := m.evr.plogNext
  let ahead := (k / 2047 + 1) % 16
  let m := m.useSector 784 (k / 2047)
  let m := if k % 2047 = 0 then
      let m := m.eraseSector 784 ahead
      ({ m with evr := { m.evr with plog := m.evr.plog.filter fun e => decide (e.1 / 2047 ≠ ahead) } } : Chip)
    else m
  { m with evr := { m.evr with
    plog := tput m.evr.plog k n, plogNext := (k + 1) % 32752, plogFull := m.evr.plogFull || decide (k = 32751) } }

/-- A fault notice is logged. A brown-out holds the write (R524); one that finds no room before the sector ahead has been erased
is skipped and counted. -/
def Chip.plogWrite (m : Chip) (n : Notice) : Chip :=
  if m.f NVA_STAT.BROWNOUT = 0 then m.plogPut n
  else
    let at' := m.evr.plogNext % 2047
    let room := if at' = 0 then 2047 else 4094 - at'
    if m.evr.held.length < room then { m with evr := { m.evr with held := m.evr.held ++ [n] } }
    else m.incF EVR_PLSTAT.SKIPPED

/-- The array supply falls below 95 % (R321). -/
def Chip.brownout (m : Chip) : Chip :=
  if m.f NVA_STAT.BROWNOUT = 1 then m
  else ((m.setF NVA_STAT.BROWNOUT 1).incF NVA_BOSTAT.COUNT).emit 1 0x6401

/-! ## The CW read buffer (R316) -/

/-- The 32 bytes of a line as the CW reads them: an erased unit reads as ones (log entry 27). -/
def Chip.nvaLine (m : Chip) (line : Nat) : List Byte := (tfind m.nv.units (m.nv.unit (line * 32))).getD (List.replicate 32 0xFF)

def Chip.nvaRaddr (m : Chip) (v : Nat) : Chip :=
  let m := (m.setF NVA_RADDR.WORD (bits v 25 2)).setF NVA_STAT.RDVALID 0
  { m with nv := { m.nv with line := none } }

/-- The buffered word is returned and the pointer advances; leaving the line starts the next load. -/
def Chip.nvaServe (m : Chip) : Nat × Chip :=
  let a := m.f NVA_RADDR.WORD * 4
  let prot := decide (a < hostLo) || m.inXo (a / 65536)
  let v := if prot then 0 else fieldAt (m.nv.line.getD []) (a % 32) 4
  let m := if prot then m.incF NVA_ERRCNT.PROTECTED else m
  let b := (a + 4) % 2 ^ 26
  let m := (m.setF NVA_RADDR.WORD (b / 4)).setF NVA_STAT.RDVALID (b1 (decide (b / 32 = a / 32)))
  let line := if b / 32 = a / 32 then m.nv.line else none
  (v, { m with nv := { m.nv with line := line } })

/-- A read of NVA_RDATA that does not stall: 0 while RDMISS is 1, else the word. -/
def Chip.nvaRead (m : Chip) : Nat × Chip := if m.f NVA_STAT.RDMISS = 1 then (0, m) else m.nvaServe

/-- The line that holds NVA_RADDR is in the buffer. -/
def Chip.nvaLoaded (m : Chip) : Chip :=
  let m := m.setF NVA_STAT.RDVALID 1
  { m with nv := { m.nv with line := some (m.nvaLine (m.f NVA_RADDR.WORD / 8)) } }

/-! ## Checkpoint roots (R466): sectors 512 to 767, 1,023 roots each (log entry 175) -/

/-- The sector of the region and the first unit in it of root `n`. -/
def rootPlace (n : Nat) : Nat × Nat := (n / 1023 % 256, 1 + 2 * (n % 1023))

/-- The 64 bytes of a root: its sequence number, and the CRC-16 at its end. -/
def rootRecord (n : Nat) : List Byte := let b := leBytes 8 n ++ List.replicate 54 0; b ++ leBytes 2 (crc16 b)

/-! ## Whole-array erase and recovery at start (R323, R328) -/

/-- The device records' copies in registers (remap tables of R400, calibration offsets of R500) return to their empty values. -/
def Chip.clearMaps (m : Chip) : Chip :=
  let m := m.resetRegs (SDP_REMAP.GRANULE.off 0) (SDP_REMAP.GRANULE.off 0 + 4 * SDP_REMAP.GRANULE.count)
  (List.range 40).foldl (fun (m : Chip) i => m.setF THM_SENS.OFFSET 0 i) m

/-- The whole-array erase: every sector and the flag words but ECNT. -/
def Chip.eraseArray (m : Chip) : Chip :=
  let m := m.countErases 0 1024
  let m := (((m.setF NVA_SPARE.USED 0).setF PLP_FLUSHID.FLUSH_ID 0).setF TRS_SANSTAT.STATE 0).clearMaps
  { m with
    nv := { m.nv with active := 0xFFFFFFFF, eraseAll := false, alarmed := 0, level := 0, floor := 0, pendErase := [],
                      spares := [], units := [], fwA := [], fwB := [], keys := [], owner := [],
                      imgKeys := List.replicate 4 (0, []), dwkGen := 0, svnFloor := 0, ivReserve := 0, recAt := 0, sanBlocks := false, sanLate := false, queue := [],
                      prefetch := [], branch := [] },
    img := { m.img with bankA := [], bankB := [] },
    st := { m.st with plan := none, restoredId := 0, flushId := 0, clean := false, roots := [], ckptSeq := 0 },
    sd := { m.sd with bad := [] },
    ag := { m.ag with isls := [], base := [], ring := [], ringAt := 0, again := [], due := false },
    evr := { m.evr with plog := [], plogFull := false, plogNext := 0 } }

/-- A lowering of the level sets ERASEALL to pending and runs the erase, which a brown-out holds (R321, R328). -/
def Chip.wholeErase (m : Chip) : Chip :=
  let m := { m with nv := { m.nv with eraseAll := true } }
  if m.f NVA_STAT.BROWNOUT = 1 then m else m.eraseArray

/-- Pulses resume: an erase of the whole array that is pending, what on-chip firmware was held at, and the CW's operation (R321). -/
def Chip.brownoutEnd (m : Chip) : Chip :=
  let m := m.setF NVA_STAT.BROWNOUT 0
  let m := if m.nv.eraseAll then m.eraseArray else m
  let m := m.nv.queue.foldl (fun (m : Chip) o => m.arrayRun o) ({ m with nv := { m.nv with queue := [] } } : Chip)
  let m := m.evr.held.foldl (fun (m : Chip) n => m.plogPut n) ({ m with evr := { m.evr with held := [] } } : Chip)
  match m.nv.op with
  | some o => if o.started then m.setOp { o with pulse := true } else m
  | none => m

/-- The work before any image load, code fetch or key unwrap: unfinished erases are completed. -/
def Chip.envaRecover (m : Chip) : Chip :=
  let m := if m.nv.eraseAll then m.eraseArray.emit 1 0x6402 else m
  let m := m.nv.pendErase.foldl (fun (m : Chip) s => (m.countErase s).emit 1 0x6402) m
  let bad := decide (m.nv.active ∉ [0xFFFFFFFF, 0xC3A00000, 0xC3A00001, 0xC3A00010, 0xC3A00011])
  let m := if bad then m.emit 1 0x6405 else m
  { m with nv := { m.nv with pendErase := [], op := none, words := [], line := none, queue := [] } }

/-! ## Rows of the array -/

def execNvaSequenceTimeout (s : State) : Host.Outcome State Fault Refusal := run s Chip.nvaTimeout
def execProgram (s : State) : Host.Outcome State Fault Refusal := run s fun m => m.nvaStart 1
def execErase (s : State) : Host.Outcome State Fault Refusal := run s fun m => m.nvaStart 2
def execBlankcheck (s : State) : Host.Outcome State Fault Refusal := run s fun m => m.nvaStart 3
def execNvaBrownout (s : State) : Host.Outcome State Fault Refusal := run s Chip.brownout
def execNvaBrownoutRecover (s : State) : Host.Outcome State Fault Refusal := run s Chip.brownoutEnd

end Sys2Proof.Machine
end

