-- ==== Sys2Proof/Machine/Vault.lean ====
section
/-! DEFINITION. The cipher engine's GCM lanes and the Reziem key vault (R292 to R309): suspension, key slots, loads, wrapped
keys and alarms. -/

namespace Sys2Proof.Machine

/-! ## Slots (R299, R302) -/


/-- Load a key into a slot, counted in KVT_LOADCNT. -/
def Chip.loadKey (m : Chip) (i : Nat) (k : KeySlot) : Chip := (m.setKslot i { k with state := 1, reload := false }).incF KVT_LOADCNT.DONE

/-- The lowest free data slot: EMPTY and named by no namespace. -/
def Chip.freeDataSlot (m : Chip) : Option Nat :=
  (List.range 8192).find? fun i => decide ((m.kslot i).state = 0) && m.zn.ns.all fun n => decide (n.keySlot ≠ i)

/-- The DWK is loaded: slot 8,192. -/
def Chip.dwkLoaded (m : Chip) : Bool := decide ((m.kslot 8192).state = 1)

/-- The derivation engine forms the DWK (R336); its callers ask for it only while ALARMED is not set (R308). -/
def Chip.deriveDwk (m : Chip) : Chip :=
  m.setKslot 8192 { KeySlot.blank with
    state := 1, kind := 1,
    key := leNat ((Config.sha384 (Config.uds ++ [0x44, 0x57, 0x4B, 0x31] ++ leBytes 4 m.nv.dwkGen)).take 32) }

/-- TENANT.KEYGEN of the running epoch. -/
def Chip.keygenOf (m : Chip) (t : Nat) : Nat := ((m.tenRec t).map (·.keygen)).getD 0

/-- The sector of a slot's records in either copy of the key store (log entry 29). -/
def KeyRec.sector (r : KeyRec) : Nat := r.slot / 512 % 32

/-- The first 10 bytes of a wrapped key record, its AAD (R305). -/
def KeyRec.head (r : KeyRec) : List Byte := leBytes 2 r.slot ++ leBytes 2 r.tenant ++ leBytes 2 r.keygen ++ leBytes 1 r.kind ++ leBytes 3 0

/-- The IV of a purpose and a count (R294). -/
def ivOf (purpose count : Nat) : List Byte := leBytes 4 purpose ++ leBytes 8 count

/-- The 128 bytes of a record wrapped under a key with an IV count (R304, R305). -/
def KeyRec.wrapped (r : KeyRec) (under count : Nat) : List Byte :=
  let iv := ivOf 2 count
  r.head ++ iv ++ fit 80 (Config.gcmSeal under iv r.head (leBytes 64 r.key)) ++ List.replicate 26 0

/-- The key a record is wrapped under: the tenant's TKEK for a data key, else the DWK. -/
def Chip.wrapUnder (m : Chip) (r : KeyRec) : Nat :=
  if r.kind = 1 then ((m.nv.keys.find? fun k => decide (k.kind = 2 ∧ k.tenant = r.tenant) && !k.dead).map KeyRec.key).getD 0
  else (m.kslot 8192).key

/-- A record goes into both copies of the key store. -/
def Chip.storeKey (m : Chip) (r : KeyRec) : Chip :=
  (m.array (.program 192 r.sector r.raw)).array (.program 448 r.sector r.raw)

/-- Write a wrapped key record, tombstoning the one it supersedes (R304, R346). -/
def Chip.wrapKey (m : Chip) (r : KeyRec) : Chip :=
  let old (k : KeyRec) : KeyRec := if k.slot = r.slot ∧ k.kind = r.kind ∧ k.tenant = r.tenant then { k with dead := true } else k
  let count := m.ivCount
  let r := { r with dwk := m.nv.dwkGen, dead := false, raw := r.wrapped (m.wrapUnder r) count, unit := (m.useSector 192 r.sector).nv.nextUnit 192 r.sector % 2048 }
  let m := m.useIv
  ({ m with nv := { m.nv with keys := m.nv.keys.map old ++ [r] } } : Chip).storeKey r

/-- A copy of a record reads as it was written: the first copy, or the other (R324). -/
def Chip.keyReads (m : Chip) (r : KeyRec) : Bool :=
  [192, 448].any fun first => m.nv.headed first r.sector &&
    (List.range 4).all fun k => decide (tfind m.nv.units (m.nv.phys (first + r.sector) * 2048 + r.unit + k) = some (slice r.raw (32 * k) 32))

/-- The tenant's key set holds a TKEK; one is drawn and wrapped under the DWK if it does not (R346). -/
def Chip.needTkek (m : Chip) (t : Nat) : Chip :=
  if m.nv.keys.any fun k => decide (k.kind = 2 ∧ k.tenant = t) && !k.dead then m
  else
    let (k, m) := m.draw 256
    m.wrapKey { slot := 8256 + t % 192, tenant := t, keygen := m.keygenOf t, kind := 2, nsid := 0, key := k, dwk := 0, dead := false, raw := [], unit := 0 }

/-- A new data key for a namespace: drawn, loaded and wrapped (R346). -/
def Chip.newDataKey (m : Chip) (i tenant nsid : Nat) : Chip :=
  let m := m.needTkek tenant
  let (k, m) := m.draw 512
  let g := m.keygenOf tenant
  let m := m.loadKey i { KeySlot.blank with kind := 0, tenant := tenant, keygen := g, nsid := nsid, key := k }
  m.wrapKey { slot := i, tenant := tenant, keygen := g, kind := 1, nsid := nsid, key := k, dwk := 0, dead := false, raw := [], unit := 0 }

/-! ## Tag failures (R296) -/

/-- A message's tag failed: counted, the first one logged, and its event. -/
def Chip.tagFail (m : Chip) (use slot : Nat) : Chip :=
  let m := if use = 0 then m.incF CPH_TAGFAIL.TWIN else m.incF CPH_TAGFAIL.META
  let m := if m.f CPH_FLOG0.VALID = 1 then m
    else (((m.setF CPH_FLOG0.VALID 1).setF CPH_FLOG0.USE use).setF CPH_FLOG0.SLOT slot).setF CPH_FLOG1.DTC m.now
  m.emit 26 (if use = 0 then 0x6301 else 0x6302)

/-! ## Loads (R304, R305, R308) -/

/-- Every load asked for has been tried: a re-authentication ends (R308). -/
def Chip.loadsEnd (m : Chip) : Chip :=
  if m.kv.toLoad = [] ∧ m.f KVT_STAT.STATE = 2 then (m.setF KVT_STAT.STATE 0).emit 0 0x6306 else m

/-- The slots of the live records: the metadata key and every data key; the twin route leaves out tenants whose KEYPOL asks for
the owner (R308). -/
def Chip.askLoads (m : Chip) (twin : Bool) : Chip :=
  let ks := m.nv.keys.filter fun k => !k.dead && decide (k.kind ≠ 2) &&
    !(twin && decide (k.kind = 1) && (((m.tenRec k.tenant).map fun t => bitOf t.keypol 0).getD false))
  { m with kv := { m.kv with toLoad := ks.map (·.slot) } }

/-- The live data keys whose slots are empty are asked for: those that a re-authentication by the twin left out (R308). -/
def Chip.askUnloaded (m : Chip) : Chip :=
  let ks := m.nv.keys.filter fun k => !k.dead && decide (k.kind = 1 ∧ (m.kslot k.slot).state = 0)
  { m with kv := { m.kv with toLoad := ks.map (·.slot) } }

/-- On-chip firmware unwraps the record of a slot (R304, R305); `tagOk`: its tag verifies. -/
def Chip.unwrap (m : Chip) (i : Nat) (tagOk : Bool) : Chip :=
  match m.nv.keys.find? fun k => decide (k.slot = i ∧ k.kind ≠ 2) && !k.dead with
  | none => m
  | some r =>
    if !m.dwkLoaded ∨ i ∉ m.kv.toLoad then m
    else
      let m := { m with kv := { m.kv with toLoad := m.kv.toLoad.filter (· ≠ i) } }
      let m := if decide (r.kind = 1) && decide (r.keygen ≠ m.keygenOf r.tenant) then m.incF KVT_LOADCNT.FAILED
        else if !tagOk || !m.keyReads r || decide (r.dwk ≠ m.nv.dwkGen) then (m.tagFail 2 i).incF KVT_LOADCNT.FAILED
        else m.loadKey i { KeySlot.blank with
          kind := if r.kind = 3 then 1 else 0, tenant := if r.kind = 3 then 0 else r.tenant, keygen := r.keygen, nsid := r.nsid, key := r.key }
      m.loadsEnd

/-! ## Alarms (R306 to R308) -/

/-- Every vault slot, the key cache and the lanes' keys and hold regions are erased. -/
def Chip.eraseVault (m : Chip) : Chip :=
  let m := { m with kv := { m.kv with slots := [], lanes := [], waiting := [], cache := [], toLoad := [] } }
  let gone (m : Chip) (s : Nat) : Chip := m.setSub s { m.sub s with keyNum := 0, rxKey := 0, rekeying := false }
  gone (gone m 0) 1

/-- An alarm of source `bit` (R307). The ALARMED word holds the sources (log entry 28). -/
def Chip.alarm (m : Chip) (bit : Nat) : Chip :=
  let m := m.eraseVault
  let m := (m.setBit KVT_ALARM.SRC bit true).setF KVT_STAT.STATE 1
  let m := ({ m with ag := { m.ag with due := m.ag.due || decide (bit < 2) } } : Chip).array (.flag (.alarmed (m.f KVT_ALARM.SRC)))
  let m := m.ptbStop 6 false
  let m := { m with tr := { m.tr with check := m.tr.check.map fun (c : OwnerCheck) => { c with alarmed := true } } }
  (m.setF KVT_LASTALARM.DTC m.now).emit 0 0x6304

/-- Re-authentication passes (R308): ALARMED clears, the DWK is derived and the keys are loaded again. -/
def Chip.reauth (m : Chip) (twin : Bool) : Chip :=
  let m := m.array (.flag (.alarmed 0))
  let m := (m.setF KVT_ALARM.SRC 0).setF KVT_STAT.STATE 2
  ((m.deriveDwk).askLoads twin).loadsEnd

/-! ## GCM lanes (R295 to R298) -/

def GcmLane.blank : GcmLane := { running := none, susp := [] }
def Chip.lane (m : Chip) (i : Nat) : GcmLane := tget GcmLane.blank m.kv.lanes i
def Chip.setLane (m : Chip) (i : Nat) (v : GcmLane) : Chip :=
  { m with kv := { m.kv with lanes := tset GcmLane.blank m.kv.lanes i v } }

/-- Slack in bytes a lane moves at 16 GB/s: 256 a tick. -/
def Chip.slackBytes (m : Chip) (deadline : Nat) : Nat := slackAt m.now deadline * 256

/-- A GCM lane that runs `l` meets the waiting message `w` (R298): it suspends `l`, or `w` waits. -/
def Chip.gcmSuspend (m : Chip) (i : Nat) (l w : GcmMsg) : Chip :=
  let x := m.lane i
  let l := x.running.getD l
  if earlier w.deadline l.deadline && decide (m.slackBytes w.deadline < (l.len - l.done) + w.len ∧ x.susp.length < 2) then
    (m.setLane i { running := some w, susp := l :: x.susp }).incF CPH_SUSPCNT.COUNT
  else
    let m := m.setLane i { x with running := some l }
    { m with kv := { m.kv with waiting := insertBy (fun a b => earlier a.deadline b.deadline) w m.kv.waiting } }

/-- A GCM lane accepts a key slot: 8,193 to 8,201, and for wrap work 8,192 and 8,256 to 8,447 (R303). -/
def gcmAccepts (use slot : Nat) : Bool :=
  decide (8193 ≤ slot ∧ slot ≤ 8201) || (decide (use = 2) && decide (slot = 8192 ∨ (8256 ≤ slot ∧ slot ≤ 8447)))

/-- A tag fails in an island (R51): TAGERR, its count and the event. -/
def Chip.tagErr (m : Chip) (i : Nat) : Chip := ((m.setF ISL_STAT.TAGERR 1 i).incF ISL_DOWNCNT.TAGERR_COUNT i).emit i 0x3003 i none

/-- A GCM lane ends its message, `w` where the lane's message came to it idle (R295, R296, R303): the output is released only
when the tag verifies. The lane goes on with its last suspended message, or with the earliest that waits. -/
def Chip.gcmDone (m : Chip) (i : Nat) (w : GcmMsg) (ok : Bool) : Chip :=
  let x := m.lane i
  let g := x.running.getD w
  let m := if !gcmAccepts g.use g.slot || decide ((m.kslot g.slot).state = 0) then ((m.incF CPH_KEYERR.COUNT).emit 26 0x6305).tagErr 26
    else
      let m := m.addWide CPH_GCMBYTES_LO.BYTES CPH_GCMBYTES_HI.BYTES g.len
      if ok then m else m.tagFail g.use g.slot
  match x.susp, m.kv.waiting with
  | l :: rest, _ => m.setLane i { running := some l, susp := rest }
  | [], v :: vs =>
    let m := m.setLane i { running := some v, susp := [] }
    { m with kv := { m.kv with waiting := vs } }
  | [], [] => m.setLane i GcmLane.blank

def execGcmSuspend (lane : Grp) (l w : GcmMsg) (s : State) : Host.Outcome State Fault Refusal :=
  run s fun m => m.gcmSuspend lane.val l w

def execGcmMessageDone (lane : Grp) (w : GcmMsg) (ok : Bool) (s : State) : Host.Outcome State Fault Refusal :=
  run s fun m => m.gcmDone lane.val w ok

/-! ## The private key bus (R300, R301) -/

/-- A key crosses the bus into XFM's cache, at most 1,024 keys, the oldest going; a second parity error within 1 ms raises the
KEYBUS alarm. -/
def Chip.keyBus (m : Chip) (i : Nat) (parityError : Bool) : Chip :=
  if parityError then
    let m := (m.incF KVT_BUSERR.COUNT).emit 0 0x6303
    let soon := match m.kv.busErr with
      | some t => decide (m.isl.dtc - t ≤ 62500)
      | none => false
    let m := { m with kv := { m.kv with busErr := some m.isl.dtc } }
    if soon then m.alarm 4 else m
  else if (m.kslot i).state = 0 then m
  else { m with kv := { m.kv with cache := (i :: m.kv.cache.filter (· ≠ i)).take 1024 } }

def execKeyBusTransfer (i : KeySlotNo) (parityError : Bool) (s : State) : Host.Outcome State Fault Refusal :=
  run s fun m => m.keyBus i.val parityError

/-! ## Clearing (R302) -/

/-- A host command that names a namespace is under way. -/
def Chip.nsBusy (m : Chip) (nsid : Nat) : Bool :=
  m.q.slots.any fun e => !e.2.admin && decide (nsidOf e.2.entry = nsid ∧ (e.2.phase = .running ∨ e.2.phase = .committed))

/-- The admin command of an opcode that waits for its namespace's slot. -/
def Chip.adminFor (m : Chip) (op nsid : Nat) : Option Nat :=
  (m.q.slots.find? fun e => e.2.admin && decide (e.2.phase = .running ∧ opcodeOf e.2.entry = op ∧ (op = 0x80 ∨ bits (dw e.2.entry 10) 3 0 = 1)) &&
    decide (nsidOf e.2.entry = nsid ∨ (op = 0x0D ∧ nsidOf e.2.entry = 0xFFFFFFFF))).map (·.1)

/-- A namespace and its zones are gone. -/
def Chip.removeNs (m : Chip) (n : Ns) : Chip :=
  let m := n.zones.foldl (fun (m : Chip) z =>
    ((m.resetZone z).setZone z Zone.blank).delta 0x08 z (some z) (leBytes 4 0 ++ leBytes 4 0)) m
  { m with zn := { m.zn with ns := m.zn.ns.filter fun k => decide (k.nsid ≠ n.nsid) } }

/-- Every zone of a namespace returns to Empty. -/
def Chip.emptyNs (m : Chip) (n : Ns) : Chip := n.zones.foldl (fun (m : Chip) z => m.resetZone z) m

/-- The last unit naming a CLEARING slot has ended (R302): the slot is cleared, and a Format loads the new key. -/
def Chip.clearSlot (m : Chip) (i : Nat) : Chip :=
  let k := m.kslot i
  if k.state ≠ 2 ∨ m.nsBusy k.nsid then m
  else
    let m := { m with kv := { m.kv with cache := m.kv.cache.filter (· ≠ i) } }
    let m := m.setKslot i KeySlot.blank
    let dead (r : KeyRec) : KeyRec := if r.slot = i ∧ r.kind = 1 then { r with dead := true } else r
    let m := { m with nv := { m.nv with keys := m.nv.keys.map dead } }
    match m.ns? k.nsid with
    | none => m
    | some n =>
      if k.reload then
        let m := m.newDataKey i n.tenant n.nsid
        let m := { m with zn := { m.zn with ns := m.zn.ns.map fun x => if x.nsid = n.nsid then { x with keygen := m.keygenOf n.tenant } else x } }
        match m.adminFor 0x80 n.nsid with
        | none => m
        | some s =>
          match m.cmd? s with
          | none => m
          | some c => (if bits (dw c.entry 10) 11 9 = 1 then m.emptyNs n else m).finish s (some stOk)
      else
        let m := m.removeNs n
        match m.adminFor 0x0D n.nsid with
        | none => m
        | some s =>
          match m.cmd? s with
          | none => m
          | some c =>
            if decide (nsidOf c.entry = 0xFFFFFFFF) && m.zn.ns.any (fun x => decide (x.tenant = c.tenant)) then m
            else m.finish s (some stOk)

def execKeySlotClear (i : KeySlotNo) (s : State) : Host.Outcome State Fault Refusal := run s fun m => (m.clearSlot i.val).settle

def execKeyUnwrap (i : KeySlotNo) (tagOk : Bool) (s : State) : Host.Outcome State Fault Refusal :=
  run s fun m => m.unwrap i.val tagOk

/-! ## Alarm sources -/

/-- An island's supply dips while it is ON (R306). -/
def execVoltageGlitch (i : Isl) (s : State) : Host.Outcome State Fault Refusal :=
  run s fun m => if m.islState i.val = 2 then m.alarm 0 else m

/-- An island's clock deviates by more than 25 % from its FREQ_MHZ. -/
def execClockMonitorFault (_i : Isl) (s : State) : Host.Outcome State Fault Refusal := run s fun m => m.alarm 1

def execShieldBreach (s : State) : Host.Outcome State Fault Refusal := run s fun m => m.alarm 2
def execLockstepMismatch (s : State) : Host.Outcome State Fault Refusal := run s fun m => m.alarm 3

/-- KVT_FORCE (R306). -/
def Chip.kvtForce (m : Chip) (v : Nat) : Chip := if v = 0x0A1A0001 then m.alarm 6 else m.cfgEvent (KVT_FORCE.CODE.off 0)

/-- Key store sectors that hold superseded records are erased, live records carried forward (R346): both copies of the sector
of each dead record (log entry 29). -/
def Chip.eraseDeadKeys (m : Chip) : Chip :=
  let ds := (m.nv.keys.filter (·.dead)).map KeyRec.sector
  let ks := (List.range 32).filter fun k => decide (k ∈ ds)
  let m := ks.foldl (fun (m : Chip) k => (m.array (.erase 192 k)).array (.erase 448 k)) m
  let live := m.nv.keys.filter fun k => !k.dead
  let m := ({ m with nv := { m.nv with keys := [] } } : Chip)
  live.foldl (fun (m : Chip) r =>
    if r.sector ∉ ks then { m with nv := { m.nv with keys := m.nv.keys ++ [r] } }
    else
      let r := { r with unit := 1 + 4 * (m.nv.keys.filter fun k => decide (k.sector = r.sector)).length }
      ({ m with nv := { m.nv with keys := m.nv.keys ++ [r] } } : Chip).storeKey r) m

def execKeyStoreErase (s : State) : Host.Outcome State Fault Refusal := run s Chip.eraseDeadKeys

end Sys2Proof.Machine
end

