-- ==== Sys2Proof/Machine/Image.lean ====
section
/-! DEFINITION. The Drite image (R60 to R68): its bytes, sections and records, and its validation; with the pool rules of R349
and the BAR0 rule of R88. -/

namespace Sys2Proof.Machine

/-! ## Sections (R62, R63) -/

/-- A directory entry. -/
structure Sec where
  type : Nat
  off : Nat
  len : Nat
  count : Nat
  size : Nat
deriving DecidableEq, Repr

/-- Why an image fails: the code of R67, the section type and the record. -/
structure ImgFail where
  code : Nat
  sec : Nat
  record : Nat
deriving DecidableEq, Repr

/-- Record size and record count range of a section type (R63). -/
def secShape (t : Nat) : Option (Nat × Nat × Nat) :=
  match t with
  | 0x02 => some (16, 1, 34) | 0x03 => some (32, 1, 4128) | 0x04 => some (8, 1, 4128) | 0x05 => some (64, 1, 4096)
  | 0x06 => some (40, 1, 16) | 0x07 => some (16, 1, 4096) | 0x08 => some (32, 1, 64) | 0x09 => some (64, 1, 1)
  | 0x0A => some (32, 3, 66) | 0x0B => some (16, 28, 28) | 0x0C => some (16, 2, 17) | 0x0D => some (32, 1, 1)
  | 0x0E => some (4, 0, 704) | 0x0F => some (8, 0, 1024) | 0x10 => some (64, 1, 1) | 0xFF => some (104, 1, 1)
  | _ => none

def hdrLen (b : List Byte) : Nat := fieldAt b 0x06 2
def secCount (b : List Byte) : Nat := fieldAt b 0x1C 2
def wCount (b : List Byte) : Nat := fieldAt b 0x1E 2
def imgKind (b : List Byte) : Nat := fieldAt b 0x0F 1
def imgVersion (b : List Byte) : Nat := fieldAt b 0x10 4

/-- The directory. -/
def secsOf (b : List Byte) : List Sec :=
  (List.range (secCount b)).map fun i =>
    let o := hdrLen b + 16 * i
    { type := fieldAt b o 2, off := fieldAt b (o + 4) 4, len := fieldAt b (o + 8) 4, count := fieldAt b (o + 12) 2, size := fieldAt b (o + 14) 2 }

/-- The bytes from `a` to below `e` are 0. -/
def zeroBytes (b : List Byte) (a e : Nat) : Bool := (slice b a (e - a)).all (· = 0)

/-- Record `i` of a section. -/
def Sec.record (s : Sec) (b : List Byte) (i : Nat) : List Byte := slice b (s.off + i * s.size) s.size
def Sec.recs (s : Sec) (b : List Byte) : List (List Byte) := (List.range s.count).map (s.record b)

/-- The sections lie in directory order, apart, on multiples of 64, with zeros between them, from byte `a` on. -/
def placed (b : List Byte) : Nat → List Sec → Bool
  | a, [] => decide (a = b.length)
  | a, s :: t => decide (a ≤ s.off ∧ s.off % 64 = 0 ∧ s.off + s.len ≤ b.length) && zeroBytes b a s.off && placed b (s.off + s.len) t

def rising : List Nat → Bool
  | a :: b :: t => decide (a < b) && rising (b :: t)
  | _ => true

/-! ## Steps 1 to 4 of R67 -/

/-- Step 1. WCOUNT above 64 is a bad header (log entry 153). -/
def checkHeader (b : List Byte) (len : Nat) : Bool :=
  decide (slice b 0 4 = [0x44, 0x52, 0x49, 0x54] ∧ fieldAt b 4 1 = 1 ∧ fieldAt b 5 1 = 0 ∧ hdrLen b = 128 + 8 * wCount b ∧
    wCount b ≤ 64 ∧ fieldAt b 8 4 = b.length ∧ b.length = len ∧ b.length ≤ 4194304 ∧ imgKind b ≤ 1)

/-- PART and REV_MASK: bit 0 permits A0, bit 1 B1. -/
def checkPart (b : List Byte) (o rev : Nat) : Bool :=
  decide (fieldAt b o 2 = 0x9610) && bitOf (fieldAt b (o + 2) 1) (if rev = 0xA0 then 0 else 1)

def checkLayout (b : List Byte) : Bool :=
  let ss := secsOf b
  let types := ss.map (·.type)
  let live := decide (imgKind b = 1)
  decide (1 ≤ secCount b ∧ secCount b ≤ 16) && rising types &&
  ((List.range (secCount b)).all fun i => decide (fieldAt b (hdrLen b + 16 * i + 2) 2 = 0)) &&
  (ss.all fun s => match secShape s.type with
    | some (size, lo, hi) => decide (s.size = size ∧ lo ≤ s.count ∧ s.count ≤ hi ∧ s.len = s.count * s.size)
    | none => false) &&
  placed b (hdrLen b + 16 * secCount b) ss && decide (types.getLast? = some 0xFF) &&
  (if live then types.all (fun t => decide (t ∈ [0x05, 0x06, 0x07, 0x0D, 0x0E, 0x0F, 0xFF])) && decide (2 ≤ types.length)
   else decide (types = [2, 3, 4, 5, 6, 7, 8, 9, 0xA, 0xB, 0xC, 0xD, 0xE, 0xF, 0x10, 0xFF]))

/-- The signature of a SIGN record over the bytes before it, by a key (R66). -/
def signed (b : List Byte) (signOff : Nat) (key : List Byte) : Bool :=
  let s := slice b signOff 104
  decide (fieldAt s 0 2 = 1) && zeroBytes s 3 8 && Config.ecdsaVerify key (b.take signOff) (slice s 8 48) (slice s 56 48)

def Chip.checkSign (m : Chip) (b : List Byte) : Bool :=
  match (secsOf b).getLast? with
  | none => false
  | some s =>
    match m.nv.imgKeys[fieldAt b (s.off + 2) 1]? with
    | some (st, key) => decide (st = 1) && signed b s.off key
    | none => false

/-! ## Step 6: field ranges (R65) -/

/-- A field of a record: offset, size, lowest and highest value. -/
abbrev FRange := Nat × Nat × Nat × Nat

/-- The nominal clock of an island in MHz (R31). -/
def nominalMhz (i : Nat) : Nat :=
  if i = 0 then 50 else if i = 1 then 2000 else if i < 10 then 1000 else if i < 12 then 1600 else if i < 24 then 1200
  else if i < 26 then 1600 else if i = 26 then 1500 else 1000

/-- The listed fields of a record of a section. -/
def fieldsOf (t i : Nat) (r : List Byte) : List FRange :=
  match t with
  | 0x02 => [(0, 1, 0, 1), (1, 1, 0, if fieldAt r 0 1 = 1 then 1 else 31), (2, 1, 0, if fieldAt r 0 1 = 1 then 16 else 127), (3, 1, 4, 16),
      (4, 1, if fieldAt r 0 1 = 1 then 6 else 4, 6), (5, 1, 0, 1), (6, 2, 0, 65535)]
  | 0x03 => [(0, 2, if fieldAt r 2 1 = 1 then 32 else 0, if fieldAt r 2 1 = 1 then 4127 else 31), (2, 1, 0, 1), (3, 1, 0, 31), (4, 2, 0, 31),
      (6, 2, 0, 4095), (8, 1, 14, 24), (9, 1, 0, 26), (10, 2, 1, 2048), (12, 1, 1, 128), (13, 1, 0, 1)]
  | 0x04 => [(0, 2, 0, 65535), (2, 2, 0, 65535), (4, 4, 0, 262143)]
  | 0x05 => [(0, 2, 0, 4095), (2, 1, 0, 15), (3, 1, 0, 3), (4, 2, 1, 8192), (8, 4, 0, 200000), (12, 4, 0, 16384), (16, 4, 0, 262144),
      (20, 2, 0, 8192), (24, 4, 0, 2 ^ 32 - 1), (28, 2, 0, 65535), (30, 2, 0, 1)]
  | 0x06 => [(0, 1, 0, 15), (1, 1, 0, 255)] ++ (List.range 8).map fun k => (4 + 4 * k, 4, 1, 62500000)
  | 0x07 => [(0, 2, 0, 65535), (2, 2, 0, 1024), (4, 2, 0, 1024)]
  | 0x08 => [(0, 1, 0, 63), (1, 1, 0, 1), (2, 1, 0, 1), (3, 1, 0, 15), (4, 4, 0, 2 ^ 32 - 1), (8, 4, 1, 2 ^ 32 - 1), (12, 1, 0, 255),
      (13, 1, 0, 255), (14, 1, 0, 255), (15, 1, 0, 255), (16, 1, 0, if fieldAt r 2 1 = 0 then 0 else 63), (17, 1, 0, 1)]
  | 0x09 => [(0, 1, 16, 16), (1, 1, 2, 2), (2, 1, 2, 2), (3, 1, 28, 28), (4, 1, 18, 18), (5, 1, 33, 33), (8, 4, 1, 262144), (12, 2, 0, 1024),
      (14, 2, 64, 64), (16, 2, 1, 4096), (18, 2, 1, fieldAt r 16 2), (20, 4, 0, 2 ^ 32 - 1), (24, 4, 0, 2 ^ 32 - 1)]
  | 0x0A =>
    if i = 0 then [(0, 1, 0, 1), (1, 1, 1, 8), (2, 1, 4, 4), (3, 1, 4, 4), (4, 2, 0, if fieldAt r 0 1 = 0 then 1600 else 4800), (6, 2, 0, 2304),
      (8, 1, 14, 14), (9, 1, 1, 4), (10, 2, 1, 4096), (12, 2, 0, 1024), (14, 2, 1, 1000), (16, 2, 1, 65535), (18, 2, 1, 65535),
      (20, 2, 1, 80), (22, 2, 1, 300), (24, 1, 0, 3), (25, 1, 1, 64), (26, 2, 1, 1000), (28, 2, 1, fieldAt r 16 2)]
    else if i = 1 then []
    else (0, 1, 0, 63) :: (List.range 15).map fun k => (2 + 2 * k, 2, 0, 65535)
  | 0x0B => [(0, 1, 0, 27), (1, 1, 0, 255), (2, 2, 0, nominalMhz (fieldAt r 0 1)), (4, 2, 0, fieldAt r 2 2),
      (6, 1, if fieldAt r 0 1 ∈ [0, 1, 10, 11] then 1 else 0, 1)]
  | 0x0C =>
    if i = 0 then [(0, 1, 0, 0), (1, 1, 1, 16), (2, 1, 0, fieldAt r 1 1 - 1), (3, 1, 0, 15), (4, 2, 1, 65535)]
    else [(0, 1, 1, 1), (1, 1, 0, 15), (2, 1, 0, 15), (3, 1, 0, 3), (4, 2, 0, 65535), (6, 2, 0, 1023), (8, 2, 0, 1023), (10, 2, 1, 65535)]
  | 0x0D => let top := if Config.gradeX then 110 else 105
    [(0, 1, 85, top), (1, 1, 80, fieldAt r 0 1 - 1), (2, 1, fieldAt r 0 1 + 1, if Config.gradeX then 120 else 110), (3, 1, 1, 10),
      (4, 1, 0, 69), (5, 1, fieldAt r 4 1 + 1, 70), (8, 8, 0, 2 ^ 40 - 1)]
  | 0x0E => [(0, 1, 0, 10), (1, 1, 0, 63), (2, 1, 0, 255)]
  | 0x0F => [(0, 2, 0, 65535), (2, 2, 0, 65535), (4, 2, 1, 65535), (6, 2, 0, 1)]
  | 0x10 => [(0, 8, 0, 2 ^ 64 - 1), (8, 48, 0, 2 ^ 384 - 1), (56, 1, 0, 255), (57, 1, 0, 3), (58, 1, 0, 1)]
  | _ => []

/-- Every field is in its range, and every byte that no field covers is 0. -/
def recordOk (fs : List FRange) (r : List Byte) : Bool :=
  (fs.all fun f => let v := fieldAt r f.1 f.2.1; decide (f.2.2.1 ≤ v ∧ v ≤ f.2.2.2)) &&
  ((List.range r.length).all fun k => decide (r.getD k 0 = 0) || fs.any fun f => decide (f.1 ≤ k ∧ k < f.1 + f.2.1))

/-- The rules of R65 that tie fields of a record, or a record to its section, together. A physical function's number is its port's, so a virtual
function's port is its parent's when the two fields agree. -/
def recordTied (t i count : Nat) (r : List Byte) (before : List (List Byte)) : Bool :=
  match t with
  | 0x02 => let w := fieldAt r 3 1; let o := fieldAt r 2 1
    decide (w = 4 ∨ w = 8 ∨ w = 16) && (if fieldAt r 0 1 = 1 then decide (w = 16 ∧ (o = 0 ∨ o = 16)) else decide (o % w = 0))
  | 0x03 => let f := fieldAt r 0 2
    (if fieldAt r 2 1 = 0 then decide (f = fieldAt r 3 1 ∧ fieldAt r 4 2 = f) else decide (fieldAt r 3 1 = fieldAt r 4 2)) &&
      decide (fieldAt r 9 1 = if f = 0 then 26 else 0)
  | 0x07 => true
  | 0x08 => decide (fieldAt r 12 1 < fieldAt r 13 1 ∧ fieldAt r 13 1 < fieldAt r 14 1 ∧ fieldAt r 14 1 < fieldAt r 15 1)
  | 0x09 => decide (fieldAt r 12 2 ≤ fieldAt r 8 4)
  | 0x0A => decide (i ≠ 0 ∨ fieldAt r 25 1 = count - 2)
  | 0x0B => before.all fun q => decide (fieldAt q 0 1 ≠ fieldAt r 0 1)
  | _ => true

/-- The bits of a register at a CW offset that are RWL. -/
def rwlMask (fields : List Fld) (off : Nat) : Nat :=
  ((fields.filter fun f => decide (f.acc = .rwl) && (f.index? off).isSome).map fun f => (2 ^ (f.hi - f.lo + 1) - 1) * 2 ^ f.lo).foldl (· ||| ·) 0

/-- Every field of the control window. -/
def allFields : List Fld :=
  fieldsGEN ++ fieldsISL ++ fieldsIMG ++ fieldsHPT ++ fieldsQIE ++ fieldsQCX ++ fieldsZNE ++ fieldsDLS ++ fieldsTNT ++ fieldsFCH ++
  fieldsLDP ++ fieldsSPE ++ fieldsCMP ++ fieldsCPH ++ fieldsKVT ++ fieldsNVA ++ fieldsTRS ++ fieldsBPM ++ fieldsARB ++ fieldsDRC ++
  fieldsSDP ++ fieldsTWN ++ fieldsPSQ ++ fieldsPLP ++ fieldsPWR ++ fieldsTHM ++ fieldsAGE ++ fieldsEVR ++ fieldsFLT ++ fieldsPTB

/-- Step 6: the first field out of range. HDR's own fields come first, as section 1 (log entry 30). -/
def checkFields (b : List Byte) : Option ImgFail :=
  let v := imgVersion b
  let base := fieldAt b 0x18 4
  if v = 0 ∨ v < fieldAt b 0x14 4 ∨ (imgKind b = 0 ∧ base ≠ 0) ∨ 4 ≤ fieldAt b 0x0E 1 ∨ !zeroBytes b 0x40 0x80 then some ⟨7, 1, 0⟩
  else match (List.range (wCount b)).find? fun i =>
      let o := 0x80 + 8 * i
      let mask := fieldAt b (o + 4) 4
      decide (mask &&& rwlMask allFields (fieldAt b o 4) ≠ mask) with
  | some i => some ⟨7, 1, i⟩
  | none => (secsOf b).findSome? fun s =>
      if s.type = 0xFF then none
      else ((List.range s.count).find? fun i =>
        let r := s.record b i
        !(recordOk (fieldsOf s.type i r) r && recordTied s.type i s.count r ((s.recs b).take i))).map fun i => ⟨7, s.type, i⟩

/-! ## Records -/

def LaneRec.read (r : List Byte) : LaneRec :=
  { kind := fieldAt r 0 1, index := fieldAt r 1 1, first := fieldAt r 2 1, width := fieldAt r 3 1, maxGen := fieldAt r 4 1,
    reverse := fieldAt r 5 1, polarity := fieldAt r 6 2 }
def FuncRec.read (r : List Byte) : FuncRec :=
  { func := fieldAt r 0 2, type := fieldAt r 2 1, port := fieldAt r 3 1, parent := fieldAt r 4 2, tenant := fieldAt r 6 2,
    bar0 := fieldAt r 8 1, bar2 := fieldAt r 9 1, msix := fieldAt r 10 2, ana := fieldAt r 12 1, flags := fieldAt r 13 1 }
def QRec.read (r : List Byte) : QRec := { func := fieldAt r 0 2, count := fieldAt r 2 2, first := fieldAt r 4 4 }
def TenantRec.read (r : List Byte) : TenantRec :=
  { tenant := fieldAt r 0 2, lattable := fieldAt r 2 1, flags := fieldAt r 3 1, maxNs := fieldAt r 4 2, quota := fieldAt r 8 4,
    gust := fieldAt r 12 4, zoneQuota := fieldAt r 16 4, activeQuota := fieldAt r 20 2, keyset := fieldAt r 24 4,
    keygen := fieldAt r 28 2, keypol := fieldAt r 30 2 }
def LatRec.read (r : List Byte) : LatRec :=
  { table := fieldAt r 0 1, abortMask := fieldAt r 1 1, deadlines := (List.range 8).map fun k => fieldAt r (4 + 4 * k) 4 }
def LedgerRec.read (r : List Byte) : LedgerRec := { tenant := fieldAt r 0 2, share := fieldAt r 2 2, recon := fieldAt r 4 2 }
def PoolRec.read (r : List Byte) : PoolRec :=
  { pool := fieldAt r 0 1, mem := fieldAt r 1 1, mode := fieldAt r 2 1, rank := fieldAt r 3 1, base := fieldAt r 4 4,
    size := fieldAt r 8 4, wm := (List.range 4).map fun k => fieldAt r (12 + k) 1, classmask := fieldAt r 16 1, flags := fieldAt r 17 1 }
def ZoneGeo.read (r : List Byte) : ZoneGeo :=
  { geo := (List.range 6).map fun k => fieldAt r k 1, zones := fieldAt r 8 4, conv := fieldAt r 12 2, logBlocks := fieldAt r 14 2,
    activeLimit := fieldAt r 16 2, openLimit := fieldAt r 18 2, metaBlocks := fieldAt r 20 4, flushBlocks := fieldAt r 24 4 }
def FlashRec.read (rs : List (List Byte)) : FlashRec :=
  let r := rs.headD []
  { iface := fieldAt r 0 1, ceCount := fieldAt r 1 1, luns := fieldAt r 2 1, planes := fieldAt r 3 1, rate := fieldAt r 4 2,
    spare := fieldAt r 6 2, pageLog2 := fieldAt r 8 1, cellBits := fieldAt r 9 1, userBlocks := fieldAt r 10 2,
    rsvBlocks := fieldAt r 12 2, trUs := fieldAt r 14 2, tprogUs := fieldAt r 16 2, tbers10us := fieldAt r 18 2,
    psuspUs := fieldAt r 20 2, esuspUs := fieldAt r 22 2, maxSusp := fieldAt r 24 1, retrySteps := fieldAt r 25 1,
    minEyePs := fieldAt r 26 2, tprogSlcUs := fieldAt r 28 2,
    retry := (rs.drop 2).map fun q => fieldAt q 0 1 :: (List.range 15).map fun k => fieldAt q (2 + 2 * k) 2 }
def IslandRec.read (r : List Byte) : IslandRec :=
  { island := fieldAt r 0 1, vpt := fieldAt r 1 1, freq := fieldAt r 2 2, fmin := fieldAt r 4 2, flags := fieldAt r 6 1 }
def RailRec.read (r : List Byte) : RailRec :=
  { rail := fieldAt r 1 1, upState := fieldAt r 2 1, flags := fieldAt r 3 1, pgTimeout := fieldAt r 4 2, vsNominal := fieldAt r 6 2,
    vsDischarge := fieldAt r 8 2, disTimeout := fieldAt r 10 2 }
def SeqRec.read (rs : List (List Byte)) : SeqRec :=
  let r := rs.headD []
  { groupSize := fieldAt r 1 1, position := fieldAt r 2 1, lastState := fieldAt r 3 1, frontUs := fieldAt r 4 2,
    rails := (rs.drop 1).map RailRec.read }
def ThermRec.read (r : List Byte) : ThermRec :=
  { throttle := fieldAt r 0 1, thermN := fieldAt r 1 1, trip := fieldAt r 2 1, hyst := fieldAt r 3 1, mediaLo := fieldAt r 4 1,
    mediaHi := fieldAt r 5 1, mask := fieldAt r 8 8 }
def ArbRec.read (r : List Byte) : ArbRec := { inst := fieldAt r 0 1, requester := fieldAt r 1 1, tickets := fieldAt r 2 1 }
def EvrRec.read (r : List Byte) : EvrRec := { code := fieldAt r 0 2, depth := fieldAt r 2 2, refill := fieldAt r 4 2, flags := fieldAt r 6 2 }
def TwinRec.read (r : List Byte) : TwinRec :=
  { pairId := fieldAt r 0 8, digest := slice r 8 48, mirrorPool := fieldAt r 56 1, sublinks := fieldAt r 57 1, flags := fieldAt r 58 1 }

/-- The tables of an image; a live image's missing sections are those of the tables it applies to, and its own WRITABLE entries count for
nothing (log entry 153). -/
def Image.read (b : List Byte) (on : Image) : Image :=
  let recs (t : Nat) : Option (List (List Byte)) := ((secsOf b).find? (·.type = t)).map (·.recs b)
  { kind := imgKind b, version := imgVersion b, floor := fieldAt b 0x14 4, base := fieldAt b 0x18 4,
    sections := (secsOf b).map (·.type),
    writable := if imgKind b = 1 then on.writable
      else (List.range (wCount b)).map fun i => (fieldAt b (0x80 + 8 * i) 4, fieldAt b (0x84 + 8 * i) 4),
    lanes := match recs 0x02 with | some r => r.map LaneRec.read | none => on.lanes,
    funcs := match recs 0x03 with | some r => r.map FuncRec.read | none => on.funcs,
    qalloc := match recs 0x04 with | some r => r.map QRec.read | none => on.qalloc,
    tenants := match recs 0x05 with | some r => r.map TenantRec.read | none => on.tenants,
    lat := match recs 0x06 with | some r => r.map LatRec.read | none => on.lat,
    ledger := match recs 0x07 with | some r => r.map LedgerRec.read | none => on.ledger,
    pools := match recs 0x08 with | some r => r.map PoolRec.read | none => on.pools,
    geo := match recs 0x09 with | some r => ZoneGeo.read (r.headD []) | none => on.geo,
    flash := match recs 0x0A with | some r => FlashRec.read r | none => on.flash,
    islands := match recs 0x0B with | some r => r.map IslandRec.read | none => on.islands,
    seq := match recs 0x0C with | some r => SeqRec.read r | none => on.seq,
    therm := match recs 0x0D with | some r => ThermRec.read (r.headD []) | none => on.therm,
    arb := match recs 0x0E with | some r => r.map ArbRec.read | none => on.arb,
    evr := match recs 0x0F with | some r => r.map EvrRec.read | none => on.evr,
    twin := match recs 0x10 with | some r => TwinRec.read (r.headD []) | none => on.twin }

/-! ## Step 7: cross-section rules (R68, R88, R349) -/

/-- The first index of a list that fails a test. -/
def firstBad {α : Type} (ok : Nat → α → Bool) : Nat → List α → Option Nat
  | _, [] => none
  | i, a :: t => if ok i a then firstBad ok (i + 1) t else some i

/-- Ranges given as (start, length) do not meet. -/
def apart (a b : Nat × Nat) : Bool := decide (a.1 + a.2 ≤ b.1 ∨ b.1 + b.2 ≤ a.1 ∨ a.2 = 0 ∨ b.2 = 0)

/-- Record `i`'s range meets none before it. -/
def apartAll (rs : List (Nat × Nat)) (i : Nat) : Bool := (rs.take i).all (apart (rs.getD i (0, 0)))

/-- The bytes BAR0's layout needs (R87). -/
def bar0Need (count msix : Nat) : Nat :=
  let up (x : Nat) : Nat := ceilDiv x 4096 * 4096
  up (up (0x1000 + 8 * (count + 1)) + 16 * msix) + 8 * ceilDiv msix 64

/-- LANE: host lanes disjoint, each port within one group of 16. -/
def Image.laneBad (i : Image) : Option Nat :=
  let spans := i.lanes.map fun l => if l.kind = 0 then (l.first, l.width) else (0, 0)
  firstBad (fun k (l : LaneRec) => decide (l.kind = 1 ∨ l.first / 16 = (l.first + l.width - 1) / 16) && apartAll spans k) 0 i.lanes

/-- FUNC: ports, parents and tenants exist, function 0 on port 0, virtual functions at most 4,096, BAR0 holds its layout. A second record of a
function fails too, as one of QALLOC, TENANT or POOL does (log entry 153). -/
def Image.funcBad (i : Image) : Option Nat :=
  let vfs := (i.funcs.filter fun f => decide (f.type = 1)).length
  firstBad (fun k (f : FuncRec) =>
    (i.lanes.any fun l => decide (l.kind = 0 ∧ l.index = f.port)) && decide (f.func ≠ 0 ∨ f.port = 0) &&
    (i.funcs.any fun p => decide (p.func = f.parent ∧ p.type = 0)) && (i.tenant? f.tenant).isSome &&
    ((i.funcs.take k).all fun g => decide (g.func ≠ f.func)) && decide (vfs ≤ 4096) &&
    decide (bar0Need (i.qcount f.func) f.msix ≤ 2 ^ f.bar0)) 0 i.funcs

def Image.qallocBad (i : Image) : Option Nat :=
  let spans := i.qalloc.map fun r => (r.first, r.count)
  firstBad (fun k (r : QRec) => (i.func? r.func).isSome && decide (r.first + r.count ≤ 262144) && apartAll spans k &&
    ((i.qalloc.take k).all fun p => decide (p.func ≠ r.func))) 0 i.qalloc

/-- A rule over the whole section (MAX_NS here, SHARE and the number of virtual functions elsewhere) names record 0 (log entry 153). -/
def Image.tenantBad (i : Image) : Option Nat :=
  let sum := (i.tenants.map (·.maxNs)).sum
  firstBad (fun k (t : TenantRec) => (i.lat? t.lattable).isSome && decide (sum ≤ 8192) &&
    ((i.tenants.take k).all fun p => decide (p.tenant ≠ t.tenant))) 0 i.tenants

def Image.ledgerBad (i : Image) : Option Nat :=
  let sum := (i.ledger.map (·.share)).sum
  firstBad (fun k (l : LedgerRec) => (i.tenant? l.tenant).isSome && decide (sum ≤ 1024) &&
    ((i.ledger.take k).all fun p => decide (p.tenant ≠ l.tenant))) 0 i.ledger

/-- POOL: disjoint regions, SRAM below 252 MiB, DRAM at or above unit 16,384, classes, one mirror-receive pool, and for every
memory and rank of R351 exactly one other pool. -/
def Image.poolBad (i : Image) : Option Nat :=
  let span (mem : Nat) : List (Nat × Nat) := i.pools.map fun p => if p.mem = mem then (p.base, p.size) else (0, 0)
  let mirrors := (i.pools.filter PoolRec.mirror).length
  let pairs := [(0, 2), (0, 4), (0, 6), (0, 8), (1, 10), (1, 14)]
  let dup (p : PoolRec) : Bool := !p.mirror && decide ((p.mem, p.rank) ∈ pairs) &&
    decide ((i.pools.filter fun q => !q.mirror && decide (q.mem = p.mem ∧ q.rank = p.rank)).length ≠ 1)
  match firstBad (fun k (p : PoolRec) =>
      (if p.mem = 0 then apartAll (span 0) k && decide (p.base + p.size ≤ 4032) else apartAll (span 1) k && decide (16384 ≤ p.base)) &&
      decide (p.mode = 0 ∨ p.classmask ≠ 0) && (!p.mirror || decide (p.mem = 1 ∧ mirrors = 1)) && !dup p &&
      ((i.pools.take k).all fun q => decide (q.pool ≠ p.pool))) 0 i.pools with
  | some k => some k
  | none =>
    if mirrors = 0 ∨ !(pairs.all fun (mem, rank) => i.pools.any fun p => !p.mirror && decide (p.mem = mem ∧ p.rank = rank)) then some 0
    else none

/-- Step 7, in the order of the sections. A missing LATCLASS table 0 names record 0 of its section (log entry 153). -/
def Image.crossBad (i : Image) : Option ImgFail :=
  match i.laneBad with
  | some k => some ⟨8, 2, k⟩
  | none => match i.funcBad with
  | some k => some ⟨8, 3, k⟩
  | none => match i.qallocBad with
  | some k => some ⟨8, 4, k⟩
  | none => match i.tenantBad with
  | some k => some ⟨8, 5, k⟩
  | none =>
    if (i.lat? 0).isNone then some ⟨8, 6, 0⟩
    else match i.ledgerBad with
    | some k => some ⟨8, 7, k⟩
    | none => match i.poolBad with
    | some k => some ⟨8, 8, k⟩
    | none =>
      if 96 * i.flash.ceCount * 4 * i.flash.userBlocks < i.geo.zones * 18 + i.geo.metaBlocks + i.geo.flushBlocks then some ⟨8, 9, 0⟩
      else if !(i.pools.any fun p => p.mirror && decide (p.pool = i.twin.mirrorPool)) then some ⟨8, 0x10, 0⟩
      else none

/-! ## Step 8: live images -/

/-- The structural fields of a TENANT record. -/
def TenantRec.struct (t : TenantRec) : List Nat := [t.tenant, t.lattable, t.flags, t.maxNs]

/-- The first index where two lists differ, if they do. -/
def firstDiff {α : Type} [DecidableEq α] (a b : List α) : Option Nat :=
  (List.range (max a.length b.length)).find? fun k => decide (a[k]? ≠ b[k]?)

/-- The first structural difference from the running tables, by section type and record: the sections in ascending order (log entry 153). Of HDR
the WRITABLE list is compared, of FLASH the geometry as record 0 and the retry steps, of SEQ the group record and the rails. -/
def Image.structDiff (i run : Image) : Option ImgFail :=
  let full (d : Option Nat) : Option Nat := if i.kind = 0 then d else none
  let one (same : Bool) : Option Nat := if same then none else some 0
  let head (same : Bool) (k : Nat) (d : Option Nat) : Option Nat := if same then d.map (· + k) else some 0
  let diffs : List (Nat × Option Nat) :=
    [(1, full (firstDiff i.writable run.writable)), (2, full (firstDiff i.lanes run.lanes)), (3, full (firstDiff i.funcs run.funcs)),
     (4, full (firstDiff i.qalloc run.qalloc)), (5, firstDiff (i.tenants.map TenantRec.struct) (run.tenants.map TenantRec.struct)),
     (8, full (firstDiff i.pools run.pools)), (9, full (one (i.geo = run.geo))),
     (0xA, full (head ({ i.flash with retry := [] } = { run.flash with retry := [] }) 2 (firstDiff i.flash.retry run.flash.retry))),
     (0xB, full (firstDiff i.islands run.islands)),
     (0xC, full (head ({ i.seq with rails := [] } = { run.seq with rails := [] }) 1 (firstDiff i.seq.rails run.seq.rails))),
     (0xD, one (i.therm.mask = run.therm.mask)), (0x10, full (one (i.twin = run.twin)))]
  diffs.findSome? fun e => e.2.map fun k => ⟨0xC, e.1, k⟩

/-- Steps 1 to 7 of R67 on delivered bytes, `len` of which were announced. -/
def Chip.validate (m : Chip) (b : List Byte) (len : Nat) (on : Image) : Option ImgFail :=
  if !checkHeader b len then some ⟨2, 0, 0⟩
  else if !checkPart b 0x0C (m.f GEN_ID.REV) then some ⟨3, 0, 0⟩
  else if !checkLayout b then some ⟨4, 0, 0⟩
  else if !m.checkSign b then some ⟨5, 0, 0⟩
  else if imgVersion b < m.nv.floor then some ⟨6, 0, 0⟩
  else match checkFields b with
  | some e => some e
  | none => (Image.read b on).crossBad

/-- Step 8. -/
def Chip.validateLive (m : Chip) (i : Image) : Option ImgFail :=
  if m.f GEN_EPOCH.DRAINING = 1 then some ⟨0xA, 0, 0⟩
  else if i.kind = 1 ∧ i.base ≠ m.f GEN_IMGVER.VERSION then some ⟨9, 1, 0⟩
  else i.structDiff m.img.tables

end Sys2Proof.Machine
end

