-- ==== Sys2Proof/Machine/Arbiters.lean ====
section
/-! DEFINITION. What the rows of the buffer pools do (R354 to R363), and the lottery arbiters' rows (R367 to R373). -/

namespace Sys2Proof.Machine

/-! ## Pool requests (R353 to R360) -/

/-- The link at the head of a free buffer or cell of pool `p` (R363): the next free index, the pool and their check. -/
def linkWord (next p : Nat) : Nat :=
  let w := next + 2 ^ 32 * p
  w + 2 ^ 48 * crc16 (leBytes 6 w)

/-- A link as it is popped of pool `p` holds what its check and the pool's number say (R363). -/
def linkOk (p w : Nat) : Bool := decide (w / 2 ^ 48 = crc16 (leBytes 6 w) ∧ bits w 37 32 = p)

/-- A free-list link fails its check (R363): the pool's lists are rebuilt, and its requests wait. -/
def Chip.badLink (m : Chip) (p : Nat) : Chip := ((m.incF BPM_ERRCNT.LIST).emit 11 0x6603).setF BPM_POOLSTAT.REBUILD 1 p

/-- A request is refused at once by rank or size class (R353, R357). -/
def Chip.refuseReq (m : Chip) : Chip := (m.incF BPM_ERRCNT.RANK).emit 11 0x6605

/-- What waits on a pool is granted; `popped`: what the first pop reads where that is no longer the link as written. -/
def Chip.grantPopped (m : Chip) (p : Nat) (popped : Option (BitVec 64)) : Chip :=
  let g := m.grantPool p
  if (popped.any fun w => !linkOk p w.toNat) && decide ((g.pool p).wait ≠ (m.pool p).wait) then m.badLink p else g

/-- A requester asks for up to 8 buffers of one pool, for a unit of work. -/
def Chip.poolRequest (m : Chip) (rq : Nat) (sizes : List Nat) (work deadline cls : Nat) (popped : Option (BitVec 64)) : Chip :=
  match m.img.tables.poolOf rq with
  | none => m
  | some r =>
    if sizes = [] ∨ 8 < sizes.length then m
    else if (m.workRank work).any (r.rank ≤ ·) || (sizes.any fun n => ((m.pool r.pool).charge r.classmask n).isNone) then m.refuseReq
    else
      let q : PoolReq := { id := m.bp.nextReq, rq := rq, sizes := sizes, deadline := deadline % 2 ^ 32, cls := cls, created := m.isl.dtc, work := work }
      let m := { m with bp := { m.bp with nextReq := m.bp.nextReq + 1 } }
      let p := m.pool r.pool
      let m := m.setPool r.pool { p with wait := insertReq q p.wait }
      m.grantPopped r.pool popped

/-! ## Shared buffers (R361, R362) -/

/-- An add raises the count and names the requester; an add after the buffer is free is refused without a fault. -/
def execBufferAddOwner (rq : Fin 64) (buf : Nat) (s : State) : Host.Outcome State Fault Refusal :=
  run s fun m => (m.addOwner rq.val buf).1

/-! ## Lottery arbiters (R367 to R373). Arbiter 11 is sub-link 1 of instance 9. -/

/-- The requesters that use an instance (R351). -/
def arbUses (inst r : Nat) : Bool :=
  if inst ≤ 7 then decide ((20 ≤ r ∧ r ≤ 31) ∨ r ∈ [35, 36, 37, 38, 39, 40, 41, 42, 46])
  else if inst = 8 then decide (r ≤ 7 ∨ r = 32 ∨ r = 33)
  else if inst = 9 then decide (47 ≤ r ∧ r ≤ 50)
  else decide (42 ≤ r ∧ r ≤ 45)

/-- Tickets loaded from an image's ARB section: 16 for a pair without a record (R372). -/
def Chip.arbLoad (m : Chip) (recs : List ArbRec) : Chip :=
  let m := (List.range 11).foldl (fun (m : Chip) inst => (List.range 64).foldl (fun (m : Chip) r =>
    m.setF (tktField r) (((recs.find? fun e => e.inst = inst ∧ e.requester = r).map (·.tickets)).getD 16) (inst * 16 + r / 4)) m) m
  (List.range 12).foldl (fun (m : Chip) i => m.setArb i { m.arb i with dirty := true }) m

/-- ARB_STAT of an arbiter: OWNER reads 0 with no grant. -/
def Chip.showArb (m : Chip) (i owner : Nat) (busy parked : Bool) : Chip :=
  ((m.setF ARB_STAT.OWNER (if busy || parked then owner else 0) i).setF ARB_STAT.BUSY (b1 busy) i).setF ARB_STAT.PARKED (b1 parked) i

/-- The requesters that request at an arbiter: those given that use it; at instance 8 those whose blocks wait for an idle engine (R282). -/
def Chip.arbRequests (m : Chip) (i : Nat) (reqs : List Nat) : List Nat :=
  let bs := m.blockRequests
  (List.range 64).filter fun r => decide (r ∈ if i = 8 then bs else reqs) && arbUses (arbInst i) r

/-- A grant; at instance 8 the winner's block goes to an engine (R282). -/
def Chip.arbGrant (m : Chip) (i r : Nat) : Chip :=
  let m := m.showArb i r true false
  if i = 8 then m.dispatchBlock r else m

/-- A draw among `reqs` (R369, R370): for an arbiter whose transfer runs it names the next owner; else the winner has the grant,
unless it `withdrew`. A parked owner alone starts its transfer without a draw. -/
def Chip.arbDraw (m : Chip) (i : Nat) (reqs : List Nat) (withdrew : Bool) : Chip :=
  let reqs := m.arbRequests i reqs
  let busy := decide (m.f ARB_STAT.BUSY i = 1)
  let owner := m.f ARB_STAT.OWNER i
  if !m.islServes (arbIsland i) ∨ reqs = [] then m
  else if m.f ARB_STAT.PARKED i = 1 ∧ reqs = [owner] then m.arbGrant i owner
  else
    let m := m.arbCopy i
    let (w, a) := (m.arb i).draw reqs
    let m := (m.setArb i { a with winner := if busy then w else none }).incF ARB_DRAWS.COUNT i
    if busy then m
    else if withdrew then (m.incF ARB_NULL.COUNT i).showArb i 0 false false
    else m.arbGrant i (w.getD 0)

def execArbiterDraw (i : Fin 12) (reqs : List Nat) (withdrew : Bool) (s : State) : Host.Outcome State Fault Refusal :=
  run s fun m => m.arbDraw i.val reqs withdrew

/-- A transfer ends with `reqs` requesting (R369, R370): the drawn winner has the grant, or a null grant when it withdrew;
without a rival the grant parks on its owner, unless the owner's tickets are 0. -/
def Chip.arbEnd (m : Chip) (i : Nat) (reqs : List Nat) : Chip :=
  if m.f ARB_STAT.BUSY i = 0 then m
  else
    let owner := m.f ARB_STAT.OWNER i
    let a := m.arb i
    let reqs := m.arbRequests i reqs
    let m := m.setArb i { a with winner := none }
    match a.winner with
    | some w => if w ∈ reqs then m.arbGrant i w else (m.incF ARB_NULL.COUNT i).showArb i 0 false false
    | none =>
      let rival := reqs.any (· ≠ owner)
      m.showArb i owner false (!rival && decide (tget 0 a.active owner ≠ 0))

def execArbiterTransferEnd (i : Fin 12) (reqs : List Nat) (s : State) : Host.Outcome State Fault Refusal :=
  run s fun m => m.arbEnd i.val reqs

/-- The arbiters of an island that resets lose grant and park, reload the shadow and draw a new seed; they also start so
(R368, R373, R374). -/
def Chip.arbSeed (m : Chip) (i : Nat) : Chip :=
  let (x, m) := m.draw 32
  (m.setArb i { m.arb i with lfsr := if x = 0 then 1 else x, dirty := true, winner := none }).showArb i 0 false false

/-- A write of ticket registers: the shadow at once, the active set at the next draw (R371). -/
def Chip.tktDirty (m : Chip) (inst : Nat) : Chip :=
  let m := m.setArb inst { m.arb inst with dirty := true }
  if inst = 9 then m.setArb 11 { m.arb 11 with dirty := true } else m

end Sys2Proof.Machine
end

