-- ==== Sys2Proof/Machine/Barriers.lean ====
section
/-! DEFINITION. Barriers between their request and their end (R54 to R58, R176), which the image loader's commit marker uses too (R76). -/

namespace Sys2Proof.Machine

def Chip.solo (m : Chip) : Bool := decide (m.f GEN_SIDE.SOLO = 1)

/-- A barrier waits or flies for the CW (PEND and BUSY). -/
def Chip.showBarrier (m : Chip) : Chip :=
  (m.setF ISL_BARSTAT.BUSY (b1 m.isl.flight.isSome)).setF ISL_BARSTAT.PEND (b1 (m.isl.barQueue.any fun b => decide (b.src = .cw)))

/-- Every zone as the accepted commands before the marker leave it (R55, R176). -/
def Chip.cut (m : Chip) : Table SnapRec :=
  m.zn.zones.map fun e => (e.1, { state := e.2.state, cwp := e.2.cwp, rwp := e.2.rwp })

/-- A tenant's buckets at the moment CMD applies new tables: a quota that rises from 0 starts full with an empty gust bucket,
any other is clipped to the new depths (R196, R209). -/
def Chip.applyQuota (m : Chip) (old : Image) (r : TenantRec) : Chip :=
  let was := ((old.tenant? r.tenant).map (·.quota)).getD 0
  let x := m.ten r.tenant
  if r.quota = 0 then m
  else if was = 0 then m.setTen r.tenant { x with quota := r.quotaDepth, gust := 0 }
  else m.setTen r.tenant { x with quota := min x.quota r.quotaDepth, gust := min x.gust r.gustDepth }

/-- The commit marker of an epoch switch goes: CMD stamps the new epoch on every command from now on (step 3 of R76). -/
def Chip.commitStart (m : Chip) : Chip :=
  match m.img.switch with
  | none => m
  | some sw =>
    let m := m.reconTurn m.img.tables sw.tables
    let m := { m with img := { m.img with switch := some { sw with stamping := true } } }
    let m := if 0x0E ∈ sw.tables.sections then m.arbLoad sw.tables.arb else m
    sw.tables.tenants.foldl (fun (m : Chip) r => m.applyQuota m.img.tables r) m

/-- A barrier starts its flight: its MARKER takes its place in acceptance order and goes to the clusters; the porter of one that is off has
acknowledged it. A snapshot takes its cut, a pair barrier sends its marker. -/
def Chip.barFly (m : Chip) (b : Barrier) : Chip :=
  let m := if b.src = .image then m.commitStart else m
  let off := (List.range 12).filter fun k => !m.islServes (12 + k)
  let b := { b with start := m.isl.dtc, twin := b.twin && !m.solo, place := m.q.seq, acks := (off.map (2 ^ ·)).sum }
  let m := { m with isl := { m.isl with flight := some b }, md := { m.md with mark := some (b.marker, b.place) } }
  let m := ((List.range 12).filter fun k => m.islServes (12 + k)).foldl (fun (m : Chip) k =>
    m.send (.unit (12 + k) (markerTag b.marker m.stampEpoch.1 m.now))) m
  let m := if b.snap then
      ({ m with isl := { m.isl with snap := m.cut, snapMarker := none } } : Chip).setF ZNE_SNAPSTAT.READY 0 else m
  let m := if b.twin then m.sendFrame 0x0F none none (leBytes 2 b.marker ++ leBytes 1 (b1 b.snap) ++ leBytes 1 0) [] else m
  m.showBarrier

/-- A barrier is requested: it flies, waits behind at most 3 others, or is refused (R58). `marker`: the twin's own number; a MARKER of the twin
counts among the waiting ones, and one for which there is no place is dropped with no answer (log entry 152). -/
def Chip.barRequest (m : Chip) (src : BarSrc) (snap twin : Bool) (marker : Option Nat) : Chip :=
  if m.isl.flight.isSome ∧ 4 ≤ m.isl.barQueue.length then if src = .cw then m.setF ISL_BARSTAT.RESULT 3 else m
  else
    let n := (m.isl.marker + 1) % 65536
    let b : Barrier := { src := src, snap := snap, twin := twin, marker := marker.getD n, start := 0, place := 0, acks := 0, twinAck := false }
    let m := if marker.isNone then { m with isl := { m.isl with marker := n } } else m
    let m := if src = .cw then m.setF ISL_BARSTAT.MARKER n else m
    if m.isl.flight.isSome then ({ m with isl := { m.isl with barQueue := m.isl.barQueue ++ [b] } } : Chip).showBarrier
    else m.barFly b

/-- The barrier in flight ends with a result; the next one starts. -/
def Chip.barEnd (m : Chip) (result : Nat) : Chip :=
  match m.isl.flight with
  | none => m
  | some b =>
    let m := { m with isl := { m.isl with flight := none } }
    let m := if b.src = .cw then
        (m.setF ISL_BARSTAT.RESULT result).setF ISL_BARTIME.TICKS (min (m.isl.dtc - b.start) 65535) else m
    let m := if b.snap then { m with isl := { m.isl with snapMarker := some b.marker } } else m
    let m := if b.src = .twin then m.sendFrame 0x0F none none (leBytes 2 b.marker ++ leBytes 1 (b1 b.snap) ++ leBytes 1 1) [] else m
    match m.isl.barQueue with
    | [] => m.showBarrier
    | n :: rest => ({ m with isl := { m.isl with barQueue := rest } } : Chip).barFly n

/-- A unit of a command accepted before the marker is still on its way to a die queue of the cluster. -/
def Chip.markLate (m : Chip) (b : Barrier) (k : Nat) : Bool :=
  m.md.disp.any fun u => decide (dieCluster u.die = k ∧ u.seq < b.place) && !u.internal

/-- The clusters have acknowledged: every die queue holds the marker behind the units of the commands accepted before it. A unit of theirs still
on its way to its queue keeps the acknowledgement of its cluster back. -/
def Chip.barMerge (m : Chip) (b : Barrier) : Barrier :=
  { b with acks := b.acks ||| (((List.range 12).filter fun k => !m.markLate b k).map (2 ^ ·)).sum }

/-- Barriers in flight and waiting are ended by a reset of CMD or of a cluster (R474). -/
def Chip.barReset (m : Chip) : Chip :=
  if m.isl.flight.isNone then m
  else
    let cw := (m.isl.flight.toList ++ m.isl.barQueue).any fun b => decide (b.src = .cw)
    let m := ({ m with isl := { m.isl with flight := none, barQueue := [] } } : Chip).showBarrier
    if cw then m.setF ISL_BARSTAT.RESULT 4 else m

end Sys2Proof.Machine
end

