-- ==== Sys2Proof/Machine/Loader.lean ====
section
/-! DEFINITION. Pushing an image and the epoch switch (R72 to R81), and the end of reads by PCIe completion timeout (R95). -/

namespace Sys2Proof.Machine

/-! ## Operations of IMG_CMD (R72, R73) -/

/-- The bank ACTIVE does not name. -/
def Chip.inactiveBank (m : Chip) : Nat := 1 - m.nv.banks.2
def Chip.bank (m : Chip) (i : Nat) : List Byte := if i = 0 then m.img.bankA else m.img.bankB
def Chip.setBank (m : Chip) (i : Nat) (b : List Byte) : Chip :=
  { m with img := if i = 0 then { m.img with bankA := b } else { m.img with bankB := b } }

/-- IMG_BANK.VALID and IMG_VER of a bank. -/
def Chip.showBank (m : Chip) (i : Nat) (ok : Bool) : Chip :=
  let v := if ok then imgVersion (m.bank i) else 0
  if i = 0 then (m.setF IMG_BANK.VALID_A (b1 ok)).setF IMG_VER_A.VERSION v
  else (m.setF IMG_BANK.VALID_B (b1 ok)).setF IMG_VER_B.VERSION v

def Chip.setPhase (m : Chip) (p : ImgPhase) : Chip := { m with img := { m.img with phase := p } }

/-- An image operation ends with a result. -/
def Chip.imgEnd (m : Chip) (e : ImgFail) : Chip :=
  let m := ((m.setF IMG_STAT.RESULT e.code).setF IMG_STAT.SECTYPE (e.sec % 256)).setF IMG_STAT.RECORD e.record
  (((m.setF IMG_STAT.BUSY 0).setF IMG_CMD.GO 0)).setPhase .idle

/-- The first sector of an image bank. -/
def imgSector (i : Nat) : Nat := if i = 0 then 128 else 384

/-- STORE begins to write the inactive bank: its sectors are erased first (R318, R322, R326). -/
def Chip.storeStart (m : Chip) (b : List Byte) : Chip :=
  let i := m.inactiveBank
  let n := ceilDiv b.length 65536
  if m.bankWorn (imgSector i) n then (m.showBank i false).imgEnd ⟨0xB, 0, 0⟩
  else
    let m := ((m.setBank i []).showBank i false).countErases (imgSector i) n
    let m := { m with nv := { m.nv with pendErase := [imgSector i] } }
    ((m.setF IMG_STAT.BUSY 1).setF IMG_CMD.GO 1).setPhase (.bankWrite b)

/-! ## The epoch switch (R75 to R78) -/

/-- E′: the number after the last one issued, passing over the current epoch. -/
def Chip.nextEpoch (m : Chip) : Nat :=
  let e := (m.img.lastEpoch + 1) % 16
  if e = m.f GEN_EPOCH.CURRENT then (e + 1) % 16 else e

/-- The islands that are off, for which their porters answer (R77). -/
def Chip.offMask (m : Chip) : Nat := ((List.range 28).filter fun i => decide (m.islState i = 0)).foldl (fun a i => a ||| 2 ^ i) 0

def allIslands : Nat := 2 ^ 28 - 1

/-- The buckets go over to other tables: each keeps its tokens, clipped to the new depth (R524). -/
def Chip.evrClip (m : Chip) (old new : Image) : Chip :=
  { m with evr := { m.evr with spent := ((old.evr ++ new.evr).map (·.code)).eraseDups.foldl (fun (t : Table Nat) c =>
      let d := (new.bucket c).1
      tset 0 t c (d - min d ((old.bucket c).1 - tget 0 t c))) m.evr.spent } }

/-- An island goes over to the tables of an epoch: AON's event buckets are clipped, and in a cluster the ledger's credits (R195). -/
def Chip.applyEpoch (m : Chip) (i e : Nat) : Chip :=
  let was := m.f ISL_STAT.APPLIED_EPOCH i
  let m :=
    if was = e then m
    else if i = 0 then m.evrClip (m.tablesOf was) (m.tablesOf e)
    else if 12 ≤ i ∧ i ≤ 23 then m.ledgerTurn (i - 12) (m.tablesOf e)
    else m
  m.setF ISL_STAT.APPLIED_EPOCH e i

/-- An island applies and acknowledges the commit (step 4 of R76). -/
def Chip.commitAck (m : Chip) (i e : Nat) : Chip :=
  (m.applyEpoch i e).setF IMG_ACKMASK.ACK (m.f IMG_ACKMASK.ACK ||| 2 ^ i)

/-- The commit marker is no longer wanted: it is taken out of the barriers that wait, or its flight ends. -/
def Chip.dropCommit (m : Chip) : Chip :=
  let m := ({ m with isl := { m.isl with barQueue := m.isl.barQueue.filter fun b => decide (b.src ≠ .image) } } : Chip).showBarrier
  if m.isl.flight.any fun b => decide (b.src = .image) then m.barEnd 1 else m

/-- All 28 have acknowledged: the switch is complete. -/
def Chip.switchDone (m : Chip) (sw : Switch) : Chip :=
  let cur := m.f GEN_EPOCH.CURRENT
  let m := ((List.range 12).filter fun k => decide (m.f ISL_STAT.APPLIED_EPOCH (12 + k) ≠ sw.epoch)).foldl (fun (m : Chip) k =>
    m.ledgerTurn k sw.tables) m
  let m := { m with img := { m.img with tables := sw.tables, old := some m.img.tables, switch := none, liveBytes := sw.bytes } }
  let m := (((m.setF GEN_EPOCH.CURRENT sw.epoch).setF GEN_EPOCH.OLD cur).setF GEN_EPOCH.DRAINING 1).setF GEN_EPOCH.SWITCHING 0
  let m := (m.setF GEN_LIVEVER.VERSION sw.tables.version).setF IMG_SWTIME.TICKS (min (m.isl.dtc - sw.start) (2 ^ 20 - 1))
  (m.imgEnd ⟨1, 0, 0⟩).dropCommit

/-- A commit marker has been asked for and not yet ended. -/
def Chip.commitAsked (m : Chip) : Bool := (m.isl.flight.toList ++ m.isl.barQueue).any fun b => decide (b.src = .image)

/-- The switch goes on with what the islands have reported, the porters of off islands answering for them (R76, R77). Once all have loaded, the
commit marker is asked for as any barrier (R58), again at each further report while no place was free (log entry 152). -/
def Chip.switchPoll (m : Chip) : Chip :=
  match m.img.switch with
  | none => m
  | some sw =>
    let sw := { sw with loaded := sw.loaded ||| m.offMask }
    let m := { m with img := { m.img with switch := some sw } }
    let m := if sw.loaded = allIslands ∧ !sw.stamping ∧ !m.commitAsked then m.barRequest .image false false none else m
    match m.img.switch with
    | none => m
    | some sw =>
      if !sw.stamping then m
      else
        let m := m.setF IMG_ACKMASK.ACK (m.f IMG_ACKMASK.ACK ||| m.offMask)
        if m.f IMG_ACKMASK.ACK = allIslands then m.switchDone sw else m

/-- PREPARE. -/
def Chip.switchStart (m : Chip) (t : Image) (bytes : List Byte) : Chip :=
  let e := m.nextEpoch
  let m := { m with img := { m.img with
    switch := some { tables := t, epoch := e, loaded := 0, stamping := false, start := m.isl.dtc, bytes := bytes }, lastEpoch := e } }
  let m := ((m.setF GEN_EPOCH.SWITCHING 1).setF IMG_STAT.BUSY 1).setF IMG_CMD.GO 1
  (m.setF IMG_ACKMASK.ACK 0).switchPoll

/-- A command of an epoch is in flight. -/
def Chip.epochUsed (m : Chip) (e : Nat) : Bool :=
  m.q.slots.any fun s => decide (s.2.epoch = e ∧ s.2.phase ≠ .reserved ∧ s.2.phase ≠ .fetched)

/-- A switch is rolled back with a result (R78, R81): commands stamped E′ keep its tables until they complete. -/
def Chip.rollback (m : Chip) (code : Nat) : Chip :=
  match m.img.switch with
  | none => m
  | some sw =>
    let keep := sw.stamping && m.epochUsed sw.epoch
    let cur := m.f GEN_EPOCH.CURRENT
    let m := (List.range 28).foldl (fun (m : Chip) i => if m.f ISL_STAT.APPLIED_EPOCH i = sw.epoch then m.applyEpoch i cur else m) m
    let m := if sw.stamping then m.reconTurn sw.tables m.img.tables else m
    let m := if sw.stamping ∧ 0x0E ∈ sw.tables.sections then m.arbLoad m.img.tables.arb else m
    let m := { m with img := { m.img with switch := none, old := if keep then some sw.tables else none } }
    let m := ((m.setF GEN_EPOCH.SWITCHING 0).setF GEN_EPOCH.DRAINING (b1 keep)).setF GEN_EPOCH.OLD (if keep then sw.epoch else 0)
    let m := m.setF IMG_SWTIME.TICKS (min (m.isl.dtc - sw.start) (2 ^ 20 - 1))
    (m.imgEnd ⟨code, 0, 0⟩).dropCommit

/-! ## Operations on delivered bytes -/

/-- VERIFY, STORE or LIVE goes on with the bytes delivered. -/
def Chip.imgCheck (m : Chip) (op len : Nat) (b : List Byte) : Chip :=
  match m.validate b len m.img.tables with
  | some e => m.imgEnd e
  | none =>
    if op = 1 then m.imgEnd ⟨1, 0, 0⟩
    else if op = 2 then (if imgKind b ≠ 0 then m.imgEnd ⟨2, 0, 0⟩ else m.storeStart b)
    else
      let i := Image.read b m.img.tables
      match m.validateLive i with
      | some e => m.imgEnd e
      | none => (m.setPhase .idle).switchStart i b

/-- ACTIVATE: one write of the ACTIVE flag word (R326). -/
def Chip.imgActivate (m : Chip) : Chip :=
  let i := m.inactiveBank
  let b := m.bank i
  if b = [] ∨ (m.validate b b.length m.img.tables).isSome then m.imgEnd ⟨0xB, 0, 0⟩
  else
    let m := m.array (.flag (.image i))
    (m.setF IMG_BANK.PENDING 1).imgEnd ⟨1, 0, 0⟩

/-- A write of GO (R72, R73). -/
def Chip.imgGo (m : Chip) (op src : Nat) : Chip :=
  if m.f IMG_STAT.BUSY = 1 then m.cfgEvent (IMG_CMD.GO.off 0)
  else
    if op = 0 ∨ 4 < op then m
    else if op = 3 then m.imgActivate
    else if src = 1 then m.imgCheck op (m.f IMG_LEN.LEN) (memGetBytes m.img.staging 0 (m.f IMG_LEN.LEN))
    else
      let n := m.f IMG_LEN.LEN
      (((m.setF IMG_STAT.BUSY 1).setF IMG_CMD.GO 1).setPhase (.dma op n)).hostRead 0 0 2 [(2 ^ 32 * m.f IMG_SRC_HI.ADDR_HI + 4 * m.f IMG_SRC_LO.ADDR, n)]

/-- A write to IMG_DATA: 4 bytes at the pointer, which wraps after 0x3F_FFFC. -/
def Chip.imgData (m : Chip) (v : Nat) : Chip :=
  if m.f IMG_STAT.BUSY = 1 then m
  else
    let p := m.f IMG_DATAPTR.PTR % 2 ^ 20
    let m := { m with img := { m.img with staging := memSetBytes m.img.staging (4 * p) (leBytes 4 v) } }
    m.setF IMG_DATAPTR.PTR ((p + 1) % 2 ^ 20)

/-! ## Rows -/

/-- The DMA read of an image has delivered these bytes. -/
def execImageDmaDone (bytes : List Byte) (s : State) : Host.Outcome State Fault Refusal :=
  run s fun m => match m.img.phase with
    | .dma op len => m.imgCheck op len bytes
    | _ => m

def execStoreBankWriteDone (s : State) : Host.Outcome State Fault Refusal :=
  run s fun m => match m.img.phase with
    | .bankWrite b =>
      if m.f NVA_STAT.BROWNOUT = 1 then m else
      let i := m.inactiveBank
      let m := (m.setBank i b).showBank i true
      ({ m with nv := { m.nv with pendErase := [] } } : Chip).imgEnd ⟨1, 0, 0⟩
    | _ => m

/-- No command stamped with the second epoch remains: its tables are released. -/
def execEpochDrainDone (s : State) : Host.Outcome State Fault Refusal :=
  run s fun m =>
    if m.f GEN_EPOCH.DRAINING = 1 ∧ !m.epochUsed (m.f GEN_EPOCH.OLD) then
      let m := { m with img := { m.img with old := none } }
      (m.setF GEN_EPOCH.DRAINING 0).setF GEN_EPOCH.OLD 0
    else m

/-- 1 s after a switch on either side, against the twin's GEN_LIVEVER (R80). -/
def execLiveverMismatchTimeout (twinVer : BitVec 32) (s : State) : Host.Outcome State Fault Refusal :=
  run s fun m =>
    let differs := decide (twinVer.toNat ≠ m.f GEN_LIVEVER.VERSION)
    if differs then m.emit 1 0x1003 else m

/-- A PCIe completion timeout (R95), unless host software has disabled it for the function (R85). -/
def execCompletionTimeout (w : CtoOf) (s : State) : Host.Outcome State Fault Refusal :=
  run s fun m => match w with
    | .command slot =>
      match m.cmd? slot.val with
      | some c => if c.takesData && !(m.fn c.fn).pcie.ctoOff then (m.incF HPT_ABORTCNT.CTO (m.slotOf c.fn)).dataError slot.val else m
      | none => m
    | .sqFetch slot =>
      match m.cmd? slot.val with
      | some c =>
        if c.phase ≠ .reserved ∨ (m.fn c.fn).pcie.ctoOff then m
        else
          let mine := m.q.slots.filter fun e => decide (e.2.q = c.q ∧ e.2.burst = c.burst ∧ e.2.peer = none ∧ e.2.phase = .reserved)
          (mine.foldl (fun (m : Chip) e => m.freeSlot e.1) (m.incF HPT_ABORTCNT.CTO (m.slotOf c.fn))).finishDelete c.q
      | none => m
    | .image =>
      match m.img.phase with
      | .dma _ _ => if (m.fn 0).pcie.ctoOff then m else (m.incF HPT_ABORTCNT.CTO (m.slotOf 0)).imgEnd ⟨2, 0, 0⟩
      | _ => m

end Sys2Proof.Machine
end

