-- ==== Sys2Proof/Machine/Admin.lean ====
section
/-! DEFINITION. The admin commands of a function: queues, features, identify, namespaces, formats, log pages, firmware and
sanitize (R107, R108, R116, R138 to R152, R177, R208, R267, R268, R327, R333, R346, R347, R520, R559). -/

namespace Sys2Proof.Machine

/-! ## Queue commands -/

def execCreateIoSubmissionQueue (slot : SlotId) (s : State) : Host.Outcome State Fault Refusal := run s fun m => m.createSq slot.val
def execCreateIoCompletionQueue (slot : SlotId) (s : State) : Host.Outcome State Fault Refusal := run s fun m => m.createCq slot.val
def execDeleteIoSubmissionQueue (slot : SlotId) (s : State) : Host.Outcome State Fault Refusal :=
  run s fun m => (m.deleteSq slot.val).settle
def execDeleteIoCompletionQueue (slot : SlotId) (s : State) : Host.Outcome State Fault Refusal := run s fun m => m.deleteCq slot.val
def execAbort (slot : SlotId) (s : State) : Host.Outcome State Fault Refusal := run s fun m => (m.abort slot.val).settle
def execAsynchronousEventRequest (slot : SlotId) (s : State) : Host.Outcome State Fault Refusal :=
  run s fun m => m.asyncRequest slot.val

/-! ## Features (R107, R116, R268) -/

/-- A Set Features (0x09) or Get Features (0x0A) of one feature. -/
def Chip.feature (m : Chip) (s op fid : Nat) (g : Cmd → Chip → Chip) : Chip :=
  m.adminCmd s op fun c m => if bits (dw c.entry 10) 7 0 = fid then g c m else m

/-- Number of Queues: QALLOC.COUNT − 1 in both halves, whatever was asked; a function without I/O queues has no such feature. -/
def Chip.queueCount (m : Chip) (s op : Nat) : Chip :=
  m.feature s op 0x07 fun c m =>
    let n := m.img.tables.qcount c.fn
    if n = 0 then m.finish s (some stInvalidField) else m.finish s (some stOk) (65536 * (n - 1) + (n - 1))

def execSetFeaturesNumberOfQueues (slot : SlotId) (s : State) : Host.Outcome State Fault Refusal :=
  run s fun m => m.queueCount slot.val 0x09
def execGetFeaturesNumberOfQueues (slot : SlotId) (s : State) : Host.Outcome State Fault Refusal :=
  run s fun m => m.queueCount slot.val 0x0A

/-- Set Arbitration: AB in bits [2:0] of dword 11, LPW, MPW and HPW in its upper three bytes (NVMe). -/
def Chip.setArbitration (m : Chip) (s : Nat) : Chip :=
  m.feature s 0x09 0x01 fun c m =>
    let v := dw c.entry 11
    (m.setFn c.fn { m.fn c.fn with ab := bits v 2 0, lpw := bits v 15 8, mpw := bits v 23 16, hpw := bits v 31 24 }).finish s (some stOk)

def FnSt.arbWord (x : FnSt) : Nat := x.ab + x.lpw * 2 ^ 8 + 2 ^ 16 * x.mpw + 2 ^ 24 * x.hpw

def execSetFeaturesArbitration (slot : SlotId) (s : State) : Host.Outcome State Fault Refusal := run s fun m => m.setArbitration slot.val
def execGetFeaturesArbitration (slot : SlotId) (s : State) : Host.Outcome State Fault Refusal :=
  run s fun m => m.feature slot.val 0x0A 0x01 fun c m => m.finish slot.val (some stOk) (m.fn c.fn).arbWord

/-- The namespace a function may see: it belongs to the function's tenant (R177). -/
def Chip.visible? (m : Chip) (f nsid : Nat) : Option Ns := (m.ns? nsid).filter fun n => n.tenant = m.fnTenant f

/-- Change one namespace. -/
def Chip.modNs (m : Chip) (nsid : Nat) (g : Ns → Ns) : Chip :=
  { m with zn := { m.zn with ns := m.zn.ns.map fun n => if n.nsid = nsid then g n else n } }

/-- An admin command fails check 4 of R126: its namespace does not exist for the function. -/
def Chip.badNs (m : Chip) (s : Nat) : Chip :=
  match m.cmd? s with
  | some c => ((m.incF QIE_CMDERR1.NSID).emit 10 0x4004 0 (some (m.cmdTag s c))).finish s (some stInvalidNs)
  | none => m

/-- Set and Get Features 0xC8 (R268): a compressed namespace's level. -/
def Chip.levelFeature (m : Chip) (s op : Nat) (g : Cmd → Ns → Chip → Chip) : Chip :=
  m.feature s op 0xC8 fun c m =>
    if nsidOf c.entry = 0xFFFFFFFF then m.finish s (some stInvalidField)
    else match m.visible? c.fn (nsidOf c.entry) with
    | none => m.badNs s
    | some n => if n.elastic then g c n m else m.finish s (some stInvalidField)

def execSetFeaturesCompressionLevel (slot : SlotId) (s : State) : Host.Outcome State Fault Refusal :=
  run s fun m => m.levelFeature slot.val 0x09 fun c n m =>
    let v := bits (dw c.entry 11) 3 0
    if 1 ≤ v ∧ v ≤ 9 then (m.modNs n.nsid fun n => { n with level := v }).finish slot.val (some stOk)
    else m.finish slot.val (some stInvalidField)

def execGetFeaturesCompressionLevel (slot : SlotId) (s : State) : Host.Outcome State Fault Refusal :=
  run s fun m => m.levelFeature slot.val 0x0A fun _ n m => m.finish slot.val (some stOk) n.level

/-! ## Identify (R107, R134, R137, R145, R149, R152, R267, R559) -/

/-- The function a controller identifier names, on either side (R559). The spec does not say by which tables a function of the other side is judged: the
model uses those of this side's image (log entry 164). -/
def Chip.cntlFn (m : Chip) (id : Nat) : Option Nat :=
  let f := id % 8192
  if id < 16384 ∧ f < 4128 ∧ (m.img.tables.func? f).isSome then some f else none

/-- The controllers of the NVM subsystem from an identifier on, in rising order (R559): those of this side's live functions and, unless it runs solo,
the other side's. -/
def Chip.controllers (m : Chip) (from_ : Nat) : List Nat :=
  let fs := isort (fun a b => decide (a ≤ b)) (m.img.tables.funcs.map (·.func))
  let on (id : Nat) : Bool := if id / 8192 = m.f GEN_SIDE.SIDE then m.fnLive (id % 8192) else decide (m.f GEN_SIDE.SOLO = 0)
  (fs ++ fs.map (8192 + ·)).filter fun id => decide (from_ ≤ id) && on id

/-- MAR and MOR of a tenant's namespaces, each less 1. -/
def Chip.maxActive (m : Chip) (t : Nat) : Nat :=
  let q := ((m.tenRec t).map (·.activeQuota)).getD 0
  if q = 0 then m.activeLimit else min m.activeLimit q

/-- What the spec gives Identify to report (log entry 25): of the controller (CNS 0x01 and 0x06), of a namespace (0x00 and
0x05), of the namespaces attached to the controller (0x02 and 0x07), and of the controllers from CNTID on that a namespace is attached to (0x12)
or that the subsystem has (0x13). -/
def Chip.identifyProps (m : Chip) (f nsid cntid cns : Nat) : List (String × Nat) :=
  if cns = 0x01 ∨ cns = 0x06 then
    [("CNTLID", m.cntlid f), ("MDTS", 9), ("ZASL", 8), ("ACL", 3), ("SQES", 6), ("CQES", 4), ("AWUN", 255), ("AWUPF", 255),
     ("ANATT", 1), ("VWC", 6)]
  else if cns = 0x00 ∨ cns = 0x05 then
    match (m.visible? f nsid) with
    | none => []
    | some n =>
      let act := m.maxActive n.tenant
      [("NSZE", n.lbas), ("ANAGRPID", n.ana), ("NAWUN", if n.lbaLog = 12 then 255 else 2047),
       ("NAWUPF", if n.lbaLog = 12 then 255 else 2047), ("NABSPF", 0), ("NSFEAT1", 1), ("LBADS", n.lbaLog),
       ("COMPRESSED", b1 n.elastic), ("LEVEL", n.level), ("DLFEAT", 1)] ++
      (if n.conv then [] else [("ZSZE", n.zoneLbas), ("ZDES", 0), ("RRL", 0), ("FRL", 0), ("OZCS", 1), ("MAR", act - 1),
        ("MOR", min m.openLimit act - 1)])
  else if cns = 0x02 ∨ cns = 0x07 then
    ((m.zn.ns.filter fun n => decide (n.tenant = m.fnTenant f ∧ m.cntlid f ∈ n.attached ∧ nsid < n.nsid)).map fun n => ("NSID", n.nsid))
  else if cns = 0x12 then
    ((((m.visible? f nsid).map (·.attached)).getD []) |> isort (fun a b => decide (a ≤ b))).filterMap fun id =>
      if cntid ≤ id then some ("CNTLID", id) else none
  else if cns = 0x13 then (m.controllers cntid).map fun id => ("CNTLID", id)
  else []

def execIdentify (slot : SlotId) (s : State) : Host.Outcome State Fault Refusal :=
  run s fun m => m.adminCmd slot.val 0x06 fun c m =>
    let cns := bits (dw c.entry 10) 7 0
    if cns ∉ [0x00, 0x01, 0x02, 0x05, 0x06, 0x07, 0x12, 0x13] then m.finish slot.val (some stInvalidField)
    else if (cns = 0x00 ∨ cns = 0x05 ∨ cns = 0x12) ∧ (m.visible? c.fn (nsidOf c.entry)).isNone then m.badNs slot.val
    else m.withPtrs slot.val 4096 fun c m =>
      (m.post c.fn (.identify c.fn slot.val cns (hostRange c.ptrs 0 4096) (m.identifyProps c.fn (nsidOf c.entry) (bits (dw c.entry 10) 31 16) cns))).finish
        slot.val (some stOk)

/-! ## Admin commands that carry host data (R94) -/

/-- An admin command that carries `len` bytes: `pre` may end it at once; else its data is asked for, and once all of it is
here the same command acts. -/
def Chip.adminData (m : Chip) (s op len : Nat) (pre : Cmd → Option (Chip → Chip)) (g : Cmd → Chip → Chip) : Chip :=
  match m.cmd? s with
  | none => m
  | some c =>
    if !c.admin ∨ opcodeOf c.entry ≠ op then m
    else if c.phase = .accepted then
      match pre c with
      | some no => no m
      | none => (m.modCmd s fun c => { c with phase := .running, want := len, dataOpen := true }).fetchData s len
    else if c.phase = .running ∧ c.want ≠ 0 ∧ !c.takesData then g c m
    else m

/-! ## Namespaces (R143, R165, R177, R267, R346, R559) -/

/-- The lowest `k` free global zone numbers. -/
def Chip.freeZoneNos (m : Chip) (k : Nat) : List Nat :=
  ((List.range m.img.tables.geo.zones).filter fun z => decide ((m.zone z).nsid = 0)).take k

/-- The zones of a tenant's namespaces. -/
def Chip.tenantZones (m : Chip) (t : Nat) : Nat := ((m.zn.ns.filter fun n => decide (n.tenant = t)).map (·.zones.length)).sum

/-- The zones of the conventional namespaces of the pair. -/
def Chip.convZones (m : Chip) : Nat := ((m.zn.ns.filter (·.conv)).map (·.zones.length)).sum

/-- The lowest namespace identifier not in use. -/
def Chip.newNsid (m : Chip) : Nat := ((List.range (m.zn.ns.length + 1)).map (· + 1)).find? (fun i => (m.ns? i).isNone) |>.getD 1

/-- Give zones to a namespace: empty, owned by the home side of its group, told to the twin. -/
def Chip.giveZones (m : Chip) (n : Ns) : Chip :=
  (n.zones.zip (List.range n.zones.length)).foldl (fun (m : Chip) (z, i) =>
    (m.setZone z { Zone.blank with
      type := if n.conv then 2 else if n.elastic then 1 else 0, side := anaHome n.ana, state := zse, nsid := n.nsid, zidx := i,
      tenant := n.tenant, lastChange := m.now }).mapRecord n z i) m

/-- The namespace a create asks for, or its failure. -/
def Chip.createNs (m : Chip) (c : Cmd) : Except Status Ns :=
  let t := m.fnTenant c.fn
  let csi := bits (dw c.entry 11) 31 24
  let elastic := bitOf (fieldAt c.data 3072 1) 0
  let level := fieldAt c.data 3073 1
  let fmt := bits (fieldAt c.data 26 1) 3 0
  let size := fieldAt c.data 0 8
  let lbaLog := if fmt = 0 then 9 else 12
  let n : Ns := { nsid := m.newNsid, tenant := t, conv := decide (csi = 0), elastic := elastic, lbaLog := lbaLog,
                  level := if elastic then (if level = 0 then m.f CMP_CTL.DEFLEVEL else level) else 0, keySlot := 0,
                  keygen := m.keygenOf t, ana := ((m.img.tables.func? c.fn).map (·.ana)).getD 1, zones := [], attached := [] }
  let k := size / n.zoneLbas
  let rec? := m.tenRec t
  let quota := (rec?.map (·.zoneQuota)).getD 0
  if (csi ≠ 0 ∧ csi ≠ 2) ∨ 2 ≤ fmt ∨ size = 0 ∨ size % n.zoneLbas ≠ 0 then .error stInvalidField
  else if elastic && (n.conv || !((rec?.map fun r => bitOf r.flags 0).getD false)) then .error stInvalidField
  else if elastic ∧ 9 < level then .error stInvalidField
  else if (quota ≠ 0 ∧ quota < m.tenantZones t + k) ∨ (m.freeZoneNos k).length < k ∨
      (n.conv ∧ m.img.tables.geo.conv < m.convZones + k) then .error stNsCapacity
  else if (rec?.map (·.maxNs)).getD 0 ≤ (m.zn.ns.filter fun x => decide (x.tenant = t)).length ∨ m.freeDataSlot.isNone then
    .error ⟨1, 0x16, true⟩
  else .ok { n with zones := m.freeZoneNos k, keySlot := m.freeDataSlot.getD 0 }

def execNamespaceCreate (slot : SlotId) (s : State) : Host.Outcome State Fault Refusal :=
  run s fun m =>
    let isCreate (c : Cmd) : Bool := decide (bits (dw c.entry 10) 3 0 = 0)
    match m.cmd? slot.val with
    | none => m
    | some c =>
      if !isCreate c then m
      else m.adminData slot.val 0x0D 4096 (fun _ => none) fun c m =>
        match m.createNs c with
        | .error st => m.finish slot.val (some st)
        | .ok n =>
          let m := { m with zn := { m.zn with ns := m.zn.ns ++ [n] } }
          ((m.giveZones n).newDataKey n.keySlot n.tenant n.nsid).finish slot.val (some stOk) n.nsid

/-- A namespace's slot begins to be cleared (R302): no new unit that names it is accepted; `reload` for a Format. -/
def Chip.startClear (m : Chip) (n : Ns) (reload : Bool) : Chip :=
  m.setKslot n.keySlot { m.kslot n.keySlot with state := 2, reload := reload, nsid := n.nsid }

/-- The controllers a namespace is attached to change, and the twin's map with them (R426, R559). -/
def Chip.attach (m : Chip) (nsid : Nat) (g : List Nat → List Nat) : Chip :=
  let m := m.modNs nsid fun n => { n with attached := g n.attached }
  match m.ns? nsid with
  | some n => m.mapRecord n (n.zones.headD 0) 0
  | none => m

/-- Namespace Management delete (R177): one namespace of the function's tenant, or with 0xFFFF_FFFF all of them. The command
completes when the slots are cleared (R302). -/
def execNamespaceDelete (slot : SlotId) (s : State) : Host.Outcome State Fault Refusal :=
  run s fun m => m.adminCmd slot.val 0x0D fun c m =>
    if bits (dw c.entry 10) 3 0 ≠ 1 then m
    else
      let id := nsidOf c.entry
      let ns := m.zn.ns.filter fun n => decide (n.tenant = m.fnTenant c.fn ∧ (id = 0xFFFFFFFF ∨ n.nsid = id))
      if ns = [] then (if id = 0xFFFFFFFF then m.finish slot.val (some stOk) else m.badNs slot.val)
      else ns.foldl (fun (m : Chip) n => (m.attach n.nsid fun _ => []).startClear n false)
        (m.modCmd slot.val fun c => { c with phase := .running })

/-- Namespace Attachment (R177, R559): SEL 0 attaches, 1 detaches the controllers of the list. -/
def execNamespaceAttachment (slot : SlotId) (s : State) : Host.Outcome State Fault Refusal :=
  run s fun m => m.adminData slot.val 0x15 4096
    (fun c => if 2 ≤ bits (dw c.entry 10) 3 0 then some fun m => m.finish slot.val (some stInvalidField)
      else if (m.visible? c.fn (nsidOf c.entry)).isNone then some fun m => m.badNs slot.val else none) fun c m =>
    match m.visible? c.fn (nsidOf c.entry) with
    | none => m.badNs slot.val
    | some n =>
      let ids := (List.range (min (fieldAt c.data 0 2) 2047)).map fun i => fieldAt c.data (2 + 2 * i) 2
      let sel := bits (dw c.entry 10) 3 0
      let bad (id : Nat) : Bool := match m.cntlFn id with
        | none => true
        | some f => decide (sel = 0) && decide (m.fnTenant f ≠ n.tenant)
      if ids.any bad then m.finish slot.val (some stCtrlList)
      else if sel = 0 then
        (m.attach n.nsid fun a => a ++ ids.filter (· ∉ a)).finish slot.val (some stOk)
      else (m.attach n.nsid fun a => a.filter (· ∉ ids)).finish slot.val (some stOk)

/-- Format NVM (R346): SES 1 and 2 change the namespace's key once its slot is clear; SES 0 changes no key and no zone (log
entry 31). -/
def execFormatNvm (slot : SlotId) (s : State) : Host.Outcome State Fault Refusal :=
  run s fun m => m.adminCmd slot.val 0x80 fun c m =>
    let ses := bits (dw c.entry 10) 11 9
    match m.visible? c.fn (nsidOf c.entry) with
    | none => m.badNs slot.val
    | some n =>
      if 3 ≤ ses ∨ 2 ≤ bits (dw c.entry 10) 3 0 then m.finish slot.val (some stInvalidField)
      else if ses = 0 then m.finish slot.val (some stOk)
      else (m.modCmd slot.val fun c => { c with phase := .running }).startClear n true

/-! ## Log pages (R103, R145, R208, R327, R520) -/

/-- Get Log Page of one identifier: the page from the offset of dwords 12 and 13, as many dwords as asked for. -/
def Chip.logPage (m : Chip) (s lid : Nat) (g : Cmd → Chip → List Byte × Chip) : Chip :=
  m.adminCmd s 0x02 fun c m =>
    if bits (dw c.entry 10) 7 0 ≠ lid then m
    else
      let n := (65536 * (dw c.entry 11 % 65536) + bits (dw c.entry 10) 31 16 + 1) * 4
      m.withPtrs s n fun _ m =>
        let (bytes, m) := g c m
        (m.giveHost s 0 (slice bytes (dw c.entry 12 + 2 ^ 32 * (dw c.entry 13)) n)).finish s (some stOk)

def execGetLogPageTenant (slot : SlotId) (s : State) : Host.Outcome State Fault Refusal :=
  run s fun m => m.logPage slot.val 0xC0 fun c m => ((m.tenantWords (m.fnTenant c.fn)).flatMap (leBytes 4), m)

/-- The 32 bytes of a notice (R519). -/
def Notice.bytes (n : Notice) : List Byte :=
  leBytes 2 n.code ++ leBytes 1 n.flags ++ leBytes 1 n.group ++ leBytes 4 n.seq ++ leBytes 8 n.dtc ++ leBytes 8 n.value ++
    leBytes 2 n.func ++ leBytes 2 n.tenant ++ leBytes 4 n.zone

/-- The notices a function receives: function 0 every one, another those that name it. -/
def Chip.noticesOf (m : Chip) (f : Nat) : List Notice :=
  ((m.evr.ring.filter fun n => decide (f = 0 ∨ n.func = f)).take 64)

def execGetLogPageNotices (slot : SlotId) (s : State) : Host.Outcome State Fault Refusal :=
  run s fun m => m.logPage slot.val 0xC1 fun c m =>
    let ns := m.noticesOf c.fn
    (leBytes 4 ns.length ++ List.replicate 12 0 ++ ns.flatMap Notice.bytes, m)

/-- The ANA groups that namespaces of a tenant are in. -/
def Chip.anaGroups (m : Chip) (t : Nat) : List Nat :=
  ((List.range 128).map (· + 1)).filter fun g => m.zn.ns.any fun n => decide (n.ana = g ∧ n.tenant = t)

/-- The ANA log page (NVMe's layout): each group with its state on this controller and its attached namespaces. -/
def execGetLogPageAna (slot : SlotId) (s : State) : Host.Outcome State Fault Refusal :=
  run s fun m => m.logPage slot.val 0x0C fun c m =>
    let gs := m.anaGroups (m.fnTenant c.fn)
    let desc (g : Nat) : List Byte :=
      let ids := (m.zn.ns.filter fun n => decide (n.ana = g ∧ n.tenant = m.fnTenant c.fn ∧ m.cntlid c.fn ∈ n.attached)).map (·.nsid)
      leBytes 4 g ++ leBytes 4 ids.length ++ leBytes 8 0 ++ leBytes 1 (m.ana g) ++ leBytes 15 0 ++ ids.flatMap (leBytes 4)
    (leBytes 8 0 ++ leBytes 2 gs.length ++ leBytes 6 0 ++ gs.flatMap desc, m)

/-- The Changed Zone List of the function, which the read empties (NVMe's layout). -/
def execGetLogPageChangedZoneList (slot : SlotId) (s : State) : Host.Outcome State Fault Refusal :=
  run s fun m => m.logPage slot.val 0xBF fun c m =>
    let fs := m.fn c.fn
    let mine := fs.changed.filter fun z => decide ((m.zone z).nsid = nsidOf c.entry)
    let slba (z : Nat) : Nat := (m.zone z).zidx * ((m.ns? (m.zone z).nsid).map (·.zoneLbas)).getD 0
    let n := mine.length
    (leBytes 2 (if 511 < n then 0xFFFF else n) ++ leBytes 6 0 ++ (if 511 < n then [] else (isort (fun a b => decide (a ≤ b)) (mine.map slba)).flatMap (leBytes 8)),
     m.setFn c.fn { fs with changed := fs.changed.filter (· ∉ mine) })

/-! ## Firmware (R327, R332, R333) -/

def Chip.fwBank (m : Chip) (b : Nat) : List Byte := if b = 0 then m.nv.fwA else m.nv.fwB

/-- The check of a firmware package: 0, or the code of the first failing step. -/
def Chip.fwCheck (m : Chip) (b : List Byte) : Nat :=
  let len := fieldAt b 0x0C 4
  let zero (o n : Nat) : Bool := (slice b o n).all (· = 0)
  let pub := slice b 0x40 96
  let key := fieldAt b (len - 104 + 2) 1
  if b.length < 360 ∨ slice b 0 4 ≠ [0x46, 0x57, 0x50, 0x4B] ∨ fieldAt b 4 2 ≠ 1 ∨ len ≠ b.length ∨ 8388608 < len ∨
      !(zero 0x09 3 && zero 0x18 40 && zero 0xA0 96) then 1
  else if !checkPart b 6 (m.f GEN_ID.REV) then 2
  else if 2 ≤ key ∨ Config.sha384 pub ≠ Config.fwKeyDigest key ∨ Config.fwKeyRevoked key then 3
  else if !signed b (len - 104) pub then 4
  else if fieldAt b 0x14 2 < m.nv.svnFloor then 5
  else 0

/-- The first sector of a firmware bank (R311). -/
def fwSector (b : Nat) : Nat := if b = 0 then 0 else 256

def execGetLogPageFirmwareSlot (slot : SlotId) (s : State) : Host.Outcome State Fault Refusal :=
  run s fun m => m.logPage slot.val 0x03 fun _ m =>
    let f := m.nv.banks.1
    let active := if m.fwBank 1 = m.tr.running ∧ m.fwBank 0 ≠ m.tr.running then 2 else 1
    let ver (b : Nat) : List Byte := leBytes 8 (if m.fwBank b = [] then 0 else fieldAt (m.fwBank b) 0x10 4)
    (leBytes 1 (active + (if active = f + 1 then 0 else 16 * (f + 1))) ++ leBytes 7 0 ++ ver 0 ++ ver 1 ++
      List.replicate 488 0, m)

/-- Firmware works on function 0 alone. -/
def Chip.onFn0 (_m : Chip) (c : Cmd) : Bool := decide (c.fn = 0)

/-- Firmware Image Download: dword 10 gives the dwords less 1, dword 11 the offset in dwords (NVMe). -/
def execFirmwareImageDownload (slot : SlotId) (s : State) : Host.Outcome State Fault Refusal :=
  run s fun m =>
    match m.cmd? slot.val with
    | none => m
    | some c =>
      let len := (dw c.entry 10 + 1) * 4
      m.adminData slot.val 0x11 len
        (fun c => if !m.onFn0 c then some fun m => m.finish slot.val (some stInvalidOpcode)
          else if 8388608 < dw c.entry 11 * 4 + (dw c.entry 10 + 1) * 4 then some fun m => m.finish slot.val (some stInvalidField) else none)
        fun c m =>
        let o := dw c.entry 11 * 4
        ({ m with tr := { m.tr with pkg := memSetBytes m.tr.pkg o c.data, pkgLen := max m.tr.pkgLen (o + c.data.length) } }).finish
          slot.val (some stOk)

def stFwSlot : Status := ⟨1, 0x06, true⟩
def stFwImage : Status := ⟨1, 0x07, true⟩
def stFwReset : Status := ⟨1, 0x0B, true⟩

/-- Firmware Commit of a commit action. -/
def Chip.fwCommit (m : Chip) (s action : Nat) (g : Nat → Chip → Chip) : Chip :=
  m.adminCmd s 0x10 fun c m =>
    let fs := bits (dw c.entry 10) 2 0
    if bits (dw c.entry 10) 5 3 ≠ action then m
    else if !m.onFn0 c then m.finish s (some stInvalidOpcode)
    else if action = 3 then m.finish s (some stFwReset)
    else if fs = 0 ∨ 2 < fs ∨ m.bankWorn (fwSector (fs - 1)) 128 then m.finish s (some stFwSlot)
    else g (fs - 1) m

/-- Actions 000b and 001b: the package is checked and written to the inactive bank; during a brown-out the write waits (R321). -/
def Chip.fwStore (m : Chip) (s : Nat) (activate : Bool) (b : Nat) : Chip :=
  if m.f NVA_STAT.BROWNOUT = 1 then m
  else if b = m.nv.banks.1 then m.finish s (some stFwSlot)
  else
    let p := memGetBytes m.tr.pkg 0 m.tr.pkgLen
    if m.fwCheck p ≠ 0 then m.finish s (some stFwImage)
    else
      let m := (m.countErases (fwSector b) (ceilDiv p.length 65536)).codeClear b
      let m := { m with nv := if b = 0 then { m.nv with fwA := p } else { m.nv with fwB := p }, tr := { m.tr with pkg := [], pkgLen := 0 } }
      (if activate then m.array (.flag (.firmware b)) else m).finish s (some stOk)

def execFirmwareCommitStore (slot : SlotId) (s : State) : Host.Outcome State Fault Refusal :=
  run s fun m => m.fwCommit slot.val 0 fun b m => m.fwStore slot.val false b
def execFirmwareCommitStoreActivate (slot : SlotId) (s : State) : Host.Outcome State Fault Refusal :=
  run s fun m => m.fwCommit slot.val 1 fun b m => m.fwStore slot.val true b
/-- Action 010b: F names the bank at the next reset. -/
def execFirmwareCommitActivate (slot : SlotId) (s : State) : Host.Outcome State Fault Refusal :=
  run s fun m => m.fwCommit slot.val 2 fun b m => (m.array (.flag (.firmware b))).finish slot.val (some stOk)
def execFirmwareCommitImmediate (slot : SlotId) (s : State) : Host.Outcome State Fault Refusal :=
  run s fun m => m.fwCommit slot.val 3 fun _ m => m

/-! ## Sanitize (R347, R348) -/

/-- Step 1: every live command but the Sanitize ends with Sanitize In Progress; what has committed keeps its commit. The device records say that the
sanitize is in progress, and whether it erases blocks. -/
def Chip.sanFence (m : Chip) (keep : Option Nat) (blocks : Bool) : Chip :=
  let m := (({ m with nv := { m.nv with sanBlocks := blocks } } : Chip).setF TRS_SANSTAT.STATE 1).emit 0 0x6507
  let m := m.array .record
  (m.q.slots.filter fun e => decide (some e.1 ≠ keep ∧ e.2.phase ≠ .committed) && !(e.2.admin && decide (opcodeOf e.2.entry = 0x0C))).foldl
    (fun (m : Chip) e => if (m.cmd? e.1).isSome then
      (if e.2.phase = .reserved then m.freeSlot e.1 else m.endCmd e.1 (some stSanitize)) else m) m

/-- Steps 2 to 4: data, metadata and transient slots cleared, DWK_GEN raised, the key store erased. -/
def Chip.sanKeys (m : Chip) : Chip :=
  let keep (e : Nat × KeySlot) : Bool := decide (8194 ≤ e.1 ∧ e.1 ≤ 8255)
  let m := { m with kv := { m.kv with slots := m.kv.slots.filter keep, cache := [], toLoad := [], lanes := [], waiting := [] },
                    nv := { m.nv with dwkGen := (m.nv.dwkGen + 1) % 2 ^ 32, keys := [] } }
  (List.range 32).foldl (fun (m : Chip) k => (m.array (.erase 192 k)).array (.erase 448 k)) (m.array .record)

/-- Step 5: ALARMED clears; a new DWK, metadata key, TKEKs and data keys. -/
def Chip.sanNewKeys (m : Chip) : Chip :=
  let m := m.array (.flag (.alarmed 0))
  let m := ((m.setF KVT_ALARM.SRC 0).setF KVT_STAT.STATE 0).deriveDwk
  let (k, m) := m.draw 256
  let m := m.loadKey 8193 { KeySlot.blank with kind := 1, key := k }
  let m := m.wrapKey { slot := 8193, tenant := 0xFFFF, keygen := 0, kind := 3, nsid := 0, key := k, dwk := 0, dead := false, raw := [], unit := 0 }
  m.zn.ns.foldl (fun (m : Chip) n => (m.newDataKey n.keySlot n.tenant n.nsid).modNs n.nsid fun n => { n with keygen := m.keygenOf n.tenant }) m

/-- Step 6: every zone Empty, poison table and log maps cleared. -/
def Chip.sanZones (m : Chip) : Chip :=
  let m := (m.zn.logBlks.map (·.1)).foldl (fun (m : Chip) k => m.freeLogBlk k) m
  let zs := (m.zn.zones.filter fun e => decide (e.2.nsid ≠ 0)).map (·.1)
  let m := zs.foldl (fun (m : Chip) z =>
    if m.ownsZone z then m.resetZone z
    else let m := m.clearZoneData z; m.setZone z { m.zone z with state := zse, members := [] }) m
  { m with zn := { m.zn with poison := [], store := [], phys := [] } }.setF SPE_POISON.USED 0

/-- Steps 2 to 6, and for Block Erase the erase of every block of the claimed channels. -/
def Chip.sanSteps (m : Chip) (blocks : Bool) : Chip :=
  let m := m.sanKeys.sanNewKeys.sanZones.showLog
  if !blocks then m.sanEnd
  else
    let ds := (List.range 3072).filter fun d => m.drives d && m.declared d && decide (m.f FCH_DIE.STATE d ∈ [2, 3, 4, 5])
    if ds = [] then m.sanEnd
    else
      let m := { m with tr := { m.tr with sanErase := ds.map fun d => (d, 0) } }
      ds.foldl (fun (m : Chip) d => m.sanNext d) m

/-- A sanitize that a power loss or a reset has interrupted restarts from step 2, before NVMe is ready (R347). -/
def Chip.sanAgain (m : Chip) : Chip :=
  if m.f TRS_SANSTAT.STATE = 1 ∧ m.tr.sanErase = [] then m.sanSteps m.nv.sanBlocks else m

/-- A Sanitize accepted on function 0: relayed to the twin, which runs the same steps; alone, the twin's part stays owed. -/
def Chip.sanStart (m : Chip) (s : Nat) (blocks : Bool) : Chip :=
  let m := m.sanFence (some s) blocks
  let alone := decide ((!(m.sub 0).up && !(m.sub 1).up)) && decide (m.f GEN_SIDE.SOLO = 0)
  let m := if alone then { m with nv := { m.nv with sanLate := true } }
    else m.sendFrame 0x12 none none (leBytes 1 1) (leBytes 1 (b1 blocks))
  ((m.sanSteps blocks).finish s (some stOk)).settle

/-- A Sanitize of an action. -/
def Chip.sanitize (m : Chip) (s action : Nat) (g : Chip → Chip) : Chip :=
  m.adminCmd s 0x84 fun c m =>
    if bits (dw c.entry 10) 2 0 ≠ action then m
    else if c.fn ≠ 0 then m.finish s (some stInvalidOpcode)
    else g m

def execSanitizeCryptoErase (slot : SlotId) (s : State) : Host.Outcome State Fault Refusal :=
  run s fun m => m.sanitize slot.val 4 fun m => m.sanStart slot.val false
def execSanitizeBlockErase (slot : SlotId) (s : State) : Host.Outcome State Fault Refusal :=
  run s fun m => m.sanitize slot.val 2 fun m => m.sanStart slot.val true
/-- Exit Failure Mode: a failed sanitize is left behind. -/
def execSanitizeExitFailureMode (slot : SlotId) (s : State) : Host.Outcome State Fault Refusal :=
  run s fun m => m.sanitize slot.val 1 fun m =>
    (if m.f TRS_SANSTAT.STATE = 3 then m.setF TRS_SANSTAT.STATE 0 else m).finish slot.val (some stOk)
/-- Overwrite is not supported. -/
def execSanitizeOverwrite (slot : SlotId) (s : State) : Host.Outcome State Fault Refusal :=
  run s fun m => m.sanitize slot.val 3 fun m => m.finish slot.val (some stInvalidField)

end Sys2Proof.Machine
end

