-- ==== Sys2Proof/Machine/Trust.lean ====
section
/-! DEFINITION. Owner commands, debug grants, SPDM attestation, and perturbation's control and guards
(R336 to R348, R525 to R531). -/

namespace Sys2Proof.Machine

/-! ## Debug scopes (R339, R342) -/

/-- The scopes held, bit 0 PERTURB, bit 1 CORE. -/
def Chip.scopes (m : Chip) : Nat := if m.level = 0 then 3 else if m.level = 1 then m.tr.debug else 0

/-- Debug grants end: the halted cores resume and perturbation stops (R342, R348, R527). -/
def Chip.endGrant (m : Chip) : Chip :=
  let held := m.scopes
  let m := { m with tr := { m.tr with debug := 0, debugEnd := 0 } }
  if held = 0 ∨ m.level = 0 then m else (m.ptbStop 2 false).setF PTB_CORE.HALT 0

/-! ## Nonce (R340) -/

/-- TRS_NONCE shows the nonce held, 0 without one. -/
def Chip.showNonce (m : Chip) : Chip :=
  let b := ((m.tr.nonce).map (·.1)).getD []
  (List.range 8).foldl (fun (m : Chip) i => m.setF TRS_NONCE.WORD (fieldAt b (4 * i) 4) i) m

def Chip.setNonce (m : Chip) (n : Option (List Byte × Nat)) : Chip := ({ m with tr := { m.tr with nonce := n } } : Chip).showNonce

/-- TRS_CMD.NONCE draws a fresh nonce and cancels any earlier one. -/
def Chip.drawNonce (m : Chip) : Chip :=
  let (b, m) := m.drawBytes 32
  m.setNonce (some (b, m.isl.dtc))

/-- A nonce is good for 60 s. -/
def nonceTicks : Nat := 3750000000

def execNonce (s : State) : Host.Outcome State Fault Refusal := run s Chip.drawNonce
def execNonceExpiry (s : State) : Host.Outcome State Fault Refusal := run s fun m => m.setNonce none

/-! ## Owner commands (R340, R341) -/

/-- A command ends with a result. -/
def Chip.ownerEnd (m : Chip) (op result : Nat) : Chip := (m.setF TRS_RESULT.RESULT result).setF TRS_RESULT.OP op

/-- A signature that fails is counted; the eighth in a row locks out. A failing DEBUG_GRANT raises the DEBUG alarm. -/
def Chip.badSig (m : Chip) (op : Nat) : Chip :=
  let n := m.f TRS_FAILCNT.CONSEC + 1
  let m := (((m.incF TRS_FAILCNT.BADSIG).setF TRS_FAILCNT.CONSEC n).emit 0 0x6503).ownerEnd op 5
  let m := if n = 8 then m.emit 0 0x6504 else m
  if op = 7 then m.alarm 5 else m

/-- The level changes (R338, R341): the word is written; lowering runs the whole-array erase with the LEVEL alarm. -/
def Chip.setLevel (m : Chip) (l : Nat) : Chip :=
  let was := m.level
  let held := m.scopes
  let m := if l < was then (m.alarm 7).wholeErase
    else m.array (.flag (.level (levelWord l)))
  let m := m.emit 0 0x6505
  if held ≠ 0 ∧ m.scopes = 0 then (m.ptbStop 2 false).setF PTB_CORE.HALT 0 else m

/-- The operation's condition and effect: NOT_ALLOWED leaves everything as it was. An alarm raised while UNLOCK was checked wins (R348). -/
def Chip.ownerDo (m : Chip) (b : List Byte) (op : Nat) (alarmed : Bool) : Chip × Bool :=
  let key := slice b 0x30 96
  let zero := key.all (· = 0)
  let arg := fieldAt b 0x90 1
  if op = 1 then
    if m.nv.owner ≠ [] then (m, false) else (({ m with nv := { m.nv with owner := key } } : Chip).array .record, true)
  else if op = 2 then
    if zero && decide (m.level ≠ 0) then (m, false)
    else ((({ m with nv := { m.nv with owner := if zero then [] else key } } : Chip).array .record).endGrant, true)
  else if op = 3 then
    if (m.level < arg ∧ arg ≤ 2) ∨ (m.level = 1 ∧ arg = 0) then (m.setLevel arg, true) else (m, false)
  else if op = 4 then
    match m.nv.imgKeys[arg]? with
    | some (st, _) => if st = 2 then (m, false)
        else (({ m with nv := { m.nv with imgKeys := m.nv.imgKeys.set arg (1, key) } } : Chip).array .record, true)
    | none => (m, false)
  else if op = 5 then
    match m.nv.imgKeys[arg]? with
    | some _ => (({ m with nv := { m.nv with imgKeys := m.nv.imgKeys.set arg (2, []) } } : Chip).array .record, true)
    | none => (m, false)
  else if op = 6 then
    if m.f KVT_STAT.STATE = 1 ∧ !alarmed then (m.reauth false, true) else (m, false)
  else
    let secs := fieldAt b 0x94 4
    if m.level ≠ 1 ∨ secs = 0 ∨ 86400 < secs then (m, false)
    else (({ m with tr := { m.tr with debug := arg % 4, debugEnd := m.isl.dtc + 62500000 * secs } } : Chip).emit 0 0x6506, true)

/-- TRS_CMD.GO: the command in the mailbox is being checked, with the nonce held, which it consumes. -/
def Chip.ownerGo (m : Chip) : Chip :=
  if m.tr.check.isSome then m
  else
    let b := memGetBytes m.tr.mbox 0 256
    let fresh := m.tr.nonce.any fun n => decide (n.1 = slice b 0x10 32 ∧ m.isl.dtc - n.2 ≤ nonceTicks)
    let m := { m with tr := { m.tr with check := some { bytes := b, fresh := fresh, alarmed := false } } }
    ((m.setNonce none).setF TRS_CMD.GO 1).setF TRS_RESULT.BUSY 1

/-- Whose key a command is signed with (R341). -/
def Chip.ownerSigner (m : Chip) (b : List Byte) : List Byte := if fieldAt b 4 2 = 1 then slice b 0x30 96 else m.nv.owner

/-- The owner's signature holds: keys that the twin route left unloaded are loaded (R308, log entry 178). -/
def Chip.ownerShown (m : Chip) (op : Nat) : Chip :=
  let m := m.setF TRS_FAILCNT.CONSEC 0
  if op ≠ 1 ∧ m.f KVT_STAT.STATE = 0 ∧ m.kv.toLoad = [] then m.askUnloaded else m

/-- The chip once the check of an owner command has ended. -/
def Chip.ownerIdle (m : Chip) : Chip := (({ m with tr := { m.tr with check := none } } : Chip).setF TRS_CMD.GO 0).setF TRS_RESULT.BUSY 0

/-- The check of a command ends (R341), in the order MAGIC, UID, nonce, signature, condition; a command of another OP has no signer, and ends BADOP
after the nonce (log entry 178). -/
def Chip.ownerCheck (m : Chip) (c : OwnerCheck) : Chip :=
  let b := c.bytes
  let op := fieldAt b 4 2
  let m := m.ownerIdle
  let signer := m.ownerSigner b
  let named := decide (1 ≤ op ∧ op ≤ 7)
  if m.f TRS_FAILCNT.CONSEC = 8 then m.ownerEnd op 8
  else if slice b 0 4 ≠ [0x4F, 0x57, 0x4E, 0x43] then m.ownerEnd op 2
  else if fieldAt b 8 8 ≠ Config.uid.toNat then m.ownerEnd op 3
  else if !c.fresh then m.ownerEnd op 4
  else if !named then m.ownerEnd op 7
  else if signer = [] ∨ !Config.ecdsaVerify signer (b.take 0xA0) (slice b 0xA0 48) (slice b 0xD0 48) then m.badSig op
  else
    let (m, ok) := (m.ownerShown op).ownerDo b op c.alarmed
    m.ownerEnd op (if ok then 1 else 6)

/-- The row of an operation: the check of the command of that OP ends. With none being checked, its 256 bytes are first written to the mailbox and
started (log entry 178). -/
def Chip.ownerCmd (m : Chip) (isOp : Nat → Bool) (b : List Byte) : Chip :=
  let written : Chip := { m with tr := { m.tr with mbox := memSetBytes m.tr.mbox 0 (slice b 0 256) } }
  let m := if m.tr.check.isNone && isOp (fieldAt (memGetBytes written.tr.mbox 0 256) 4 2) then written.ownerGo else m
  match m.tr.check with
  | some c => if isOp (fieldAt c.bytes 4 2) then m.ownerCheck c else m
  | none => m

def execTake (b : List Byte) (s : State) : Host.Outcome State Fault Refusal := run s fun m => m.ownerCmd (· == 1) b
def execTransfer (b : List Byte) (s : State) : Host.Outcome State Fault Refusal := run s fun m => m.ownerCmd (· == 2) b
def execSetLevel (b : List Byte) (s : State) : Host.Outcome State Fault Refusal := run s fun m => m.ownerCmd (· == 3) b
def execImgkeySet (b : List Byte) (s : State) : Host.Outcome State Fault Refusal := run s fun m => m.ownerCmd (· == 4) b
def execImgkeyRevoke (b : List Byte) (s : State) : Host.Outcome State Fault Refusal := run s fun m => m.ownerCmd (· == 5) b
def execUnlock (b : List Byte) (s : State) : Host.Outcome State Fault Refusal := run s fun m => m.ownerCmd (· == 6) b
def execDebugGrant (b : List Byte) (s : State) : Host.Outcome State Fault Refusal := run s fun m => m.ownerCmd (· == 7) b
def execBadop (b : List Byte) (s : State) : Host.Outcome State Fault Refusal :=
  run s fun m => m.ownerCmd (fun op => decide (op = 0 ∨ 7 < op)) b
def execDebugRevoke (s : State) : Host.Outcome State Fault Refusal := run s Chip.endGrant
def execDebugGrantExpiry (s : State) : Host.Outcome State Fault Refusal := run s Chip.endGrant

/-! ## Attestation (R336, R343, R344) -/

/-- The private scalar of a derived key pair (R336): of the digest of UDS, a label and a context. -/
def derivedScalar (label context : List Byte) : Nat :=
  beNat (Config.sha384 (Config.uds ++ label ++ context)) % (Config.p384Order - 1) + 1

def deviceScalar : Nat := derivedScalar [0x44, 0x49, 0x44, 0x31] []

/-- Before jumping to the firmware the ROM has the alias key formed of the package and the level, and fixes what runs (R334, R336). -/
def Chip.measure (m : Chip) (pkg : List Byte) : Chip :=
  { m with tr := { m.tr with
    running := pkg, aliasKey := derivedScalar [0x41, 0x4C, 0x53, 0x31] (Config.sha384 pkg ++ leBytes 1 m.level) } }

/-- Slot 0: the certificates kept, and the alias certificate, signed by the DeviceID key (R336, R343). -/
def Chip.certs (m : Chip) : List Byte := Config.certChain ++ Config.issueCert deviceScalar m.tr.aliasKey

/-- The byte offset of an image's SIGN section. -/
def signOff (b : List Byte) : Nat := ((secsOf b).getLast?.map (·.off)).getD 0

/-- The bytes of a measurement; none for an index outside 1 to 6. -/
def Chip.measurement (m : Chip) (i : Nat) : Option (List Byte) :=
  let img := m.bank (m.f GEN_STAT.BANK % 2)
  if i = 1 then some Config.romDigest
  else if i = 2 then some (Config.sha384 m.tr.running)
  else if i = 3 then some (Config.sha384 (img.take (signOff img)))
  else if i = 4 then
    some (if m.img.liveBytes = [] then List.replicate 48 0 else Config.sha384 (m.img.liveBytes.take (signOff m.img.liveBytes)))
  else if i = 5 then
    some (leBytes 1 m.level ++ leBytes 1 m.scopes ++ leBytes 1 (m.f KVT_STAT.STATE) ++ leBytes 1 (b1 (decide (m.nv.owner ≠ []))))
  else if i = 6 then some (leBytes 2 (fieldAt m.tr.running 0x14 2) ++ leBytes 2 m.nv.svnFloor)
  else none

def SpdmPeer.blank : SpdmPeer := { stage := 0, sessions := [] }
def Chip.peer (m : Chip) (p : Nat) : SpdmPeer := tget SpdmPeer.blank m.tr.spdm p
def Chip.setPeer (m : Chip) (p : Nat) (v : SpdmPeer) : Chip :=
  { m with tr := { m.tr with spdm := tset SpdmPeer.blank m.tr.spdm p v } }

/-- Sessions a requester may hold: 4 on a physical function, 1 on a sub-link; 0 on the management bus, for which the spec names
none. -/
def sessionLimit (p : Nat) : Nat := if p < 32 then 4 else if p < 34 then 1 else 0

/-- An SPDM response; to the twin it travels in frames (R412). -/
def Chip.answer (m : Chip) (p : Nat) (name : String) (props : List (String × Nat)) (bytes : List Byte) : Chip :=
  let m := m.send (.spdm p name props bytes)
  if p = 32 ∨ p = 33 then m.sendSpdm (p - 32) (Config.spdmMessage name props bytes) else m
def Chip.spdmError (m : Chip) (p : Nat) : Chip := m.answer p "ERROR" [] []

/-- A request that needs the connection to have come to a stage (log entry 34). -/
def Chip.atStage (m : Chip) (p stage : Nat) (g : Chip → Chip) : Chip := if (m.peer p).stage < stage then m.spdmError p else g m

/-- A response signed by the alias key over the request and the response (R343). -/
def Chip.signedAnswer (m : Chip) (p : Nat) (name : String) (req body : List Byte) : Chip :=
  let (n, m) := m.drawBytes 32
  m.answer p name [] (n ++ body ++ Config.ecdsaSign m.tr.aliasKey (req ++ n ++ body))

/-- A change of a session of a requester. -/
def SpdmPeer.modSession (x : SpdmPeer) (id : Nat) (g : SpdmSession → SpdmSession) : SpdmPeer :=
  { x with sessions := x.sessions.map fun e => if e.id = id then g e else e }

/-- A session of a requester. -/
def SpdmPeer.has (x : SpdmPeer) (id : Nat) : Bool := x.sessions.any fun e => decide (e.id = id) && e.established

def Chip.inSession (m : Chip) (p id : Nat) (g : Chip → Chip) : Chip := if (m.peer p).has id then g m else m.spdmError p

def execSpdmGetVersion (p : Fin 35) (s : State) : Host.Outcome State Fault Refusal :=
  run s fun m => (m.setPeer p.val { stage := 1, sessions := [] }).answer p.val "VERSION" [("version", 0x13)] []

def execSpdmGetCapabilities (p : Fin 35) (s : State) : Host.Outcome State Fault Refusal :=
  run s fun m => m.atStage p.val 1 fun m =>
    (m.setPeer p.val { m.peer p.val with stage := 2 }).answer p.val "CAPABILITIES"
      [("CERT", 1), ("CHAL", 1), ("MEAS", 2), ("ENCRYPT", 1), ("MAC", 1), ("KEY_EX", 1), ("PSK", 0), ("CSR", 0), ("SET_CERT", 0)] []

def execSpdmNegotiateAlgorithms (p : Fin 35) (s : State) : Host.Outcome State Fault Refusal :=
  run s fun m => m.atStage p.val 2 fun m =>
    (m.setPeer p.val { m.peer p.val with stage := 3 }).answer p.val "ALGORITHMS"
      [("ECDSA_P384", 1), ("SHA_384", 1), ("SECP384R1", 1), ("AES_256_GCM", 1)] []

def execSpdmGetDigests (p : Fin 35) (s : State) : Host.Outcome State Fault Refusal :=
  run s fun m => m.atStage p.val 3 fun m => m.answer p.val "DIGESTS" [("slotmask", 1)] (Config.sha384 m.certs)

/-- GET_CERTIFICATE of a slot, from an offset; slot 0 alone holds a chain. -/
def execSpdmGetCertificate (p : Fin 35) (slot offset len : Nat) (s : State) : Host.Outcome State Fault Refusal :=
  run s fun m => m.atStage p.val 3 fun m =>
    if slot ≠ 0 then m.spdmError p.val
    else m.answer p.val "CERTIFICATE" [("remainder", m.certs.length - (offset + len))] (slice m.certs offset len)

def execSpdmChallenge (p : Fin 35) (request : List Byte) (s : State) : Host.Outcome State Fault Refusal :=
  run s fun m => m.atStage p.val 3 fun m =>
    m.signedAnswer p.val "CHALLENGE_AUTH" request (Config.sha384 m.certs)

/-- GET_MEASUREMENTS of one index, or with 0xFF of all six, signed where asked for. -/
def execSpdmGetMeasurements (p : Fin 35) (index : Nat) (signed : Bool) (request : List Byte) (s : State) :
    Host.Outcome State Fault Refusal :=
  run s fun m => m.atStage p.val 3 fun m =>
    let ids := if index = 0xFF then [1, 2, 3, 4, 5, 6] else [index]
    if index ≠ 0xFF ∧ (m.measurement index).isNone then m.spdmError p.val
    else
      let body := ids.flatMap fun i => leBytes 1 i ++ (m.measurement i).getD []
      if signed then m.signedAnswer p.val "MEASUREMENTS" request body
      else m.answer p.val "MEASUREMENTS" [] body

/-- KEY_EXCHANGE opens a session, named by its number, not yet established. -/
def execSpdmKeyExchange (p : Fin 35) (id : Nat) (request : List Byte) (s : State) : Host.Outcome State Fault Refusal :=
  run s fun m => m.atStage p.val 3 fun m =>
    let x := m.peer p.val
    if sessionLimit p.val ≤ x.sessions.length ∨ x.sessions.any (fun e => decide (e.id = id)) then m.spdmError p.val
    else (m.setPeer p.val { x with sessions := x.sessions ++ [{ id := id, established := false, updates := 0 }] }).signedAnswer p.val "KEY_EXCHANGE_RSP" request []

def execSpdmFinish (p : Fin 35) (id : Nat) (s : State) : Host.Outcome State Fault Refusal :=
  run s fun m =>
    let x := m.peer p.val
    if x.sessions.any (fun e => decide (e.id = id) && !e.established) then
      (m.setPeer p.val (x.modSession id fun e => { e with established := true })).answer p.val "FINISH_RSP" [] []
    else m.spdmError p.val

def execSpdmKeyUpdate (p : Fin 35) (id : Nat) (s : State) : Host.Outcome State Fault Refusal :=
  run s fun m => m.inSession p.val id fun m =>
    (m.setPeer p.val ((m.peer p.val).modSession id fun e => { e with updates := e.updates + 1 })).answer p.val "KEY_UPDATE_ACK" [] []

def execSpdmHeartbeat (p : Fin 35) (id : Nat) (s : State) : Host.Outcome State Fault Refusal :=
  run s fun m => m.inSession p.val id fun m => m.answer p.val "HEARTBEAT_ACK" [] []

def execSpdmEndSession (p : Fin 35) (id : Nat) (s : State) : Host.Outcome State Fault Refusal :=
  run s fun m => m.inSession p.val id fun m =>
    let x := m.peer p.val
    (m.setPeer p.val { x with sessions := x.sessions.filter (·.id ≠ id) }).answer p.val "END_SESSION_ACK" [] []

/-- VENDOR_DEFINED carries IDE_KM inside a session of a physical function, for the streams of its port (R91): KEY_PROG of a substream's key, or
K_SET_GO. -/
def execSpdmVendorDefined (p : Fin 35) (id : Nat) (km : IdeKm) (s : State) : Host.Outcome State Fault Refusal :=
  run s fun m => m.inSession p.val id fun m =>
    if 32 ≤ p.val then m.spdmError p.val
    else
      let m := match km with
        | .keyProg q x keyset => if m.portPf q.val = some p.val then m.keyProg q.val x.stream.val x.sub.val keyset.val else m
        | .setGo q x keyset => if m.portPf q.val = some p.val then m.kSetGo q.val x.stream.val x.sub.val keyset.val else m
      m.answer p.val "VENDOR_DEFINED_RESPONSE" [] []

/-! ## Perturbation (R525, R526, R530, R531) -/

/-- PTB_CTL.ARM. -/
def Chip.ptbArm (m : Chip) : Chip :=
  let ens := [PTB_HSDLY.EN, PTB_BARO.EN, PTB_STALL.EN, PTB_CAPAR.EN, PTB_ECC.EN, PTB_LDPC.EN, PTB_DROP.EN, PTB_SKEW.EN]
  let v := ((List.range 8).zip ens).foldl (fun a e => a + m.f e.2 * 2 ^ e.1) 0
  let seeds : Table Nat := if m.f PTB_SEED.SEED = 0 then [] else (List.range 8).map fun i => (i, m.f PTB_SEED.SEED)
  let m := ({ m with pt := { lfsr := seeds, acted := [] } } : Chip).setF PTB_CTL.ARMED 1
  (m.devBaro).emit 0 0x6F01 v

/-- PTB_CORE: cores 2 to 15 halt and resume, and SEL picks the counter shown. -/
def Chip.coreHalt (m : Chip) (v : Nat) : Chip := (m.setF PTB_CORE.HALT (bits v 15 2)).setF PTB_CORE.SEL (bits v 19 16)

/-- PTB_BIST.GO: a checker test of the masked memories begins; ignored while one runs. Memories in an island that is off end it
at once with 3. -/
def Chip.bistGo (m : Chip) : Chip :=
  if m.f PTB_BIST.GO = 1 then m
  else
    let mask := m.f PTB_BIST.MASK
    let isOff (i : Nat) : Bool := decide (m.islState i = 0)
    if (bitOf mask 0 && isOff 11) || (bitOf mask 1 && (isOff 24 || isOff 25)) || (bitOf mask 2 && isOff 1) then (m.setF PTB_BIST.RESULT 3).emit 0 0x6F03 3
    else m.setF PTB_BIST.GO 1

/-- The test ends: `bad` has a bit for each memory that failed. -/
def Chip.bistDone (m : Chip) (bad : Nat) : Chip :=
  if m.f PTB_BIST.GO = 0 then m
  else
    let bad := bad &&& m.f PTB_BIST.MASK
    let r := if bad = 0 then 1 else 2
    let m := (m.setF PTB_BIST.GO 0).setF PTB_BIST.RESULT r
    let m := if bad = 0 then m
      else ((m.setF SDP_BIST.FAIL (m.f SDP_BIST.FAIL ||| bad)).setBit FLT_STAT.FORCE 0 true).emit 0 0x6805
    m.emit 0 0x6F03 r

end Sys2Proof.Machine
end

