-- ==== Sys2Proof/Machine/Islands.lean ====
section
/-! DEFINITION. Islands and their porters (R31 to R46), flow tags at boundaries (R47 to R52), and barriers (R54 to R58, R176);
with the wake events of Lull and Calm (R483, R489), which porters raise. The rows whose access a porter answers are in Cw.lean. -/

namespace Sys2Proof.Machine

/-! ## Uses of an island (R42) -/

/-- A group whose PERST_nk is deasserted and that holds a port of the lane plan in force (R42, R462). -/
def Chip.groupUsed (m : Chip) (k : Nat) : Bool :=
  !bitOf m.q.perst k && (List.range 4).any fun i => m.portUsed (4 * k + i)

/-- The channels of a cluster have training to do. -/
def Chip.clusterTrains (m : Chip) (k : Nat) : Bool :=
  (List.range 8).any fun c => (m.train (8 * k + c)).ce.isSome

/-- The Stepesha link has no use while the twin is DOWN, SOLO, FENCED or REFUSED and no handshake is attempted. -/
def Chip.twnIdle (m : Chip) : Bool := decide (m.f TWN_STAT.STATE ∈ [0, 7, 8, 9]) && !m.tw.handshake

/-- The memory under scrub lies in an island. -/
def Chip.scrubIn (m : Chip) (i : Nat) : Bool :=
  decide (m.f SDP_SCRUB_STAT.BUSY = 1) &&
    (let mem := m.sd.mem; decide ((mem = 0 ∧ i = 11) ∨ (mem = 1 ∧ (i = 24 ∨ i = 25)) ∨ (mem = 2 ∧ i = 1)))

/-- A scrub ends with a result (R402). -/
def Chip.scrubEnd (m : Chip) (result : Nat) : Chip :=
  (((m.setF SDP_SCRUB_STAT.RESULT result).setF SDP_SCRUB_STAT.BUSY 0).setF SDP_SCRUB_CTL.GO 0).emit 0 0x6806

/-- Training, a measurement, a scrub or a barrier runs in an island, or a unit or access is served there. A barrier runs in CMD and in the
clusters its tree reaches: those that serve. -/
def Chip.serves (m : Chip) (i : Nat) : Bool :=
  (decide (12 ≤ i ∧ i ≤ 23) && m.clusterTrains (i - 12)) ||
  decide (m.ag.cur = some i) ||
  m.scrubIn i || (m.isl.flight.isSome && (decide (i = 10) || (decide (12 ≤ i ∧ i ≤ 23) && m.islServes i))) || m.isl.units.any (fun u => u.1 = i) || m.isl.stalled.any (fun a => a.island = i)

/-- The use table of R42. -/
def Chip.hasUse (m : Chip) (i : Nat) : Bool :=
  m.serves i ||
  (if i = 0 then true
   else if i = 1 ∨ i = 10 ∨ i = 11 then decide (3 ≤ m.st.step)
   else if i = 24 ∨ i = 25 ∨ i = 26 then decide (7 ≤ m.st.step)
   else if i ≤ 9 then decide (3 ≤ m.st.step) && m.groupUsed (i - 2)
   else if i ≤ 23 then m.fbit TWN_LINES.CLAIM (i - 12)
   else !m.twnIdle)

/-- The islands Lull switches off (R479). -/
def lullOff (i : Nat) : Bool := decide (12 ≤ i ∧ i ≤ 26)

/-- The place of an island in the order of Calm entry (R485). -/
def calmStage (i : Nat) : Nat :=
  if (12 ≤ i ∧ i ≤ 23) ∨ i = 26 then 0
  else if i = 27 then 1
  else if 2 ≤ i ∧ i ≤ 9 then 2
  else if i = 24 ∨ i = 25 then 3
  else if i = 11 then 4
  else if i = 10 then 5
  else 6

/-- In Calm entry an island's turn has come: those before it in the order are off. -/
def Chip.calmTurn (m : Chip) (i : Nat) : Bool :=
  (List.range 28).all fun k => decide (k = 0 ∨ calmStage i ≤ calmStage k ∨ m.islState k = 0)

/-- What R42 decides for an island: the number of the step that has it off, or none where it is on. The trip latch lets a flush that
runs end first (R498, R501). -/
def Chip.offBy (m : Chip) (i : Nat) : Option Nat :=
  let st := m.f PWR_STAT.STATE
  if i = 0 then none
  else if m.f THM_STAT.TRIP = 1 ∧ m.plp.flushing = false then some 1
  else if ((st = 2 ∨ st = 3) ∧ lullOff i) ∨ st = 5 then some 2
  else if st = 4 ∧ m.calmTurn i then some 2
  else if m.hasUse i ∨ m.f ISL_CTL.PWR_REQ i = 1 ∨ m.f PWR_CTL.TRIM_EN = 0 then none
  else some 3

def Chip.setIsl (m : Chip) (i st : Nat) : Chip := m.setF ISL_STAT.STATE st i

/-- An island begins to drain, by a step of R42; a scrub in it ends (R403), and its measurement waits (R509). -/
def Chip.drain (m : Chip) (i step : Nat) : Chip :=
  let m := (if m.scrubIn i then m.scrubEnd 6 else m).setIsl i 3
  let m := if m.ag.cur = some i then ({ m with ag := { m.ag with cur := none } } : Chip).setBit AGE_STAT.PENDING i true else m
  { m with isl := { m.isl with offStep := tput m.isl.offStep i step } }

/-- The state of PWR_STAT while it is Active or Trim (R479, R480). -/
def Chip.showTrim (m : Chip) : Chip :=
  if 2 ≤ m.f PWR_STAT.STATE then m
  else m.setF PWR_STAT.STATE (if m.f PWR_CTL.TRIM_EN = 0 ∨ (List.range 28).all (fun i => m.islState i = 2) then 0 else 1)

/-- An island follows what R42 decides now: an off one that has a use wakes, a draining one that gained a use is on again, and
the trip latch, Lull and Calm start draining at once. Losing its last use starts draining only after 10 µs. -/
def Chip.islPoll (m : Chip) (i : Nat) : Chip :=
  match m.offBy i, m.islState i with
  | none, 0 => m.setIsl i 1
  | none, 3 => m.setIsl i 2
  | some k, 2 => if k = 3 then m else m.drain i k
  | some k, 3 => if k = 3 then m else m.drain i k
  | _, _ => m

/-- Every island follows R42. -/
def Chip.powerPoll (m : Chip) : Chip := ((List.range 28).foldl (fun (m : Chip) i => m.islPoll i) m).showTrim

/-! ## Wake events (R483, R487 to R490) -/

/-- PWR_WAKESRC and PWR_WAKEDTC of a wake event. -/
def Chip.logWake (m : Chip) (src wh from_ : Nat) (entry : Bool) : Chip :=
  let m := (m.setF PWR_WAKESRC.SRC src).setF PWR_WAKESRC.ENTRY (b1 entry)
  ((m.setF PWR_WAKESRC.FROM from_).setF PWR_WAKESRC.WHERE wh).setF PWR_WAKEDTC.DTC m.now

/-- The exit from Lull or Calm starts, for the event logged: EXIT, event 0x6C03, and the islands wake. From Calm the pools await
service, the CEs of the claimed channels train, and the ports of groups out of reset train (R488). -/
def Chip.startExit (m : Chip) : Chip :=
  let m := ((m.setF PWR_STAT.STATE 6).setF PWR_STAT.LATCHED 0).emit 0 0x6C03 (m.f PWR_WAKESRC.SRC)
  let m :=
    if m.f PWR_WAKESRC.FROM = 2 then
      let m := ({ m with tw := { m.tw with holdWoke := true } } : Chip).setF BPM_STAT.MODE 1
      let m := (List.range 96).foldl (fun (m : Chip) ch => if m.claims (ch / 8) then m.askTrain ch m.populated else m) m
      (List.range 32).foldl (fun (m : Chip) q => m.startTraining q) m
    else m
  m.powerPoll

/-- A wake event: it ends Lull or Calm, is latched during their entry, and means nothing otherwise. Later events of an entry
change nothing more (log entry 35). -/
def Chip.wakeEvent (m : Chip) (src wh : Nat) : Chip :=
  let st := m.f PWR_STAT.STATE
  if st = 2 ∨ st = 4 then
    if m.f PWR_STAT.LATCHED = 1 then m else (m.logWake src wh (if st = 2 then 1 else 2) true).setF PWR_STAT.LATCHED 1
  else if st = 3 then (m.logWake src wh 1 false).startExit
  else if st = 5 then (m.logWake src wh 2 false).startExit
  else m

/-- A wake event of Lull alone (R483). -/
def Chip.lullWake (m : Chip) (src wh : Nat) : Chip :=
  if m.f PWR_STAT.STATE = 2 ∨ m.f PWR_STAT.STATE = 3 then m.wakeEvent src wh else m

/-- A Lull exit is over when no island is waking any more (R483); Trim or Active follows. -/
def Chip.lullExitPoll (m : Chip) : Chip :=
  if m.f PWR_STAT.STATE = 6 ∧ m.f PWR_WAKESRC.FROM = 1 ∧ (List.range 28).all (fun i => m.islState i ≠ 1) then
    ((m.setF PWR_STAT.STATE 1).setF PWR_CTL.WAKE 0).showTrim
  else m

/-! ## Waking and draining (R38 to R42) -/

/-- The island asks to wake for an access or unit: in Lull that is a wake event (R42 step 2). -/
def Chip.wakeFor (m : Chip) (i src : Nat) : Chip :=
  let st := m.f PWR_STAT.STATE
  if lullOff i ∧ (st = 2 ∨ st = 3) then m.wakeEvent src i
  else if m.islState i = 0 ∧ m.f THM_STAT.TRIP = 0 ∧ st ≠ 5 then m.setIsl i 1
  else m

/-- The epoch whose tables an island loads as it wakes (R77): the switch's once its porter has acknowledged the commit for it. -/
def Chip.wakeEpoch (m : Chip) (i : Nat) : Nat :=
  match m.img.switch with
  | some sw => if sw.stamping ∧ m.fbit IMG_ACKMASK.ACK i then sw.epoch else m.f GEN_EPOCH.CURRENT
  | none => m.f GEN_EPOCH.CURRENT

/-- Arbiters of an island start with a new seed (R368, R374). -/
def Chip.arbSeeds (m : Chip) (i : Nat) : Chip :=
  ((List.range 12).filter fun a => arbIsland a = i).foldl (fun (m : Chip) a => m.arbSeed a) m

/-- The live command a tag names: its slot is live and its tenant matches (R51). -/
def Chip.tagCmd? (m : Chip) (tag : Nat) : Option (Nat × Cmd) :=
  (tagCommand tag).bind fun s => (m.cmd? s).bind fun c => if c.tenant = tagTenant tag ∧ c.phase ≠ .reserved then some (s, c) else none

/-- A unit whose check an island has verified is acted on: its command makes progress (R52). A unit of the twin's goes on with the
receiver's own epoch (R80). -/
def Chip.unitServed (m : Chip) (i tag : Nat) : Chip :=
  let m := match m.tagCmd? tag with
    | some (s, _) => m.modCmd s id
    | none => m
  m.send (.unit i (if tagFromTwin tag then tagRestamp tag m.stampEpoch.1 else tag))

/-- A command named in a tag ends as R39 or R51 says. -/
def Chip.failTagged (m : Chip) (tag : Nat) : Chip :=
  match m.tagCmd? tag with
  | some (s, _) => m.failSlot s
  | none => m

/-- A unit is refused (R39): its command fails, device-originated work waits for its retry, and event 0x3001 is recorded. -/
def Chip.refuseUnit (m : Chip) (i tag : Nat) : Chip :=
  let m := if tagInternal tag then { m with isl := { m.isl with retry := m.isl.retry ++ [(i, tag)] } } else m.failTagged tag
  m.emit i 0x3001 i (some tag)

/-- An XTS lane does a unit's work: its kind passes none, or its key slot is a data slot and not EMPTY (R290, R303). -/
def Chip.keySuits (m : Chip) (tag : Nat) : Bool :=
  decide (tagKind tag ∉ [1, 2, 3, 0xD]) || decide (tagKey tag < 8192 ∧ (m.kslot (tagKey tag)).state ≠ 0)

/-- A unit whose key slot is EMPTY or does not suit its lane (R303): a host command that has not committed ends Namespace Not Ready, any other unit
fails as a tag. -/
def Chip.keyRefused (m : Chip) (tag : Nat) : Chip :=
  let m := (m.incF CPH_KEYERR.COUNT).emit 26 0x6305 0 (some tag)
  match m.tagCmd? tag with
  | some (s, c) => if c.admin ∨ c.phase = .committed then m.tagErr 26 else m.endCmd s (some stNsNotReady)
  | none => m.tagErr 26

/-- A unit at an island that serves: its tag is verified before anything is done (R50), and a failing one is discarded (R51). In XFM the level must
suit the zone's kind. -/
def Chip.unitCheck (m : Chip) (i tag : Nat) : Chip :=
  let level := decide (i = 26 ∧ bitOf tag 146 ≠ decide (1 ≤ tagLevel tag ∧ tagLevel tag ≤ 9))
  if tagPasses tag && !level then (if i = 26 ∧ !m.keySuits tag then m.keyRefused tag else m.unitServed i tag)
  else
    let m := if tagPasses tag then (m.incF CMP_ERR.TAGMIS).emit 26 0x6203 0 (some tag) else m
    (m.tagErr i).failTagged tag

def SubDram.blank : SubDram :=
  { reads := [], writes := [], held := [], drain := false, rows := [], due := [], retry := [], issued := 0, failing := none, fails := 0, replay := none }
def Chip.subd (m : Chip) (k : Nat) : SubDram := tget SubDram.blank m.dr.subs k
def Chip.setSubd (m : Chip) (k : Nat) (v : SubDram) : Chip := { m with dr := { m.dr with subs := tset SubDram.blank m.dr.subs k v } }

/-- The rows a command leaves open; `now`: the DTC of the command. -/
def DramCmd.rows (now : Nat) (t : Table (Nat × Nat)) : DramCmd → Table (Nat × Nat)
  | .act bank row => tput t bank (row, now)
  | .col bank row _ => tput t bank (row, now)
  | .pre bank => tdel t bank
  | .refsb i => t.filter fun r => decide (r.1 % 4 ≠ i)

/-- A replay completes (R385 steps 4 to 6): from the failing command on, which the RCD has blocked, the buffer's commands have been issued again in their
order to banks that were all precharged. -/
def Chip.replayEnd (m : Chip) (ch : Nat) : Chip :=
  if m.f DRC_STAT.STATE ch ≠ 4 then m
  else
    let m := [2 * ch, 2 * ch + 1].foldl (fun (m : Chip) k =>
      let x := m.subd k
      match x.replay with
      | none => m
      | some j => m.setSubd k { x with replay := none, rows := (x.retry.drop j).foldl (fun t c => c.2.rows m.isl.dtc t) [] }) m
    ((m.setF DRC_STAT.STATE 2 ch).incF DRC_PARITY.REPLAYS ch).emit (24 + ch / 4) 0x6702

/-- The channels of a MEM island enter self-refresh as it switches off, a replay completing first (R392), or leave it as it is ON. -/
def Chip.selfRefresh (m : Chip) (i : Nat) (enter : Bool) : Chip :=
  (List.range 4).foldl (fun (m : Chip) k =>
    let c := 4 * (i - 24) + k
    let m := if enter then m.replayEnd c else m
    if m.f DRC_STAT.STATE c = (if enter then 2 else 3) then m.setF DRC_STAT.STATE (if enter then 3 else 2) c else m) m

/-- After the self-refresh of Calm every channel of a MEM island has a DQ training run (R488 step 4). -/
def Chip.calmRetrain (m : Chip) (i : Nat) : Chip :=
  if m.f PWR_STAT.STATE = 6 ∧ m.f PWR_WAKESRC.FROM = 2 then
    (List.range 4).foldl (fun (m : Chip) k =>
      let c := 4 * (i - 24) + k
      if m.f DRC_STAT.STATE c = 2 then ({ m with dr := { m.dr with runs := tput m.dr.runs c 1 } } : Chip).setF DRC_STAT.STATE 1 c else m) m
  else m

/-- An island is ON: RST is over, its epoch and the DTC are loaded, its arbiters are seeded and the units its porter bounced are presented
again (R31, R34, R44). -/
def Chip.islandOn (m : Chip) (i : Nat) : Chip :=
  let st := m.islState i
  if st = 1 ∨ st = 4 then
    let m := ((m.setIsl i 2).setF ISL_CTL.RST 0 i).applyEpoch i (m.wakeEpoch i)
    let m := { m with isl := { m.isl with skew := tdel m.isl.skew i } }
    let m := if st = 1 then m.arbSeeds i else m
    let m := if i = 24 ∨ i = 25 then (m.selfRefresh i false).calmRetrain i else m
    let us := m.isl.units.filter fun u => u.1 = i
    let m := { m with isl := { m.isl with units := m.isl.units.filter fun u => decide (u.1 ≠ i) } }
    (us.foldl (fun (m : Chip) u => m.unitCheck u.1 u.2) m).powerPoll.lullExitPoll
  else m

/-- A down hit (R36). -/
def Chip.downHit (m : Chip) (i off : Nat) (write : Bool) : Chip :=
  let m := if m.f ISL_STAT.DOWNHIT i = 0 then (m.setF ISL_DOWNADDR.OFFSET off i).setF ISL_DOWNADDR.WR (b1 write) i else m
  (m.setF ISL_STAT.DOWNHIT 1 i).incF ISL_DOWNCNT.DOWN_COUNT i

/-- The word a read of an island that is off returns (R36). -/
def downWord : Nat := 0xDEAD15D0

/-- An island failed to wake (R38, R39): stalled accesses end as down hits, the units' commands fail with event 0x3001, and the
island is OFF. -/
def Chip.wakeFailed (m : Chip) (i : Nat) : Chip :=
  let st := m.islState i
  if st = 1 ∨ st = 4 ∨ (st = 0 ∧ (m.isl.stalled.any (fun a => a.island = i) ∨ m.isl.units.any (fun u => u.1 = i))) then
    let m := (m.setIsl i 0).setF ISL_STAT.WAKEFAIL 1 i
    let as_ := m.isl.stalled.filter fun a => a.island = i
    let us := m.isl.units.filter fun u => u.1 = i
    let m := { m with isl := { m.isl with stalled := m.isl.stalled.filter (fun a => decide (a.island ≠ i)),
                                          units := m.isl.units.filter fun u => decide (u.1 ≠ i) } }
    let m := as_.foldl (fun (m : Chip) a =>
      let m := m.downHit i a.off a.data.isSome
      if a.data.isNone then { m with reply := m.reply ++ [downWord] } else m) m
    let m := us.foldl (fun (m : Chip) u => m.refuseUnit i u.2) m
    m.lullExitPoll.switchPoll.settle
  else m

/-- PTB_HSDLY and PTB_STALL decide about a beat into an island (R529); a unit they act on carries PERTURB (R528). -/
def Chip.ptbBeat (m : Chip) (i tag : Nat) : Bool × Chip :=
  let ok := m.ptbScoped (if tagInternal tag then none else some (tagTenant tag))
  let (a, m) := if m.ptbOn PTB_HSDLY.EN && decide (m.f PTB_HSDLY.ISLAND = i) && ok then m.ptbDraw 0 (m.f PTB_HSDLY.RATE) else (false, m)
  let (b, m) := if m.ptbOn PTB_STALL.EN && decide (m.f PTB_STALL.ISLAND = i) && ok then m.ptbDraw 2 (m.f PTB_STALL.RATE) else (false, m)
  let m := if a then m.incF PTB_CNT.COUNT else m
  let m := if b then m.incF PTB_CNT.COUNT else m
  (a || b, m)

/-- A unit's beat arrives at an island (R34, R39, R40, R50, R51). -/
def Chip.unitReceive (m : Chip) (i tag : Nat) : Chip :=
  let st := m.islState i
  let keep (m : Chip) : Chip := { m with isl := { m.isl with units := m.isl.units ++ [(i, tag)] } }
  if st = 0 then (keep m).wakeFor i 1
  else if st = 1 ∨ st = 4 then keep m
  else
    let (hit, m) := m.ptbBeat i tag
    let tag := if hit ∧ !bitOf tag 159 then tagSeal (tag + 2 ^ 159) else tag
    let m := if hit then
        match m.tagCmd? tag with
        | some (s, c) => m.putCmd s { c with perturb := true }
        | none => m
      else m
    let m := if st = 3 then
        (match tget 0 m.isl.offStep i with
         | 3 => m.setIsl i 2
         | 2 => m.wakeEvent 1 i
         | _ => m)
      else m
    (m.unitCheck i tag).settle

/-- A unit whose acknowledge reaches its sender with response 0b11: a REFUSE, and TAGERR of the island that answered (R34). -/
def Chip.unitGarbled (m : Chip) (i tag : Nat) : Chip := ((m.setF ISL_STAT.TAGERR 1 i).refuseUnit i tag).settle

def execUnitReceive (i : Isl) (u : Beat) (s : State) : Host.Outcome State Fault Refusal :=
  run s fun m => if u.garbled then m.unitGarbled i.val u.tag.toNat else m.unitReceive i.val u.tag.toNat

/-- 10 µs have passed since an island's last use (R42, R480). -/
def execIslandIdleTimeout (i : Isl) (s : State) : Host.Outcome State Fault Refusal :=
  run s fun m => if m.islState i.val = 2 ∧ m.offBy i.val = some 3 then (m.drain i.val 3).showTrim else m

/-- Register fields of an island that its switch does not lose: those that show what DRAM, ENVA, the running image or the array of dies holds
(log entry 36). -/
def heldKey (k : Nat) : Bool :=
  let o := k / 32
  let shows (f : Fld) : Bool := (f.index? o).isSome
  shows HPT_PCFG.VALID || shows HPT_ANA.STATE0 || shows FCH_STAT.MODE || shows FCH_EYE.RD_PS || shows FCH_DIE.STATE || shows DRC_STAT.STATE ||
  shows DRC_EYE.RD || shows BPM_STAT.MODE || shows SPE_STAT.REBUILDING || shows SPE_RBLEFT.ROWS || shows SPE_POISON.USED ||
  shows ZNE_LOGSTAT.FREE || decide (o = 0x1B0030 ∨ k = NVA_STAT.BROWNOUT.key 0)

/-- The registers of an island return to their reset values. -/
def Chip.loseRegs (m : Chip) (i : Nat) : Chip :=
  { m with regs := m.regs.filter fun e => decide (cwIsland (e.1 / 32) ≠ i) || heldKey e.1 }

/-- What an island loses as its switch opens (R32): its registers, and of the rest HST its links, XFM its lanes and cached keys, TWN its
sub-links, a cluster the training work of its channels, BUF its pools' buffers and MGT the operations of its firmware; BUF, CMD and MGT go off
only for Calm or a trip, where no command is left. DRAM goes into self-refresh. -/
def Chip.islandLost (m : Chip) (i : Nat) : Chip :=
  let m := m.loseRegs i
  if i = 1 then
    { m with
      img := { m.img with phase := .idle }, nv := { m.nv with op := none, words := [], line := none, queue := [], prefetch := [], branch := [] }, tr := { m.tr with spdm := [] } }
  else if 12 ≤ i ∧ i ≤ 23 then
    { m with md := { m.md with train := m.md.train.filter fun e => decide (e.1 / 8 ≠ i - 12) } }
  else if 2 ≤ i ∧ i ≤ 9 then
    (List.range 4).foldl (fun (m : Chip) k => let q := 4 * (i - 2) + k; m.linkGone q (if m.portUsed q then 0 else 7)) m
  else if i = 24 ∨ i = 25 then m.selfRefresh i true
  else if i = 26 then { m with kv := { m.kv with cache := [], lanes := [], waiting := [] }, eng := { comp := [], decomp := [] } }
  else if i = 27 then
    let m := m.setF TWN_STAT.UP 0
    (List.range 2).foldl (fun (m : Chip) s => (m.setSub s SubSt.blank).setF TWN_SLSTAT.RATE 0 s) m
  else if i = 11 then
    { m with bp := { m.bp with bufs := [], retry := [],
                               pools := m.img.tables.pools.foldl (fun t p => tset PoolSt.blank t p.pool p.fresh) [] } }
  else m

/-- An island's FIFOs are empty and its switch opens (R40), unless it has gained a use. -/
def Chip.drained (m : Chip) (i : Nat) : Chip :=
  if m.islState i ≠ 3 then m
  else if m.offBy i = none then (m.setIsl i 2).showTrim
  else
    let m := ((m.setIsl i 0).islandLost i).switchPoll.showTrim
    if m.f PWR_STAT.STATE = 4 then m.powerPoll else m

def execIslandDrainDone (i : Isl) (s : State) : Host.Outcome State Fault Refusal := run s fun m => m.drained i.val

/-- An island that was reset loads both held table sets again, and reports or acknowledges a running switch afresh (R81). -/
def Chip.islandReloads (m : Chip) (i : Nat) : Chip :=
  match m.img.switch with
  | none => m
  | some sw =>
    let m := { m with img := { m.img with switch := some { sw with loaded := if bitOf sw.loaded i then sw.loaded - 2 ^ i else sw.loaded } } }
    m.setBit IMG_ACKMASK.ACK i false

/-- The reset of MGT (R397, R474): firmware restarts from the active bank; operations of the image loader, a CW sequence of the
array and SPDM connections are lost; an epoch switch goes on (R81), and the data path runs on. Code that can no longer be read ends in a warm reset (R397). -/
def Chip.mgtReset (m : Chip) : Chip :=
  let m := (m.setIsl 1 4).setF ISL_CTL.RST 1 1
  let m := if m.img.switch.isSome then m else (m.setF IMG_CMD.GO 0).setF IMG_STAT.BUSY 0
  let m := (m.setF NVA_STAT.SEQ 0).setF NVA_STAT.BUSY 0
  let m := { m with img := { m.img with phase := .idle }, nv := { m.nv with op := none, words := [], prefetch := [], branch := [] }
                    tr := { m.tr with spdm := [] } }
  let m := (m.codeBranch (fwSector m.nv.banks.1 * 2048 + 8)).islandReloads 1
  if m.tr.running ∈ [m.fwBank 0, m.fwBank 1] then m else { m with st := { m.st with pendWarm := some 5 } }

/-! ## Requests for Calm (R484 to R486) -/

/-- The pair hold begins: PAIR is 1 and the clean mark held. -/
def Chip.pairHold (m : Chip) : Chip :=
  if m.f PWR_CALMCFG.PAIR = 1 ∧ m.st.clean ∧ !m.solo then
    ({ m with tw := { m.tw with heldHb := true, holdWoke := false } } : Chip).setF PWR_STAT.PAIRHOLD 1
  else m

/-- The pair hold ends. -/
def Chip.pairFree (m : Chip) : Chip :=
  ({ m with tw := { m.tw with heldHb := false, holdWoke := false } } : Chip).setF PWR_STAT.PAIRHOLD 0

/-- Calm is refused with a code. -/
def Chip.calmRefuse (m : Chip) (code : Nat) : Chip := ((m.setF PWR_CALMRES.RESULT code).setF PWR_CTL.CALM 0).emit 0 0x6C04

/-- A request for Calm that waits is decided, unless an epoch switch defers it. -/
def Chip.calmPoll (m : Chip) : Chip :=
  let st := m.f PWR_STAT.STATE
  let tw := m.f TWN_STAT.STATE
  if m.f PWR_CTL.CALM = 0 ∨ st = 4 ∨ m.img.switch.isSome then m
  else if m.q.fns.any fun e => (e.2.en || e.2.enHeld) && decide (e.2.shst ≠ 2) then m.calmRefuse 2
  else if !m.st.clean then m.calmRefuse 3
  else if tw ∉ [0, 7, 8, 9] ∧ !(decide (tw = 2) && decide (m.f PWR_CALMCFG.PAIR = 1)) then m.calmRefuse 4
  else if m.f PLP_STAT.STATE ≠ 0 then m.calmRefuse 5
  else if st = 2 ∨ st = 6 ∨ m.st.step ≠ 14 then m.calmRefuse 6
  else ((m.pairHold).setF PWR_STAT.STATE 4).powerPoll

/-! ## Device time (R43, R44) -/

/-- One tick of the master DTC; before a cold start has begun it does not run (R461). A replica that is ahead holds its value for the tick;
one that is behind has caught up, an extra tick in each of the island's cycles (R43). -/
def Chip.tick (m : Chip) : Chip :=
  if m.st.step = 0 then m
  else
    { m with isl := { m.isl with
      dtc := (m.isl.dtc + 1) % 2 ^ 64
      skew := (m.isl.skew.map fun e => (e.1, e.2 - 1)).filter fun e => decide (0 < e.2) } }

/-- What the block does with no command waiting: one tick (log entry 8). -/
def State.idle (s : State) : Host.Outcome State Fault Refusal := run s Chip.tick

/-- A broadcast of the master DTC: it comes every 1,024 ticks. `dev` gives the replicas' deviations in ticks by island, as their clocks have
drifted since the last one. A replica more than 2 ticks off is loaded anew (R44), another is corrected as the next ticks pass (R43). -/
def execDtcBroadcast (dev : List (Isl × Int)) (s : State) : Host.Outcome State Fault Refusal :=
  run s fun m =>
    let m : Chip := if m.st.step = 0 then m else { m with isl := { m.isl with dtc := (m.isl.dtc / 1024 + 1) * 1024 % 2 ^ 64, skew := [] } }
    dev.foldl (fun (m : Chip) e =>
      let d := e.2.natAbs
      if m.islServes e.1.val then
        let m := if m.f ISL_SKEW.WORST_TICKS < min d 15 then
            (m.setF ISL_SKEW.WORST_TICKS (min d 15)).setF ISL_SKEW.WORST_ISL e.1.val else m
        if 2 < d then m.emit e.1.val 0x3002 d
        else { m with isl := { m.isl with skew := tset 0 m.isl.skew e.1.val e.2 } }
      else m) m

/-! ## Commands that make no progress (R52) -/

/-- A part of a read has left its die and waits in XFM for its engine. -/
def Chip.inXfm (_ : Chip) (c : Cmd) : Bool :=
  c.parts.any fun p => !p.done && decide (p.left = 0) && decide (p.src = .flash ∨ p.src = .spill ∨ p.src = .logBlock)

/-- A command waits, and is not lost (R52). A write whose data is complete lies in XFM until it is staged. -/
def Chip.waiting (m : Chip) (s : Nat) (c : Cmd) : Bool :=
  let op := opcodeOf c.entry
  let z := c.zone.getD 0
  decide (c.phase = .reserved ∨ c.phase = .fetched) || decide (c.hold ≠ .free) ||
  (m.allUnits.any fun u => decide (m.unitSlot u = some s)) || m.inXfm c ||
  (m.bp.pools.any fun p => p.2.wait.any fun r => decide (r.work = s)) ||
  ([0, 1].any fun k => (m.sub k).replay.any fun f => decide (f.slot = some s)) ||
  (c.dataOpen && decide (c.data.length < c.want)) ||
  (c.writing && decide (c.want ≤ c.data.length) && !c.staged) ||
  (c.writing && c.staged && !m.inTurn z c) ||
  (!c.admin && decide (op = 0x00) && m.flushWaits c) || (!c.admin && decide (op = 0x79) && !m.zoneQuiet z c.seq) ||
  (c.admin && decide (op = 0x00 ∨ op = 0x0C)) || m.slotClearing c ||
  (c.parts.any fun p => decide (p.src = .wait)) ||
  m.isl.flight.isSome || decide (m.f TWN_STAT.STATE = 5)

/-- The die unit that holds a device slot and has not reached a die queue. -/
def Chip.strayUnit (m : Chip) (s : Nat) : Option DUnit := m.md.disp.find? fun u => decide (u.slot = some s)

/-- The watchdog ends a stray device-originated unit, which its source sends again 1 ms later. -/
def Chip.endStray (m : Chip) (u : DUnit) : Chip :=
  { m with md := { m.md with disp := m.md.disp.filter (fun v => decide (v.id ≠ u.id)), retry := m.md.retry ++ [u] } }

/-- A live command, or the unit of a device slot, has had no progress for 200 ms (R52). -/
def execLostPartWatchdog (slot : SlotId) (s : State) : Host.Outcome State Fault Refusal :=
  run s fun m =>
    match m.cmd? slot.val with
    | none =>
      (match m.strayUnit slot.val with
       | some u => if m.isl.flight.isSome ∨ m.f TWN_STAT.STATE = 5 then m else ((m.emit 10 0x3005 slot.val (some (m.unitTag u))).endStray u).settle
       | none => m)
    | some c =>
      if m.waiting slot.val c then m
      else
        let m := m.emit 10 0x3005 slot.val (some (m.cmdTag slot.val c))
        (if c.phase = .committed then m.finish slot.val (some stOk) else m.failSlot slot.val).settle

/-- Device-originated work is retried from its source, 1 ms after it failed by a REFUSE, by the watchdog, or by a withdrawn allocation (R39, R52,
R360). -/
def execDeviceWorkRetry (work : DevWork) (s : State) : Host.Outcome State Fault Refusal :=
  run s fun m =>
    match work with
    | .pool id =>
      (match m.bp.retry.find? (·.id = id) with
       | none => m
       | some q =>
         let m := { m with bp := { m.bp with retry := m.bp.retry.filter (·.id ≠ id) } }
         (m.poolRequest q.rq q.sizes q.work q.deadline q.cls none).settle)
    | .unit slot =>
      (match m.md.retry.find? fun u => decide (u.slot = some slot.val) with
       | none => m
       | some u => ((({ m with md := { m.md with retry := m.md.retry.filter (·.id ≠ u.id) } } : Chip).newUnit u).settle))
    | .beat i tag =>
      if (i.val, tag.toNat) ∈ m.isl.retry then
        ({ m with isl := { m.isl with retry := m.isl.retry.erase (i.val, tag.toNat) } } : Chip).unitReceive i.val tag.toNat
      else m

/-! ## Barriers: their ends (R54 to R58, R176) -/

/-- CMD holds every acknowledgement, the twin's among them. Those of a commit marker are the clusters' own (R76). -/
def Chip.barComplete (m : Chip) : Chip :=
  match m.isl.flight with
  | some b =>
    let b := m.barMerge b
    let m := { m with isl := { m.isl with flight := some b } }
    let m := match m.img.switch with
      | some sw =>
        if b.src = BarSrc.image then
          ((List.range 12).filter fun k => bitOf b.acks k && m.islServes (12 + k)).foldl (fun (m : Chip) k => m.commitAck (12 + k) sw.epoch) m
        else m
      | none => m
    (if b.acks ≠ 0xFFF ∨ (b.twin ∧ !b.twinAck) then m else m.barEnd 1).switchPoll
  | none => m

/-- The twin's acknowledgement has not come (R57, R441). -/
def Chip.barTwinLost (m : Chip) : Chip :=
  match m.isl.flight with
  | some b => if b.twin ∧ !b.twinAck then (((m.setF TWN_FAULT.BARRIER 1).emit 27 0x690A).barEnd 2).switchPoll else m
  | none => m

def execPairBarrierTimeout (s : State) : Host.Outcome State Fault Refusal := run s Chip.barTwinLost

/-- The record of a snapshot barrier is written (R176). -/
def execSnapshotRecordDone (s : State) : Host.Outcome State Fault Refusal :=
  run s fun m =>
    match m.isl.snapMarker with
    | none => m
    | some k => (({ m with isl := { m.isl with snapMarker := none } } : Chip).setF ZNE_SNAPSTAT.MARKER k).setF ZNE_SNAPSTAT.READY 1

end Sys2Proof.Machine
end

