-- ==== Sys2Proof/Machine/Sdp.lean ====
section
/-! DEFINITION. Stored-data protection (R393 to R404): error logs, what an uncorrectable granule does to its owner, remapping, and
the scrub. Memory 0 is SRAM, 1 DRAM, 2 ENVA. -/

namespace Sys2Proof.Machine

/-! ## The granules of a memory -/

/-- The bytes of DRAM training found: 8 DIMMs of 32 or 64 GiB (R375, R376). -/
def Chip.dramBytes (m : Chip) : Nat :=
  2 ^ 30 * (8 * (if m.f DRC_STAT.RANKS2 0 = 1 ∨ m.f DRC_STAT.GB32 0 = 1 then 64 else 32))

/-- The bytes of a memory, and of its granule (R393). -/
def Chip.memBytes (m : Chip) (mem : Nat) : Nat := if mem = 0 then 256 * 2 ^ 20 else if mem = 1 then m.dramBytes else 64 * 2 ^ 20
def granuleBytes (mem : Nat) : Nat := if mem = 0 then 8 else if mem = 1 then 64 else 32

/-- The channel of a DRAM byte address (R378). -/
def dramChan (a : Nat) : Nat := bits a 10 8 ^^^ bits a 24 22

/-- The island that holds a granule. -/
def memIsland (mem granule : Nat) : Nat := if mem = 0 then 11 else if mem = 1 then 24 + dramChan (granule * 64) / 4 else 1

/-! ## The codes (R393) -/

/-- An error as a memory's decoder reports it. -/
structure MemFault where
  granule : Nat
  loc : Nat
  ue : Bool
  owner : GOwner
deriving DecidableEq, Repr

/-- The error of device `d` in codeword `i` of a burst: beats 2i and 2i + 1 of the device. -/
def symbolError (flips : List Nat) (i d : Nat) : Nat :=
  ((flips.filter fun p => decide (p / 80 = i ∧ p % 40 / 4 = d)).map fun p => 2 ^ (4 * (p / 40 % 2) + p % 4)).sum

/-- The device a codeword's syndromes point at: `none` for a clean codeword, `some none` where they point at none. -/
def pointed (flips : List Nat) (i : Nat) : Option (Option Nat) :=
  let s0 := (List.range 10).foldl (fun a d => a ^^^ symbolError flips i d) 0
  let s1 := (List.range 10).foldl (fun a d => a ^^^ (List.range d).foldl (fun e _ => gfDouble e) (symbolError flips i d)) 0
  if s0 = 0 ∧ s1 = 0 then none
  else if s0 = 0 then some none
  else some ((List.range 10).find? fun d => decide ((List.range d).foldl (fun e _ => gfDouble e) s0 = s1))

/-- The decoder of a memory on flipped bits: nothing found, or a location and whether the granule is lost. -/
def decodeFlips (mem : Nat) (flips : List Nat) : Option (Nat × Bool) :=
  let lost := some ((Config.lostLoc mem flips).val, true)
  let beyond := (Config.manyFlips mem flips).map fun r => (r.1.val, r.2)
  if mem = 1 then
    match (List.range 8).filterMap (pointed flips) with
    | [] => none
    | some d :: rest => if rest.all (· = some d) then some (d, false) else lost
    | none :: _ => lost
  else match mem, flips with
    | _, [] => none
    | 0, [b] => some (b, false)
    | 0, [_, _] => lost
    | 2, [_] => some (1, false)
    | 2, [_, _] => some (2, false)
    | 2, [_, _, _] => lost
    | _, _ => beyond

/-- The bits of a granule with its check bits. -/
def granuleBits (mem : Nat) : Nat := if mem = 0 then 72 else if mem = 1 then 640 else 275

/-- What reading a granule reports. -/
def readError (mem : Nat) (e : MemErr) : Option MemFault :=
  (decodeFlips mem ((e.flips.filter (· < granuleBits mem)).eraseDups)).map fun r => { granule := e.granule, loc := r.1, ue := r.2, owner := e.owner }

/-! ## Remapping (R398 to R400) -/

/-- The index a remap entry holds for a granule: a DRAM entry covers a 256 B access. -/
def remapIndex (mem granule : Nat) : Nat := if mem = 1 then granule / 4 else granule

/-- A granule is redirected to a spare. -/
def Chip.remapped (m : Chip) (mem granule : Nat) : Bool :=
  (List.range 16).any fun i => decide (m.f SDP_REMAP.VALID (mem * 16 + i) = 1 ∧ m.f SDP_REMAP.GRANULE (mem * 16 + i) = remapIndex mem granule)

/-- The log entry of an address. -/
def Chip.logOf (m : Chip) (mem addr : Nat) : Option (Nat × ErrEntry) :=
  m.sd.logs.find? fun e => decide (e.1 / 32 = mem ∧ e.2.addr = addr)

def Chip.setLogs (m : Chip) (t : Table ErrEntry) : Chip := { m with sd := { m.sd with logs := t } }

/-- A unit of the device records, which is never remapped (R400). -/
def inDevRecords (granule : Nat) : Bool := let s := granule / 2048; decide ((224 ≤ s ∧ s ≤ 255) ∨ (480 ≤ s ∧ s ≤ 511))

/-- Remap a granule: the result code of SDP_REMAPCMD. In the device records its sector is replaced instead (R400, log entry 182). -/
def Chip.remap (m : Chip) (mem granule : Nat) : Chip × Nat :=
  if mem = 2 ∧ inDevRecords granule then (m.spareSector (granule / 2048), 1)
  else if m.islState (memIsland mem granule) = 0 then (m, 5)
  else if m.remapped mem granule then (m, 4)
  else match (List.range 16).find? fun i => decide (m.f SDP_REMAP.VALID (mem * 16 + i) = 0) with
    | none => (m.emit 0 0x6804, 2)
    | some i =>
      let m := (m.setF SDP_REMAP.VALID 1 (mem * 16 + i)).setF SDP_REMAP.GRANULE (remapIndex mem granule) (mem * 16 + i)
      let m := m.setLogs (m.sd.logs.filter fun e => decide (e.1 / 32 ≠ mem ∨ e.2.addr ≠ granule))
      let m := { m with sd := { m.sd with bad := m.sd.bad.filter fun g => decide (g ≠ (mem, granule)) } }
      ((m.array .record).emit 0 0x6803, 1)

/-- The device's own remap. -/
def Chip.autoRemap (m : Chip) (mem granule : Nat) : Chip :=
  if m.remapped mem granule then m else (m.remap mem granule).1

/-! ## The log (R395, R396) -/

/-- The overflow counter of a memory. -/
def ovfField (mem : Nat) : Fld := if mem = 0 then SDP_LOGOVF.SRAM else if mem = 1 then SDP_LOGOVF.DRAM else SDP_LOGOVF.ENVA

/-- The entry a new address takes: a free one, else the oldest of count 1. -/
def Chip.logPlace (m : Chip) (mem : Nat) : Option Nat :=
  match (List.range 32).find? fun i => (tfind m.sd.logs (mem * 32 + i)).isNone with
  | some i => some (mem * 32 + i)
  | none =>
    let ones := m.sd.logs.filter fun e => decide (e.1 / 32 = mem ∧ e.2.count = 1)
    (ones.foldl (fun (b : Option (Nat × ErrEntry)) e =>
      match b with
      | none => some e
      | some x => if e.2.born < x.2.born then some e else b) none).map (·.1)

/-- An error is counted and logged; a newly logged correctable one records event 0x6801. -/
def Chip.logError (m : Chip) (mem : Nat) (e : MemFault) : Chip :=
  let m := if e.ue then m.incF SDP_UECNT.COUNT mem else m.incF SDP_CECNT.COUNT mem
  match m.logOf mem e.granule with
  | some (k, x) =>
    m.setLogs (tput m.sd.logs k { x with count := min (x.count + 1) (2 ^ 32 - 1), last := m.now, loc := e.loc, ue := x.ue || e.ue })
  | none =>
    match m.logPlace mem with
    | none => m.incF (ovfField mem)
    | some k =>
      let m := m.setLogs (tput m.sd.logs k { addr := e.granule, loc := e.loc, count := 1, last := m.now, ue := e.ue, born := m.sd.seq })
      let m := { m with sd := { m.sd with seq := m.sd.seq + 1 } }
      if e.ue then m else m.emit 0 0x6801

/-! ## Owners (R397) -/

/-- A part of a read is served once more from its source; the second failure ends it unrecovered. -/
def Chip.serveAgain (m : Chip) (s i : Nat) : Chip :=
  match m.cmd? s with
  | none => m
  | some c =>
    match c.parts[i]? with
    | none => m
    | some p =>
      if p.done then m
      else if p.again then
        (m.putCmd s { c with parts := c.parts.set i { p with done := true, left := 0, lost := [(p.off, p.len)] } }).settleRead s
      else
        ((m.putCmd s { c with parts := c.parts.set i { p with again := true, left := 0, decoded := [] } }).startPart s i).settleRead s

/-- The twin can be asked for a copy. -/
def Chip.twinReach (m : Chip) : Bool := !m.solo && decide (m.f TWN_STAT.STATE = 2) && decide (m.f TWN_STAT.UP ≠ 0)

/-- What an uncorrectable granule of SRAM or DRAM does to its owner. -/
def Chip.ownerLost (m : Chip) : GOwner → Chip
  | .hostData slot =>
    match m.cmd? slot.val with
    | some c => if c.folded ∨ c.phase = .committed then m else m.failSlot slot.val
    | none => m
  | .readData slot i => m.serveAgain slot.val i
  | .frame sub => m.sendAck sub.val true
  | .mgtCells => m.mgtReset
  | .staging z r t k w lost => if lost ∧ !m.twinReach then m.poison z.val r.val t.val k.val w.val else m
  | .mirror z r t k w =>
    if m.f TWN_STAT.STATE = 5 then m.poison z.val r.val t.val k.val w.val
    else m.sendFrame 0x12 (some z.val) none (leBytes 1 2) (leBytes 8 r.val)
  | .queueCtx f => m.setFn f.val { m.fn f.val with cfs := true }
  | .zoneCtx z lost => if lost ∧ (m.zone z.val).state ≠ zso then (m.setZoneState z.val zso).zoneNotice z.val else m
  | .moveRow z i => match m.move? z.val i.val with | some v => m.moveRow v | none => m
  | .free => m

/-- An uncorrectable ENVA granule: a bank fails its check from then on; a unit of class D reads 0, so that a header or a key record of it no longer
checks, and a root or a notice in it is gone. -/
def Chip.envaLost (m : Chip) (granule : Nat) : Chip :=
  let s := granule / 2048
  if s < 128 then { m with nv := { m.nv with fwA := [] } }
  else if s < 192 then m.setBank 0 []
  else if 256 ≤ s ∧ s < 384 then { m with nv := { m.nv with fwB := [] } }
  else if 384 ≤ s ∧ s < 448 then m.setBank 1 []
  else if 192 ≤ s then
    let m := { m with nv := { m.nv with units := tput m.nv.units granule (List.replicate 32 0) } }
    let at_ := (s - 784) * 2047 + granule % 2048 - 1
    if 784 ≤ s ∧ s < 800 ∧ granule % 2048 ≠ 0 then { m with evr := { m.evr with plog := m.evr.plog.filter fun e => decide (e.1 ≠ at_) } } else m
  else m

/-- A read of a memory finds an error (R394 to R398). -/
def Chip.memError (m : Chip) (mem : Nat) (e : MemFault) : Chip :=
  let m := m.logError mem e
  if e.ue then
    let again := decide ((mem, e.granule) ∈ m.sd.bad)
    let m := m.emit 0 0x6802
    let m := if mem = 2 then m.envaLost e.granule else m.ownerLost e.owner
    if again then m.autoRemap mem e.granule
    else { m with sd := { m.sd with bad := m.sd.bad ++ [(mem, e.granule)] } }
  else
    let n := ((m.logOf mem e.granule).map (·.2.count)).getD 0
    if m.f SDP_CFG.AUTOREMAP = 1 ∧ m.f SDP_CFG.HARDCNT ≤ n then m.autoRemap mem e.granule else m

/-- A granule whose last read was uncorrectable reads without one (R398). -/
def Chip.readClean (m : Chip) (mem : Nat) (errs : List MemFault) (covers : Nat → Bool) : Chip :=
  let keep (g : Nat × Nat) : Bool := decide (g.1 ≠ mem) || !covers g.2 || errs.any fun e => e.ue && decide (e.granule = g.2)
  { m with sd := { m.sd with bad := m.sd.bad.filter keep } }

/-- PTB_ECC flips bits of a granule that is read (R529): the error its mode makes, in primary storage only. -/
def Chip.ptbEcc (m : Chip) (mem : Nat) (covers : Nat → Bool) (tenant : Option Nat) (owner : GOwner) : Chip × List MemFault :=
  let g := m.f PTB_ECCADDR.ADDR + 2 ^ 32 * (m.f PTB_ECC.ADDR_HI)
  if m.ptbOn PTB_ECC.EN && decide (m.f PTB_ECC.MEM = mem) && covers g && m.ptbScoped tenant && !m.remapped mem g then
    let x := lfsrNext (tget 0 m.pt.lfsr 4)
    let m := ({ m with pt := { m.pt with lfsr := tset 0 m.pt.lfsr 4 x } } : Chip).incF PTB_CNT.COUNT
    let m := if m.f PTB_ECC.STICKY = 1 then m else m.setF PTB_ECC.EN 0
    let more := m.f PTB_ECC.MODE
    let flips :=
      if mem = 0 then (List.range (1 + more)).map fun k => (x + k * (1 + x / 128 % 71)) % 72
      else if mem = 1 then (List.range (1 + more)).map fun k => 4 * ((x + k * (1 + x / 16 % 9)) % 10)
      else (List.range (2 + more)).map fun k => (x + k) % 275
    (m, (readError mem { granule := g, flips := flips, owner := owner }).toList)
  else (m, [])

/-! ## The log window and remap command (R395, R398) -/

/-- A write to SDP_LOG_IDX copies an entry into SDP_LOG_W. -/
def Chip.logCopy (m : Chip) : Chip :=
  let k := m.f SDP_LOG_IDX.MEM * 32 + m.f SDP_LOG_IDX.ENTRY
  m.setWords SDP_LOG_W.WORD (match tfind m.sd.logs k with
    | none => [0, 0, 0, 0]
    | some e => [e.addr % 2 ^ 32, 2 ^ 31 + 2 ^ 30 * (b1 e.ue) + 65536 * (e.loc % 256) + e.addr / 2 ^ 32 % 2, e.count, e.last])

/-- SDP_REMAPCMD.GO: the address of the entry SDP_LOG_IDX names. -/
def Chip.remapCmd (m : Chip) : Chip :=
  let mem := m.f SDP_LOG_IDX.MEM
  match tfind m.sd.logs (mem * 32 + m.f SDP_LOG_IDX.ENTRY) with
  | none => m.setF SDP_REMAPCMD.RESULT 3
  | some e =>
    let (m, r) := m.remap mem e.addr
    m.setF SDP_REMAPCMD.RESULT r

/-! ## The scrub (R402, R403) -/

def Chip.scrubBase (m : Chip) : Nat := (m.f SDP_SCRUB_BASE_LO.BASE + 2 ^ 20 * (m.f SDP_SCRUB_BASE_HI.BASE)) * 4096
def Chip.scrubLen (m : Chip) : Nat := m.f SDP_SCRUB_LEN.LEN * 4096

/-- The islands that hold a memory. -/
def memIslands (mem : Nat) : List Nat := if mem = 0 then [11] else if mem = 1 then [24, 25] else [1]

/-- SDP_SCRUB_CTL.GO of a memory: refused, or started. -/
def Chip.scrubGo (m : Chip) (mem : Nat) : Chip :=
  if m.f SDP_SCRUB_STAT.BUSY = 1 then m.setF SDP_SCRUB_STAT.RESULT 5
  else
    if m.scrubLen = 0 ∨ m.memBytes mem < m.scrubBase + m.scrubLen then m.setF SDP_SCRUB_STAT.RESULT 3
    else if (memIslands mem).any (fun i => m.islState i = 0) ∨ (mem = 1 ∧ (List.range 8).any fun c => m.f DRC_STAT.STATE c = 3) then
      m.setF SDP_SCRUB_STAT.RESULT 4
    else
      let m := { m with sd := { m.sd with mem := mem, range := (m.scrubBase, m.scrubLen) } }
      let m := (((m.setF SDP_SCRUB_CTL.GO 1).setF SDP_SCRUB_STAT.BUSY 1).setF SDP_SCRUB_STAT.RESULT 0).setF SDP_SCRUB_STAT.REMAPS 0
      let m := (m.setF SDP_SCRUB_CORR.COUNT 0).setF SDP_SCRUB_UNC.COUNT 0
      (m.setF SDP_SCRUB_FIRST.VALID 0).setF SDP_SCRUB_FIRST.PAGE 0

/-- The scrub reads a granule in error. -/
def Chip.scrubFound (m : Chip) (mem : Nat) (e : MemFault) : Chip :=
  let used (m : Chip) : Nat := ((List.range 16).filter fun i => decide (m.f SDP_REMAP.VALID (mem * 16 + i) = 1)).length
  let n := used m
  let m := m.memError mem e
  let m := m.addF SDP_SCRUB_STAT.REMAPS (used m - n)
  if e.ue then
    let m := m.incF SDP_SCRUB_UNC.COUNT
    if m.f SDP_SCRUB_FIRST.VALID = 1 then m
    else (m.setF SDP_SCRUB_FIRST.VALID 1).setF SDP_SCRUB_FIRST.PAGE (e.granule * granuleBytes mem / 4096)
  else m.incF SDP_SCRUB_CORR.COUNT

/-- The running scrub reads its granules up to its end, with the errors found; `done`: the range is complete. -/
def Chip.scrubRead (m : Chip) (errs : List MemErr) : Chip :=
  let mem := m.sd.mem
  let g := granuleBytes mem
  let (a, n) := m.sd.range
  let covers (x : Nat) : Bool := decide (a ≤ x * g ∧ x * g < a + n)
  let (m, inj) := m.ptbEcc mem covers none .free
  let errs := (errs.filter fun e => covers e.granule).filterMap (readError mem) ++ inj
  let m := m.readClean mem errs covers
  errs.foldl (fun (m : Chip) e => m.scrubFound mem e) m

/-- SDP_SCRUB_CTL.ABORT: the running scrub ends after its granule. -/
def Chip.scrubAbort (m : Chip) : Chip := if m.f SDP_SCRUB_STAT.BUSY = 1 then m.scrubEnd 2 else m

/-- The last granule has been read (R402, R404). -/
def execMemoryScrubDone (errs : List MemErr) (s : State) : Host.Outcome State Fault Refusal :=
  run s fun m => if m.f SDP_SCRUB_STAT.BUSY = 0 then m else ((m.scrubRead errs).scrubEnd 1).settle

end Sys2Proof.Machine
end

