-- ==== Sys2Proof/Machine/Dram.lean ====
section
/-! DEFINITION. The DRAM controllers (R375 to R392): the address map, the queues of a subchannel with read after write, refresh,
recovery from CA parity errors, and training. What the accesses carry is held where the spec names it (rows, contexts, buffers), so
an access moves no bytes here (log entry 37). -/

namespace Sys2Proof.Machine

/-! ## The address map (R378) -/

def dramSub (a : Nat) : Nat := bits a 11 11
def dramBank (a : Nat) : Nat := bits a 13 12
def dramGroup (a : Nat) : Nat := bits a 16 14 ^^^ bits a 27 25
/-- Burst in row; the column address is 16 times this. -/
def dramBurst (a : Nat) : Nat := bits a 21 17 * 4 + bits a 7 6
/-- Row and rank, by device density. -/
def dramRow (gb32 : Bool) (a : Nat) : Nat := if gb32 then bits a 38 22 else bits a 37 22
def dramRank (gb32 : Bool) (a : Nat) : Nat := if gb32 then bits a 39 39 else bits a 38 38

def Chip.gb32 (m : Chip) : Bool := decide (m.f DRC_STAT.GB32 0 = 1)
/-- The bank of an access within its subchannel, over ranks and groups. -/
def Chip.bankKey (m : Chip) (a : Nat) : Nat := dramRank m.gb32 a * 32 + dramGroup a * 4 + dramBank a

/-! ## Queues (R379 to R382) -/

/-- Two accesses meet in a 64 B burst. -/
def DramAcc.meets (a b : DramAcc) : Bool := decide (a.addr / 64 < (b.addr + b.len + 63) / 64 ∧ b.addr / 64 < (a.addr + a.len + 63) / 64)

/-- The bursts an access covers only in part (R381). -/
def DramAcc.partialBursts (a : DramAcc) : Nat :=
  let lo := a.addr / 64
  let hi := (a.addr + a.len + 63) / 64
  ((List.range (hi - lo)).filter fun i =>
    let b := (lo + i) * 64
    decide (b < a.addr ∨ a.addr + a.len < b + 64)).length

/-- An access enters its queue; a read that meets a queued write is counted (R382), and a write's merges (R381). -/
def Chip.dramEnter (m : Chip) (ch k : Nat) (a : DramAcc) : Chip :=
  let x := m.subd k
  if a.write then (m.setSubd k { x with writes := x.writes ++ [a] }).addF DRC_RMW.COUNT a.partialBursts ch
  else
    let m := m.setSubd k { x with reads := x.reads ++ [a] }
    if x.writes.any a.meets then m.incF DRC_RAWHOLD.COUNT ch else m

/-- The queue an access needs is full. -/
def SubDram.full (x : SubDram) (a : DramAcc) : Bool := if a.write then decide (64 ≤ x.writes.length) else decide (32 ≤ x.reads.length)

/-- The channel's arbiter grants, and the channel serves. -/
def Chip.dramGrants (m : Chip) (ch : Nat) : Bool := decide (m.f DRC_CTL.QUIESCE ch = 0 ∧ m.f DRC_STAT.STATE ch ≠ 0 ∧ m.f DRC_STAT.STATE ch ≠ 5)

/-- Accesses held at the arbiter enter as their queues have room, in order (R379). -/
def Chip.dramAdmit (m : Chip) (ch k : Nat) : Nat → Chip
  | 0 => m
  | n + 1 =>
    let x := m.subd k
    match x.held with
    | [] => m
    | a :: rest => if x.full a ∨ !m.dramGrants ch then m else ((m.setSubd k { x with held := rest }).dramEnter ch k a).dramAdmit ch k n

/-- A training run of the channel ends without a result (R389). -/
def Chip.dramRefuse (m : Chip) (ch reason step : Nat) : Chip :=
  let m := ((m.setF DRC_TRAIN.REASON reason ch).setF DRC_TRAIN.STEP step ch).incF DRC_TRAIN.FAILS ch
  (m.setF DRC_CTL.TRAIN 0 ch).emit (24 + ch / 4) 0x6703

/-- The run in progress is abandoned: its step is free within those of the run (log entry 1). -/
def Chip.dramAbandon (m : Chip) (ch reason : Nat) : Chip :=
  match tfind m.dr.runs ch with
  | none => m
  | some op =>
    let (x, m) := m.draw 8
    let step := if op = 1 then [5, 7, 8].getD (x % 3) 5 else x % 8 + 1
    let m := { m with dr := { m.dr with runs := tdel m.dr.runs ch } }
    (m.dramRefuse ch reason step).setF DRC_STAT.STATE 2 ch

/-- A granted access of `len` bytes (at most the 256 B of its access) at a byte address. -/
def Chip.dramArrive (m : Chip) (addr len : Nat) (write : Bool) (tenant : Option Nat) (owner : GOwner) : Chip :=
  let len := min (max len 1) (256 - addr % 256)
  let ch := dramChan addr
  let k := 2 * ch + dramSub addr
  let st := m.f DRC_STAT.STATE ch
  if st = 0 ∨ st = 5 then m
  else
    let a : DramAcc := { id := m.dr.next, addr := addr, len := len, write := write, at_ := m.isl.dtc, tenant := tenant, owner := owner }
    let m := { m with dr := { m.dr with next := m.dr.next + 1 } }
    let m := if m.dramGrants ch then m.dramAbandon ch 3 else m
    let x := m.subd k
    (m.setSubd k { x with held := x.held ++ [a] }).dramAdmit ch k (x.held.length + 1)

def execDramAccessArrive (addr : Nat) (len : Nat) (write : Bool) (tenant : Option Ten) (owner : GOwner) (s : State) :
    Host.Outcome State Fault Refusal :=
  run s fun m => m.dramArrive addr len write (tenant.map (·.val)) owner

/-- The row of an access is open (R380): not idle for 64 MEM cycles, 40 ns. -/
def Chip.rowOpen (m : Chip) (x : SubDram) (a : DramAcc) : Bool :=
  match tfind x.rows (m.bankKey a.addr) with
  | some (r, t) => decide (r = dramRow m.gb32 a.addr ∧ m.isl.dtc ≤ t + 2)
  | none => false

/-- A read or write may be issued: no older access of the other kind, or for a write of either kind, that it meets (R382). -/
def SubDram.clear (x : SubDram) (a : DramAcc) : Bool :=
  if a.write then !(x.reads ++ x.writes).any fun b => decide (b.id < a.id) && b.meets a
  else !x.writes.any fun b => decide (b.id < a.id) && b.meets a

/-- The first of a list, in order of arrival, with an open row, else the first. -/
def Chip.openFirst (m : Chip) (x : SubDram) (as_ : List DramAcc) : Option DramAcc :=
  match as_.find? (m.rowOpen x) with
  | some a => some a
  | none => as_.head?

/-- The next access of a subchannel (R380, R382). -/
def Chip.dramNext (m : Chip) (ch : Nat) (x : SubDram) : Option DramAcc :=
  let rs := x.reads.filter x.clear
  let ws := x.writes.filter x.clear
  let urgent := ws.filter fun w => x.reads.any fun r => decide (w.id < r.id) && w.meets r
  let starved (a : DramAcc) : Bool := decide (m.f DRC_CFG.STARVE_NS ch < (m.isl.dtc - a.at_) * 16)
  let old := isort (fun a b => decide (a.id ≤ b.id)) ((rs ++ ws).filter starved)
  if urgent ≠ [] then urgent.head?
  else if old ≠ [] then old.head?
  else if x.drain ∧ ws ≠ [] then m.openFirst x ws
  else if rs ≠ [] then m.openFirst x rs
  else m.openFirst x ws

/-- Whether writes drain (R380). -/
def Chip.dramDrain (m : Chip) (ch : Nat) (x : SubDram) : SubDram :=
  let n := x.writes.length
  { x with drain := if m.f DRC_CFG.WDRAIN_HI ch ≤ n then true else if n ≤ m.f DRC_CFG.WDRAIN_LO ch then false else x.drain }

/-! ## CA parity (R384 to R386) -/

/-- A controller whose DRAM channel has failed treats itself as failed: FAULT_n, no heartbeat; a solo one ends every command and
takes no more. -/
def Chip.chanFailed (m : Chip) (ch : Nat) : Chip :=
  let m := (m.setF DRC_STAT.STATE 5 ch).emit (24 + ch / 4) 0x6704
  let m := (({ m with dr := { m.dr with dead := true, runs := tdel m.dr.runs ch } } : Chip).setF DRC_CTL.TRAIN 0 ch).setBit FLT_STAT.FORCE 5 true
  if m.solo then
    (m.q.slots.filter fun e => decide (e.2.phase ≠ .reserved)).foldl (fun (m : Chip) e =>
      match m.cmd? e.1 with
      | some c => if c.phase = .committed then m else m.failSlot e.1
      | none => m) m
  else m

/-- ALERT_n is sampled for the command at place `index` of a subchannel's retry buffer (R384, R385): the RCD's log is read, and the buffer is replayed from
that command on; its third failure in a row fails the channel (R386). -/
def Chip.dramAlert (m : Chip) (ch sub index : Nat) (readable : Bool) : Chip :=
  let st := m.f DRC_STAT.STATE ch
  match (m.subd (2 * ch + sub)).retry[index]? with
  | none => m
  | some (id, _) =>
  if st = 0 ∨ st = 5 ∨ st = 3 then m
  else
    let k := 2 * ch + sub
    let m := (m.incF DRC_PARITY.ALERTS ch).dramAbandon ch 5
    let x := m.subd k
    let n := if x.failing = some id then x.fails + 1 else 1
    let m := m.setSubd k { x with failing := some id, fails := n }
    if !readable then m.chanFailed ch
    else
      let m := if m.f DRC_PARLOG.VALID ch = 1 then m
        else (((m.setF DRC_PARLOG.VALID 1 ch).setF DRC_PARLOG.ATTEMPT (min n 3) ch).setF DRC_PARLOG.SUBCH sub ch).setF DRC_PARLOG.INDEX index ch
      if 3 ≤ n then m.chanFailed ch
      else (m.setSubd k { m.subd k with rows := [], replay := some index }).setF DRC_STAT.STATE 4 ch

/-- An alert, and those of the replays in which its command fails again. -/
def Chip.dramAlerts (m : Chip) (ch sub index : Nat) (readable : Bool) : Nat → Chip
  | 0 => m.dramAlert ch sub index readable
  | n + 1 => (m.dramAlert ch sub index readable).dramAlerts ch sub index readable n

def execDramAlert (ch : DramCh) (sub : SubLink) (index : Fin 64) (readable : Bool) (again : Fin 3) (s : State) : Host.Outcome State Fault Refusal :=
  run s fun m => (m.dramAlerts ch.val sub.val index.val readable again.val).settle

/-- PTB_CAPAR inverts DPAR of a command as it is issued (R529): an alert, or with REPEAT three failures of it. -/
def Chip.ptbCapar (m : Chip) (ch sub : Nat) (tenant : Option Nat) : Chip :=
  if m.ptbOn PTB_CAPAR.EN && decide (m.f PTB_CAPAR.CHAN = ch ∧ m.f PTB_CAPAR.SUBCH = sub) && m.ptbScoped tenant then
    let again := if m.f PTB_CAPAR.REPEAT = 1 then 2 else 0
    let m := m.ptbActed 3 (m.f PTB_CAPAR.COUNT) PTB_CAPAR.EN
    let i := (m.subd (2 * ch + sub)).retry.length - 1
    m.dramAlerts ch sub i true again
  else m

/-- A subchannel issues a command, once a replay has completed (R385): it enters the retry buffer, which keeps the last 64 (R384). -/
def Chip.dramIssue (m : Chip) (ch sub : Nat) (tenant : Option Nat) (c : DramCmd) : Chip :=
  let m := m.replayEnd ch
  if m.f DRC_STAT.STATE ch = 5 then m
  else
    let k := 2 * ch + sub
    let x := m.subd k
    (m.setSubd k { x with
      retry := (x.retry ++ [(x.issued, c)]).drop (x.retry.length + 1 - 64), issued := x.issued + 1, rows := c.rows m.isl.dtc x.rows }).ptbCapar ch sub tenant

/-- The commands of an access: its row is opened where it is not open, and each burst is read or written, one covered only in part first read (R380,
R381). -/
def Chip.dramCmds (m : Chip) (x : SubDram) (a : DramAcc) : List DramCmd :=
  let bank := m.bankKey a.addr
  let row := dramRow m.gb32 a.addr
  let opening := if m.rowOpen x a then [] else (if (tfind x.rows bank).isSome then [.pre bank] else []) ++ [.act bank row]
  let lo := a.addr / 64
  let hi := (a.addr + a.len + 63) / 64
  opening ++ (List.range (hi - lo)).flatMap fun i =>
    let b := (lo + i) * 64
    let part := decide (b < a.addr ∨ a.addr + a.len < b + 64)
    if a.write then (if part then [.col bank row false] else []) ++ [.col bank row true] else [.col bank row false]

/-! ## Service (R380, R393, R394) -/

/-- The access a subchannel chooses is done, with the errors its granules show. -/
def Chip.dramDone (m : Chip) (ch sub : Nat) (errs : List MemErr) : Chip :=
  let k := 2 * ch + sub
  let m := m.replayEnd ch
  let st := m.f DRC_STAT.STATE ch
  let m := m.setSubd k (m.dramDrain ch (m.subd k))
  match m.dramNext ch (m.subd k) with
  | none => m
  | some a =>
    if st ≠ 2 then m
    else
      let m := (m.dramCmds (m.subd k) a).foldl (fun (m : Chip) c => m.dramIssue ch sub a.tenant c) m
      if m.f DRC_STAT.STATE ch = 5 then m else
      let x := m.subd k
      let m := m.setSubd k (m.dramDrain ch
        { x with reads := x.reads.filter (fun b => decide (b.id ≠ a.id)), writes := x.writes.filter (fun b => decide (b.id ≠ a.id)) })
      let lo := a.addr / 64
      let hi := (a.addr + a.len + 63) / 64
      let covers (g : Nat) : Bool := decide (lo ≤ g ∧ g < hi)
      let m := if a.write then m.addWide DRC_WRBYTES_LO.BYTES DRC_WRBYTES_HI.BYTES a.len ch
        else m.addWide DRC_RDBYTES_LO.BYTES DRC_RDBYTES_HI.BYTES a.len ch
      let m :=
        if a.write ∧ a.partialBursts = 0 then m
        else
          let (m, inj) := m.ptbEcc 1 covers a.tenant a.owner
          let errs := (errs.filter fun e => covers e.granule).filterMap (readError 1) ++ inj
          let m := m.readClean 1 errs covers
          errs.foldl (fun (m : Chip) e => m.memError 1 { e with owner := a.owner }) m
      (m.dramAdmit ch k 96).settle

def execDramAccessDone (ch : DramCh) (sub : SubLink) (errs : List MemErr) (s : State) : Host.Outcome State Fault Refusal :=
  run s fun m => m.dramDone ch.val sub.val errs

/-! ## Refresh (R383) -/

def debtField (sub : Nat) : Fld := if sub = 0 then DRC_REFSTAT.DEBT_A else DRC_REFSTAT.DEBT_B
def Chip.debt (m : Chip) (ch sub : Nat) : Int := toSigned 8 (m.f (debtField sub) ch)
def Chip.setDebt (m : Chip) (ch sub : Nat) (d : Int) : Chip := m.setF (debtField sub) (ofSigned 8 d) ch

/-- Bank indices due in this set of 4: each receives one REFsb before any receives a second. -/
def SubDram.dueNow (x : SubDram) : List Nat := if x.due = [] then [0, 1, 2, 3] else x.due

/-- A queued access uses a bank index. -/
def SubDram.uses (x : SubDram) (b : Nat) : Bool := (x.reads ++ x.writes).any fun a => decide (dramBank a.addr = b)

/-- One REFsb to a bank index: its open rows are precharged, and the debt falls by 1. -/
def Chip.refsb (m : Chip) (ch sub b : Nat) : Chip :=
  let k := 2 * ch + sub
  let x := m.subd k
  let m := m.setSubd k { x with due := x.dueNow.filter (· ≠ b) }
  let cmds := ((x.rows.filter fun r => decide (r.1 % 4 = b)).map fun r => DramCmd.pre r.1) ++ [.refsb b]
  (cmds.foldl (fun (m : Chip) c => m.dramIssue ch sub none c) m).setDebt ch sub (m.debt ch sub - 1)

/-- Refresh is placed while the debt is above 0 and a due bank index is idle; a debt of 16 forces the next due one. -/
def Chip.refPlace (m : Chip) (ch sub : Nat) : Nat → Chip
  | 0 => m
  | n + 1 =>
    let x := m.subd (2 * ch + sub)
    if m.debt ch sub ≤ 0 then m
    else match x.dueNow.find? fun b => !x.uses b with
      | some b => (m.refsb ch sub b).refPlace ch sub n
      | none => if 16 ≤ m.debt ch sub then ((m.refsb ch sub (x.dueNow.headD 0)).incF DRC_REFCNT.FORCED ch).refPlace ch sub n else m

/-- An idle subchannel pulls in up to 4 REFsb ahead of its debt. -/
def Chip.refPull (m : Chip) (ch sub : Nat) : Nat → Chip
  | 0 => m
  | n + 1 =>
    let x := m.subd (2 * ch + sub)
    if x.reads = [] ∧ x.writes = [] ∧ -4 < m.debt ch sub ∧ m.debt ch sub ≤ 0 then
      ((m.refsb ch sub (x.dueNow.headD 0)).incF DRC_REFCNT.PULLED ch).refPull ch sub n
    else m

/-- A tREFI has passed for a subchannel. -/
def execRefreshInterval (ch : DramCh) (sub : SubLink) (s : State) : Host.Outcome State Fault Refusal :=
  run s fun m =>
    let m := m.replayEnd ch.val
    let st := m.f DRC_STAT.STATE ch.val
    if st = 2 ∨ (tfind m.dr.runs ch.val).isSome then
      let m := m.setDebt ch.val sub.val (m.debt ch.val sub.val + 4)
      (m.refPlace ch.val sub.val 20).refPull ch.val sub.val 4
    else m

/-- MR4 is read: the refresh rate it reports (R375, R383). -/
def execMr4Poll (ch : DramCh) (sub : SubLink) (double : Bool) (s : State) : Host.Outcome State Fault Refusal :=
  run s fun m =>
    let m := m.replayEnd ch.val
    if m.f DRC_STAT.STATE ch.val = 2 then
      m.setF (if sub.val = 0 then DRC_REFSTAT.DOUBLE_A else DRC_REFSTAT.DOUBLE_B) (b1 double) ch.val else m

/-- The DQS oscillator is read, between commands: a drift above 1/64 UI moves the write DQS delay (R387). A run takes the measurement itself (R392). -/
def execDqsOscillatorPoll (ch : DramCh) (drift : Nat) (s : State) : Host.Outcome State Fault Refusal :=
  run s fun m =>
    let m := m.replayEnd ch.val
    if m.f DRC_STAT.STATE ch.val = 2 ∧ 1 < drift then { m with dr := { m.dr with dqs := tset 0 m.dr.dqs ch.val (tget 0 m.dr.dqs ch.val + drift) } } else m

/-! ## Training in service (R387 to R389) -/

/-- An access is queued on a channel or held for it. -/
def Chip.dramQueued (m : Chip) (ch : Nat) : Bool :=
  [0, 1].any fun s => let x := m.subd (2 * ch + s); decide (x.reads ≠ [] ∨ x.writes ≠ [])

/-- DRC_CTL.TRAIN with an operation: refused, or a run starts. -/
def Chip.dramTrain (m : Chip) (ch op : Nat) : Chip :=
  let st := m.f DRC_STAT.STATE ch
  if st = 3 ∨ st = 5 ∨ st = 0 then m.dramRefuse ch 6 0
  else if (tfind m.dr.runs ch).isSome ∨ st = 4 then
    ((m.setF DRC_TRAIN.REASON 4 ch).incF DRC_TRAIN.FAILS ch).emit (24 + ch / 4) 0x6703
  else if m.f DRC_CTL.QUIESCE ch = 0 ∨ m.dramQueued ch ∨ m.f ARB_STAT.BUSY ch = 1 then m.dramRefuse ch 3 0
  else
    let m := { m with dr := { m.dr with runs := tput m.dr.runs ch op } }
    ((m.setF DRC_CTL.TRAIN 1 ch).setF DRC_CTL.TRAIN_OP op ch).setF DRC_STAT.STATE 1 ch

/-- DRC_CTL.QUIESCE: held accesses enter when it clears, which abandons a run they meet. -/
def Chip.dramQuiesce (m : Chip) (ch : Nat) (v : Bool) : Chip :=
  let m := m.setF DRC_CTL.QUIESCE (b1 v) ch
  if v then m
  else
    let waits := [0, 1].any fun s => decide ((m.subd (2 * ch + s)).held ≠ [])
    let m := if waits then m.dramAbandon ch 3 else m
    (m.dramAdmit ch (2 * ch) 96).dramAdmit ch (2 * ch + 1) 96

/-- A run in service ends with its narrowest eyes (R388). -/
def Chip.dramRunEnd (m : Chip) (ch rd wr : Nat) : Chip :=
  match tfind m.dr.runs ch with
  | none => m
  | some _ =>
    let m := ({ m with dr := { m.dr with runs := tdel m.dr.runs ch } } : Chip).setF DRC_STAT.STATE 2 ch
    let least := m.f DRC_TRAINCFG.MIN_EYE ch
    if rd < least ∨ wr < least then m.dramRefuse ch 2 8
    else
      let m := ((m.setF DRC_TRAIN.REASON 1 ch).setF DRC_TRAIN.STEP 8 ch).setF DRC_CTL.TRAIN 0 ch
      let m := { m with dr := { m.dr with dqs := tset 0 m.dr.dqs ch 0 } }
      (m.setF DRC_EYE.RD (min rd 63) ch).setF DRC_EYE.WR (min wr 63) ch

/-! ## Training at start (R376, R377, R388) -/

/-- The rates of R375 in the order training tries them. -/
def dramRates : List Nat := [8000, 7200, 6400, 5600, 4800]

/-- The channels begin their full runs at 8,000 MT/s, in parallel. -/
def Chip.dramStart (m : Chip) : Chip :=
  let m := { m with dr := { m.dr with subs := [], runs := [], fails := [], rate := [], dqs := [], dead := false } }
  let m := (List.range 8).foldl (fun (m : Chip) c => (m.setF DRC_STAT.STATE 1 c).setF DRC_CTL.TRAIN 0 c) m
  { m with st := { m.st with dramLeft := 255 } }

/-- The channels have all passed, failed or are absent: the device rate is the lowest passed, with event 0x6701 below 8,000 MT/s,
and a channel trained at a lower rate reads REASON 7. -/
def Chip.dramRateSet (m : Chip) : Chip :=
  let up := (List.range 8).filter fun c => decide (m.f DRC_STAT.STATE c = 2)
  let i := (up.map fun c => tget 0 m.dr.rate c).foldl max 0
  let r := dramRates.getD i 4800
  let m := up.foldl (fun (m : Chip) c => (m.setF DRC_STAT.RATE_MTS r c).setF DRC_TRAIN.REASON (if r < 8000 then 7 else 1) c) m
  if r < 8000 ∧ up ≠ [] then m.emit 24 0x6701 else m

/-- A channel's run at start ends: with no DIMM or one that differs, or with its eyes and what its DIMM is. -/
def Chip.dramStartRun (m : Chip) (ch : Nat) (present ranks2 gb32 : Bool) (rd wr : Nat) : Chip :=
  if !bitOf m.st.dramLeft ch then m
  else
    let off (m : Chip) : Chip := { m with st := { m.st with dramLeft := m.st.dramLeft - 2 ^ ch } }
    let least := m.f DRC_TRAINCFG.MIN_EYE ch
    if !present then off (m.setF DRC_STAT.STATE 0 ch)
    else if rd < least ∨ wr < least then
      let n := tget 0 m.dr.fails ch + 1
      let m := ((m.setF DRC_TRAIN.REASON 2 ch).setF DRC_TRAIN.STEP 8 ch).incF DRC_TRAIN.FAILS ch
      let m := m.emit (24 + ch / 4) 0x6703
      if n < 3 then { m with dr := { m.dr with fails := tset 0 m.dr.fails ch n } }
      else if tget 0 m.dr.rate ch < 4 then
        { m with dr := { m.dr with fails := tset 0 m.dr.fails ch 0, rate := tset 0 m.dr.rate ch (tget 0 m.dr.rate ch + 1) } }
      else off ((m.setF DRC_STAT.STATE 5 ch).emit (24 + ch / 4) 0x6704)
    else
      let m := ((m.setF DRC_STAT.STATE 2 ch).setF DRC_STAT.RANKS2 (b1 ranks2) ch).setF DRC_STAT.GB32 (b1 gb32) ch
      let m := (m.setF DRC_EYE.RD (min rd 63) ch).setF DRC_EYE.WR (min wr 63) ch
      off ((m.setF DRC_TRAIN.STEP 8 ch).setF DRC_TRAIN.REASON 1 ch)

/-- The DRAM training found fits the DRAM pools, and all channels are alike (R68, R376). -/
def Chip.dramFits (m : Chip) (i : Image) : Bool :=
  ((List.range 8).all fun c => decide (m.f DRC_STAT.STATE c = 2 ∧ m.f DRC_STAT.RANKS2 c = m.f DRC_STAT.RANKS2 0 ∧
    m.f DRC_STAT.GB32 c = m.f DRC_STAT.GB32 0)) &&
  i.pools.all fun p => decide (p.mem = 0 ∨ 65536 * (p.base + p.size) ≤ m.dramBytes)

end Sys2Proof.Machine
end

