-- ==== Sys2Proof/Machine/Plp.lean ====
section
/-! DEFINITION. Power-loss protection (R451 to R460): the dirty limit, the flush set and its units, the PFAIL inputs with their
discrepancy timer, and the power-fail commit. -/

namespace Sys2Proof.Machine

/-! ## The dirty limit (R457, R458) -/

/-- The in-service dies of a channel this controller drives. -/
def Chip.chanDiesUp (m : Chip) (ch : Nat) : List Nat :=
  ((List.range 32).map (ch * 32 + ·)).filter fun d => m.drives d && decide (2 ≤ m.f FCH_DIE.STATE d ∧ m.f FCH_DIE.STATE d ≤ 5)

/-- The flush rate F in bytes per ms: over the claimed channels with a die in service, the smaller of the channel rate and what
their dies program. -/
def Chip.flushRate (m : Chip) : Nat :=
  ((List.range 96).map fun ch =>
    let n := (m.chanDiesUp ch).length
    if n = 0 then 0 else min (m.flash.rate * 1000) (65536 * n * 1000 / max m.flash.tprogSlcUs 1)).sum

/-- An erased block of the flush region (log entry 38): 64 MiB in SLC mode. -/
def Blk.flushFree (b : Blk) : Bool := decide (b.state = 4 ∧ b.rows = 0) && !b.needErase

/-- Erased SLC space in the flush region of the claimed channels, in GiB rounded down. -/
def Chip.erasedGiB (m : Chip) : Nat :=
  (m.md.blocks.filter fun e => e.2.flushFree && m.drives (e.1 / 8192)).length * 64 / 1024

/-- Flush blocks that await erase are erased as Drizzle in LC7, in LC4 while the erased space is below twice the dirty limit applied (R458). -/
def Chip.flushErase (m : Chip) : Chip :=
  let asked (d b : Nat) : Bool := m.allUnits.any fun u => decide (u.kind = .erase ∧ u.die = d ∧ u.block = b)
  let due := m.md.blocks.filter fun e => decide (e.2.state = 4) && e.2.needErase && m.drives (e.1 / 8192) && !asked (e.1 / 8192) (e.1 % 8192)
  let cls := if m.erasedGiB < 2 * m.f PLP_LIMIT.EFFECTIVE_GIB then 4 else 7
  due.foldl (fun (m : Chip) e =>
    m.newUnit (DUnit.make (e.1 / 8192) .erase .eraseBlock cls ((m.now + m.stampEpoch.2.deadlineLen 0 cls) % 2 ^ 32) (e.1 % 8192) 0 0)) m

/-- The dirty limit applied follows DIRTY_GIB, the mirror-pool cap, the budget at the flush rate, and the erased space. With no die
in service yet it stays as it is. -/
def Chip.limitView (m : Chip) : Chip :=
  let rate := m.flushRate
  if rate = 0 then m
  else
    let old := m.f PLP_LIMIT.EFFECTIVE_GIB
    let erased := m.erasedGiB
    let g := min (m.f PLP_CFG.DIRTY_GIB) (m.plp.mirrorCap.getD 31)
    let g := min (min g (m.f PLP_CFG.BUDGET_MS * rate / 2 ^ 30)) erased
    let m := (m.setF PLP_LIMIT.ERASED_GIB (min erased 65535)).setF PLP_LIMIT.EFFECTIVE_GIB g
    let m := if g < old then (m.setF PLP_FAULT.LIMITCUT 1).emit 0 0x6A08 else m
    match m.img.tables.poolOf 35 with
    | some r => m.baro r.pool
    | none => m

/-! ## The flush set (R456) -/

/-- Staged rows as (zone, row, first staged byte, bytes): committed and not yet programmed, in the zones the controller owns, and
from fence completion on in the twin's (R438). Spilled bytes are in flash already. -/
def Chip.stagedRows (m : Chip) : List (Nat × Nat × Nat × Nat) :=
  let own := (m.zn.zones.filter fun e => decide (e.2.type ≠ 2) && m.ownsStripe e.1).flatMap fun e =>
    let filled := m.filledBytes e.1
    let first := e.2.rows
    (List.range (ceilDiv filled 4194304 - first)).filterMap fun k =>
      let r := first + k
      let n := min (filled - 4194304 * r) 4194304
      let o := (if (m.row e.1 r).spill.isSome then (m.row e.1 r).spillLen else 0)
      if o < n then some (e.1, r, o, n - o) else none
  let twin := if m.f TWN_STAT.STATE = 5 then
      m.tw.mirror.filterMap fun e => if 0 < e.2.committed then some (e.1 / 1024, e.1 % 1024, 0, e.2.committed) else none
    else []
  own ++ twin

/-- The payload of a flush unit: staged bytes as stored, accumulators of its row, commit records, delta records. -/
def Chip.flushPayload (m : Chip) (u : FlushUnit) : List Byte :=
  let data := if (tfind m.tw.mirror (rowKey u.zone u.row)).isSome then m.mirRowData u.zone u.row else m.rowData u.zone u.row
  let bs := if u.kind = 1 then data else if u.kind = 2 then parityUnitP data else if u.kind = 3 then parityUnitQ data
    else if u.kind = 5 then m.zn.deltas.flatMap id else []
  fit u.len (if u.kind = 4 then Config.commitRecords u.off else bs.drop u.off)

/-- The header and payload of a flush unit (R456). -/
def flushImage (id seq side : Nat) (u : FlushUnit) (payload : List Byte) : List Byte :=
  let h := [0x50, 0x46, 0x4C, 0x55] ++ leBytes 4 id ++ leBytes 4 seq ++ leBytes 1 u.kind ++ leBytes 1 side ++ leBytes 2 0 ++
    leBytes 4 (if u.kind < 4 then u.zone else 0) ++ leBytes 2 u.row ++ leBytes 2 0 ++ leBytes 4 u.off ++ leBytes 4 u.len ++
    leBytes 8 (crc64 payload) ++ List.replicate 22 0
  h ++ leBytes 2 (crc16 h) ++ payload

/-- What a flush unit's bytes say it holds; none where MAGIC, FLUSH_ID or a check is not right (R469). -/
def flushRead (id : Nat) (bs : List Byte) : Option FlushUnit :=
  let len := fieldAt bs 0x1C 4
  if slice bs 0 4 = [0x50, 0x46, 0x4C, 0x55] ∧ fieldAt bs 4 4 = id ∧ fieldAt bs 0x3E 2 = crc16 (bs.take 0x3E) ∧
      fieldAt bs 0x20 8 = crc64 (slice bs 0x40 len) then
    some { kind := fieldAt bs 0xC 1, zone := fieldAt bs 0x10 4, row := fieldAt bs 0x14 2, off := fieldAt bs 0x18 4, len := len }
  else none

/-- The units of the flush of number PLP_FLUSHID that can be read back (R469). -/
def Chip.flushFound (m : Chip) : List FlushUnit := m.plp.good.filterMap fun g => flushRead (m.f PLP_FLUSHID.FLUSH_ID) g.bytes

/-- Cut `len` bytes from `off` into payloads of at most 65,472 bytes. -/
def flushCut (kind zone row off len : Nat) : List FlushUnit :=
  (List.range (ceilDiv len 65472)).map fun k =>
    { kind := kind, zone := zone, row := row, off := off + 65472 * k, len := min 65472 (len - 65472 * k) }

/-- The units of the flush set: row data, both accumulators of each row, the commit records (log entry 39), and delta records not yet programmed. -/
def Chip.flushSet (m : Chip) : List FlushUnit :=
  let rows := m.stagedRows
  (rows.flatMap fun (z, r, o, n) => flushCut 1 z r o n ++ flushCut 2 z r 0 262144 ++ flushCut 3 z r 0 262144) ++
    flushCut 4 0 0 0 ((Config.commitRecordLen.val + 1) * rows.length) ++ flushCut 5 0 0 0 (m.zn.deltas.map (·.length)).sum

/-- The controller holds dirty data. -/
def Chip.dirty (m : Chip) : Bool := !m.stagedRows.isEmpty

/-- A block of the flush region of a die with room for one more SLC wordline: the one in use, else an erased one. -/
def Chip.flushBlock (m : Chip) (d : Nat) : Option Nat :=
  let mine := m.md.blocks.filter fun e => decide (e.1 / 8192 = d ∧ e.2.state = 4 ∧ e.2.rows < 1024) && !e.2.needErase
  ((mine.find? fun e => decide (0 < e.2.rows)).orElse fun _ => mine.head?).map fun e => e.1 % 8192

/-- The copies of a flush become blocks awaiting erase (R454). -/
def Chip.flushDrop (m : Chip) : Chip :=
  let m := { m with plp := { m.plp with good := [], todo := [], flight := [], failed := [] } }
  { m with md := { m.md with blocks := m.md.blocks.map fun (e : Nat × Blk) =>
    (e.1, if e.2.state = 4 ∧ 0 < e.2.rows then { e.2 with needErase := true } else e.2) } }

/-- A list turned so that what lies at or above `k` comes first. -/
def fromOn (k : Nat) (l : List Nat) : List Nat := l.filter (k ≤ ·) ++ l.filter (· < k)

/-- The die the next flush unit goes to (R456): the channels in rotation, and the dies in service of each; one with a program or a flush unit on it, or
without room in the flush region, is passed over. -/
def Chip.flushDie (m : Chip) : Option Nat :=
  (fromOn m.plp.nextCh (List.range 96)).findSome? fun ch =>
    (fromOn (tget 0 m.plp.nextDie ch) (m.chanDiesUp ch)).find? fun d =>
      !((m.die d).running.any fun u => decide (u.kind = .program)) && (tfind m.plp.flight d).isNone && (m.flushBlock d).isSome

/-- Flush units go to free dies in turn, at most `n`: those whose program failed first (R238, R456). -/
def Chip.issueFlush (m : Chip) : Nat → Chip
  | 0 => m
  | n + 1 =>
    let p := m.plp
    let next : Option ((FlushUnit × Nat) × PlpSt) :=
      match p.failed, p.todo with
      | e :: t, _ => some (e, { p with failed := t })
      | [], u :: t => some ((u, p.seq), { p with todo := t, seq := p.seq + 1 })
      | [], [] => none
    match next, m.flushDie with
    | some (e, p), some d =>
      ({ m with plp := { p with
        flight := tput p.flight d e, nextCh := (dieChannel d + 1) % 96, nextDie := tset 0 p.nextDie (dieChannel d) (d + 1) } } : Chip).issueFlush n
    | _, _ => m

def Chip.flushIssue (m : Chip) : Chip :=
  if m.plp.flushing then m.issueFlush (m.plp.failed.length + m.plp.todo.length) else m

/-- A flush starts: its number, advanced by 2 with the side in bit 0 (R468), and its set. The copies of one that still runs await erase (R460). -/
def Chip.flushStart (m : Chip) : Chip :=
  let m := if m.plp.flushing then m.flushDrop else m
  let id := (m.f PLP_FLUSHID.FLUSH_ID / 2 + 1) * 2 + m.side
  let m := (m.setF PLP_FLUSHID.FLUSH_ID id).array .record
  let m := { m with
    st := { m.st with flushId := id % 2 ^ 32 },
    plp := { m.plp with flushing := true, todo := m.flushSet, flight := [], failed := [], good := [], seq := 0, startAt := m.isl.dtc, budget := m.f PLP_CFG.BUDGET_MS, late := false } }
  let m := ((m.setF PLP_STAT.STATE 1).incF PLP_COUNT.FLUSHES).emit 0 0x6A04
  (m.md.dies.foldl (fun (m : Chip) (e : Nat × DieSt) =>
    match (m.die e.1).running with
    | some p => if p.kind = .erase then
        m.setDie e.1 { m.die e.1 with
          running := none, suspended := some { p with busy := p.busy + (m.isl.dtc - e.2.start) }, suspending := false, served := 0 }
      else m
    | none => m) m).flushIssue

/-- The deadline and tag of a flush's units: LC0, the budget from its start, key slot 0x3FFF (R180, R456). -/
def Chip.flushDeadline (m : Chip) : Nat := (m.plp.startAt + 62500 * m.plp.budget) % 2 ^ 32
def Chip.flushTag (m : Chip) : Nat := deviceTag 0xB 0 m.stampEpoch.1 0 0 none m.flushDeadline []

/-- Units of the set that are not in flash yet: what has committed since the start joins it (R453). -/
def Chip.flushMore (m : Chip) : Chip :=
  let has := m.flushFound ++ m.plp.flight.map (·.2.1) ++ m.plp.failed.map (·.1)
  { m with plp := { m.plp with todo := m.flushSet.filter fun u => decide (u ∉ has) } }

/-- The end of a flush is looked for: nothing left to program, and its outcome decided. A committed flush ends in DONE (R455), any
other in IDLE, with suspended erases and Drizzle going on (R454). -/
def Chip.flushPoll (m : Chip) : Chip :=
  if !m.plp.flushing then m
  else
    let st := m.f PLP_STAT.STATE
    let m := (if m.plp.todo = [] ∧ st = 1 then m.flushMore else m).flushIssue
    if m.plp.todo ≠ [] ∨ m.plp.flight ≠ [] ∨ m.plp.failed ≠ [] ∨ (st = 1 ∧ m.plp.first.isSome) then m
    else
      let m := if m.plp.late then m.emit 10 0x5001 ((m.now + 2 ^ 32 - m.flushDeadline) % 2 ^ 32) (some m.flushTag) else m
      let bytes := (m.plp.good.map fun g => g.bytes.length - 64).sum
      let m := (m.setF PLP_FLUSH.TIME (min (ceilDiv (m.isl.dtc - m.plp.startAt) 625) 65535)).setF PLP_FLUSH.MIB (min (ceilDiv bytes 1048576) 65535)
      let m : Chip := { m with plp := { m.plp with flushing := false } }
      if st = 2 then ((m.setF PLP_STAT.STATE 3).emit 0 0x6A09).setBit FLT_STAT.FORCE 2 true
      else if m.st.warm && decide (m.st.step = 0) then m.setF PLP_STAT.STATE 4
      else
        let m := (m.setF PLP_STAT.STATE 0).flushDrop
        m.md.dies.foldl (fun (m : Chip) (e : Nat × DieSt) => m.turn e.1) m

/-- The program of the flush unit on a die ends (R456): with good status it is in flash, with FAIL the block is grown bad and
the unit is programmed again (R238). Outside the media window its block is marked for refresh (R244). -/
def Chip.flushUnit (m : Chip) (d : Nat) (fail : Bool) : Chip :=
  match tfind m.plp.flight d with
  | none => m
  | some (u, seq) =>
    let m := { m with plp := { m.plp with flight := tdel m.plp.flight d } }
    match m.flushBlock d with
    | none => ({ m with plp := { m.plp with failed := m.plp.failed ++ [(u, seq)] } } : Chip).flushPoll
    | some b =>
      let m := if fail then
          let m := { m with plp := { m.plp with failed := m.plp.failed ++ [(u, seq)] } }
          ((m.growBad d b).incF FCH_ERRCNT.PROGFAIL (dieChannel d)).emit (12 + dieCluster d) 0x6007
        else
          let side := if u.kind < 4 then m.stripeSide u.zone else m.side
          let g : FlushPage := { die := d, block := b, bytes := flushImage (m.f PLP_FLUSHID.FLUSH_ID) seq side u (m.flushPayload u) }
          let m := { m with plp := { m.plp with good := m.plp.good ++ [g] } }
          let hot := decide (m.f FCH_DIE.HOT d = 1)
          let x := m.blk d b
          let x := { x with rows := x.rows + 1, slc := true, outwin := x.outwin || hot }
          let m := (m.setBlk d b x).tellDelta none (deltaRecord 0x05 d (x.record b))
          if hot then m.markRefresh d b false else m
      m.flushPoll.turn d

/-! ## The commit (R455) -/

/-- Every command that has not reached its commit point ends internally, without completion. -/
def Chip.endAllCmds (m : Chip) : Chip :=
  m.q.slots.foldl (fun (m : Chip) (e : Nat × Cmd) =>
    match m.cmd? e.1 with
    | none => m
    | some c => if c.phase = .reserved then m.freeSlot e.1
        else if c.phase = .committed then m else m.endCmd e.1 none) m

/-- Rebuild, relocation, scrub, verify and training stop (R455). -/
def Chip.stopDrizzle (m : Chip) : Chip :=
  let solve (v : Solve) : Bool := match v.purpose with
    | .move _ _ _ => true
    | .copy _ => true
    | .merge _ _ => true
    | _ => false
  let m := m.cancelUnits fun u => u.drizzle || (m.solveOf u).any solve
  ({ m with
    zn := { m.zn with moves := [], regionMoves := [], compact := none, merge := none },
    md := { m.md with
      solves := m.md.solves.filter fun v => !solve v
      train := m.md.train.map fun (e : Nat × TrainSt) => (e.1, { e.2 with todo := [], retry := [] }) } } : Chip).freeOrphans

/-- A power-fail commit with the discrepancy count: fetch stops, uncommitted commands end, the set is closed. -/
def Chip.commitPower (m : Chip) (count : Nat) : Chip :=
  let m := { m with plp := { m.plp with first := none } }
  let m := ((m.setF PLP_STAT.STATE 2).incF PLP_COUNT.COMMITS).emit 0 0x6A05 count
  let m := ((m.rollback 0xE).endAllCmds).stopDrizzle
  (m.flushMore).flushPoll

/-! ## The PFAIL inputs (R451 to R454, R460) -/

def pfailField (b : Bool) : Fld := if b then PLP_STAT.B_IN else PLP_STAT.A_IN

/-- The discrepancy count now: whole µs since the first assertion. -/
def Chip.discCount (m : Chip) : Nat := min ((m.isl.dtc - m.plp.first.getD m.isl.dtc) * 2 / 125) 1023

/-- PLP_DISC takes a count. -/
def Chip.noteDisc (m : Chip) (n : Nat) : Chip := (m.setF PLP_DISC.LAST n).setF PLP_DISC.MAX (max (m.f PLP_DISC.MAX) n)

/-- The outcome of a count that reached the limit (R454): the input that did not follow, and LINGER where the first is still
asserted. In HELD nothing is reported (R453). -/
def Chip.discrepancy (m : Chip) : Chip :=
  let n := m.plp.discT
  let m := ({ m with plp := { m.plp with first := none } } : Chip).noteDisc n
  if m.f PLP_STAT.STATE ≠ 1 then m
  else
    let b := decide (m.f PLP_STAT.FIRST = 1)
    let m := if b then m.setF PLP_FAULT.DISC_A 1 else m.setF PLP_FAULT.DISC_B 1
    let m := m.emit 0 0x6A06 n
    (m.setF PLP_STAT.LINGER (m.f (pfailField b))).flushPoll

/-- The first assertion of an input: the timer starts, and outside HELD a flush with it, also where the flush of a discrepancy still runs (R460). -/
def Chip.pfailFirst (m : Chip) (b : Bool) : Chip :=
  let m := { m with plp := { m.plp with first := some m.isl.dtc, discT := m.f PLP_CFG.DISC_T } }
  let m := (m.setF PLP_STAT.FIRST (b1 b)).ptbStop 4 false
  if m.f PLP_STAT.STATE = 4 then m else m.flushStart

/-- An input counts as asserted (`b`: input B). -/
def Chip.pfailAssert (m : Chip) (b : Bool) : Chip :=
  let st := m.f PLP_STAT.STATE
  let m := m.setF (pfailField b) 1
  if st = 2 ∨ st = 3 then m
  else if m.f PLP_STAT.LINGER = 1 then
    if m.f PLP_STAT.FIRST = b1 b then m
    else (((m.setF PLP_STAT.LINGER 0).noteDisc 0).flushStart).commitPower 0
  else if m.plp.first.isNone then m.pfailFirst b
  else if m.f PLP_STAT.FIRST = b1 b then m
  else
    let n := m.discCount
    if m.plp.discT ≤ n then m.discrepancy
    else
      let m := m.noteDisc n
      if st = 4 then { m with plp := { m.plp with first := none, intakeFenced := true } } else m.commitPower n

/-- An input has been high for 1 µs; LINGER ends with the input it stands for. -/
def Chip.pfailDeassert (m : Chip) (b : Bool) : Chip :=
  let m := m.setF (pfailField b) 0
  if m.f PLP_STAT.FIRST = b1 b then m.setF PLP_STAT.LINGER 0 else m

/-- The count reaches DISC_T with the second input still deasserted. -/
def Chip.discTimeout (m : Chip) : Chip := if m.plp.first.isNone then m else m.discrepancy

/-- BUDGET_MS has passed since the start of a flush that has not ended (R459): its units miss, as one (R205, R206). -/
def Chip.overBudget (m : Chip) : Chip :=
  if !m.plp.flushing then m
  else
    let m := (m.setF PLP_FAULT.OVERBUDGET 1).emit 0 0x6A07
    if m.plp.late then m else ({ m with plp := { m.plp with late := true } } : Chip).countMiss 0 none

def execFlushBudgetTimeout (s : State) : Host.Outcome State Fault Refusal := run s Chip.overBudget
def execPfailDeassert (b : Bool) (s : State) : Host.Outcome State Fault Refusal := run s fun m => m.pfailDeassert b

/-- A write of PLP_CFG's DIRTY_GIB and BUDGET_MS meets the budget at 48 channels of 4.8 GB/s (R457). -/
def plpCfgOk (dirtyGiB budgetMs : Nat) : Bool := decide (2 ^ 30 * dirtyGiB ≤ 230400000 * budgetMs)

end Sys2Proof.Machine
end

