-- ==== Sys2Proof/Machine/Psq.lean ====
section
/-! DEFINITION. The power sequencer (R442 to R450): rails, fronts of the group, sequencer faults and shutdown order. -/

namespace Sys2Proof.Machine

def RailSt.blank : RailSt := { state := 0, since := 0, inTol := 0, outTol := 0, low := 0 }
def Chip.rail (m : Chip) (i : Nat) : RailSt := tget RailSt.blank m.psq.rails i
def Chip.setRail (m : Chip) (i : Nat) (v : RailSt) : Chip := { m with psq := { m.psq with rails := tset RailSt.blank m.psq.rails i v } }
def Chip.railRec? (m : Chip) (i : Nat) : Option RailRec := m.psq.seq.rails.find? (·.rail = i)
def RailRec.pg (r : RailRec) : Bool := bitOf r.flags 0
def RailRec.vs (r : RailRec) : Bool := bitOf r.flags 1

/-- The rails in use of a state (R442). -/
def Chip.railsOf (m : Chip) (st : Nat) : List RailRec := m.psq.seq.rails.filter (·.upState = st)

/-- A rail's EN_RAIL output (R442). -/
def Chip.driveRail (m : Chip) (i : Nat) (on : Bool) : Chip := m.setBit PSQ_RAILS.EN i on

/-! ## Faults and shutdown order (R447 to R449) -/

/-- A cause of shutdown in PSQ_FAULT, and in PSQ_FLOG when none is logged. -/
def Chip.psqLog (m : Chip) (f : Fld) (cause rail : Nat) : Chip :=
  let m := m.setF f 1
  if m.f PSQ_FLOG.VALID = 1 then m
  else (((m.setF PSQ_FLOG.VALID 1).setF PSQ_FLOG.CAUSE cause).setF PSQ_FLOG.STATE (m.f PSQ_STAT.S)).setF PSQ_FLOG.RAIL rail

/-- The device asserts SEQ_FLT_n and holds it until PORST_n. -/
def Chip.seqFlt (m : Chip) : Chip := (m.setF PSQ_STAT.FLT_OUT 1).setF PSQ_STAT.FLT_IN 1

/-- In DOWN the work of state S: its rails are disabled, and once all are discharged or stuck SEQ_SYNC is released; after state 0
the direction is OFF (R450). A flush holds the first state (R449). -/
def Chip.downPoll (m : Chip) : Chip :=
  if m.f PSQ_STAT.DIR ≠ 2 ∨ m.f PSQ_STAT.SYNC_PULL = 0 then m
  else
    let m := if m.psq.flushHold ∧ !m.plp.flushing then { m with psq := { m.psq with flushHold := false } } else m
    if m.psq.flushHold then m
    else
      let st := m.f PSQ_STAT.S
      let m := (m.railsOf st).foldl (fun (m : Chip) r =>
        let x := m.rail r.rail
        if x.state = 4 ∨ x.state = 5 then m
        else
          let dead := !r.vs && (!r.pg || !m.fbit PSQ_RAILS.PG r.rail)
          (m.driveRail r.rail false).setRail r.rail { RailSt.blank with state := if dead then 5 else 4, since := m.isl.dtc }) m
      if (m.railsOf st).all fun r => decide ((m.rail r.rail).state = 5) then
        let m := m.setF PSQ_STAT.SYNC_PULL 0
        if st = 0 then (m.setF PSQ_STAT.DIR 3).setF PSQ_CTL.DOWN 0 else m
      else m

/-- Shutdown order is entered. A controller with dirty data runs a committed flush first (R449). -/
def Chip.shutdown (m : Chip) : Chip :=
  if 2 ≤ m.f PSQ_STAT.DIR then m
  else
    let m := (((m.setF PSQ_STAT.DIR 2).setF PSQ_STAT.SEQOUT 0).setF PSQ_STAT.SYNC_PULL 1).emit 0 0x6A03
    let st := m.f PLP_STAT.STATE
    let m := if st = 0 ∧ m.dirty then m.flushStart.commitPower 0
      else if st = 1 then m.commitPower (if m.plp.first.isSome then m.discCount else 0)
      else m
    ({ m with psq := { m.psq with flushHold := m.plp.flushing } } : Chip).downPoll

/-- The device raises a sequencer fault (R447). -/
def Chip.seqFault (m : Chip) (f : Fld) (cause rail : Nat) : Chip :=
  (((m.psqLog f cause rail).emit 0 0x6A01).seqFlt).shutdown

/-- A rail is lost: while a PFAIL input is asserted it is recorded only (R447, R460). -/
def Chip.railLost (m : Chip) (i cause : Nat) : Chip :=
  let f := if cause = 1 then PSQ_FAULT.PGLOST else PSQ_FAULT.VSRANGE
  let m := m.setRail i { m.rail i with state := 3 }
  if m.f PLP_STAT.A_IN = 1 ∨ m.f PLP_STAT.B_IN = 1 then m.setF f 1 else m.seqFault f cause i

/-! ## The way up (R445, R446) -/

/-- In UP the work of state S: with SEQ_IN its rails are enabled; once all are good SEQ_OUT is asserted, and SEQ_SYNC released, or
the group parks. -/
def Chip.upPoll (m : Chip) : Chip :=
  if m.f PSQ_STAT.DIR ≠ 0 ∨ m.f PSQ_STAT.SEQOUT = 1 ∨ (m.f PSQ_STAT.SEQIN = 0 ∧ m.psq.seq.position ≠ 0) then m
  else
    let st := m.f PSQ_STAT.S
    let m := (m.railsOf st).foldl (fun (m : Chip) r =>
      if (m.rail r.rail).state = 0 then (m.driveRail r.rail true).setRail r.rail { RailSt.blank with state := 1, since := m.isl.dtc }
      else m) m
    if (m.railsOf st).all fun r => decide ((m.rail r.rail).state = 2) then
      let m := m.setF PSQ_STAT.SEQOUT 1
      if m.psq.seq.lastState ≤ st then m.setF PSQ_STAT.DIR 1
      else m.setF PSQ_STAT.SYNC_PULL 0
    else m

/-- The judgement of one rail after a change of its inputs (R443). -/
def Chip.judge (m : Chip) (i : Nat) : Chip :=
  match m.railRec? i with
  | none => m
  | some r =>
    let x := m.rail i
    let pg := m.fbit PSQ_RAILS.PG i
    if x.state = 1 then
      if (r.pg || r.vs) && (!r.pg || pg) && (!r.vs || decide (2 ≤ x.inTol)) then (m.setRail i { x with state := 2 }).upPoll else m
    else if x.state = 2 then
      if r.pg && !pg then m.railLost i 1
      else if r.vs && decide (3 ≤ x.outTol) then m.railLost i 2
      else m
    else if x.state = 4 then
      if (if r.vs then decide (2 ≤ x.low) else !r.pg || !pg) then (m.setRail i { x with state := 5 }).downPoll else m
    else m

/-- The judgement in shutdown order: a rail is no longer lost there (R443). -/
def Chip.judgeNow (m : Chip) (i : Nat) : Chip :=
  if 2 ≤ m.f PSQ_STAT.DIR ∧ (m.rail i).state ≠ 4 then m else m.judge i

/-- A sample of one rail's VS input (R443): a code within ±VS_TOL % of VS_NOMINAL. -/
def Chip.vsSample (m : Chip) (i code : Nat) : Chip :=
  let m := m.setF PSQ_VS.CODE (min code 1023) i
  match m.railRec? i with
  | none => m
  | some r =>
    let x := m.rail i
    let gap := if code < r.vsNominal then r.vsNominal - code else code - r.vsNominal
    let ok := decide (gap * 100 ≤ m.f PSQ_CFG.VS_TOL * r.vsNominal)
    let x := { x with
      inTol := if ok then min (x.inTol + 1) 3 else 0
      outTol := if ok then 0 else min (x.outTol + 1) 3
      low := if code < r.vsDischarge then min (x.low + 1) 3 else 0 }
    ((m.setRail i x).setF PSQ_VS.INRANGE (b1 (decide (2 ≤ x.inTol))) i).judgeNow i

/-- SEQ_SYNC has been high for its filter time: one front is counted (R445), and the line is pulled low again. -/
def Chip.seqFront (m : Chip) : Chip :=
  let dir := m.f PSQ_STAT.DIR
  if m.f PSQ_STAT.SYNC_PULL = 1 ∨ dir = 3 then m
  else
    let us := min ((m.isl.dtc - m.psq.frontAt) * 2 / 125) 65535
    let st := m.f PSQ_STAT.S
    let m := (m.setF PSQ_FRONT.LAST_US us).setF PSQ_FRONT.MAX_US (max us (m.f PSQ_FRONT.MAX_US))
    let m := { m with psq := { m.psq with frontAt := m.isl.dtc } }
    let m := (((m.setF PSQ_STAT.S (if dir = 2 then st - 1 else st + 1)).setF PSQ_STAT.SEQOUT 0).setF PSQ_STAT.SEQIN 0).setF PSQ_STAT.SYNC_PULL 1
    m.upPoll.downPoll

/-- No front has come within FRONT_US: a fault in UP; in DOWN, after its own release, the device counts the front itself. -/
def Chip.frontTimeout (m : Chip) : Chip :=
  let dir := m.f PSQ_STAT.DIR
  if dir = 0 then m.seqFault PSQ_FAULT.FRONT 3 0
  else if dir = 2 ∧ m.f PSQ_STAT.SYNC_PULL = 0 then (m.psqLog PSQ_FAULT.FRONT 3 0).seqFront
  else m

/-- PSQ_CTL.DOWN (R448, R460). -/
def Chip.psqDown (m : Chip) : Chip :=
  if 2 ≤ m.f PSQ_STAT.DIR then m
  else (((m.setF PSQ_CTL.DOWN 1).psqLog PSQ_FAULT.REQUEST 4 0).seqFlt).shutdown

/-- SEQ_FLT_n has been asserted for 1 µs. -/
def Chip.seqFltIn (m : Chip) : Chip :=
  let m := m.setF PSQ_STAT.FLT_IN 1
  if m.f PSQ_STAT.FLT_OUT = 1 ∨ 2 ≤ m.f PSQ_STAT.DIR then m else (m.psqLog PSQ_FAULT.EXTERNAL 5 0).shutdown

/-- A rail is not good within PG_TIMEOUT of its enable; one that nothing monitors is good then (R443, R447). -/
def Chip.pgTimeout (m : Chip) (i : Nat) : Chip :=
  match m.railRec? i with
  | none => m
  | some r =>
    if (m.rail i).state ≠ 1 ∨ m.f PSQ_STAT.DIR ≠ 0 then m
    else if !r.pg && !r.vs then (m.setRail i { m.rail i with state := 2 }).upPoll
    else m.seqFault PSQ_FAULT.PGTIMEOUT 0 i

/-- A rail is not discharged within DIS_TIMEOUT: it is stuck (R450). -/
def Chip.disTimeout (m : Chip) (i : Nat) : Chip :=
  if (m.rail i).state ≠ 4 then m
  else
    let m := ((m.setBit PSQ_STUCK.RAIL i true).setF PSQ_FAULT.STUCK 1).emit 0 0x6A02
    (m.setRail i { m.rail i with state := 5 }).downPoll

/-- The sequencer at PORST_n's release: state 0, UP, SEQ_SYNC pulled low (R445), with the group record in force. -/
def Chip.seqStart (m : Chip) (r : SeqRec) : Chip :=
  let m := { m with psq := { seq := r, rails := [], frontAt := m.isl.dtc, flushHold := false } }
  let m := ((m.setF PSQ_STAT.POSITION r.position).setF PSQ_STAT.GROUP_SIZE r.groupSize).setF PSQ_STAT.LAST_STATE r.lastState
  m.upPoll

/-- A PG input changes: asserted, or deasserted for 2 µs. -/
def Chip.pgChange (m : Chip) (i : Nat) (v : Bool) : Chip := (m.setBit PSQ_RAILS.PG i v).judgeNow i

/-- A standby rail is lost (R556): AON stops driving, so the EN_RAIL outputs fall off, the shared lines and claims are released. -/
def Chip.standbyLost (m : Chip) : Chip :=
  let m := (((m.setF PSQ_RAILS.EN 0).setF PSQ_STAT.SYNC_PULL 0).setF PSQ_STAT.FLT_OUT 0).setF PSQ_STAT.SEQOUT 0
  let m := (m.setF TWN_LINES.CLAIM 0).setF TWN_LINES.FENCE_OUT 0
  { m with psq := { m.psq with rails := [], flushHold := false } }

def execDischargeTimeout (r : Rail) (s : State) : Host.Outcome State Fault Refusal := run s fun m => m.disTimeout r.val
def execSeqFltAssert (s : State) : Host.Outcome State Fault Refusal := run s Chip.seqFltIn
def execFrontTimeout (s : State) : Host.Outcome State Fault Refusal := run s Chip.frontTimeout
def execStandbyRailLoss (s : State) : Host.Outcome State Fault Refusal := run s Chip.standbyLost

end Sys2Proof.Machine
end

