-- ==== Sys2Proof/Machine/Twin.lean ====
section
/-! DEFINITION. The twin link as a receiver (R405 to R431): sub-links, keys and acknowledgements, the twin's mirror data, deltas and
forwarded work. Its events are raised at island TWN (27). -/

namespace Sys2Proof.Machine

/-! ## Sub-links (R405, R407, R418) -/

/-- The sub-links this side's TWIN record enables, and those both sides enable once the twin's HELLO is in (R420). -/
def Chip.linkEnabled (m : Chip) (s : Nat) : Bool := bitOf m.img.tables.twin.sublinks s && (decide (m.tw.peerSubs = 0) || bitOf m.tw.peerSubs s)

/-- The HELLO body of this controller (R420). -/
def Chip.helloBody (m : Chip) : List Byte :=
  let pool := ((m.img.tables.poolOf 36).map fun r => 65536 * r.size / 1048576).getD 0
  [0x53, 0x54, 0x50, 0x48] ++ leBytes 1 1 ++ leBytes 1 m.side ++ leBytes 2 0x9610 ++ leBytes 8 m.img.tables.twin.pairId ++
  leBytes 8 Config.uid.toNat ++ leBytes 4 (m.f GEN_IMGVER.VERSION) ++ leBytes 4 (m.f GEN_LIVEVER.VERSION) ++ leBytes 4 pool ++
  leBytes 4 (m.f PLP_LIMIT.EFFECTIVE_GIB * 1024) ++ leBytes 1 (m.f TWN_STAT.STATE) ++ leBytes 1 m.img.tables.twin.sublinks ++
  leBytes 1 (m.img.tables.twin.flags % 2 + 2 * b1 (decide (m.nv.alarmed ≠ 0)) + 4 * b1 m.nv.sanLate) ++ leBytes 21 0

/-- Both directions of a sub-link take a key with a number; counters restart (R413, R421). -/
def Chip.takeKeys (m : Chip) (s n : Nat) : Chip :=
  let m := (m.sessionKey (8194 + 4 * s) s m.side n).sessionKey (8196 + 4 * s) s (1 - m.side) n
  let m := (m.setKslot (8195 + 4 * s) KeySlot.blank).setKslot (8197 + 4 * s) KeySlot.blank
  let x := m.sub s
  (m.setSub s { x with
    keyNum := n, rxKey := n, rekeying := false, txSeq := 0, txUn := 2 ^ 47, expect := 1, ackSeq := 0, credSeq := 0, replay := [],
    waits := [] }).setF TWN_SLSTAT.KEYNUM n s

/-- A sub-link has trained all 16 lanes (R405): in the handshake HELLO goes out (R419); a sub-link that had keys re-keys, and what
waits on a sub-link that is down moves here (R418). -/
def Chip.subUp (m : Chip) (s rate : Nat) : Chip :=
  let x := m.sub s
  if x.up || !m.linkEnabled s || !m.islServes 27 || m.twnIdle then m
  else
    let m := m.setSub s { x with up := true, badFlits := 0 }
    let m := ((m.setF TWN_SLSTAT.RATE rate s).setBit TWN_STAT.UP s true).emit 27 0x6902
    let m := if x.keyNum = 0 then
        (m.setSub s { m.sub s with txSeq := 0, expect := 1, replay := [], queue := [] }).sendOn s (TxFrame.make 0x01 none none [] m.helloBody)
      else m.takeKeys s (x.keyNum + 1)
    let y := m.sub (1 - s)
    let m := if y.up then m
      else (m.setSub s { m.sub s with queue := y.queue ++ (m.sub s).queue }).setSub (1 - s) { y with queue := [] }
    m.pumpSub s

/-- An unacknowledged frame to be re-sealed on the other sub-link: XSEQ names the original (R410, R418). -/
def TxFrame.reseal (f : TxFrame) (s : Nat) : TxFrame :=
  { f with xseq := if f.xseq = 0 then 2 ^ 63 * s + f.seq else f.xseq, seq := 0, sends := 0 }

/-- A sub-link goes down (R407): its unacknowledged frames go ahead of new ones on the other (R418). Before keys they are dropped, and
on a controller whose twin is gone everything is: the handshake starts again on it. -/
def Chip.subDown (m : Chip) (s : Nat) : Chip :=
  let x := m.sub s
  if !x.up then m
  else
    let all := x.replay.map (·.reseal s) ++ x.queue
    let m := m.setSub s (if 5 ≤ m.f TWN_STAT.STATE then SubSt.blank else { x with
      up := false, badFlits := 0, rekeying := false, downAt := x.acked + 1, xAccepted := [], spdmRx := none, replay := [], waits := [],
      rxPart := [], rxSync := false,
      helloOk := x.helloOk && decide (x.keyNum ≠ 0), queue := if x.keyNum = 0 then [] else all })
    let m := (((m.setF TWN_SLSTAT.RATE 0 s).setBit TWN_STAT.UP s false).incF TWN_REPLAY.DOWNS s).emit 27 0x6901
    let y := m.sub (1 - s)
    if y.up ∧ x.keyNum ≠ 0 ∧ m.f TWN_STAT.STATE < 5 then
      ((m.setSub (1 - s) { y with queue := all ++ y.queue }).setSub s { m.sub s with queue := [] }).pumpSub (1 - s)
    else m

/-! ## Acknowledgements and timers (R413 to R416) -/

/-- The zone a frame names: none with NOZONE (R410). -/
def frameZone (r : RxFrame) : Option Nat := r.zone.map (·.val)

/-- The deadline of a unit that comes over the link (R182). -/
def Chip.arriveBy (m : Chip) (slack : Nat) : Nat := (m.now + slack + 2 ^ 32 - 125) % 2 ^ 32

/-- An ACK or NAK (R415, R416): frames up to ACKSEQ are held by the twin, which commits the commands whose COMMIT they carry; the
credit rises; a NAK has the rest sent again. -/
def Chip.ackIn (m : Chip) (s ackSeq credSeq : Nat) (nak : Bool) : Chip :=
  let x := m.sub s
  if x.txSeq < ackSeq then m
  else
    let done := x.replay.filter fun f => decide (f.seq ≤ ackSeq)
    let rest := x.replay.filter fun f => decide (ackSeq < f.seq)
    let rest' := if nak then rest.map fun f => { f with sends := f.sends + 1, last := m.isl.dtc } else rest
    let m := m.setSub s { x with replay := rest', ackSeq := max x.ackSeq ackSeq, credSeq := max x.credSeq credSeq }
    let m := done.foldl (fun (m : Chip) f =>
      match f.slot with
      | some c => m.modCmd c fun c => { c with mirrored := true }
      | none => m) m
    let m := if nak then
        (rest'.foldl (fun (m : Chip) f => m.send (.frame s f.type (m.frameBytes s f))) m).addF TWN_REPLAY.FRAMES rest'.length s
      else m
    if rest'.any (fun f => decide (8 < f.sends)) then m.subDown s else m.pumpSub s

/-- The oldest unacknowledged frame was sent REPLAY_US ago (R416): all are sent again in order; one sent 8 times takes the sub-link
down (R407). Before keys no ACK can come, and nothing is replayed (log entry 40). -/
def Chip.replayTimer (m : Chip) (s : Nat) : Chip :=
  let x := m.sub s
  if !x.up ∨ x.keyNum = 0 ∨ x.replay = [] then m
  else if x.replay.any fun f => decide (8 ≤ f.sends) then m.subDown s
  else
    let fs := x.replay.map fun f => { f with sends := f.sends + 1, last := m.isl.dtc }
    let m := m.setSub s { x with replay := fs }
    (fs.foldl (fun (m : Chip) f => m.send (.frame s f.type (m.frameBytes s f))) m).addF TWN_REPLAY.FRAMES fs.length s

/-- TWN_CTL.REKEY: next keys on both sub-links (R413, R421). -/
def Chip.rekey (m : Chip) : Chip :=
  let go (m : Chip) (s : Nat) : Chip := if (m.sub s).keyNum = 0 ∨ (m.sub s).rekeying then m else m.drawNext s
  let m := go (go m 0) 1
  if (m.sub 0).rekeying ∨ (m.sub 1).rekeying then m.setF TWN_CTL.REKEY 1 else m

/-! ## Mirror data (R423 to R425, R427) -/

/-- The rows of a zone that end at or below a physical byte, and the one it lies in, know how much of them is committed. -/
def Chip.mirCommit (m : Chip) (z bytes : Nat) : Chip :=
  { m with tw := { m.tw with mirror := m.tw.mirror.map fun (e : Nat × MirRow) =>
    if e.1 / 1024 = z then (e.1, { e.2 with committed := min (bytes - 4194304 * (e.1 % 1024)) 4194304 }) else e } }

/-- Granule entries of a COMMIT body (R161, R411): granule and physical offset. -/
def granulesIn (body : List Byte) : List (Nat × Nat) :=
  (List.range (body.length / 8)).filterMap fun i =>
    let e := fieldAt body (8 * i + 4) 4
    if bitOf e 31 then some (fieldAt body (8 * i) 4, e % 2 ^ 25) else none

/-- The blocks in a string of stored blocks, each in the clear with its place in its granule; what does not open reads as zeros. -/
def openBlocks : Nat → List Byte → List (Nat × List Byte)
  | 0, _ => []
  | n + 1, bs =>
    if bs.length < 256 then []
    else
      let size := ceilDiv (24 + fieldAt bs 8 4) 256 * 256
      let orig := match openBlock (slice bs 0 size) with
        | .good o => o
        | _ => List.replicate (fieldAt bs 4 4 % 131072) 0
      (fieldAt bs 0x14 2 * 512, orig) :: openBlocks n (bs.drop size)

/-- The committed data of the twin's zone as a host reads it follows its stored bytes from physical byte `a` to below `e`. -/
def Chip.mirStore (m : Chip) (z a e : Nat) : Chip :=
  if e ≤ a then m
  else
    let x := m.zone z
    let plain := m.decipher z a (memGetBytes m.tw.mirData (2 ^ 33 * z + a) (e - a))
    if x.type = 1 then
      let gs := x.granules.filter fun g => decide (a ≤ g.2 * 256 ∧ g.2 * 256 < e)
      let m := { m with zn := { m.zn with phys := memSetBytes m.zn.phys (2 ^ 33 * z + a) plain } }
      gs.foldl (fun (m : Chip) g =>
        let (lo, hi) := (m.zone z).granuleRange g.1
        (openBlocks 128 (memGetBytes m.zn.phys (2 ^ 33 * z + lo) (hi - lo))).foldl (fun (m : Chip) b =>
          { m with zn := { m.zn with store := memSetBytes m.zn.store (2 ^ 33 * z + 65536 * g.1 + b.1) b.2 } }) m) m
    else { m with zn := { m.zn with store := memSetBytes m.zn.store (2 ^ 33 * z + a) plain } }

/-- This controller's copy of an elastic write it forwarded is laid where the twin's COMMIT puts it: behind PFP, the blocks that begin in the LBAs from
CWP to below `cwp` (R427). -/
def Chip.layCopy (m : Chip) (z cwp deadline : Nat) : Chip :=
  let x := m.zone z
  let l := m.zoneLog z
  if x.type ≠ 1 then m
  else match m.q.slots.find? fun e => e.2.fwd && decide (e.2.zone = some z ∧ e.2.off ≤ x.cwp ∧ x.cwp < e.2.off + e.2.nlb) && isWriteOp (opcodeOf e.2.entry) with
    | none => m
    | some (_, c) =>
      let bs := (c.blocks.filter fun b =>
        let a := max (b.1 * 65536) (c.off * 2 ^ l)
        decide (x.cwp * 2 ^ l ≤ a ∧ a < cwp * 2 ^ l)).flatMap (·.2)
      m.keepCopy z (x.pfp * 256) deadline (m.cipher z (x.pfp * 256) bs)

/-- A COMMIT frame (R423): the twin's pointers and granule entries, and its rows' committed bytes, unless a row it commits in has no buffer yet. -/
def Chip.commitIn (m : Chip) (z cwp rwp pfp flags deadline : Nat) (body : List Byte) : Chip × Bool :=
  let before := m.filledBytes z
  let m := m.layCopy z cwp deadline
  let x := m.zone z
  let g := (granulesIn body).foldl (fun t e => match tfind t e.1 with
    | some _ => t
    | none => tput t e.1 e.2) x.granules
  let x := { x with cwp := if x.type = 2 then x.cwp else cwp, rwp := rwp, pfp := pfp, granules := g
                    extents := if x.type = 2 then x.extents else x.extents ++ [(cwp, pfp)]
                    state := if bitOf flags 1 then zsf else x.state }
  let after := (m.setZone z x).filledBytes z
  let rows := if x.type = 2 then [] else (List.range 1024).filter fun r =>
    decide (x.rows ≤ r ∧ before / 4194304 ≤ r ∧ r * 4194304 < after ∧ before < after)
  let (m, there) := rows.foldl (fun (a : Chip × Bool) r =>
    let (m, b) := a.1.mirRoom z r deadline
    (m, a.2 && b)) (m, true)
  if !there then (m, false)
  else ((((m.setZone z x).mirCommit z after).mirStore z before after).showMirror, true)

/-- A row of the twin's is let go: its buffer is freed; its stored bytes, which are on flash now, stay known. -/
def Chip.mirFree (m : Chip) (k : Nat) : Chip :=
  ({ m with tw := { m.tw with mirror := tdel m.tw.mirror k } } : Chip).releaseBuffers (mirWork k)

/-- A RELEASE frame (R424): reason 0 programmed, 1 spilled, 2 zone reset, 3 abort from a row offset. -/
def Chip.releaseIn (m : Chip) (z r reason pwp from_ : Nat) : Chip :=
  let x := m.zone z
  if reason = 0 ∨ reason = 1 then
    let m := if reason = 0 then m.setZone z { x with pwp := pwp, rows := max x.rows (r + 1) } else m
    (m.mirFree (rowKey z r)).showMirror
  else if reason = 2 then
    let ks := (m.tw.mirror.filter fun e => decide (e.1 / 1024 = z)).map (·.1)
    let m := ks.foldl (fun (m : Chip) k => m.mirFree k) m
    ({ m with tw := { m.tw with mirData := memClear m.tw.mirData (2 ^ 33 * z) (2 ^ 33 * (z + 1)) } } : Chip).showMirror
  else if reason = 3 then
    let ks := (m.tw.mirror.filter fun e => decide (e.1 / 1024 = z ∧ r ≤ e.1 % 1024)).map (·.1)
    (ks.foldl (fun (m : Chip) k =>
      let row := k % 1024
      let lim := if row = r then from_ else 0
      let x := tget MirRow.blank m.tw.mirror k
      let keep := (x.have_.map fun e => (e.1, min e.2 (lim - e.1))).filter fun e => decide (e.2 ≠ 0)
      if keep = [] ∧ x.committed = 0 then m.mirFree k
      else { m with tw := { m.tw with mirror := tput m.tw.mirror k { x with have_ := keep } } }) m).showMirror
  else m

/-! ## Deltas (R426) -/

/-- A member word (R174). -/
def memberAt (bs : List Byte) (o : Nat) : Member :=
  let w := fieldAt bs o 4
  { failed := bitOf w 31, relocSrc := bitOf w 30, block := bits w 29 16, die := bits w 15 0 }

/-- A namespace this controller learns of by a map record, with defaults until it is told more (log entry 41). -/
def Chip.learnNs (m : Chip) (nsid zone idx : Nat) : Chip :=
  let m := match m.ns? nsid with
    | some _ => m
    | none =>
      let n : Ns := {
        nsid := nsid, tenant := (m.zone zone).tenant, conv := false, elastic := false, lbaLog := 12, level := 0, keySlot := 0,
        keygen := 0, ana := 0, zones := [], attached := [] }
      { m with zn := { m.zn with ns := m.zn.ns ++ [n] } }
  let place (n : Ns) : Ns :=
    let zs := n.zones.filter (· ≠ zone)
    if n.nsid = nsid then { n with zones := zs.take idx ++ [zone] ++ zs.drop idx } else { n with zones := zs }
  let m := { m with zn := { m.zn with ns := m.zn.ns.map place } }
  m.setZone zone { m.zone zone with nsid := nsid, zidx := idx, state := if (m.zone zone).nsid = nsid then (m.zone zone).state else zse }

/-- The attachments that a map record carries behind the zone index (log entry 163). -/
def Chip.learnAttached (m : Chip) (nsid : Nat) (p : List Byte) : Chip :=
  if p.length < 12 then m
  else
    let ids := (List.range (fieldAt p 10 2)).map fun i => fieldAt p (12 + 2 * i) 2
    { m with zn := { m.zn with ns := m.zn.ns.map fun n => if n.nsid = nsid then { n with attached := n.attached.take (fieldAt p 8 2) ++ ids } else n } }

/-- A zone leaves its namespace; a namespace without zones is gone. -/
def Chip.forgetZone (m : Chip) (zone : Nat) : Chip :=
  let ns := (m.zn.ns.map fun n => { n with zones := n.zones.filter (· ≠ zone) }).filter fun n =>
    decide (n.zones ≠ []) || (m.ns? n.nsid).any fun k => decide (k.zones = [])
  ({ m with zn := { m.zn with ns := ns } } : Chip).setZone zone Zone.blank

/-- One record: its type, key and payload from byte 8 on. -/
def Chip.record (m : Chip) (type key : Nat) (p : List Byte) : Chip :=
  if type = 1 then
    let st := fieldAt p 0 1
    let w := fieldAt p 2 4
    let m := if st = zse ∧ !m.ownsZone key then m.clearZoneData key else m
    m.setZone key { m.zone key with
      state := st, cls := fieldAt p 1 1, side := bits w 9 9, type := bits w 11 10, spilled := bitOf w 16, refresh := bitOf w 17,
      reloc := bitOf w 19, zfc := bitOf w 20, lastChange := fieldAt p 6 4, members := if bitOf w 8 then (m.zone key).members else [] }
  else if type = 2 then
    let x := m.zone key
    let members := (List.range 18).map fun i => memberAt p (4 * i)
    if x.type = 2 then
      let m : Chip := { m with zn := { m.zn with
        poison := m.zn.poison.filter fun k => decide (k / 2 ^ 21 ≠ key)
        logBlks := m.zn.logBlks.map fun (e : Nat × LogBlk) => (e.1, { e.2 with units := e.2.units.filter fun u => decide (u.2 / 2 ^ 20 ≠ key) }) } }
      (m.setF SPE_POISON.USED m.poisonUsed).setZone key { x with members := members, rows := 1024, logUnits := 0 }
    else m.setZone key { x with members := members }
  else if type = 3 then
    let x := m.zone key
    m.setZone key { x with members := x.members.set (fieldAt p 0 1) (memberAt p 4) }
  else if type = 4 then
    let u := 2 ^ 20 * key + fieldAt p 0 4
    let loc := fieldAt p 4 8
    let k := loc / 2 ^ 20
    let old := m.zn.logBlks.map fun (e : Nat × LogBlk) => (e.1, { e.2 with units := e.2.units.filter (·.2 ≠ u) })
    let b := (tfind old k).getD { hot := false, opened := true, units := [] }
    let m := { m with zn := { m.zn with logBlks := tput old k { b with units := b.units ++ [(loc % 2 ^ 20, u)] } } }
    let lz := m.zone (logZone k)
    let m := m.setZone (logZone k) { lz with cwp := max lz.cwp (loc % 2 ^ 20 + 1), rwp := max lz.rwp (loc % 2 ^ 20 + 1) }
    m.setZone key { m.zone key with logUnits := m.logUnitsOf key }
  else if type = 5 then
    let fl := fieldAt p 3 1
    let b := fieldAt p 0 2
    m.setBlk key b { m.blk key b with
      state := fieldAt p 2 1, refresh := bitOf fl 0, urgent := bitOf fl 1, outwin := bitOf fl 2, slc := bitOf fl 3, stepValid := bitOf fl 4,
      erases := fieldAt p 4 4, rows := if fieldAt p 2 1 = 0 then 0 else (m.blk key b).rows }
  else if type = 6 then (m.setF FCH_DIE.STATE (fieldAt p 0 1) key).setF FCH_DIE.REASON (fieldAt p 1 1) key
  else if type = 7 then
    let k := poisonKey key (pageStart (fieldAt p 0 2) (fieldAt p 2 1) (fieldAt p 3 1) + fieldAt p 4 1 * 4096)
    if k ∈ m.zn.poison ∨ 4096 ≤ m.poisonUsed then m
    else ({ m with zn := { m.zn with poison := m.zn.poison ++ [k] } } : Chip).setF SPE_POISON.USED (m.poisonUsed + 1)
  else if type = 8 then
    if fieldAt p 0 4 = 0 then m.forgetZone key else (m.learnNs (fieldAt p 0 4) key (fieldAt p 4 4)).learnAttached (fieldAt p 0 4) p
  else if type = 9 then
    let r := fieldAt p 0 2
    let a := fieldAt p 8 8
    m.setRow key r { m.row key r with spill := some (bits a 11 0, bits a 24 12, bits a 34 25), spillLen := min (m.filledBytes key - 4194304 * r) 4194304 }
  else { m with tw := { m.tw with deltaErrors := m.tw.deltaErrors + 1 } }

/-- The records of a DELTA body in order, each of WORDS 8-byte words; a record of no words ends the body as a delta error. -/
def Chip.deltaRecords (m : Chip) : Nat → List Byte → Chip
  | 0, _ => m
  | n + 1, bs =>
    if bs.length < 8 then m
    else
      let words := fieldAt bs 1 1
      if words = 0 then { m with tw := { m.tw with deltaErrors := m.tw.deltaErrors + 1 } }
      else (m.record (fieldAt bs 0 1) (fieldAt bs 4 4) (slice bs 8 (8 * words - 8))).deltaRecords n (bs.drop (8 * words))

/-! ## Forwarded work (R424, R427, R429) -/

/-- A forwarded die operation arrives: a die unit of this controller, or refused with its FWDDONE status (R411): 3 die not in service,
4 channel not claimed, 5 a reserved code. -/
def Chip.fwdReq (m : Chip) (r : RxFrame) (op flags die block row page cw tenant req : Nat) : Chip :=
  let z := (frameZone r).getD 0
  let f : FwdIn := {
    id := req, op := op, flags := flags, zone := z, row := row, die := die, block := block, page := page, cw := cw, tenant := tenant }
  let m := { m with tw := { m.tw with fwdIns := tput m.tw.fwdIns req f } }
  let refuse (st : Nat) : Chip := m.fwdDone req st 0 0
  let pageOk := decide (page < 16 ∧ cw < 16) || decide (page = 255 ∧ cw = 255)
  if 16 ≤ flags ∨ 3072 ≤ die ∨ m.flash.userBlocks ≤ block ∨ 1024 ≤ row ∨ 4096 ≤ tenant ∨ (op = 1 ∧ !pageOk) then refuse 5
  else if !m.drives die then refuse 4
  else if m.f FCH_DIE.STATE die < 2 ∨ 5 < m.f FCH_DIE.STATE die then refuse 3
  else
    let kind := if op = 1 then UKind.read else if op = 2 then UKind.program else UKind.erase
    let u := { DUnit.make die kind (.forwarded req) Config.fwdClass.val (m.arriveBy r.slack) block row page with
      tenant := tenant, internal := decide (tenant = 0xFFFF), slc := bitOf flags 0
      cw := if page = 255 then 0 else cw % 4, ncw := if page = 255 then (if bitOf flags 0 then 16 else 64) else cw / 4 + 1 }
    (m.newUnit u).enqueueDie die

/-- FWDDONE for an operation forwarded to the twin: a row's member is programmed, or what asked for the operation goes on as with a
die of this controller; the ledger is corrected by the twin (R191, R424, R429). -/
def Chip.fwdAnswer (m : Chip) (req status bits_ busyUs : Nat) : Chip :=
  match tfind m.tw.fwds req with
  | none => m
  | some f =>
    let m := { m with tw := { m.tw with fwds := tdel m.tw.fwds req } }
    let u := f.unit
    let busy := usTicks busyUs
    let m := if u.kind = .read then
        m.setBlk u.die u.block { m.blk u.die u.block with maxbits := max (m.blk u.die u.block).maxbits (min bits_ 511) } else m
    match u.kind with
    | .read =>
      if status = 0 then m.readDone u [] busy
      else if status = 2 then m.readDone u u.codewords busy
      else m.failUnit u
    | .program =>
      if status = 0 then m.progDone u busy
      else if status = 1 then m.progFailed u false
      else m.failUnit u
    | .erase => if status ≤ 1 then m.eraseDone u (decide (status = 1)) busy else m

/-- Stored data of a forwarded write is in: a write whose bytes are all there is staged as the home's own (R427). -/
def Chip.fwdStored (m : Chip) (s : Nat) (c : Cmd) (off : Nat) (body : List Byte) : Chip :=
  let z := c.zone.getD 0
  let raw := c.data.take off ++ List.replicate (off - c.data.length) 0 ++ body ++ c.data.drop (off + body.length)
  let m := m.modCmd s fun c => { c with data := raw }
  let l := m.zoneLog z
  let at_ := slbaOf c.entry % ((m.ns? (nsidOf c.entry)).map (·.zoneLbas)).getD 1 * 2 ^ l
  if m.elasticCmd c then
    let first := c.off * 2 ^ l
    let n := (piecesOf first (c.nlb * 2 ^ l)).length
    let plain := m.decipher z at_ raw
    let sizes := (List.range n).foldl (fun (a : List (Nat × Nat)) _ =>
      let o := (a.getLast?.map fun e => e.1 + e.2).getD 0
      if plain.length ≤ o then a else a ++ [(o, ceilDiv (24 + fieldAt plain (o + 8) 4) 256 * 256)]) []
    if sizes.length = n ∧ (sizes.all fun e => decide (e.1 + e.2 ≤ plain.length)) then
      let blocks := (List.range n).map fun i =>
        let e := sizes.getD i (0, 0)
        (first / 65536 + i, slice plain e.1 e.2)
      let orig := (openBlocks 64 plain).flatMap (·.2)
      m.modCmd s fun c => { c with blocks := blocks, data := orig, staged := true }
    else m
  else if c.nlb * 2 ^ l ≤ raw.length then
    m.modCmd s fun c => { c with data := m.decipher z at_ (raw.take (c.nlb * 2 ^ l)), staged := true }
  else m

/-- A FWDDATA frame (R427, R429; log entry 20): a request number below 2^16 is the twin's slot of a forwarded write, one from 2^31 up
this controller's slot of a forwarded read; data of die reads needs no place of its own. -/
def Chip.fwdData (m : Chip) (req off : Nat) (body : List Byte) : Chip :=
  if req < 65536 then
    match m.q.slots.find? fun e => decide (e.2.peer = some req) with
    | some (s, c) => if c.writing && !c.staged then m.fwdStored s c off body else m
    | none => m
  else if 2 ^ 31 ≤ req then
    let s := req - 2 ^ 31
    match m.cmd? s with
    | some c =>
      if c.fwd then
        m.modCmd s fun c => { c with data := c.data.take off ++ List.replicate (off - c.data.length) 0 ++ body ++ c.data.drop (off + body.length) }
      else m
    | none => m
  else m

/-- A FWDCMD (R427): the command enters this controller's acceptance order, its deadline stamped by R182; none when no slot is
free. -/
def Chip.fwdCmdIn (m : Chip) (r : RxFrame) (fn queue slot tenant cls flags level : Nat) (entry : List Byte) : Option Chip :=
  m.deviceSlot.map fun s =>
    let ns := m.ns? (nsidOf entry)
    let span := (ns.map (·.zoneLbas)).getD 1
    let op := opcodeOf entry
    let c : Cmd := { Cmd.blank with
      fn := fn, q := queue, entry := slice (entry ++ List.replicate 64 0) 0 64, phase := .accepted, arrival := m.isl.dtc, acceptedAt := m.isl.dtc
      tenant := tenant, epoch := m.stampEpoch.1, cls := cls, deadline := m.arriveBy r.slack, abortMiss := bitOf flags 0, hint := phintOf entry
      seq := m.q.seq, zone := if hasLba op then ns.bind fun n => n.zones[slbaOf entry / span]? else frameZone r, off := slbaOf entry % span
      nlb := if hasLba op then nlbOf entry else 0, staged := decide (op = 0x08) && !bitOf flags 1, level := level, progress := m.isl.dtc
      peer := some slot }
    ({ m with q := { m.q with seq := m.q.seq + 1 } } : Chip).putCmd s c

/-- A FWDCPL (R427): a forwarded read's bytes go to the host, deciphered; the completion is posted. -/
def Chip.fwdCpl (m : Chip) (slot status dw0 : Nat) : Chip :=
  match m.cmd? slot with
  | none => m
  | some c =>
    if !c.fwd then m
    else
      let st : Status := { sct := bits status 10 8, sc := bits status 7 0, dnr := bitOf status 15 }
      let z := c.zone.getD 0
      let m := if opcodeOf c.entry = 0x02 ∧ c.data ≠ [] then
          m.giveHost slot 0 (m.decipher z (c.off * 2 ^ m.zoneLog z) c.data)
        else m
      (m.finish slot (some st) dw0).settle

/-- A MARKER frame (R57): a marker of the twin's runs its own tree here; an acknowledgement serves the barrier in flight. -/
def Chip.markerIn (m : Chip) (marker : Nat) (snap ack : Bool) : Chip :=
  if ack then
    match m.isl.flight with
    | some b => if b.twin ∧ b.marker = marker then { m with isl := { m.isl with flight := some { b with twinAck := true } } } else m
    | none => m
  else m.barRequest .twin snap false (some marker)

/-- The MIRROR frames of the first `n` bytes of a row. -/
def Chip.mirrorFrames (m : Chip) (z r n : Nat) : Chip :=
  (chunks4k ((m.rowData z r).take n)).foldl (fun (m : Chip) k =>
    m.sendFrame 0x05 (some z) none (leBytes 2 r ++ leBytes 4 k.1 ++ leBytes 2 0xFFFF ++ leBytes 2 0x3FFF ++ leBytes 2 0) k.2) m

/-- CTRL with OP 2: the owner sends the MIRROR frames of a row it still holds again, with fresh numbers (R425, R441). -/
def Chip.resendRow (m : Chip) (z r : Nat) : Chip :=
  let n := min (m.filledBytes z - 4194304 * r) 4194304
  if !m.ownsZone z ∨ n = 0 ∨ r < (m.zone z).rows ∨ (m.row z r).spill.isSome then m
  else m.mirrorFrames z r n

/-- CTRL with OP 4: a 128-byte zone context (R174, R440). -/
def Chip.stateIn (m : Chip) (z : Nat) (b : List Byte) : Chip :=
  let w (i : Nat) := fieldAt b (4 * i) 4
  if w 1 = 0 then m.setZone z Zone.blank
  else
    let m := m.learnNs (w 1) z (w 2)
    let x := m.zone z
    m.setZone z { x with
      state := bits (w 0) 3 0, side := bits (w 0) 9 9, type := bits (w 0) 11 10, spilled := bitOf (w 0) 16, refresh := bitOf (w 0) 17,
      reloc := bitOf (w 0) 19, zfc := bitOf (w 0) 20, cls := bits (w 0) 23 21, cwp := w 3, rwp := w 4, pwp := w 5, pfp := w 6, rpp := w 7,
      rows := w 8 / 65536, tenant := w 9, lastChange := w 10, lastWrite := w 11, logUnits := w 13,
      members := if bitOf (w 0) 8 then (List.range 18).map fun i => memberAt b (56 + 4 * i) else [] }

/-! ## SPDM over the link (R412) -/

/-- A fragment continues the message in progress on its sub-link. -/
def SubSt.spdmFits (x : SubSt) (msg index : Nat) (last : Bool) (msgLen fragLen : Nat) (body : List Byte) : Bool :=
  let rx : SpdmRx := x.spdmRx.getD { msg := x.spdmNext, index := 0, len := msgLen, bytes := [] }
  let want := if last then msgLen - 4096 * index else 4096
  decide (msg = rx.msg ∧ index = rx.index ∧ msgLen = rx.len ∧ fragLen = want ∧ 1 ≤ msgLen ∧ msgLen ≤ 1048576 ∧
      4096 * index < msgLen ∧ fragLen ≤ body.length) && decide (last = decide (msgLen ≤ 4096 * (index + 1)))

/-- A fragment joins the message in progress; whole messages go to the SPDM layer, and one that does not continue is discarded. -/
def Chip.spdmIn (m : Chip) (s msg index : Nat) (last : Bool) (msgLen fragLen : Nat) (body : List Byte) : Chip :=
  let x := m.sub s
  let rx : SpdmRx := x.spdmRx.getD { msg := x.spdmNext, index := 0, len := msgLen, bytes := [] }
  if !x.spdmFits msg index last msgLen fragLen body then (m.setSub s { x with spdmRx := none, spdmNext := (msg + 1) % 65536 }).emit 27 0x690C
  else
    let bs := rx.bytes ++ body.take fragLen
    if last then
      (m.setSub s { x with spdmRx := none, spdmNext := (msg + 1) % 65536 }).send (.spdm (32 + s) "MESSAGE" [("length", msgLen)] bs)
    else m.setSub s { x with spdmRx := some { rx with index := index + 1, bytes := bs } }

end Sys2Proof.Machine
end

