-- ==== Sys2Proof/Machine/Takeover.lean ====
section
/-! DEFINITION. The pair (R419 to R441): the handshake's verdicts, claims and the steering switches, heartbeats, suspicion, fencing,
takeover and rejoin. -/

namespace Sys2Proof.Machine

/-! ## ANA states (R103, R104) -/

/-- The state a group has on this controller, by TWN_STAT.STATE; Inaccessible while a start keeps the functions from ready. -/
def Chip.anaOf (m : Chip) (g : Nat) : Nat :=
  let st := m.f TWN_STAT.STATE
  let home := decide (anaHome g = m.side)
  if st = 7 then 4
  else if m.st.step ≠ 14 then 3
  else if 3 ≤ st ∧ st ≤ 5 then 0xF
  else if st = 6 then (if 5 ≤ m.tw.rejoin ∧ !home then 0xF else 1)
  else if st = 8 then 1
  else if st = 2 then (if home then 1 else if m.f TWN_STAT.FWD_EN = 1 then 2 else 3)
  else 3

/-- The groups in use: those of a function or a namespace. -/
def Chip.groupsInUse (m : Chip) : List Nat :=
  let gs := (m.img.tables.funcs.map (·.ana)) ++ m.zn.ns.map (·.ana)
  (List.range 129).filter fun g => decide (1 ≤ g) && decide (g ∈ gs)

/-- HPT_ANA follows; a change is notified to every function with the event enabled. -/
def Chip.anaView (m : Chip) : Chip :=
  let gs := m.groupsInUse.filter fun g => decide (m.ana g ≠ m.anaOf g)
  if gs = [] then m
  else
    let m := gs.foldl (fun (m : Chip) g => m.setF (anaField g) (m.anaOf g) ((g - 1) / 8)) m
    (m.q.fns.filter fun e => e.2.anaNotices && e.2.rdy).foldl (fun (m : Chip) e => m.aen e.1 2 0x03 0x0C) m

/-- A state of the twin link, with what follows from it. -/
def Chip.twnState (m : Chip) (st : Nat) : Chip := (m.setF TWN_STAT.STATE st).anaView

/-! ## Claims (R22, R434 to R437) -/

/-- The home clusters of a side. -/
def homeMask (side : Nat) : Nat := if side = 0 then 0x03F else 0xFC0

/-- The clusters of a mask. -/
def maskList (k : Nat) : List Nat := setBits 12 k

def maskSet (x k : Nat) (v : Bool) : Nat := if bitOf x k = v then x else if v then x + 2 ^ k else x - 2 ^ k

/-- Claims are asserted, for the clusters not claimed yet. -/
def Chip.claimMask (m : Chip) (mask : Nat) : Chip :=
  ((maskList mask).foldl (fun (m : Chip) k =>
    if m.fbit TWN_LINES.CLAIM k then m
    else
      let m := { m with tw := { m.tw with waitClaims := maskSet m.tw.waitClaims k true } }
      m.setBit TWN_LINES.CLAIM k true) m).powerPoll

/-- A claim is deasserted: its channels are high-impedance, and nothing more is done on them (R23). -/
def Chip.dropClaim (m : Chip) (k : Nat) : Chip :=
  let m := { m with tw := { m.tw with
    waitClaims := maskSet m.tw.waitClaims k false, again := maskSet m.tw.again k false } }
  if m.fbit TWN_LINES.CLAIM k then (m.reconAround fun m => m.setBit TWN_LINES.CLAIM k false).dropTrain k else m

/-- The dies of a cluster. -/
def clusterDies (k : Nat) : List Nat := (List.range 256).map fun i => k * 256 + i

/-- The dies of a claimed cluster are reset and its CEs trained, with ledger entries that start at 0 (R195, R222, R438). Before
step 10 of a start that step does it. -/
def Chip.takeCluster (m : Chip) (k : Nat) : Chip :=
  if m.st.step < 10 then m
  else
  let m := { m with md := { m.md with
    ldgZero := (clusterDies k).foldl (fun t d => tput t d (m.isl.dtc % 2 ^ 32)) m.md.ldgZero
    ledger := m.md.ledger.filter fun e => decide (e.1 % 4096 / 256 ≠ k) } }
  (List.range 8).foldl (fun (m : Chip) c => (m.chanReset (8 * k + c)).askTrain (8 * k + c) m.populated) m

/-- TWIN_FENCE_n as this controller drives it. -/
def Chip.fenceLine (m : Chip) (v : Bool) : Chip :=
  (m.setF TWN_LINES.FENCE_OUT (b1 v)).setF TWN_LINES.FENCE_IN (b1 v)

/-- The controller is fenced (R434): channels high-impedance, claims deasserted, commands ended internally, Persistent Loss. -/
def Chip.fenced (m : Chip) : Chip :=
  let ack (m : Chip) : Chip := (m.sendUnseq 0 0x11 []).sendUnseq 1 0x11 []
  if m.f TWN_STAT.STATE = 7 then ack m
  else
    let m := (List.range 12).foldl (fun (m : Chip) k => m.dropClaim k) m
    let m := if m.f TWN_LINES.FENCE_OUT = 1 then m.fenceLine false else m
    let m := { m with tw := { m.tw with
      deferring := false, fencing := false, takeover := false, retryClaims := 0, rejoin := 0, handover := false, handshake := false,
      fwds := [], fwdIns := [] } }
    let m := ((m.setF TWN_STAT.STATE 7).setBit FLT_STAT.FORCE 1 true).setF TWN_CTL.FENCE 0
    let m := ack ((m.setF TWN_FAULT.FENCED 1).emit 27 0x6905)
    let m := m.rollback 0xE
    let m := m.q.slots.foldl (fun (m : Chip) (e : Nat × Cmd) =>
      match m.cmd? e.1 with
      | none => m
      | some c => if c.phase = .reserved then m.freeSlot e.1 else m.finish e.1 none) m
    let m := m.md.dies.foldl (fun (m : Chip) (e : Nat × DieSt) => m.clearDie e.1) m
    let m := ({ m with md := { m.md with solves := [], softQ := [], disp := [] } } : Chip).stopDrizzle
    m.anaView.barTwinLost.powerPoll

/-! ## Suspicion and fencing (R432, R433) -/

/-- The register bit of a suspicion's cause (REASON of FENCE): 3 SILENT, 4 LINKLOSS, 5 HSTIMEOUT, 6 ATTEST, 7 ROLE; 0: asked for. -/
def Chip.faultBit (m : Chip) (why : Nat) : Chip :=
  if why = 3 then m.setF TWN_FAULT.SILENT 1
  else if why = 4 then m.setF TWN_FAULT.LINKLOSS 1
  else if why = 5 then m.setF TWN_FAULT.HSTIMEOUT 1
  else if why = 6 then m.setF TWN_FAULT.ATTEST 1
  else if why = 7 then m.setF TWN_FAULT.ROLE 1
  else m

/-- FENCE on every sub-link that is up. -/
def Chip.sendFence (m : Chip) : Chip :=
  (m.sendUnseq 0 0x10 (leBytes 1 m.tw.suspectWhy)).sendUnseq 1 0x10 (leBytes 1 m.tw.suspectWhy)

/-- The line is asserted and FENCE goes out. -/
def Chip.assertFence (m : Chip) : Chip :=
  let m := { m with tw := { m.tw with deferring := false, fencing := true } }
  (((m.fenceLine true).twnState 4).sendFence).emit 27 0x6904

/-- The twin is suspected: groups in Change, a running switch abandoned, a pair barrier completed here; side A fences at once. -/
def Chip.suspect (m : Chip) (why : Nat) : Chip :=
  let m := (m.faultBit why).emit 27 (if why < 5 then 0x6903 else 0x6909)
  let m := { m with tw := { m.tw with
    suspectAt := m.isl.dtc, suspectWhy := why, handshake := false, rejoin := 0, handover := false } }
  let m := (((m.setF TWN_CTL.REJOIN 0).twnState 3).rollback 0xE).barTwinLost.lullWake 6 0
  if m.side = 0 then m.assertFence else { m with tw := { m.tw with deferring := true } }

/-- TWN_CTL.FENCE (R432). -/
def Chip.fenceRequest (m : Chip) : Chip :=
  let st := m.f TWN_STAT.STATE
  if st = 1 ∨ st = 2 then (m.setF TWN_CTL.FENCE 1).suspect 0 else m

/-- Fencing is complete: the takeover begins (R438 steps 1, 2 and 4). Work for the twin ends: what it had forwarded here internally,
what was forwarded to it with Command Interrupted. -/
def Chip.fenceDone (m : Chip) : Chip :=
  if m.f TWN_STAT.STATE ≠ 4 then m
  else
    let m := { m with tw := { m.tw with fencing := false, takeover := true, retryClaims := 0, fwdIns := [] } }
    let m := (((m.setF TWN_CTL.FENCE 0).twnState 5).setF BPM_STAT.MODE 1).rollback 0xE
    let m := m.q.slots.foldl (fun (m : Chip) (e : Nat × Cmd) =>
      match m.cmd? e.1 with
      | none => m
      | some c => if c.peer.isSome then m.endCmd e.1 none else if c.fwd then m.finish e.1 (some stInterrupted) else m) m
    let m := (List.range 2).foldl (fun (m : Chip) s =>
      let x := m.sub s
      m.setSub s (if x.up then { x with queue := [], replay := [], waits := [], helloOk := false, attested := false } else SubSt.blank)) m
    m.claimMask 0xFFF

/-! ## Takeover (R438) -/

/-- The FWDREQs without an answer go on here once the twin's clusters are claimed; a program is handled as interrupted (R228). -/
def Chip.reissue (m : Chip) : Chip :=
  let fs := m.tw.fwds
  let m := { m with tw := { m.tw with fwds := [] } }
  fs.foldl (fun (m : Chip) (e : Nat × Fwd) =>
    let u := e.2.unit
    match u.kind with
    | .program => m.progFailed u true
    | _ => m.newUnit u) m

/-- The buffers of one piece of work become those of another. -/
def Chip.moveWork (m : Chip) (a b : Nat) : Chip :=
  { m with bp := { m.bp with bufs := m.bp.bufs.map fun (e : Nat × Buf) => (e.1, if e.2.work = a then { e.2 with work := b } else e.2) } }

/-- Committed mirror rows become staging of this controller; uncommitted mirror data is discarded (R438 step 4). -/
def Chip.adoptRows (m : Chip) : Chip :=
  let rows := m.tw.mirror
  let m := { m with tw := { m.tw with mirror := [] } }
  let m := rows.foldl (fun (m : Chip) (e : Nat × MirRow) =>
    let z := e.1 / 1024
    let r := e.1 % 1024
    if e.2.committed = 0 then m.releaseBuffers (mirWork e.1)
    else (m.moveWork (mirWork e.1) (rowWork z r)).setRow z r { m.row z r with lastData := m.isl.dtc }) m
  let zs := (rows.map fun e => e.1 / 1024).eraseDups
  let m := zs.foldl (fun (m : Chip) z =>
    let x := m.zone z
    let m := if x.type = 2 then m else m.setZone z { x with rwp := x.cwp, rpp := x.pfp }
    let m := m.fillRows z
    let r := m.filledBytes z / 4194304
    if (m.zone z).state = zsf ∧ m.filledBytes z % 4194304 ≠ 0 ∧ (m.zone z).rows ≤ r then m.completeRow z r else m) m
  m.showMirror

/-- The takeover ends: SURVIVOR, limits doubled, every group Optimized, commits without a mirror. -/
def Chip.takeoverEnd (m : Chip) : Chip :=
  if m.f TWN_STAT.STATE ≠ 5 ∨ m.tw.takeover ∨ m.tw.waitClaims ≠ 0 ∨ m.tw.retryClaims ≠ 0 ∨ 2 ≤ m.f PLP_STAT.STATE then m
  else
    let m := (m.twnState 6).adoptRows
    let m := if m.st.step = 14 then
        m.img.tables.pools.foldl (fun (m : Chip) r => m.grantPool r.pool) (m.setF BPM_STAT.MODE 0)
      else m
    let m := (m.setF TWN_TAKETIME.TICKS (min (m.isl.dtc - m.tw.suspectAt) (2 ^ 32 - 1))).emit 27 0x6906
    m.restartMoves.startRebuilds.limitView

/-- CLAIM_SEEN of a cluster asserts (R436). -/
def Chip.claimSeen (m : Chip) (k : Nat) : Chip :=
  let m := m.reconAround fun m => m.setBit TWN_LINES.SEEN k true
  if !m.fbit TWN_LINES.CLAIM k ∨ !bitOf m.tw.waitClaims k then m
  else
    let back := bitOf m.tw.again k
    let m := { m with tw := { m.tw with
      waitClaims := maskSet m.tw.waitClaims k false, again := maskSet m.tw.again k false
      retryClaims := maskSet m.tw.retryClaims k false } }
    let m := m.powerPoll.limitView
    let st := m.f TWN_STAT.STATE
    if back then (clusterDies k).foldl (fun (m : Chip) d => m.turn d) m
    else if st = 5 then
      let m := m.takeCluster k
      if m.tw.waitClaims = 0 ∧ m.tw.retryClaims = 0 then m.reissue.takeoverEnd else m
    else m

/-- SEEN of a cluster deasserts; under a held claim the cluster is lost, and claimed once more. -/
def Chip.seenLost (m : Chip) (k : Nat) : Chip :=
  let held := m.claims k
  let m := m.reconAround fun m => m.setBit TWN_LINES.SEEN k false
  if held then
    let m := { m with tw := { m.tw with waitClaims := maskSet m.tw.waitClaims k true, again := maskSet m.tw.again k true } }
    ((m.setF TWN_FAULT.CLAIMLOST 1).emit 27 0x6908).limitView
  else m

/-- A claim has no SEEN 2 ms after it was asserted: refused (R436, R437). -/
def Chip.claimRefused (m : Chip) (k : Nat) : Chip :=
  if !bitOf m.tw.waitClaims k ∨ m.claims k then m
  else
    let again := bitOf m.tw.again k
    let m := (((m.dropClaim k).setF TWN_FAULT.CLAIMREFUSED 1).emit 27 0x6907).powerPoll
    if again then
      (clusterDies k).foldl (fun (m : Chip) d => if 1 ≤ m.f FCH_DIE.STATE d ∧ m.f FCH_DIE.STATE d ≤ 5 then m.failDie d 1 else m) m
    else if m.f TWN_STAT.STATE = 5 then
      if m.side = 0 then { m with tw := { m.tw with retryClaims := maskSet m.tw.retryClaims k true } } else m.fenced
    else m

/-- Side A claims again what was refused. -/
def Chip.claimRetry (m : Chip) : Chip :=
  if m.f TWN_STAT.STATE = 5 ∧ m.side = 0 then m.claimMask m.tw.retryClaims else m

/-- 10 ms after fencing side A still lacks a SEEN: the takeover fails (R437). -/
def Chip.takeoverFails (m : Chip) : Chip :=
  if m.f TWN_STAT.STATE ≠ 5 ∨ m.side ≠ 0 ∨ (m.tw.waitClaims = 0 ∧ m.tw.retryClaims = 0) then m
  else
    let m := (List.range 12).foldl (fun (m : Chip) k => if bitOf (homeMask 0) k then m else m.dropClaim k) m
    let m := { m with tw := { m.tw with takeover := false, waitClaims := 0, retryClaims := 0 } }
    (m.twnState 9).powerPoll

/-! ## Handshake (R419 to R421) -/

/-- The handshake has keys on every enabled sub-link. A controller that holds its claims open takes its home clusters; one that finds
TWIN_FENCE_n asserted waits in REJOIN, and restores no flush (R440, R471). -/
def Chip.handshakeDone (m : Chip) : Chip :=
  let m := { m with nv := { m.nv with sanLate := false } }
  if m.f TWN_STAT.STATE ≠ 1 then m
  else
    let m := { m with tw := { m.tw with handshake := false } }
    if m.f TWN_LINES.FENCE_IN = 1 ∧ m.f TWN_LINES.FENCE_OUT = 0 then
      ((({ m with st := { m.st with restoredId := m.st.flushId } } : Chip).array .record).twnState 10).powerPoll
    else m.claimMask (homeMask m.side)

/-- A HELLO (R420). The twin's SIDE is looked at first: with both sides the same, neither fences and neither claims (R21, R419). -/
def Chip.helloIn (m : Chip) (s : Nat) (b : List Byte) : Chip :=
  let t := m.img.tables.twin
  let ok := decide (slice b 0 4 = [0x53, 0x54, 0x50, 0x48] ∧ fieldAt b 4 1 = 1 ∧ fieldAt b 6 2 = 0x9610 ∧ fieldAt b 8 8 = t.pairId)
  let same := decide (fieldAt b 5 1 = m.side)
  if !ok || same then
    if m.f TWN_STAT.STATE ≠ 1 then (m.setF TWN_FAULT.ROLE 1).emit 27 0x6909
    else if same then
      let m := (m.setF TWN_FAULT.ROLE 1).emit 27 0x6909
      (({ m with tw := { m.tw with handshake := false }, st := { m.st with refused := true } } : Chip).twnState 9).powerPoll
    else m.suspect 7
  else
    let seen := (m.sub 0).helloOk || (m.sub 1).helloOk
    let fl := fieldAt b 0x2A 1
    let m := m.setSub s { m.sub s with helloOk := true }
    let m := { m with tw := { m.tw with
      peerUid := fieldAt b 0x10 8, peerImg := fieldAt b 0x18 4, peerLive := fieldAt b 0x1C 4, peerPoolMiB := fieldAt b 0x20 4
      peerDirtyMiB := fieldAt b 0x24 4, peerState := fieldAt b 0x28 1, peerSubs := fieldAt b 0x29 1, peerFlags := fl } }
    if seen then m
    else
      let m := if m.tw.peerImg ≠ m.f GEN_IMGVER.VERSION then m.emit 27 0x1003 else m
      let m := m.setF TWN_STAT.FWD_EN (b1 (bitOf t.flags 0 && bitOf fl 0))
      let cap := m.tw.peerPoolMiB / 1024
      let m := if cap < m.f PLP_LIMIT.EFFECTIVE_GIB then m.emit 27 0x1003 else m
      let m := ({ m with plp := { m.plp with mirrorCap := some cap } } : Chip).limitView
      if bitOf fl 2 then (m.sanFence none false).sanSteps false else m

/-- The twin passes attestation (R345): its chain verifies to ROOT_DIG, its DeviceID key is the one TWIN_DIGEST names where it names one, and its
measurement 5 shows this device's level and, at level 1 or above, no debug scope. -/
def Chip.twinPasses (m : Chip) (e : TwinEvidence) : Bool :=
  let d := m.img.tables.twin.digest
  Config.chainTrusts Config.rootDigest e.chain &&
  (d.all (· = 0) || decide (Config.sha384 (Config.chainDeviceKey e.chain) = d)) &&
  decide (fieldAt e.index5 0 1 = m.level) && (decide (m.level = 0) || decide (fieldAt e.index5 1 1 = 0))

/-- What the attestation of the twin on a sub-link comes to (R419 steps 3 and 4). An alarmed device whose twin passes and shows NORMAL is
re-authenticated by it (R308). -/
def Chip.verdict (m : Chip) (s : Nat) (e : TwinEvidence) : Chip :=
  if m.twinPasses e then
    let (secret, m) := m.draw 384
    let m := m.setSub s { m.sub s with attested := true, secret := secret }
    let m := if m.f KVT_STAT.STATE = 1 ∧ fieldAt e.index5 2 1 = 0 then m.reauth true else m
    let enabled := (List.range 2).filter fun k => m.linkEnabled k
    if enabled.all fun k => (m.sub k).helloOk && (m.sub k).attested && (m.sub k).up && decide ((m.sub k).keyNum = 0) then
      (enabled.foldl (fun (m : Chip) k => m.takeKeys k 1) m).handshakeDone
    else m
  else
    let m := m.emit 27 0x6509
    if m.f TWN_STAT.STATE = 1 then m.suspect 6 else (m.setF TWN_FAULT.ATTEST 1).emit 27 0x6909

/-- The handshake has not reached its claims within 2 s. -/
def Chip.handshakeTimeout (m : Chip) : Chip :=
  if m.tw.handshake ∧ m.f TWN_STAT.STATE = 1 then m.suspect 5 else m

/-! ## Heartbeats (R430, R431) -/

/-- This controller sends heartbeats and pulses: not while it holds itself failed (R386), is done with power (R455)
or has its trip latch set (R498). -/
def Chip.beats (m : Chip) : Bool :=
  let st := m.f TWN_STAT.STATE
  decide (st = 2 ∨ st = 6 ∨ st = 8 ∨ st = 10) && !m.dr.dead && decide (m.f PLP_STAT.STATE ≠ 3 ∧ m.f THM_STAT.TRIP = 0)

def Chip.sendBeat (m : Chip) : Chip :=
  if !m.beats then m
  else
    let args := leBytes 8 m.isl.dtc ++ leBytes 1 (m.f TWN_STAT.STATE) ++ leBytes 1 (m.f BPM_STAT.DEVBARO) ++ leBytes 1 (m.f GEN_EPOCH.CURRENT)
    (m.sendUnseq 0 0x03 args).sendUnseq 1 0x03 args

/-- A pulse of this controller on TWIN_HB. -/
def Chip.sendPulse (m : Chip) : Chip := if m.beats then (m.send (.pin 86 true)).send (.pin 86 false) else m

/-- A heartbeat counts for its window, and ends the hold of R486 once this controller has woken from Calm. -/
def Chip.beatIn (m : Chip) (dtc state : Nat) : Chip :=
  let m := { m with tw := { m.tw with hbSeen := true, peerState := state, peerDtc := dtc } }
  if m.tw.heldHb ∧ m.tw.holdWoke then m.pairFree else m

/-- A twin pulse is seen. -/
def Chip.pulseIn (m : Chip) : Chip := ({ m with tw := { m.tw with hbAge := 0 } } : Chip).setF TWN_STAT.HB_SEEN 1

/-! ## Rejoin (R440) -/

/-- The die operations on a side's home clusters have ended. -/
def Chip.diesIdle (m : Chip) (mask : Nat) : Bool :=
  m.md.dies.all fun e => !bitOf mask (dieCluster e.1) || (e.2.running.isNone && e.2.suspended.isNone)

/-- On the survivor: its hold of the twin's channels ends with the last operation there, and the claims go (step 4). On the twin: its
claims hold and its CEs are trained, so it asks for the pair barrier (steps 5 and 6). -/
def Chip.rejoinPoll (m : Chip) : Chip :=
  let st := m.f TWN_STAT.STATE
  if st = 6 ∧ m.tw.rejoin = 4 ∧ m.diesIdle (homeMask (1 - m.side)) then
    let m := (maskList (homeMask (1 - m.side))).foldl (fun (m : Chip) k => m.dropClaim k) m
    (({ m with tw := { m.tw with rejoin := 5 } } : Chip).anaView).powerPoll
  else if st = 10 ∧ m.tw.rejoin = 5 ∧ m.tw.waitClaims = 0 ∧ m.f TWN_LINES.CLAIM = homeMask m.side ∧
      (maskList (homeMask m.side)).all (fun k => !m.clusterTrains k && (clusterDies k).all fun d => decide (m.f FCH_DIE.STATE d ≠ 1)) then
    ({ m with tw := { m.tw with rejoin := 6 } } : Chip).barRequest .rejoin false true none
  else m

/-- Every record the twin needs: zones and their spilled rows, dies, blocks, poison, log map and namespace map (step 2). -/
def Chip.sendRecords (m : Chip) : Chip :=
  let m := m.zn.zones.foldl (fun (m : Chip) (e : Nat × Zone) =>
    if e.1 < 262144 then
      m.sendFrame 0x12 (some e.1) none (leBytes 1 4) ((m.zoneWords e.1).flatMap fun w => leBytes 4 w)
    else m) m
  let m := (List.range 3072).foldl (fun (m : Chip) d =>
    if m.declared d then m.setDieState d (m.f FCH_DIE.STATE d) (m.f FCH_DIE.REASON d) else m) m
  let m := m.md.blocks.foldl (fun (m : Chip) (e : Nat × Blk) => m.blkDelta (e.1 / 8192) (e.1 % 8192)) m
  let m := m.zn.poison.foldl (fun (m : Chip) k =>
    let z := k / 2 ^ 21
    let b := k % 2 ^ 21 * 4096
    let (r, t) := stripePlace b
    m.delta 0x07 z (some z) (leBytes 2 r ++ leBytes 1 t ++ leBytes 1 (b / 16384 % 16) ++ leBytes 1 (b / 4096 % 4) ++ leBytes 3 0)) m
  let m := m.zn.logBlks.foldl (fun (m : Chip) (e : Nat × LogBlk) =>
    e.2.units.foldl (fun (m : Chip) u =>
      m.delta 0x04 (u.2 / 2 ^ 20) (some (u.2 / 2 ^ 20)) (leBytes 4 (u.2 % 2 ^ 20) ++ leBytes 8 (2 ^ 20 * e.1 + u.1))) m) m
  let m := m.zn.rows.foldl (fun (m : Chip) (e : Nat × RowSt) =>
    match e.2.spill with
    | some (d, b, n) => m.delta 0x09 (e.1 / 1024) (some (e.1 / 1024)) (leBytes 2 (e.1 % 1024) ++ leBytes 6 0 ++ leBytes 8 (d + b * 2 ^ 12 + 2 ^ 25 * n))
    | none => m) m
  m.zn.ns.foldl (fun (m : Chip) n =>
    (n.zones.zipIdx).foldl (fun (m : Chip) e => m.mapRecord n e.1 e.2) m) m

/-- A staged row goes to the twin as MIRROR and COMMIT frames (step 3). -/
def Chip.mirrorRow (m : Chip) (z r : Nat) : Chip :=
  let x := m.zone z
  let body := if x.type = 1 then x.granules.flatMap fun e => leBytes 4 e.1 ++ leBytes 4 (2 ^ 31 + e.2) else []
  (m.mirrorFrames z r (min (m.filledBytes z - 4194304 * r) 4194304)).sendFrame 0x06 (some z) none
    (leBytes 4 x.cwp ++ leBytes 4 x.rwp ++ leBytes 4 x.pfp ++ leBytes 2 0xFFFF ++ leBytes 2 (2 * b1 (decide (x.state = zsf)))) body

/-- The keys of every sub-link both sides enable hold. -/
def Chip.linkKeyed (m : Chip) : Bool :=
  let enabled := (List.range 2).filter fun k => m.linkEnabled k
  enabled ≠ [] && enabled.all fun k => (m.sub k).helloOk && (m.sub k).attested && decide ((m.sub k).keyNum ≠ 0)

/-- TWN_CTL.REJOIN on the survivor: steps 1 to 4. -/
def Chip.rejoinGo (m : Chip) : Chip :=
  if m.f TWN_STAT.STATE ≠ 6 ∨ 0 < m.tw.rejoin then m
  else if !m.linkKeyed then m.emit 27 0x6909
  else
    let m := ({ m with tw := { m.tw with handover := true, rejoin := 4, hbSeen := false } } : Chip).setF TWN_CTL.REJOIN 1
    let m := m.setF TWN_HBCNT.RUN 0
    let m := m.sendRecords
    let m := m.stagedRows.foldl (fun (m : Chip) e => m.mirrorRow e.1 e.2.1) m
    let m := m.fenceLine false
    let m := (maskList (homeMask (1 - m.side))).foldl (fun (m : Chip) k =>
      (List.range 8).foldl (fun (m : Chip) c => m.chanHold (8 * k + c) true) m) m
    m.rejoinPoll

/-- The zones of the other side leave this controller: their staged rows become mirror rows, with no data copied (step 6). -/
def Chip.yieldZones (m : Chip) : Chip :=
  let rows := m.stagedRows.filter fun e => decide (m.stripeSide e.1 ≠ m.side)
  let m := rows.foldl (fun (m : Chip) e =>
    let z := e.1
    let r := e.2.1
    let n := min (m.filledBytes z - 4194304 * r) 4194304
    let bytes := (m.rowData z r).take n
    let m := (m.moveWork (rowWork z r) (mirWork (rowKey z r))).setRow z r RowSt.blank
    { m with tw := { m.tw with
      mirror := tput m.tw.mirror (rowKey z r) { MirRow.blank with have_ := [(0, n)], committed := n }
      mirData := memSetBytes m.tw.mirData (2 ^ 33 * z + 4194304 * r) bytes } }) m
  m.showMirror

/-- The survivor hands over (steps 6 and 7): CTRL OP 3, the twin's zones leave, ACTIVE. -/
def Chip.handover (m : Chip) : Chip :=
  let zs := (m.zn.zones.map (·.1)).filter fun z => decide (z < 2 ^ 20 ∧ m.stripeSide z ≠ m.side)
  let m := zs.foldl (fun (m : Chip) z => m.stopMoves z) m
  let m := if m.zn.merge.any fun g => decide (g.zone ∈ zs) then m.stopMerge else m
  let m := if m.zn.compact.any fun c => decide (logZone c.victim ∈ zs) then m.stopCompact else m
  let m := (m.sendFrame 0x12 none none (leBytes 1 3) []).yieldZones
  let m := { m with tw := { m.tw with handover := false, rejoin := 0 } }
  let m := (maskList (homeMask (1 - m.side))).foldl (fun (m : Chip) k =>
    (List.range 8).foldl (fun (m : Chip) c => m.chanHold (8 * k + c) false) m) m
  let m := ((m.setF TWN_CTL.REJOIN 0).twnState 2).emit 27 0x690B
  m.limitView.powerPoll

/-- CTRL OP 3 at the twin: it takes its own zones from its mirror copy. Of a rejoin, it is ACTIVE (step 7). -/
def Chip.handoverIn (m : Chip) : Chip :=
  let m := if m.f TWN_STAT.STATE = 10 then
      ((({ m with tw := { m.tw with rejoin := 0 } } : Chip).twnState 2).emit 27 0x690B)
    else m
  let mine := m.tw.mirror.filter fun e => decide (m.stripeSide (e.1 / 1024) = m.side)
  let rest := m.tw.mirror.filter fun e => decide (m.stripeSide (e.1 / 1024) ≠ m.side)
  let m := ({ m with tw := { m.tw with mirror := mine } } : Chip).adoptRows
  (({ m with tw := { m.tw with mirror := rest } } : Chip).showMirror).limitView

/-- A window of 50 µs closes (R430, R432): missed without a heartbeat; the fourth in a row is suspicion, unless R486 holds it. -/
def Chip.windowClose (m : Chip) : Chip :=
  let st := m.f TWN_STAT.STATE
  let age := m.tw.hbAge + 1
  let m := { m with tw := { m.tw with hbAge := min age 8 } }
  let m := (if 8 ≤ age then m.setF TWN_STAT.HB_SEEN 0 else m).rejoinPoll
  if !decide (st = 2 ∨ st = 10 ∨ (st = 6 ∧ 0 < m.tw.rejoin)) then m
  else if m.tw.hbSeen then ({ m with tw := { m.tw with hbSeen := false } } : Chip).setF TWN_HBCNT.RUN 0
  else
    let run := min (m.f TWN_HBCNT.RUN + 1) 4
    let m := (m.incF TWN_HBCNT.MISSED).setF TWN_HBCNT.RUN run
    if run = 4 ∧ !m.tw.heldHb ∧ st ≠ 10 then m.suspect (if m.f TWN_STAT.HB_SEEN = 1 then 4 else 3) else m

/-- A FENCE that verifies (R434, R441). -/
def Chip.fenceIn (m : Chip) : Chip :=
  if m.f TWN_LINES.FENCE_OUT = 1 ∧ m.side = 0 then m else m.fenced

/-- TWIN_FENCE_n is found asserted. Before step 9 of a start, and on a controller that waits in REJOIN, it is only seen (R440, R471). -/
def Chip.fenceSeen (m : Chip) : Chip :=
  let st := m.f TWN_STAT.STATE
  let m := m.setF TWN_LINES.FENCE_IN 1
  if m.f TWN_LINES.FENCE_OUT = 1 ∨ m.st.step < 8 ∨ (st = 1 ∧ m.tw.handshake) ∨ (st = 10 ∧ m.tw.rejoin = 0) then m else m.fenced

/-- TWIN_FENCE_n is released by the survivor: the waiting twin claims its home clusters (R440 step 5). -/
def Chip.fenceReleased (m : Chip) : Chip :=
  if m.f TWN_LINES.FENCE_OUT = 1 then m
  else
    let m := m.setF TWN_LINES.FENCE_IN 0
    if m.f TWN_STAT.STATE = 10 ∧ m.tw.rejoin = 0 then
      ({ m with tw := { m.tw with rejoin := 5 } } : Chip).claimMask (homeMask m.side)
    else m

/-- CMD holds a barrier's acknowledgements; on a survivor, the barrier of its rejoining twin hands over (R440 step 6). -/
def Chip.barDone (m : Chip) : Chip :=
  let twins := m.isl.flight.any fun b => decide (b.src = .twin) && !b.twin
  let m' := m.barComplete
  if twins ∧ m.f TWN_STAT.STATE = 6 ∧ m.tw.rejoin = 5 then m'.handover else m'

end Sys2Proof.Machine
end

