-- ==== Sys2Proof/Machine/Link.lean ====
section
/-! DEFINITION. Frames as they come in (R405 to R418): what each reliable frame does, delivery in order, flits and the frames in them. -/

namespace Sys2Proof.Machine

/-! ## What a reliable frame does (R411), and whether its effect is held (R414) -/

/-- An SPDM fragment; `found`: what SPDM has found of the twin where the message ends its attestation (R345, R419). -/
def Chip.spdmFrameIn (m : Chip) (s msg index : Nat) (last : Bool) (msgLen fragLen : Nat) (body : List Byte) (found : Option TwinEvidence) : Chip :=
  let whole := last && (m.sub s).spdmFits msg index last msgLen fragLen body
  let m := m.spdmIn s msg index last msgLen fragLen body
  match found with
  | some e => if whole then m.verdict s e else m
  | none => m

/-- The die operation a FWDREQ asks for. -/
def Chip.fwdOpIn (m : Chip) (r : RxFrame) (op : Nat) (q : FwdOp) : Chip :=
  m.fwdReq r op q.flags.val q.die.val q.block.val q.row.val q.page.val q.cw.val q.tenant.val q.req.toNat

/-- The effect of a reliable frame; false where it cannot be held yet. -/
def Chip.frameEffect (m : Chip) (i : Instr) : Chip × Bool :=
  match i with
  | .hello r body => (m.helloIn r.sub.val body, true)
  | .spdmFrame r msg index last msgLen fragLen body found =>
    (m.spdmFrameIn r.sub.val msg.val index.val last msgLen.toNat fragLen.val body found, true)
  | .mirror r row offset body => m.mirIn ((frameZone r).getD 0) row.val offset.toNat (m.arriveBy r.slack) body
  | .commit r cwp rwp pfp flags body =>
    m.commitIn ((frameZone r).getD 0) cwp.toNat rwp.toNat pfp.toNat flags.val (m.arriveBy r.slack) body
  | .release r row reason pwp from_ => (m.releaseIn ((frameZone r).getD 0) row.val reason.val pwp.toNat from_.toNat, true)
  | .delta _ body => (m.deltaRecords body.length body, true)
  | .parity r row member _ offset body => m.parityIn ((frameZone r).getD 0) row.val member.val offset.toNat (m.arriveBy r.slack) body
  | .fwdreqRead r q => (m.fwdOpIn r 1 q, true)
  | .fwdreqProgram r q => (m.fwdOpIn r 2 q, true)
  | .fwdreqErase r q => (m.fwdOpIn r 3 q, true)
  | .fwddata _ req offset body => (m.fwdData req.toNat offset.toNat body, true)
  | .fwddone _ req status bits_ busyUs => (m.fwdAnswer req.toNat (min status.val 5) bits_.val busyUs.toNat, true)
  | .fwdcmd r fn queue slot tenant cls flags level entry =>
    ((m.fwdCmdIn r fn.val queue.toNat slot.val tenant.val cls.val flags.val level.val entry).map fun m => (m, true)).getD (m, false)
  | .fwdcpl _ slot status dw0 => (m.fwdCpl slot.val status.val dw0.toNat, true)
  | .marker _ marker snap ack => (m.markerIn marker.val snap ack, true)
  | .ctrlSanitizeRelay _ blocks => ((m.sanFence none blocks).sanSteps blocks, true)
  | .ctrlResendRow r row => (m.resendRow ((frameZone r).getD 0) row.val, true)
  | .ctrlHandover _ => (m.handoverIn, true)
  | .ctrlStateTransfer r body => (m.stateIn ((frameZone r).getD 0) body, true)
  | .reservedFrame _ => (m.emit 27 0x690C, true)
  | _ => (m, true)

/-! ## Delivery (R409, R413 to R415) -/

/-- PTB_DROP discards a frame received on a sub-link (R529): a reliable one, or with UNSEQ an unsequenced one; what it discards
belongs to no tenant. -/
def Chip.dropped (m : Chip) (s : Nat) (unseq : Bool) : Bool × Chip :=
  if m.ptbOn PTB_DROP.EN && m.ptbScoped none && decide (m.f PTB_DROP.SUBLINK = s) && (!unseq || decide (m.f PTB_DROP.UNSEQ = 1)) then
    if m.f PTB_DROP.ALL = 1 then (true, m.incF PTB_CNT.COUNT)
    else
      let (hit, m) := m.ptbDraw 6 (m.f PTB_DROP.RATE)
      (hit, if hit then m.incF PTB_CNT.COUNT else m)
  else (false, m)

/-- The key of a received frame (R409, R421): it verifies under the current key, or under the next one, which then becomes current
and restarts the counters. False: it fails, which after keys is a tag failure (R296). Before keys a clear frame carries a CRC. -/
def Chip.rxKeyed (m : Chip) (r : RxFrame) (clear : Bool) : Chip × Bool :=
  let s := r.sub.val
  let x := m.sub s
  if x.rxKey = 0 then (m, clear && decide (r.keyNum = 0) && r.tagOk)
  else if r.keyNum ≠ 0 ∧ r.keyNum = x.rxKey % 65536 ∧ r.tagOk then (m, true)
  else if r.keyNum ≠ 0 ∧ r.keyNum = (x.rxKey + 1) % 65536 ∧ r.tagOk then
    (((m.sessionKey (8196 + 4 * s) s (1 - m.side) (x.rxKey + 1)).setKslot (8197 + 4 * s) KeySlot.blank).setSub s
      { x with rxKey := x.rxKey + 1, expect := 1, waits := [] }, true)
  else (m.tagFail 0 (8196 + 4 * s), false)

/-- The original of a re-sealed frame was accepted already (R418). -/
def Chip.acceptedOnce (m : Chip) (xseq : Nat) : Bool :=
  let o := m.sub (xseq / 2 ^ 63)
  let n := xseq % 2 ^ 48
  decide (xseq ≠ 0) && (decide (n < o.downAt) || decide (n ∈ o.xAccepted))

/-- The chip as a frame in order is accepted: its sub-link expects the next one (R414). -/
def Chip.expectNext (m : Chip) (s : Nat) : Chip := m.setSub s { m.sub s with expect := (m.sub s).expect + 1 }

/-- An accepted frame: a second copy of a re-sealed one is acknowledged alone; one with others that wait before it waits behind them; another has
its effect, and is acknowledged where that is held and waits where it is not (log entry 51). -/
def Chip.frameTake (m : Chip) (i : Instr) (r : RxFrame) : Chip :=
  let s := r.sub.val
  let before := (m.sub s).waits
  if m.acceptedOnce r.xseq then if before = [] then m.sendAck s false else m
  else
    let m := if r.xseq = 0 then m
      else
        let o := r.xseq / 2 ^ 63
        m.setSub o { m.sub o with xAccepted := (m.sub o).xAccepted ++ [r.xseq % 2 ^ 48] }
    if before ≠ [] then m.setSub s { m.sub s with waits := before ++ [i] }
    else
      let e := m.frameEffect i
      if e.2 then e.1.sendAck s false else e.1.setSub s { e.1.sub s with waits := [i] }

/-- A reliable frame (R414): accepted in order when its tag verifies; out of order, lost or unverified it is discarded with a NAK; a duplicate is
acknowledged again. The ACK of an accepted frame follows once its effect is held: a frame whose effect cannot be held yet waits, and every later one
behind it (log entry 51). -/
def Chip.rxReliable (m : Chip) (i : Instr) (r : RxFrame) (clear : Bool) : Chip :=
  let s := r.sub.val
  if !(m.sub s).up then m
  else
    let (lost, m) := m.dropped s false
    if lost then m.sendAck s true
    else
      let (m, ok) := m.rxKeyed r clear
      let x := m.sub s
      if !ok || decide (x.expect < r.seq) then m.sendAck s true
      else if r.seq < x.expect then m.sendAck s false
      else (m.expectNext s).frameTake i r

/-- An unsequenced frame that verifies. -/
def Chip.rxUnseq (m : Chip) (r : RxFrame) (g : Chip → Chip) : Chip :=
  let s := r.sub.val
  if !(m.sub s).up then m
  else
    let (lost, m) := m.dropped s true
    if lost then m
    else
      let (m, ok) := m.rxKeyed r false
      if ok then g m else m

/-- The frames that wait on a sub-link take effect in order while the first can be held, at most `n`; whether one did. -/
def Chip.waitsGo (m : Chip) (s : Nat) : Nat → Chip × Bool
  | 0 => (m, false)
  | n + 1 =>
    match (m.sub s).waits with
    | [] => (m, false)
    | i :: t =>
      let (m, held) := m.frameEffect i
      if held then (((m.setSub s { m.sub s with waits := t }).waitsGo s n).1, true) else (m, false)

/-- Frames that waited on a sub-link and take effect now are acknowledged. -/
def Chip.linkPoll (m : Chip) : Chip :=
  let on (m : Chip) (s : Nat) : Chip :=
    let (m, went) := m.waitsGo s (m.sub s).waits.length
    if went then m.sendAck s false else m
  if (m.sub 0).waits = [] ∧ (m.sub 1).waits = [] then m
  else on (on (((m.img.tables.poolOf 36).map fun p => m.grantPool p.pool).getD m) 0) 1

/-- The pool request of the first frame that waits on a sub-link was withdrawn (R360, R414): the frame is discarded as lost, with those behind it. -/
def Chip.waitsLost (m : Chip) (s k : Nat) : Chip :=
  let x := m.sub s
  let row := match x.waits.head? with
    | some (.mirror r row _ _) => (frameZone r).map fun z => rowKey z row.val
    | some (.parity r row _ _ _ _) => (frameZone r).map fun z => rowKey z row.val
    | some (.commit r _ _ _ _ _) => (frameZone r).map fun z => rowKey z (k % 1024)
    | _ => none
  if row = some k then (m.setSub s { x with expect := x.acked + 1, waits := [] }).sendAck s true else m

/-! ## Flits (R406 to R408) -/

/-- A frame as received, opened (R409): whether its tag or CRC verifies, its HEADER and its BODY. -/
def Chip.openFrame (m : Chip) (s : Nat) (bs : List Byte) : Bool × List Byte × List Byte :=
  let x := m.sub s
  let type := fieldAt bs 1 1
  let n := bs.length - 64
  let tag := slice bs (48 + n) 16
  let body := slice bs 48 n
  if x.rxKey = 0 then (decide (tag = leBytes 8 (crc64 (bs.take (48 + n))) ++ leBytes 8 0), slice bs 16 32, body)
  else
    let num := if fieldAt bs 12 2 = (x.rxKey + 1) % 65536 then x.rxKey + 1 else x.rxKey
    let key := if num = x.rxKey then (m.kslot (8196 + 4 * s)).key else linkKey x.secret s (1 - m.side) num
    let iv := frameIv s (1 - m.side) num (fieldAt bs 4 8)
    let c := slice bs 16 32 ++ (if encBody type then body else [])
    let plain := xorBytes c (fit c.length (Config.gcmSeal key iv [] (List.replicate c.length 0)))
    (decide (fit (c.length + 16) (Config.gcmSeal key iv (bs.take 16 ++ (if aadBody type then body else [])) plain) = c ++ tag),
      plain.take 32, if encBody type then plain.drop 32 else body)

/-- A number as an operand below `n`. -/
def small (n x : Nat) : Option (Fin n) := if h : x < n then some ⟨x, h⟩ else none

/-- The frame in an opened frame's type, ARGS and BODY (R411). An operand that no sender's frame holds makes it one of a reserved kind (log entry 185). -/
def frameOf (r : RxFrame) (type : Nat) (a body : List Byte) (found : Option TwinEvidence) : Instr :=
  let n (o k : Nat) : Nat := fieldAt a o k
  let w (o : Nat) : BitVec 32 := BitVec.ofNat 32 (n o 4)
  let q : Option FwdOp := do
    let flags ← small 256 (n 1 1)
    let die ← small 65536 (n 2 2)
    let block ← small 65536 (n 4 2)
    let row ← small 65536 (n 6 2)
    let page ← small 256 (n 8 1)
    let cw ← small 256 (n 9 1)
    let tenant ← small 65536 (n 10 2)
    pure { flags := flags, die := die, block := block, row := row, page := page, cw := cw, tenant := tenant, req := w 12 }
  let i : Option Instr :=
    match type with
    | 0x01 => some (.hello r body)
    | 0x02 => do
      let msg ← small 65536 (n 0 2)
      let index ← small 65536 (n 2 2)
      let len ← small 65536 (n 10 2)
      pure (.spdmFrame r msg index (n 4 1 = 1) (w 6) len body found)
    | 0x03 => do
      let st ← small 256 (n 8 1)
      let baro ← small 256 (n 9 1)
      let epoch ← small 256 (n 10 1)
      pure (.heartbeat r (BitVec.ofNat 64 (n 0 8)) st baro epoch)
    | 0x04 => some (.ack r (BitVec.ofNat 64 (n 0 8)) (BitVec.ofNat 64 (n 8 6)) (n 14 1 = 1))
    | 0x05 => (small 1024 (n 0 2)).map fun row => .mirror r row (w 2) body
    | 0x06 => (small 65536 (n 14 2)).map fun flags => .commit r (w 0) (w 4) (w 8) flags body
    | 0x07 => do
      let row ← small 1024 (n 0 2)
      let reason ← small 256 (n 2 1)
      pure (.release r row reason (w 3) (w 7))
    | 0x08 => some (.delta r body)
    | 0x09 => do
      let row ← small 1024 (n 0 2)
      let member ← small 18 (n 2 1)
      pure (.parity r row member (n 3 1 = 1) (w 4) body)
    | 0x0A => q.map fun q => if n 0 1 = 1 then .fwdreqRead r q else if n 0 1 = 2 then .fwdreqProgram r q else if n 0 1 = 3 then .fwdreqErase r q
        else .fwdreqRead r { q with flags := 255 }
    | 0x0B => some (.fwddata r (w 0) (w 4) body)
    | 0x0C => do
      let st ← small 256 (n 4 1)
      let bits_ ← small 65536 (n 6 2)
      pure (.fwddone r (w 0) st bits_ (w 8))
    | 0x0D => do
      let fn ← small _ (n 0 2)
      let slot ← small _ (n 6 2)
      let tenant ← small _ (n 8 2)
      let cls ← small _ (n 10 1)
      let flags ← small 256 (n 11 1)
      let level ← small 256 (n 14 1)
      pure (.fwdcmd r fn (w 2) slot tenant cls flags level body)
    | 0x0E => do
      let slot ← small _ (n 0 2)
      let status ← small 65536 (n 2 2)
      pure (.fwdcpl r slot status (w 4))
    | 0x0F => (small 65536 (n 0 2)).map fun k => .marker r k (n 2 1 = 1) (n 3 1 = 1)
    | 0x10 => (small 256 (n 0 1)).map fun why => .fence r why
    | 0x11 => some (.fenceack r)
    | 0x12 =>
      if n 0 1 = 1 then some (.ctrlSanitizeRelay r (fieldAt body 0 1 = 1))
      else if n 0 1 = 2 then (small 1024 (fieldAt body 0 2)).map fun row => .ctrlResendRow r row
      else if n 0 1 = 3 then some (.ctrlHandover r)
      else if n 0 1 = 4 then some (.ctrlStateTransfer r body)
      else none
    | _ => none
  i.getD (.reservedFrame r)

/-- A whole frame has come in over a sub-link's flits. -/
def Chip.frameIn (m : Chip) (s : SubLink) (found : Option TwinEvidence) (bs : List Byte) : Chip :=
  let (ok, header, body) := m.openFrame s.val bs
  let z := fieldAt header 12 4
  let r : RxFrame := {
    sub := s, seq := fieldAt bs 4 8, xseq := fieldAt header 0 8, keyNum := fieldAt bs 12 2, tagOk := ok, slack := fieldAt header 8 4
    zone := if bitOf z 31 then none else small _ (bits z 17 0) }
  match frameOf r (fieldAt bs 1 1) (slice header 16 16) body found with
  | .heartbeat r dtc state _ _ => m.rxUnseq r fun m => m.beatIn dtc.toNat state.val
  | .ack r a c nak => m.rxUnseq r fun m => m.ackIn r.sub.val a.toNat c.toNat nak
  | .fence r _ => m.rxUnseq r Chip.fenceIn
  | .fenceack r => m.rxUnseq r Chip.fenceDone
  | i => m.rxReliable i r (decide (fieldAt bs 1 1 = 1 ∨ fieldAt bs 1 1 = 2))

/-- The frame in progress is discarded as lost: a NAK, and the bytes up to the next frame's start are passed over (R407, R417). -/
def Chip.loseFrame (m : Chip) (s : Nat) : Chip :=
  (m.setSub s { m.sub s with rxPart := [], rxSync := false }).sendAck s true

/-- Frame bytes come in (R406 to R408), at most `n` frames: zeros between frames are passed over; each frame that is whole is taken; a frame whose SOF
or LEN is not as R408 says is discarded as lost. -/
def Chip.frameBytesIn (m : Chip) (s : SubLink) (found : Option TwinEvidence) : Nat → List Byte → Chip
  | 0, _ => m
  | n + 1, bs =>
    let x := m.sub s.val
    let bs := if x.rxPart = [] then bs.dropWhile (· = 0) else x.rxPart ++ bs
    let len := fieldAt bs 2 2
    if bs = [] then m
    else if fieldAt bs 0 1 ≠ 0xA7 ∨ (4 ≤ bs.length ∧ (4096 < len ∨ len % 8 ≠ 0)) then m.loseFrame s.val
    else if bs.length < 4 ∨ bs.length < 64 + len then m.setSub s.val { x with rxPart := bs }
    else
      let m := (m.setSub s.val { x with rxPart := [] }).frameIn s found (bs.take (64 + len))
      if (m.sub s.val).up then m.frameBytesIn s found n (bs.drop (64 + len)) else m

/-- A flit comes in (R406, R407), corrected by its FEC. One whose CRC still fails is discarded with the frame in progress; 16 in a row take the sub-link
down. In a good one the frame in progress goes on up to FIRST, where the next frame starts, also after a discard. -/
def Chip.flit (m : Chip) (s : SubLink) (received : List Byte) (found : Option TwinEvidence) : Chip :=
  let x := m.sub s.val
  let b := fit 256 (Config.flitCorrect received)
  if !x.up then m
  else if fieldAt b 242 8 ≠ crc64 (b.take 242) then
    let m := (m.setSub s.val { x with badFlits := x.badFlits + 1, rxPart := [], rxSync := false }).incF TWN_SLERR.CRC s.val
    if 16 ≤ x.badFlits + 1 then m.subDown s.val else if x.rxPart ≠ [] then m.sendAck s.val true else m
  else
    let first := fieldAt b 0 2
    let m := m.setSub s.val { x with badFlits := 0 }
    let before := if first ≤ 239 then slice b 2 first else slice b 2 240
    let m := if x.rxSync && decide (x.rxPart ≠ []) then m.frameBytesIn s found 1 before else m
    if 239 < first then m
    else
      let m := if (m.sub s.val).rxPart ≠ [] then m.loseFrame s.val else m
      let y := m.sub s.val
      if y.up then (m.setSub s.val { y with rxPart := [], rxSync := true }).frameBytesIn s found 8 (slice b (2 + first) (240 - first)) else m

end Sys2Proof.Machine
end

