-- ==== Sys2Proof/Machine/Ageing.lean ====
section
/-! DEFINITION. Ageing (R502 to R509): canary guards, measurements, the margin ledger, re-planning of island points, and remaining
life. Its events are raised at AON (0). -/

namespace Sys2Proof.Machine

def AgeIsl.blank : AgeIsl :=
  { m0 := none, canary := [], ro0 := 0, ro1 := 0, point := none, eqh := 0, recent := [], tjSum := 0, tjN := 0, hourSum := 0, hourN := 0 }

def Chip.ageIsl (m : Chip) (i : Nat) : AgeIsl := tget AgeIsl.blank m.ag.isls i
def Chip.setAge (m : Chip) (i : Nat) (x : AgeIsl) : Chip :=
  { m with ag := { m.ag with isls := tset AgeIsl.blank m.ag.isls i x } }

/-- The ISLAND record of an island in the running image. -/
def Chip.islandRec (m : Chip) (i : Nat) : Option IslandRec := m.img.tables.islands.find? fun r => decide (r.island = i)

/-! ## The point of an island (R507) -/

/-- A clock in 1/16 MHz one step of 1/16 of the island's nominal clock lower, not below FMIN_MHZ. -/
def slower (r : IslandRec) (f : Nat) : Nat := max (16 * r.fmin) (f - nominalMhz r.island)
/-- A clock one step higher, not above the image's. -/
def faster (r : IslandRec) (f : Nat) : Nat := min (16 * r.freq) (f + nominalMhz r.island)
/-- The steps a clock lies below the image's, a part of one counted whole. -/
def stepsBelow (r : IslandRec) (f : Nat) : Nat := ceilDiv (16 * r.freq - f) (nominalMhz r.island)
/-- A clock in 1/16 MHz as FREQ_MHZ shows it. -/
def shownMhz (f : Nat) : Nat := if f % 16 = 0 then f / 16 else Config.wholeMhz f

/-- ISL_CLKCFG shows the point applied: VPT never below V0, FREQ_MHZ never above the image's. -/
def Chip.showPoint (m : Chip) (i : Nat) : Chip :=
  match m.islandRec i with
  | none => m
  | some r =>
    let p := (m.ageIsl i).point.getD (r.vpt, 16 * r.freq)
    (m.setF ISL_CLKCFG.VPT (max r.vpt p.1) i).setF ISL_CLKCFG.FREQ_MHZ (shownMhz (min (16 * r.freq) p.2)) i

/-- The points of the device records are applied (R507). -/
def Chip.agePoints (m : Chip) : Chip := (List.range 28).foldl (fun (m : Chip) i => m.showPoint i) m

/-- A change of an island's point: kept in the device records and shown. -/
def Chip.setPoint (m : Chip) (i vpt f : Nat) : Chip :=
  ((m.setAge i { m.ageIsl i with point := some (vpt, f) }).showPoint i).array .record

/-- The point an island runs at: its VPT and its clock in 1/16 MHz, V0 or more and not above the image's. -/
def Chip.pointOf (m : Chip) (i : Nat) : Nat × Nat :=
  match m.islandRec i with
  | some r =>
    let p := (m.ageIsl i).point.getD (r.vpt, 16 * r.freq)
    (max r.vpt p.1, min (16 * r.freq) p.2)
  | none => (0, 0)

/-- The island margin: the smallest of its canaries. -/
def AgeIsl.margin (x : AgeIsl) : Nat := x.canary.foldl min 63

/-- One measurement's re-planning: the first row of the table that matches. Rises of frequency wait while throttling (R509). -/
def Chip.rePlan (m : Chip) (i : Nat) : Chip :=
  match m.islandRec i with
  | none => m
  | some r =>
    let margin := (m.ageIsl i).margin
    let (v, f) := m.pointOf i
    let go (m : Chip) (v f : Nat) : Chip :=
      let m := (m.setPoint i v f).emit 0 0x6E02
      { m with ag := { m.ag with again := if i ∈ m.ag.again then m.ag.again else m.ag.again ++ [i] } }
    if margin < m.f AGE_CFG.LOW then
      if v < min 15 (r.vpt + 4) then go m (v + 1) f
      else if 16 * r.fmin < f then go m v (slower r f)
      else (m.setBit AGE_EXHAUST.ISL i true).emit 0 0x6E04
    else if m.f AGE_CFG.HIGH < margin then
      if f < 16 * r.freq then
        if 0 < m.f THM_STAT.LEVEL then { m with ag := { m.ag with again := if i ∈ m.ag.again then m.ag.again else m.ag.again ++ [i] } }
        else go m v (faster r f)
      else if r.vpt < v then go m (v - 1) f
      else m
    else m

/-! ## Remaining life (R508) -/

/-- Years left of an island in 0.1 years: `none` without a measurement, a free value before its first hour. -/
def Chip.yearsOf (m : Chip) (i : Nat) : Option Nat × Chip :=
  let x := m.ageIsl i
  match x.m0 with
  | none => (none, m)
  | some m0 =>
    let mm := x.margin
    if m0 ≤ mm then (some 4095, m)
    else if x.recent.sum = 0 then
      let (v, m) := m.draw 12
      (some v, m)
    else
      let d : Int := m0 - mm
      let e : Int := (m0 : Int) - m.f AGE_CFG.ENDGUARD
      let num : Int := 10 * x.eqh * x.recent.length * (e * e - d * d)
      (some (min (num / (d * d * 8766 * x.recent.sum)).toNat 4095), m)

/-- AGE_LIFE after a pass: the smallest result and its island. -/
def Chip.ageLife (m : Chip) : Chip :=
  let (best, m) := (List.range 28).foldl (fun (a : Option (Nat × Nat) × Chip) i =>
    let (y, m) := a.2.yearsOf i
    match y, a.1 with
    | some y, some (b, j) => (if y < b then some (y, i) else some (b, j), m)
    | some y, none => (some (y, i), m)
    | none, b => (b, m)) (none, m)
  match best with
  | none => m
  | some (y, i) => (m.setF AGE_LIFE.YEARS y).setF AGE_LIFE.ISLAND i

/-- Cold starts left. -/
def Chip.ageCycles (m : Chip) : Chip := m.setF AGE_LIFE.CYCLES_LEFT (20000 - m.ag.cycles)

/-! ## Measurement passes (R504, R509) -/

/-- Measurements may run: not with the trip latch set, in a takeover, or outside IDLE of PLP. -/
def Chip.ageMay (m : Chip) : Bool :=
  decide (m.f THM_STAT.TRIP = 0 ∧ m.f TWN_STAT.STATE ≠ 5 ∧ m.f PLP_STAT.STATE = 0)

/-- The next island in turn: one that is not ON waits in PENDING. A pass with none left ends. -/
def Chip.ageNext (m : Chip) : Nat → Chip
  | 0 => m
  | n + 1 =>
    if m.ag.cur.isSome ∨ !m.ageMay then m
    else match m.ag.todo with
      | [] =>
        if m.f AGE_STAT.BUSY = 0 then m
        else
          let m := (((m.setF AGE_STAT.BUSY 0).setF AGE_CTL.MEASURE 0).ageLife).emit 0 0x6E01
          if m.f AGE_LIFE.YEARS < 10 * m.f AGE_CFG.WARN_YEARS then m.emit 0 0x6E05 else m
      | i :: rest =>
        let m := { m with ag := { m.ag with todo := rest } }
        if m.islState i = 2 then { m with ag := { m.ag with cur := some i } }
        else (m.setBit AGE_STAT.PENDING i true).ageNext n

/-- A pass over every island with monitors. -/
def Chip.agePass (m : Chip) : Chip :=
  if m.f AGE_STAT.BUSY = 1 then m
  else
    let m := { m with ag := { m.ag with due := false, todo := m.ag.todo ++ ((List.range 28).filter fun i => decide (1 ≤ i ∧ i ∉ m.ag.todo)) } }
    (m.setF AGE_STAT.BUSY 1).ageNext 64

/-- One island alone, after those that wait. -/
def Chip.ageOne (m : Chip) (i : Nat) : Chip :=
  if i ∈ m.ag.todo ∨ m.ag.cur = some i then m
  else ({ m with ag := { m.ag with todo := m.ag.todo ++ [i] } } : Chip).ageNext 64

/-- An island measured at once: before those that wait. -/
def Chip.ageNow (m : Chip) (i : Nat) : Chip :=
  if m.ag.cur = some i then m
  else ({ m with ag := { m.ag with todo := i :: m.ag.todo.filter fun k => decide (k ≠ i) } } : Chip).ageNext 64

/-- What waits is looked at again: a pass that is due, and pending islands that are ON. -/
def Chip.agePoll (m : Chip) : Chip :=
  if !m.ageMay then m
  else
    let m := if m.ag.due then m.agePass else m
    let on := (setBits 28 (m.f AGE_STAT.PENDING)).filter fun i => decide (m.islState i = 2)
    (on.foldl (fun (m : Chip) i => (m.setBit AGE_STAT.PENDING i false).ageOne i) m).ageNext 64

/-! ## The margin ledger (R505) -/

/-- A mean of readings in 0.5 °C; which way a part of one is rounded is open. -/
def meanOf (sum : Int) (n : Nat) : Int := if sum % n ≠ 0 ∧ Config.meanUp sum n then sum / n + 1 else sum / n

/-- A record of an island's latest measurement. -/
def Chip.ageRecord (m : Chip) (i : Nat) (tj : Nat) : List Byte :=
  let x := m.ageIsl i
  let b := leBytes 1 i ++ leBytes 1 (m.f ISL_CLKCFG.VPT i) ++ leBytes 2 (m.f ISL_CLKCFG.FREQ_MHZ i) ++ leBytes 4 m.ag.poh ++
    leBytes 4 (x.eqh / 2 ^ 32) ++ leBytes 2 tj ++ leBytes 2 (min m.ag.cycles 65535) ++ x.canary.flatMap (leBytes 1) ++
    leBytes 4 (x.ro0 + 65536 * x.ro1) ++ leBytes 4 m.now ++ leBytes 30 0
  b ++ leBytes 2 (crc16 b)

/-- A record enters the baseline, sector 768, or the ring of the next 15 sectors of 1,023 records, where a sector is erased when it comes to be reused. -/
def Chip.ageWrite (m : Chip) (first : Bool) (r : List Byte) : Chip :=
  if first then ({ m with ag := { m.ag with base := m.ag.base ++ [r] } } : Chip).array (.program 768 0 r)
  else
    let k := m.ag.ringAt
    let i := 1 + k / 1023
    let m := if k % 1023 = 0 then
        ({ m with ag := { m.ag with ring := m.ag.ring.filter fun e => decide (e.1 / 1023 ≠ k / 1023) } } : Chip).array (.erase 768 i)
      else m
    ({ m with ag := { m.ag with ring := tput m.ag.ring k r, ringAt := (k + 1) % 15345 } } : Chip).array (.program 768 i r)

/-- An island's measurement ends with its canaries' margins and its oscillators' counts; `written`: its record could be written. -/
def Chip.ageDone (m : Chip) (i : Nat) (canary : List Nat) (ro0 ro1 : Nat) (written : Bool) : Chip :=
  if m.ag.cur ≠ some i then m
  else
    let m := { m with ag := { m.ag with cur := none } }
    let x := m.ageIsl i
    let (tj, m) := if x.tjN = 0 then m.draw 16 else (ofSigned 16 (meanOf x.tjSum x.tjN), m)
    let x := { x with canary := canary, ro0 := ro0, ro1 := ro1, tjSum := 0, tjN := 0 }
    let first := x.m0.isNone
    let m := m.setAge i { x with m0 := some (x.m0.getD x.margin) }
    let r := m.ageRecord i tj
    let m := if written then m.ageWrite first r else m.emit 0 0x6E06
    (m.rePlan i).ageNext 64

/-- A canary fails at the guard setting: the clock steps down, and the island is measured at once (R503). -/
def Chip.guardFail (m : Chip) (i : Nat) : Chip :=
  match m.islandRec i with
  | none => m
  | some r =>
    if i = 0 ∨ !m.islServes i then m
    else
      let (v, f) := m.pointOf i
      let m := if 16 * r.fmin < f then m.setPoint i v (slower r f) else m
      (m.emit 0 0x6E03).ageNow i

/-! ## Hours (R506) -/

/-- The ageing factor of an hour whose readings in 0.5 °C sum to `sum`, in units of 2^-32. -/
def ageFactor (sum : Int) (n : Nat) : Nat :=
  let d := sum - 160 * n
  let e := d / (20 * n : Nat)
  if d % (20 * n : Nat) = 0 then (if 0 ≤ e then 2 ^ (32 + e.toNat) else 2 ^ (32 - (-e).toNat)) else Config.ageFactor sum n

/-- A power-on hour has passed: each island's stress hours advance by the factor of the hour's mean Tj, a quarter of it in Lull and
Calm. -/
def Chip.powerOnHour (m : Chip) : Chip :=
  let quarter := decide (m.f PWR_STAT.STATE = 3 ∨ m.f PWR_STAT.STATE = 5)
  let m := { m with ag := { m.ag with poh := m.ag.poh + 1 } }
  (List.range 28).foldl (fun (m : Chip) i =>
    if i = 0 then m
    else
      let x := m.ageIsl i
      let (af, m) := if x.hourN = 0 then m.draw 32 else (ageFactor x.hourSum x.hourN, m)
      let af := if quarter then af / 4 else af
      m.setAge i { x with eqh := x.eqh + af, recent := (x.recent ++ [af]).drop (x.recent.length + 1 - 1024), hourSum := 0, hourN := 0 }) m

/-! ## Rows -/

def execCanaryGuardFail (i : Isl) (s : State) : Host.Outcome State Fault Refusal := run s fun m => m.guardFail i.val

/-- 1,024 power-on hours have passed since the last pass. -/
def execAgeMeasureTimer (s : State) : Host.Outcome State Fault Refusal :=
  run s fun m => ({ m with ag := { m.ag with due := true } } : Chip).agePoll

def execIslandMeasureDone (i : Isl) (canary : List (Fin 64)) (ro0 ro1 : BitVec 16) (written : Bool) (s : State) :
    Host.Outcome State Fault Refusal :=
  run s fun m => m.ageDone i.val ((List.range 8).map fun k => ((canary[k]?).map (·.val)).getD 63) ro0.toNat ro1.toNat written

/-- 1 s has passed since a change of an island's point. -/
def execRemeasureTimer (i : Isl) (s : State) : Host.Outcome State Fault Refusal :=
  run s fun m =>
    if i.val ∈ m.ag.again then
      ({ m with ag := { m.ag with again := m.ag.again.filter fun k => decide (k ≠ i.val) } } : Chip).ageOne i.val
    else m

def execPowerOnHour (s : State) : Host.Outcome State Fault Refusal := run s fun m => m.powerOnHour.agePoll

end Sys2Proof.Machine
end

