-- ==== Sys2Proof/Machine/Thermal.lean ====
section
/-! DEFINITION. Thermal sensing and protection (R491 to R501): the 100 µs sample with its cross-check, junction temperature, throttle
level, THERM_n and trip; the write cap's bucket; and calibration. -/

namespace Sys2Proof.Machine

/-- The thresholds AON applies: those of the epoch it has committed to (R501). -/
def Chip.therm (m : Chip) : ThermRec := (m.tablesOf (m.f ISL_STAT.APPLIED_EPOCH 0)).therm

/-- The island a diode lies in (R491). -/
def diodeIsland (i : Nat) : Nat :=
  if i = 0 then 0
  else if i ≤ 2 then 1
  else if i ≤ 10 then i - 1
  else if i ≤ 12 then 10
  else if i ≤ 16 then 11
  else if i ≤ 28 then i - 5
  else if i ≤ 30 then 24
  else if i ≤ 32 then 25
  else if i ≤ 37 then 26
  else 27

/-- A diode is enabled by the running image. -/
def Chip.diodeOn (m : Chip) (i : Nat) : Bool := bitOf m.therm.mask i

/-- A diode takes part: enabled and not unreliable. -/
def Chip.usable (m : Chip) (i : Nat) : Bool := m.diodeOn i && decide (m.f THM_SENS.UNREL i = 0)

/-- A diode's calibrated reading, in 0.5 °C. -/
def Chip.diodeTemp (m : Chip) (i : Nat) : Int := toSigned 10 (m.f THM_SENS.TEMP i)

/-- An eighth-degree value rounded to half degrees (R492); which way a tie goes is open. -/
def toHalf (x : Int) : Int :=
  let q := x / 4
  let r := x % 4
  if r < 2 then q else if 2 < r then q + 1 else if Config.tieUp x then q + 1 else q

/-! ## The sample (R492 to R494) -/

/-- The readings of a sample, uncorrected in 0.125 °C, of the enabled diodes: shown, and summed for the ledger and the hour. -/
def Chip.takeReadings (m : Chip) (xs : List Int) : Chip :=
  ((List.range 40).filter m.diodeOn).foldl (fun (m : Chip) i =>
    let t := toHalf (xs.getD i 0 + toSigned 8 (m.f THM_SENS.OFFSET i))
    let m := m.setF THM_SENS.TEMP (ofSigned 10 t) i
    let k := diodeIsland i
    let x := m.ageIsl k
    m.setAge k { x with tjSum := x.tjSum + t, tjN := x.tjN + 1, hourSum := x.hourSum + t, hourN := x.hourN + 1 }) m

/-- A diode differs by more than 12 °C from both neighbours, which agree within 4 °C. -/
def Chip.odd (m : Chip) (i : Nat) : Bool :=
  let t := m.diodeTemp i
  let a := m.diodeTemp (Config.neighbourA i)
  let b := m.diodeTemp (Config.neighbourB i)
  decide (24 < (t - a).natAbs ∧ 24 < (t - b).natAbs ∧ (a - b).natAbs ≤ 8)

/-- The cross-check: ten odd samples in a row flag a diode. The flags are those at the start of the sample. -/
def Chip.crossCheck (m0 : Chip) : Chip :=
  ((List.range 40).filter m0.usable).foldl (fun (m : Chip) i =>
    let checked := m0.usable (Config.neighbourA i) && m0.usable (Config.neighbourB i)
    let n := if checked && m0.odd i then tget 0 m.th.odd i + 1 else 0
    if n < 10 then { m with th := { m.th with odd := tset 0 m.th.odd i n } }
    else (({ m with th := { m.th with odd := tset 0 m.th.odd i 0 } } : Chip).setF THM_SENS.UNREL 1 i).emit 0 0x6D04) m0

/-- The usable diodes, and the one that reads highest. -/
def Chip.hottest (m : Chip) : Option Nat :=
  ((List.range 40).filter m.usable).foldl (fun (b : Option Nat) i =>
    match b with
    | none => some i
    | some j => if m.diodeTemp j < m.diodeTemp i then some i else some j) none

/-- Tj, its diode and its peak; too few usable diodes are a fault (R494). With none, Tj stays as it is. -/
def Chip.junction (m : Chip) : Chip :=
  let m := match m.hottest with
    | none => m
    | some i =>
      let t := m.diodeTemp i
      let m := (m.setF THM_STAT.HOTTEST i).setF THM_STAT.TJ (ofSigned 10 t)
      if toSigned 10 (m.f THM_PEAK.TJ) < t then (m.setF THM_PEAK.TJ (ofSigned 10 t)).setF THM_PEAK.SENSOR i else m
  let few := decide (((List.range 40).filter m.usable).length < 20)
  if !few then m.setF THM_STAT.FEWSENS 0
  else if m.f THM_STAT.FEWSENS = 1 then m
  else (({ m with th := { m.th with few := true } } : Chip).setF THM_STAT.FEWSENS 1).emit 0 0x6D05

/-- Tj in 0.5 °C. -/
def Chip.tj (m : Chip) : Int := toSigned 10 (m.f THM_STAT.TJ)

/-! ## Throttling (R496) -/

/-- The threshold of level `l` of 1 to 4, in 0.5 °C. -/
def ThermRec.level (t : ThermRec) (l : Nat) : Int := 2 * ((t.throttle : Int) + 2 * ((l : Int) - 1))

/-- The level that matches a junction temperature. -/
def ThermRec.match_ (t : ThermRec) (tj : Int) : Nat :=
  if t.level 4 ≤ tj then 4 else if t.level 3 ≤ tj then 3 else if t.level 2 ≤ tj then 2 else if t.level 1 ≤ tj then 1 else 0

/-- The level that follows level `l`: it rises at once, and falls only below its threshold less the hysteresis. -/
def ThermRec.next (t : ThermRec) (l : Nat) (tj : Int) : Nat :=
  let k := t.match_ tj
  if l < k then k else if 0 < l ∧ tj < t.level l - 2 * (t.hyst : Int) then k else l

/-- The capped write rate in bytes per µs (R29, R496). -/
def Chip.capRate (m : Chip) : Nat :=
  let full := if m.aloneNow then 160000 else 100000
  let l := m.f THM_STAT.LEVEL
  if l = 1 then full * 3 / 4 else if l = 2 then full / 2 else full / 4

/-- The throttle level changes: its event, and a bucket whose bytes as throttling begins are a free value (log entry 60). -/
def Chip.toLevel (m : Chip) (l : Nat) : Chip :=
  let old := m.f THM_STAT.LEVEL
  if l = old then m
  else
    let m := (m.setF THM_STAT.LEVEL l).emit 0 0x6D01 l
    let cap : Int := (m.capRate * 1000 : Nat)
    if l = 0 then { m with th := { m.th with bucket := 0 } }
    else if old ≠ 0 then { m with th := { m.th with bucket := min m.th.bucket cap } }
    else
      let (v, m) := m.draw 64
      { m with th := { m.th with bucket := (v % (m.capRate * 1000 + 1) : Nat) } }

/-- The level follows Tj; with few sensors it is held at 1 or above until cold start. -/
def Chip.throttle (m : Chip) : Chip :=
  let l := m.therm.next (m.f THM_STAT.LEVEL) m.tj
  m.toLevel (if m.th.few then max l 1 else l)

/-- THERM_n (R497). -/
def Chip.thermLine (m : Chip) : Chip :=
  let on := decide (m.f THM_STAT.THERM_OUT = 1)
  if !on ∧ 2 * (m.therm.thermN : Int) ≤ m.tj then (m.setF THM_STAT.THERM_OUT 1).emit 0 0x6D02
  else if on ∧ m.tj < 2 * (m.therm.thermN : Int) - 2 * (m.therm.hyst : Int) then m.setF THM_STAT.THERM_OUT 0
  else m

/-- `us` µs of credit enter the bucket, which holds 1 ms of the capped rate. -/
def Chip.bucketRefill (m : Chip) (us : Nat) : Chip :=
  if m.f THM_STAT.LEVEL = 0 then m
  else
    let cap : Int := (m.capRate * 1000 : Nat)
    { m with th := { m.th with bucket := min cap (m.th.bucket + (m.capRate * us : Nat)) } }

/-! ## The trip (R498, R501) -/

/-- Steps 2 and 3 of the trip, once no flush runs. -/
def Chip.tripPoll (m : Chip) : Chip :=
  if m.f THM_STAT.TRIP = 0 ∨ m.th.tripDone ∨ m.plp.flushing then m
  else
    let m := { m with th := { m.th with tripDone := true } }
    let m := (List.range 12).foldl (fun (m : Chip) k => m.dropClaim k) m
    (m.setBit FLT_STAT.FORCE 4 true).powerPoll

/-- Step 1 of the trip: a flush that runs runs on under a commit; with a twin in service the twin takes over; else dirty data is flushed.
A controller that is fenced or in Calm does nothing more. -/
def Chip.tripSave (m : Chip) : Chip :=
  let st := m.f TWN_STAT.STATE
  let plp := m.f PLP_STAT.STATE
  if st = 7 ∨ m.f PWR_STAT.STATE = 5 then ({ m with th := { m.th with tripDone := true } } : Chip).powerPoll
  else if m.plp.flushing then (if plp = 1 then m.commitPower 0 else m).tripPoll
  else if st = 2 ∨ st = 10 then m.fenced.tripPoll
  else if m.dirty ∧ plp < 2 then (m.flushStart.commitPower 0).tripPoll
  else m.tripPoll

/-- The latch is set after two samples in a row at TRIP_C or above. -/
def Chip.tripCheck (m : Chip) : Chip :=
  if m.f THM_STAT.TRIP = 1 then m
  else
    let n := if m.hottest.isSome ∧ 2 * (m.therm.trip : Int) ≤ m.tj then m.th.tripRuns + 1 else 0
    let m := { m with th := { m.th with tripRuns := n } }
    if n < 2 then m
    else
      let m := (m.setF THM_STAT.TRIP 1).emit 0 0x6D03
      let m := (m.setF THM_TRIPLOG.SENSOR (m.f THM_STAT.HOTTEST)).setF THM_TRIPLOG.TEMP (m.f THM_STAT.TJ)
      let m := m.ptbStop 5 false
      ({ m with ag := { m.ag with due := true, todo := m.ag.cur.toList ++ m.ag.todo, cur := none } } : Chip).tripSave

/-- One sample of every enabled diode, evaluated in R492's order; before a THERM record is in force no diode is enabled and nothing
is evaluated. -/
def Chip.diodeSample (m : Chip) (xs : List Int) : Chip :=
  if m.therm.trip = 0 then m
  else ((((((m.takeReadings xs).crossCheck).junction).throttle).thermLine).tripCheck).agePoll.settle

/-! ## Calibration (R500) -/

/-- A calibration ends with a result. -/
def Chip.calEnd (m : Chip) (r : Nat) : Chip :=
  let m := { m with th := { m.th with cal := none } }
  ((m.setF THM_CAL.RESULT r).setF THM_CAL.GO 0).emit 0 0x6D06 r

/-- GO of THM_CAL for the diode SENSOR names. -/
def Chip.calGo (m : Chip) : Chip :=
  let i := m.f THM_CAL.SENSOR
  if m.th.cal.isSome then m
  else if 39 < i then m.calEnd 6
  else if !m.diodeOn i ∨ !m.diodeOn (Config.neighbourA i) then m.calEnd 4
  else if m.f THM_STAT.LEVEL ≠ 0 ∨ m.f THM_STAT.TRIP = 1 then m.calEnd 5
  else ({ m with th := { m.th with cal := some i } } : Chip).setF THM_CAL.GO 1

/-- A diode's flag is cleared: it is checked afresh. -/
def Chip.unrelClear (m : Chip) (i : Nat) : Chip :=
  ({ m with th := { m.th with odd := tset 0 m.th.odd i 0 } } : Chip).setF THM_SENS.UNREL 0 i

/-- The window ends: both diodes stable or not, and the mean uncorrected reading of the diode in 0.125 °C. -/
def Chip.calDone (m : Chip) (stable : Bool) (mean : Int) : Chip :=
  match m.th.cal with
  | none => m
  | some i =>
    if !stable then m.calEnd 2
    else
      let off := 4 * toSigned 10 (m.f THM_CALREF.REF) - mean
      if 127 < off.natAbs then m.calEnd 3
      else (((m.setF THM_SENS.OFFSET (ofSigned 8 off) i).array .record).unrelClear i).calEnd 1

/-! ## Rows -/

def execDiodeSample (readings : List Int) (s : State) : Host.Outcome State Fault Refusal := run s fun m => m.diodeSample readings

/-- `us` µs have passed since the last refill. -/
def execThrottleBucketRefill (us : Nat) (s : State) : Host.Outcome State Fault Refusal := run s fun m => (m.bucketRefill us).settle

def execCalibrationDone (stable : Bool) (mean : Int) (s : State) : Host.Outcome State Fault Refusal :=
  run s fun m => m.calDone stable mean

end Sys2Proof.Machine
end

