-- ==== Sys2Proof/Machine/Start.lean ====
section
/-! DEFINITION. Start-up (R460 to R471, R560): what a cold and a warm start keep, the steps of R461 in order, the lane plan, firmware
and image load, recovery, the layout of a first start, and the restore of a flush. -/

namespace Sys2Proof.Machine

/-! ## What a restart keeps (R472) -/

/-- What flash and its metadata hold of the zone engine: rows that are only staged, requests and moves are gone. -/
def Chip.flashZones (m : Chip) : ZoneSt :=
  let row (y : RowSt) : RowSt := { RowSt.blank with spill := y.spill, spillLen := if y.spill.isSome then y.spillLen else 0 }
  let zone (x : Zone) : Zone :=
    { x with
      rwp := x.cwp, rpp := x.pfp, pending := false, reloc := false
      members := x.members.map fun y => { y with relocSrc := false } }
  { m.zn with
    moves := [], regionMoves := [], held := [], located := [], pages := [], compact := none, merge := none
    deltas := [], deltasOut := 0, metaLeft := 0
    zones := m.zn.zones.map fun (e : Nat × Zone) => (e.1, zone e.2)
    rows := (m.zn.rows.filter fun e => e.2.spill.isSome).map fun (e : Nat × RowSt) => (e.1, row e.2) }

/-- Work that a restart drops: the targets of moves and merges await erase, and so do blocks that only reads still held. -/
def Chip.dropMoves (m : Chip) : Chip :=
  let m := ((m.zn.moves.map (·.zone)).eraseDups).foldl (fun (m : Chip) z => m.stopMoves z) m
  ({ m with
    q := { m.q with slots := [] }
    tw := { m.tw with fwds := [] }
    zn := { m.zn with regionMoves := [], compact := none, merge := none }
    md := { m.md with disp := [], softQ := [], dies := [] } } : Chip).freeLeft.freeOrphans

/-- The ageing measurement that runs is put off. -/
def Chip.ageHold (m : Chip) : Chip :=
  match m.ag.cur with
  | some i => ({ m with ag := { m.ag with cur := none } } : Chip).setBit AGE_STAT.PENDING i true
  | none => m

/-- The fields the device records restore at a cold start: remaps, calibration offsets, the flush number, spare sectors. -/
def recordKey (k : Nat) : Bool :=
  let o := k / 32
  decide (k = TRS_SANSTAT.STATE.key 0 ∨ (0x1F0100 ≤ o ∧ o < 0x1F0100 + 192) ∨ (0x240100 ≤ o ∧ o < 0x2401A0 ∧ k % 32 = 10) ∨ o = 0x22001C ∨ o = 0x1B0030)

/-- PORST_n: everything but ENVA and fuses, and what lies on flash, returns to its reset value; the lines into the device stay. -/
def Chip.cold (m : Chip) : Chip :=
  let b := Chip.reset
  let d := m.dropMoves
  let lineA := m.f PLP_STAT.A_IN
  let lineB := m.f PLP_STAT.B_IN
  let fence := if m.f TWN_LINES.FENCE_OUT = 1 then 0 else m.f TWN_LINES.FENCE_IN
  let c : Chip := { b with
    regs := m.regs.filter fun e => recordKey e.1
    nv := { m.nv with op := none, words := [], line := none, queue := [], prefetch := [], branch := [] }
    img := { b.img with bankA := m.img.bankA, bankB := m.img.bankB }
    zn := d.flashZones
    md := { b.md with blocks := d.md.blocks, firstStart := m.md.firstStart }
    plp := { b.plp with todo := m.plp.todo ++ m.plp.flight.map (·.2.1) ++ m.plp.failed.map (·.1), good := m.plp.good }
    st := { b.st with
      plan := m.st.plan, restoredId := m.st.restoredId, flushId := m.st.flushId, clean := m.st.clean, roots := m.st.roots
      ckptSeq := m.st.ckptSeq }
    ag := { m.ag with todo := [], cur := none }
    evr := { b.evr with plog := m.evr.plog, plogFull := m.evr.plogFull, plogNext := m.evr.plogNext }
    q := { b.q with perst := m.q.perst }
    freeCtr := m.freeCtr, pins := m.pins, reply := m.reply, out := m.out }
  ((c.setF PLP_STAT.A_IN lineA).setF PLP_STAT.B_IN lineB).setF TWN_LINES.FENCE_IN fence

/-- A register field a warm reset leaves: AON's, but for what the start itself sets in GEN. -/
def warmKey (k : Nat) : Bool :=
  let o := k / 32
  decide (cwIsland o = 0 ∧ (o < 0x8 ∨ 0x1C ≤ o)) || decide (o = 0x1B0030 ∨ k = NVA_STAT.BROWNOUT.key 0)

/-- A die's FAILED and RETIRED outlive a warm reset (R220). -/
def Chip.keepDies (m old : Chip) : Chip :=
  (List.range 3072).foldl (fun (m : Chip) d =>
    let st := old.f FCH_DIE.STATE d
    if 6 ≤ st then (m.setF FCH_DIE.STATE st d).setF FCH_DIE.REASON (old.f FCH_DIE.REASON d) d else m) m

/-- The events in the porter queues of the reset islands are lost and counted (R524). -/
def Chip.dropEvents (m : Chip) : Chip :=
  let lost := (m.evr.queues.filter fun e => decide (e.1 ≠ 0)).foldl (fun n e => n + e.2.length) 0
  ({ m with evr := { m.evr with queues := m.evr.queues.filter fun e => decide (e.1 = 0) } } : Chip).addF EVR_LOST.COUNT lost

/-- The counts of a tenant that only a cold start returns to 0 (R212). -/
def TenSt.counts (x : TenSt) : TenSt := { x with quota := 0, gust := 0, recon := 0, reconAt := 0 }

/-- The counts of a die since the cold start (R211). -/
def DieSt.counts (x : DieSt) : DieSt := { DieSt.blank with busy := x.busy, misses := x.misses, reconAround := x.reconAround }

/-- The wipe of a warm reset: every island but AON and the DRAM contents; flash keeps what it holds. -/
def Chip.warmWipe (m : Chip) : Chip :=
  let b := Chip.reset
  let m := (if m.f SDP_SCRUB_STAT.BUSY = 1 then m.scrubEnd 6 else m).barReset.ageHold
  let m := ((List.range 12).foldl (fun (m : Chip) k => m.dropClaim k) m).ptbStop 3 false
  let d := m.dropMoves
  let c : Chip := { m with
    regs := m.regs.filter fun e => warmKey e.1
    shadow := [], i3cPtr := 0
    isl := { b.isl with dtc := m.isl.dtc, marker := m.isl.marker }
    img := { b.img with bankA := m.img.bankA, bankB := m.img.bankB }
    q := { b.q with perst := m.q.perst }
    zn := d.flashZones
    md := { b.md with
      blocks := d.md.blocks, firstStart := m.md.firstStart
      tenants := m.md.tenants.map fun e => (e.1, e.2.counts)
      dies := (m.md.dies.map fun e => (e.1, e.2.counts)).filter fun e => decide (e.2 ≠ DieSt.blank) }
    bp := b.bp, tw := b.tw
    kv := { m.kv with lanes := [], waiting := [], cache := [], toLoad := [] }
    eng := b.eng
    nv := { m.nv with op := none, words := [], line := none, queue := [], prefetch := [], branch := [] }
    tr := { m.tr with running := [], debug := 0, debugEnd := 0, spdm := [], pkg := [], pkgLen := 0, sanErase := [] }
    plp := { m.plp with
      flushing := false, first := none, mirrorCap := none, todo := m.plp.todo ++ m.plp.flight.map (·.2.1) ++ m.plp.failed.map (·.1), flight := []
      failed := [] }
    st := { m.st with step := 3, warm := true, pendWarm := none, dramLeft := 0, erases := [], noReady := false, shutting := false }
    sd := { m.sd with bad := m.sd.bad.filter fun e => decide (e.1 = 2) }
    dr := b.dr }
  let c := (List.range 27).foldl (fun (c : Chip) i => c.setF ISL_STAT.STATE 0 (i + 1)) c
  let c := (((c.setF TWN_STAT.STATE 0).setF TWN_STAT.UP 0).setF TWN_STAT.FWD_EN 0).setF TWN_LINES.SEEN 0
  let c := ((c.setF TWN_CTL.FENCE 0).setF TWN_CTL.REJOIN 0).setF TWN_CTL.REKEY 0
  let c := (((c.setF PWR_STAT.STATE 1).setF PWR_STAT.LATCHED 0).setF PWR_STAT.PAIRHOLD 0).setF PWR_CTL.CALM 0
  let c := c.setF PLP_STAT.STATE 4
  let c := c.dropEvents
  let c := [0, 1, 3, 5].foldl (fun (c : Chip) i => c.setBit FLT_STAT.FORCE i false) c
  c.keepDies m

/-! ## Lanes (R82, R84, R462) -/

/-- The one port of a recovery: port 0, ×4, at the highest common speed (R70). -/
def recoveryLane : LaneRec := { kind := 0, index := 0, first := 0, width := 4, maxGen := 6, reverse := 0, polarity := 0 }

/-- The host ports of a lane list that lie in a group. -/
def groupLanes (ls : List LaneRec) (k : Nat) : List LaneRec := ls.filter fun l => decide (l.kind = 0 ∧ l.first / 16 = k)

/-- A slot without a port reads UNUSED, its lanes powered down (R82). -/
def Chip.showUnused (m : Chip) (ls : List LaneRec) : Chip :=
  ((List.range 32).filter fun q => ls.all fun l => decide (l.kind ≠ 0 ∨ l.slot ≠ q)).foldl (fun (m : Chip) q => m.setF HPT_PSTAT.STATE 7 q) m

/-- The ports of the groups that differ from the lanes in force go to link down and train to the new layout. -/
def Chip.applyLanes (m : Chip) (old new : List LaneRec) : Chip :=
  let m := ((List.range 8).filter fun k => decide (groupLanes old k ≠ groupLanes new k)).foldl (fun (m : Chip) k =>
    (List.range 4).foldl (fun (m : Chip) i =>
      let q := 4 * k + i
      let m := m.linkGone q 0
      let m := match (groupLanes new k).find? fun l => decide (l.slot = q) with
        | some l =>
          (((m.setF HPT_PCFG.VALID 1 q).setF HPT_PCFG.PORT l.index q).setF HPT_PCFG.MAX_GEN l.maxGen q).setF HPT_PCFG.WIDTH l.width q
        | none => (((m.setF HPT_PCFG.VALID 0 q).setF HPT_PCFG.PORT 0 q).setF HPT_PCFG.MAX_GEN 0 q).setF HPT_PCFG.WIDTH 0 q
      m.startTraining q) m) m
  (m.showUnused new).powerPoll

/-- The lanes the ports came up with at step 3. -/
def Chip.planLanes (m : Chip) : List LaneRec := m.st.plan.getD [recoveryLane]

/-- The lanes the ports stand at now. -/
def Chip.lanesNow (m : Chip) : List LaneRec := (m.img.running.map (·.lanes)).getD m.planLanes

/-! ## Steps 1 to 6 -/

def Chip.goStep (m : Chip) (n : Nat) : Chip := { m with st := { m.st with step := n } }

/-- The LEVEL word as a start finds it (R338): the fuse is blown for level 2, and another value than those named is recorded. -/
def Chip.startLevel (m : Chip) : Chip :=
  let m := { m with nv := { m.nv with level2 := m.nv.level2 || decide (m.nv.level = 0x1E7E0002) } }
  if m.nv.level ∉ [0, 0xFFFFFFFF, 0x1E7E0001, 0x1E7E0002] ∧ m.level = 1 then m.emit 0 0x650A else m

/-- Step 1: time starts, the side is sampled, fuses and device records are read; the group's fronts begin (step 2). -/
def Chip.startCold (m : Chip) (side : Nat) (twin : Bool) : Chip :=
  let m := { m with isl := { m.isl with dtc := 0 }, ag := { m.ag with cycles := m.ag.cycles + 1 } }
  let m := (((m.setF GEN_SIDE.SIDE side).setF GEN_SIDE.TWIN_PRES (b1 twin)).setF GEN_SIDE.SOLO (b1 (!twin))).ageCycles
  let m := m.startLevel
  let bank := if m.nv.banks.2 = 0 then m.img.bankA else m.img.bankB
  let seq := if bank = [] then Image.blank.seq else (Image.read bank Image.blank).seq
  (m.agePoints.goStep 2).seqStart seq

/-- Step 3: MGT, CMD and BUF wake, and the planned ports train. -/
def Chip.startPorts (m : Chip) : Chip := (m.goStep 3).applyLanes [] m.planLanes

/-- Step 4: the checkers' self-test; a failing memory keeps the controllers from ready. -/
def Chip.startBist (m : Chip) : Chip :=
  let bad := m.st.selfTest % 8
  let m := (m.setF SDP_BIST.DONE 1).setF SDP_BIST.FAIL bad
  let m := (setBits 3 bad).foldl (fun (m : Chip) _ => m.emit 0 0x6805) m
  let m := if bad = 0 then m else ({ m with st := { m.st with noReady := true } } : Chip).setBit FLT_STAT.FORCE 0 true
  (m.goStep 5).envaRecover.goStep 6

/-- The tables of a recovery: function 0 on port 0, and nothing more. -/
def recoveryTables : Image :=
  { Image.blank with
    lanes := [recoveryLane]
    funcs := [{ func := 0, type := 0, port := 0, parent := 0, tenant := 0, bar0 := 0, bar2 := 0, msix := 0, ana := 0, flags := 0 }] }

/-- A recovery: only port 0 with function 0, and no controller becomes ready. -/
def Chip.recover (m : Chip) : Chip :=
  let now := m.lanesNow
  let m := { m with
    img := { m.img with running := none, tables := recoveryTables, old := none, switch := none, lastEpoch := 0, liveBytes := [] }
    st := { m.st with noReady := true } }
  m.applyLanes now [recoveryLane]

/-- Step 6: the boot ROM checks the firmware banks, and fixes what the package that runs is; with none the device is in ROM
recovery. -/
def Chip.startFirmware (m : Chip) : Chip :=
  let a := m.nv.banks.1
  let first := m.fwCheck (m.fwBank a)
  let m := ((m.setF TRS_STAT.FWFALLBACK 0).setF TRS_STAT.ROMREC 0).setF TRS_STAT.BOOTFAIL 0
  let runs (m : Chip) (b : Nat) : Chip :=
    ((m.measure (m.fwBank b)).codeBranch (fwSector b * 2048 + 8)).goStep 7
  if first = 0 then runs m a
  else
    let m := m.setF TRS_STAT.BOOTFAIL first
    if m.fwCheck (m.fwBank (1 - a)) = 0 then runs ((m.setF TRS_STAT.FWFALLBACK 1).emit 1 0x6501) (1 - a)
    else ((m.setF TRS_STAT.ROMREC 1).emit 1 0x6502).recover

/-! ## Step 7 -/

/-- Every pool the image lays out, fresh. -/
def Chip.freshPools (m : Chip) (i : Image) : Chip :=
  i.pools.foldl (fun (m : Chip) r => (m.setPool r.pool r.fresh).baro r.pool) m

/-- The vault's part of step 7: the DWK is derived unless the device is alarmed, a metadata key is drawn where the key store holds
none, and the keys are asked for (R304, R308). -/
def Chip.startKeys (m : Chip) : Chip :=
  if m.nv.alarmed ≠ 0 then (m.setF KVT_STAT.STATE 1).setF KVT_ALARM.SRC m.nv.alarmed
  else
    let m := m.deriveDwk
    let m :=
      if m.nv.keys.any fun k => decide (k.kind = 3) && !k.dead then m
      else
        let (k, m) := m.draw 256
        m.wrapKey { slot := 8193, tenant := 0xFFFF, keygen := 0, kind := 3, nsid := 0, key := k, dwk := 0, dead := false, raw := [], unit := 0 }
    m.askLoads false

/-- The structure of a validated image in a bank is applied. -/
def Chip.imageApply (m : Chip) (bank : Nat) (i : Image) : Chip :=
  let now := m.lanesNow
  let m := { m with
    img := { m.img with running := some i, tables := i, old := none, switch := none, lastEpoch := 0, liveBytes := [] } }
  let m := ((m.setF GEN_STAT.BANK bank).setF GEN_STAT.STRUCT_OK 1).setF GEN_IMGVER.VERSION i.version
  let m := (m.agePoints).anaView.freshPools i
  let m := m.arbLoad i.arb
  let m := i.tenants.foldl (fun (m : Chip) r => m.applyQuota Image.blank r) m
  let m := (List.range 3072).foldl (fun (m : Chip) d =>
    if m.declared d then (if 6 ≤ m.f FCH_DIE.STATE d then m else m.setF FCH_DIE.STATE 1 d) else m.setF FCH_DIE.STATE 0 d) m
  let m := if m.st.plan.isSome ∧ m.planLanes ≠ i.lanes then m.emit 1 0x6B02 else m
  (m.applyLanes now i.lanes).startKeys

/-- The image is in its banks: the one ACTIVE names, else the other, else recovery. `bad`: the failure of the first, found by DRAM
training, with the bank it ran from. -/
def Chip.imageLoad (m : Chip) (bad : Option (Nat × Nat)) : Chip :=
  let a := m.nv.banks.2
  let ok (b : Nat) : Option ImgFail := m.validate (m.bank b) (m.bank b).length Image.blank
  let go (m : Chip) (b : Nat) : Chip := (m.showBank b true).imageApply b (Image.read (m.bank b) Image.blank)
  let down (m : Chip) : Chip := ((((m.setF GEN_STAT.RECOVERY 1).setF GEN_STAT.BANK 2).setF GEN_STAT.FALLBACK 0).setF GEN_IMGVER.VERSION 0).recover
  let other (m : Chip) (code : Nat) : Chip :=
    let m := m.setF GEN_STAT.LOADFAIL code
    match ok (1 - a) with
    | none => go (m.setF GEN_STAT.FALLBACK 1) (1 - a)
    | some _ => down (m.showBank (1 - a) false)
  match bad with
  | none =>
    (match ok a with
    | none => go m a
    | some e => other (m.showBank a false) e.code)
  | some (b, code) =>
    let m := (m.showBank b false).setF GEN_STAT.STRUCT_OK 0
    if b = a then other m code else down m

/-! ## Steps 8 to 10 -/

/-- Step 9 begins: solo claims at once, else the handshake; a controller refused for its ROLE since the cold start tries none (R21). -/
def Chip.startTwin (m : Chip) : Chip :=
  if m.solo then m.claimMask 0xFFF
  else if m.st.refused then m.twnState 9
  else (({ m with tw := { m.tw with handshake := true } } : Chip).twnState 1).powerPoll

/-- DRAM trained that does not fit the image is a failure of its step 7; a start that must go into recovery gives up the twin. -/
def Chip.dramMisfit (m : Chip) : Chip :=
  let m := m.imageLoad (some (m.f GEN_STAT.BANK, 8))
  if m.f GEN_STAT.RECOVERY = 0 then m
  else
    let m := (List.range 12).foldl (fun (m : Chip) k => m.dropClaim k) m
    ((({ m with tw := { m.tw with handshake := false } } : Chip).twnState 0).goStep 7).powerPoll

/-- The claims of step 9 are settled. -/
def Chip.claimsSettled (m : Chip) : Bool :=
  let st := m.f TWN_STAT.STATE
  if m.tw.waitClaims ≠ 0 then false
  else if m.solo then true
  else decide (st = 1) && !m.tw.handshake || decide (st = 6) || decide (st = 10 ∧ 5 ≤ m.tw.rejoin)

/-- Step 10 begins: the dies of the claimed channels are identified and reset, one after another in a channel; a die on another
channel shows SERVICE until its controller says otherwise. -/
def Chip.startDies (m : Chip) : Chip :=
  let m := (List.range 96).foldl (fun (m : Chip) ch =>
    let init := (chanDies ch).filter fun d => decide (m.f FCH_DIE.STATE d = 1)
    if m.claims (ch / 8) then
      (if init = [] then m else m.setTrain ch { m.train ch with resets := init })
    else init.foldl (fun (m : Chip) d => m.setF FCH_DIE.STATE 2 d) m) m
  m.goStep 10

/-- No die of a claimed channel is still in INIT, TRAINING or RESET. -/
def Chip.diesReady (m : Chip) : Bool :=
  m.regs.all fun e =>
    match if e.1 % 32 = FCH_DIE.STATE.lo then FCH_DIE.STATE.index? (e.1 / 32) else none with
    | some d => !m.drives d || decide (e.2 ∉ [1, 3, 4])
    | none => true

/-! ## Step 11 (R467, R560) -/

/-- The highest block of a die below USER_BLOCKS that is neither bad from the factory nor dealt. -/
def Chip.dealBlock (m : Chip) (d : Nat) : Option Nat :=
  ((List.range m.flash.userBlocks).reverse).find? fun b => decide ((m.blk d b).state ∉ [3, 4, 6])

/-- One round: a block of every die of a list, while any are to be dealt. -/
def Chip.dealRound (m : Chip) (state : Nat) : List Nat → Nat → Chip × Nat
  | [], n => (m, n)
  | d :: ds, n =>
    match n, m.dealBlock d with
    | 0, _ => (m, 0)
    | n + 1, some b => (m.setBlk d b { m.blk d b with state := state }).dealRound state ds n
    | n + 1, none => m.dealRound state ds (n + 1)

/-- `n` blocks dealt in rounds over the declared dies that are not FAILED. -/
def Chip.deal (m : Chip) (state : Nat) : Nat → Nat → Chip
  | 0, _ => m
  | fuel + 1, n =>
    if n = 0 then m
    else
      let ds := (List.range 3072).filter fun d => m.declared d && decide (m.f FCH_DIE.STATE d ≠ 7)
      let (m, k) := m.dealRound state ds n
      if k = n then m else m.deal state fuel k

/-- The layout of a first start: metadata blocks, then flush blocks below them. -/
def Chip.firstLayout (m : Chip) : Chip :=
  if !m.md.firstStart then m
  else
    let m := (m.deal 3 8192 m.img.tables.geo.metaBlocks).deal 4 8192 m.img.tables.geo.flushBlocks
    { m with md := { m.md with firstStart := false } }

/-! ## Step 12 (R468, R469) -/

/-- The bytes a kind of flush unit covers of a row. -/
def Chip.flushBytes (m : Chip) (kind z r : Nat) : Nat :=
  ((m.flushFound.filter fun u => decide (u.kind = kind ∧ u.zone = z ∧ u.row = r)).map (·.len)).sum

/-- The first byte from `a` to below `b` of a row that no flush unit holds. -/
def Chip.flushHole (m : Chip) (z r : Nat) : Nat → Nat → Nat → Option Nat
  | 0, a, b => if a < b then some a else none
  | fuel + 1, a, b =>
    if b ≤ a then none
    else
      match m.flushFound.find? fun u => decide (u.kind = 1 ∧ u.zone = z ∧ u.row = r ∧ u.off ≤ a ∧ a < u.off + u.len) with
      | some u => m.flushHole z r fuel (u.off + u.len) b
      | none => some a

/-- The columns of a row with a byte from `a` to below `b` that no flush unit holds. -/
def Chip.flushLost (m : Chip) (z r a b : Nat) : List Nat :=
  (List.range 16).filter fun c =>
    (m.flushHole z r 128 (max a (262144 * c)) (min b (262144 * (c + 1)))).isSome

/-- A staged row comes back whole, or can be solved from its restored accumulators; else its first byte missing. -/
def Chip.rowBack (m : Chip) (z r a b : Nat) : Option Nat :=
  let acc := b1 (decide (262144 ≤ m.flushBytes 2 z r)) + b1 (decide (262144 ≤ m.flushBytes 3 z r))
  if (m.flushLost z r a b).length ≤ acc then none else m.flushHole z r 128 a b

/-- The end of a zone's data falls back to byte `e` of its stripe: to the last commit boundary at or below it. -/
def Chip.truncate (m : Chip) (z e : Nat) : Chip :=
  let x := m.zone z
  let lba := 2 ^ m.zoneLog z
  let bytes (p : Nat × Nat) : Nat := if x.type = 1 then p.2 * 256 else p.1 * lba
  let fit := x.extents.filter fun p => decide (bytes p ≤ e)
  let (cwp, pfp) := fit.getLast?.getD (x.pwp, if x.type = 1 then e / 256 else 0)
  let end_ := if x.type = 1 then pfp * 256 else cwp * lba
  let m := m.setZone z { x with
    cwp := cwp, rwp := cwp, pfp := pfp, rpp := pfp, extents := fit
    granules := if x.type = 1 then x.granules.filter fun g => decide (g.2 < pfp) else x.granules }
  let m := { m with zn := { m.zn with
    store := memClear m.zn.store (2 ^ 33 * z + cwp * lba) (2 ^ 33 * (z + 1))
    phys := if x.type = 1 then memClear m.zn.phys (2 ^ 33 * z + end_) (2 ^ 33 * (z + 1)) else m.zn.phys } }
  { m with zn := { m.zn with logBlks := m.zn.logBlks.map fun (e : Nat × LogBlk) =>
    (e.1, if logZone e.1 = z then { e.2 with units := e.2.units.filter fun u => decide (u.1 * 4096 < cwp * lba) } else e.2) } }

/-- What of a zone lies in flash programmed or spilled, in bytes of its stripe. -/
def Chip.onFlash (m : Chip) (z : Nat) : Nat :=
  let x := m.zone z
  4194304 * x.rows + (m.row z x.rows).spillLen

/-- A zone's staged rows are restored from the flush units, or its end falls back to what can be. -/
def Chip.restoreZone (m : Chip) (whole : Bool) (z : Nat) : Chip :=
  let filled := m.filledBytes z
  let base := m.onFlash z
  if filled ≤ base then m
  else if !whole then m.truncate z base
  else
    let first := base / 4194304
    let bad := (List.range (ceilDiv filled 4194304 - first)).findSome? fun k =>
      let r := first + k
      (m.rowBack z r (max base (4194304 * r) - 4194304 * r) (min filled (4194304 * (r + 1)) - 4194304 * r)).map fun o => 4194304 * r + o
    match bad with
    | none => m
    | some b => (m.truncate z b).emit 10 0x6B04 z

/-- The staging buffers of a zone's restored rows, and their row states. -/
def Chip.restage (m : Chip) (z : Nat) : Chip :=
  let rows := m.stagedRows.filter fun e => decide (e.1 = z)
  let m := rows.foldl (fun (m : Chip) e =>
    match m.img.tables.poolOf 35 with
    | none => m
    | some p =>
      let q : PoolReq := {
        id := m.bp.nextReq, rq := 35, sizes := [4194304], deadline := m.now, cls := 4, created := m.isl.dtc, work := rowWork z e.2.1 }
      let m := (m.tryGrant p q).getD m
      m.setRow z e.2.1 { m.row z e.2.1 with lastData := m.isl.dtc }) m
  let m := m.fillRows z
  let r := m.filledBytes z / 4194304
  if (m.zone z).state = zsf ∧ m.filledBytes z % 4194304 ≠ 0 ∧ (m.zone z).rows ≤ r then m.completeRow z r else m

/-- The flush that stands to be restored is whole in its commit records. -/
def Chip.flushWhole (m : Chip) : Bool :=
  decide (m.st.flushId ≠ m.st.restoredId) && m.flushFound.any (fun u => decide (u.kind = 4)) && m.plp.todo.all fun u => decide (u.kind ≠ 4)

/-- A root whose sector's header and whose own CRC check (R467). -/
def Chip.rootReads (m : Chip) (n : Nat) : Bool :=
  let (i, u) := rootPlace n
  let at_ := m.nv.phys (512 + i) * 2048 + u
  m.nv.headed 512 i && decide ((tfind m.nv.units at_).getD [] ++ (tfind m.nv.units (at_ + 1)).getD [] = rootRecord n)

/-- No root yields a checkpoint: there are some, and none reads, or none leads to a whole one. -/
def Chip.noCheckpoint (m : Chip) : Bool := !m.st.metaOk || (decide (m.st.roots ≠ []) && !m.st.roots.any m.rootReads)

/-- Step 12. A clean start has nothing to restore (R478). -/
def Chip.startRestore (m : Chip) : Chip :=
  let whole := m.flushWhole
  let zs := ((m.zn.zones.filter fun e =>
    decide (e.2.type ≠ 2) && (m.ownsStripe e.1 || (whole && m.flushFound.any fun u => decide (u.kind = 1 ∧ u.zone = e.1)))).map (·.1))
  let m := zs.foldl (fun (m : Chip) z => m.restoreZone whole z) m
  zs.foldl (fun (m : Chip) z => if m.ownsStripe z then m.restage z else m) m

/-! ## Steps 13 and 14 -/

/-- Step 13: restored rows are mirrored, zones of the other side are handed to it (R470), and the state becomes ACTIVE or SOLO. -/
def Chip.startMirror (m : Chip) : Chip :=
  let st := m.f TWN_STAT.STATE
  let m :=
    if st ≠ 1 then m
    else
      let other := (m.zn.zones.filter fun e => decide (m.stripeSide e.1 ≠ m.side ∧ e.2.type ≠ 2 ∧ m.onFlash e.1 < m.filledBytes e.1)).map (·.1)
      let m := m.stagedRows.foldl (fun (m : Chip) e => m.mirrorRow e.1 e.2.1) m
      if other = [] ∨ !m.flushWhole then m
      else
        let m := other.foldl (fun (m : Chip) z =>
          let m := m.sendFrame 0x12 (some z) none (leBytes 1 4) ((m.zoneWords z).flatMap fun w => leBytes 4 w)
          (List.range (ceilDiv (m.filledBytes z) 4194304 - (m.zone z).rows)).foldl (fun (m : Chip) k => m.mirrorRow z ((m.zone z).rows + k)) m) m
        m.sendFrame 0x12 none none (leBytes 1 3) []
  let m := if m.solo then m.twnState 8 else if st = 1 then m.twnState 2 else m
  let m := (({ m with tw := { m.tw with hbSeen := false } } : Chip).setF TWN_HBCNT.RUN 0).limitView
  (({ m with st := { m.st with restoredId := m.st.flushId } } : Chip).array .record).flushDrop

/-- Step 14: ready. -/
def Chip.startReady (m : Chip) : Chip :=
  let i := m.img.tables
  let m := if m.st.warm then m else m.reconStart
  let m := i.pools.foldl (fun (m : Chip) r => m.grantPool r.pool) (m.setF BPM_STAT.MODE 0)
  let m := ((if m.f PLP_STAT.STATE = 4 then m.setF PLP_STAT.STATE 0 else m).goStep 14).emit 10 0x6B01
  let m := { m with
    st := { m.st with plan := some i.lanes, warm := false }
    nv := { m.nv with svnFloor := max m.nv.svnFloor (fieldAt m.tr.running 0x16 2) } }
  let m := (m.array (.flag (.floor ((m.img.running.map Image.floor).getD 0)))).array .record
  let m := m.q.fns.foldl (fun (m : Chip) (e : Nat × FnSt) => m.fnReady e.1) m
  ((m.limitView).anaView.startRebuilds).agePoll.settle

/-! ## The sequence -/

/-- One step of the start that may be taken now. -/
def Chip.startStep (m : Chip) : Chip :=
  let step := m.st.step
  if step = 2 then (if m.f PSQ_STAT.DIR = 1 then m.startPorts else m)
  else if step = 3 then (if m.islState 1 = 2 ∧ m.islState 10 = 2 ∧ m.islState 11 = 2 then m.startBist else m)
  else if step = 6 then (if m.f TRS_STAT.ROMREC = 1 then m else m.startFirmware)
  else if step = 7 then
    if m.f GEN_STAT.RECOVERY = 1 then m
    else if m.f GEN_STAT.STRUCT_OK = 0 then (m.powerPoll).imageLoad none
    else if m.islState 24 = 2 ∧ m.islState 25 = 2 then ((m.goStep 8).dramStart).startTwin
    else m
  else if step = 8 then
    if m.st.dramLeft ≠ 0 then m
    else if m.dramFits m.img.tables then m.goStep 9
    else m.dramMisfit
  else if step = 9 then (if m.claimsSettled then m.startDies else m)
  else if step = 10 then
    if m.f TWN_STAT.STATE = 10 then m.rejoinPoll
    else if !m.diesReady then m
    else if m.f TWN_STAT.STATE = 2 then (({ m with md := { m.md with firstStart := false } } : Chip).flushDrop).goStep 13
    else m.goStep 11
  else if step = 11 then
    if m.noCheckpoint then
      (if m.fbit FLT_STAT.FORCE 3 then m else (m.emit 10 0x6B03).setBit FLT_STAT.FORCE 3 true)
    else m.firstLayout.startRestore.goStep 12
  else if step = 12 then m.startMirror.goStep 13
  else if step = 13 then (if m.st.noReady then m else m.sanAgain.startReady)
  else m

/-- What tells that a step of the start was taken. -/
def Chip.startMark (m : Chip) : List Nat := [m.st.step, m.f GEN_STAT.STRUCT_OK, m.f GEN_STAT.RECOVERY, m.f GEN_STAT.BANK, m.tw.rejoin]

/-- At most `n` steps of the start, while each is taken. -/
def Chip.startSteps (m : Chip) : Nat → Chip
  | 0 => m
  | n + 1 => let c := m.startStep; if c.startMark = m.startMark then c else c.startSteps n

/-- The start goes on as far as it can. -/
def Chip.startPoll (m : Chip) : Chip := m.startSteps 16

end Sys2Proof.Machine
end

