-- ==== Sys2Proof/Machine/Reset.lean ====
section
/-! DEFINITION. Resets, shutdown and checkpoints (R465, R466, R472 to R478), and the rows of earlier chapters that a start, a trip, a
flush or a shutdown may wait for. -/

namespace Sys2Proof.Machine

/-! ## Warm resets (R473, R476, R325) -/

/-- The reset itself: everything but AON and flash is wiped, and the start resumes at step 3. -/
def Chip.warmGo (m : Chip) : Chip := m.warmWipe.startLevel.startPorts

/-- A twin in service: it takes over from a controller that restarts. -/
def Chip.twinServes (m : Chip) : Bool := decide (m.f TWN_STAT.STATE = 2 ∨ m.f TWN_STAT.STATE = 10)

/-- A warm reset of a trigger begins. Without a twin in service, dirty data is flushed first, without a commit. -/
def Chip.warmStart (m : Chip) (k : Nat) : Chip :=
  let m := ({ m with st := { m.st with pendWarm := none } } : Chip).emit 0 0x6B05 (Config.triggerCode k)
  if !m.twinServes && m.dirty && !m.dr.dead && decide (m.f PLP_STAT.STATE = 0) then
    let m := (m.img.tables.funcs.map (·.func)).foldl (fun (m : Chip) f => m.resetFn true f) m
    (({ m with st := { m.st with step := 0, warm := true } } : Chip).flushStart).flushPoll
  else m.warmGo

/-- A pulse of the array runs. -/
def Chip.pulseRuns (m : Chip) : Bool := m.nv.op.any (·.pulse)

/-- A trigger of a warm reset: nothing before step 3 of a start or after a committed flush; held while a flush runs, and by a watchdog
while a pulse runs. -/
def Chip.warmAsk (m : Chip) (k : Nat) : Chip :=
  if m.st.step < 3 ∨ m.f PLP_STAT.STATE = 3 then m
  else if m.plp.flushing then { m with st := { m.st with pendWarm := some k } }
  else if k = 1 ∧ m.pulseRuns then ({ m with st := { m.st with pendWarm := some k } } : Chip).setF NVA_STAT.PENDRST 1
  else m.warmStart k

/-- What waits for the end of a flush or of a pulse: a warm reset's own flush, or a held warm reset. -/
def Chip.warmPoll (m : Chip) : Chip :=
  if m.plp.flushing then m
  else if m.st.warm ∧ m.st.step = 0 then (if m.f PLP_STAT.STATE = 4 then m.warmGo else m)
  else match m.st.pendWarm with
    | none => m
    | some k =>
      if m.f PLP_STAT.STATE = 3 then { m with st := { m.st with pendWarm := none } }
      else if m.f NVA_STAT.PENDRST = 1 ∧ m.pulseRuns then m
      else m.warmStart k

/-! ## Shutdown (R466, R477, R478) -/

/-- A checkpoint: delta records that wait are programmed, a root is written to its sector, erased when the roots come to it, and the newest 4 are kept. Without
the metadata key it waits (R307). -/
def Chip.checkpoint (m : Chip) : Chip :=
  if (m.kslot 8193).state ≠ 1 then m else
  let n := m.st.ckptSeq + 1
  let m := m.writeDeltas true
  let m := { m with st := { m.st with ckptSeq := n, roots := (m.st.roots ++ [n]).drop (m.st.roots.length + 1 - 4), erases := [] } }
  let (i, u) := rootPlace n
  (if u = 1 then m.array (.erase 512 i) else m).array (.program 512 i (rootRecord n))

/-- A function's commands have all ended but its Asynchronous Event Requests. -/
def Chip.fnQuiet (m : Chip) (f : Nat) : Bool :=
  m.q.slots.all fun e => !decide (e.2.fn = f) || e.2.peer.isSome || (e.2.admin && decide (opcodeOf e.2.entry = 0x0C ∧ e.2.phase ≠ .reserved))

/-- Shutdown notifications whose functions are quiet read complete. -/
def Chip.shnPoll (m : Chip) : Chip :=
  m.q.fns.foldl (fun (m : Chip) (e : Nat × FnSt) =>
    let x := m.fn e.1
    if x.shst = 1 ∧ m.fnQuiet e.1 then m.setFn e.1 { x with shst := 2 } else m) m

/-- A clean shutdown is reached once no dirty data is left. -/
def Chip.cleanPoll (m : Chip) : Chip :=
  if m.st.shutting ∧ !m.dirty ∧ (m.kslot 8193).state = 1 then
    let m := m.checkpoint
    ((({ m with st := { m.st with shutting := false, clean := true } } : Chip).array .record).emit 10 0x6B06).pairHold
  else m

/-- Every enabled function of this controller has completed shutdown. -/
def Chip.allShut (m : Chip) : Bool := m.q.fns.all fun e => !e.2.en || decide (e.2.shst = 2)

/-- Both controllers, or a solo one, are shut down: partial rows are spilled. -/
def Chip.cleanShutdown (m : Chip) (twinShut : Bool) : Chip :=
  if m.st.step ≠ 14 ∨ !m.allShut ∨ !(m.aloneNow || twinShut) ∨ m.st.clean then m
  else
    let m := { m with st := { m.st with shutting := true } }
    (m.stagedRows.foldl (fun (m : Chip) e => m.startSpill e.1 e.2.1) m).cleanPoll

/-- What may follow a command that ended work: the sequencer's hold, the trip, a warm reset, the start, shutdowns, held writes. -/
def Chip.late (m : Chip) : Chip :=
  let m := if m.psq.flushHold then m.linkPoll.downPoll else m.linkPoll
  let m := (((((m.tripPoll).warmPoll).startPoll).settle.shnPoll).cleanPoll).calmPoll
  let m := m.flushErase.flushIssue
  if min m.erasedGiB 65535 = m.f PLP_LIMIT.ERASED_GIB then m else m.limitView

/-! ## Rows: start and reset -/

/-- PORST_n deasserts. `selfTest` names the memories whose checkers will fail, `metaOk` whether a whole checkpoint will be found. -/
def execColdStart (side : Fin 2) (twinPres : Bool) (selfTest : Fin 8) (metaOk : Bool) (s : State) : Host.Outcome State Fault Refusal :=
  run s fun m =>
    if m.st.step ≠ 0 ∨ m.st.warm then m
    else ((({ m with st := { m.st with selfTest := selfTest.val, metaOk := metaOk } } : Chip).startCold side.val twinPres).setF
      PWR_CALMCFG.ADDR (0x1D + side.val)).late

def execPorstAssert (s : State) : Host.Outcome State Fault Refusal := run s Chip.cold

/-- WARMRST_n has been asserted for 1 µs. -/
def execWarmReset (selfTest : Fin 8) (metaOk : Bool) (s : State) : Host.Outcome State Fault Refusal :=
  run s fun m => (({ m with st := { m.st with selfTest := selfTest.val, metaOk := metaOk } } : Chip).warmAsk 0).late
def execMgtWatchdogExpiry (s : State) : Host.Outcome State Fault Refusal := run s fun m => (m.warmAsk 1).late
def execNvmSubsystemReset (s : State) : Host.Outcome State Fault Refusal := run s fun m => (m.warmAsk 2).late

/-- A request of the host reaches a function: the function is seen, and where it requires IDE the request comes inside a Secure stream (R92). -/
def Chip.reached (m : Chip) (f : Nat) : Bool := m.fnSeen f && (!m.needsIde f || m.secureFor (m.slotOf f) f)

/-- The log2 of the size of a virtual function's BAR0 (R88): the largest BAR0_LOG2 among the virtual functions of its physical function. -/
def Image.vfBar0 (i : Image) (pf : Nat) : Nat := ((i.vfsOf pf).filterMap fun v => (i.func? v).map (·.bar0)).foldl max 0

/-- What the spec gives the configuration space of a function to report (R85 to R91): its routing number, BARs (as log2 of their sizes), MSI-X vectors,
payload and request sizes, completion timeout, and of a physical function what it says of its virtual ones and of its port. -/
def Chip.configProps (m : Chip) (f : Nat) : List (String × Nat) :=
  let t := m.img.tables
  let p := (m.fn f).pcie
  let port := m.port (m.slotOf f)
  match t.func? f with
  | none => []
  | some r =>
    [("RoutingFunction", t.routing f), ("BAR0Log2", if r.type = 0 then r.bar0 else t.vfBar0 r.parent), ("MSIXVectors", r.msix),
     ("MPSSupported", 2), ("MPS", p.mps), ("MRRS", p.mrrs), ("CTORange", p.ctoRange), ("CTODisable", b1 p.ctoOff), ("MSIXEnable", b1 p.msixOn),
     ("MSIXMask", b1 p.msixMask)] ++
    (if f = 0 then [("BAR2Log2", 26)] else []) ++
    (if r.type = 0 then
      [("TotalVFs", (t.vfsOf f).length), ("NumVFs", (m.fn f).numVfs), ("FirstVFOffset", 1), ("VFStride", 1), ("VFBAR0Log2", t.vfBar0 f),
       ("ASPML1", b1 p.aspm), ("AER", ((port.aer.eraseDups).map fun w => match w with
         | .malformed => 1 | .ecrc => 2 | .undecoded => 4).sum)]
     else [])

/-- Vectors that were masked and no longer are send what is pending (R85, R87). -/
def Chip.sendPending (m : Chip) (f : Nat) : Chip :=
  let p := (m.fn f).pcie
  let go := p.pending.filter fun v => p.msixOn && !p.msixMask && !(tget MsixEnt.blank p.vectors v).masked
  let m := m.setFn f { m.fn f with pcie := { p with pending := p.pending.filter (· ∉ go) } }
  go.foldl (fun (m : Chip) v => m.interrupt f v) m

/-- A function's number of virtual functions is written: those no longer enabled are reset (R86, log entry 106). More than TotalVFs, of which the spec
says nothing, enables all (log entry 165). -/
def Chip.setNumVfs (m : Chip) (f n : Nat) : Chip :=
  let vfs := m.img.tables.vfsOf f
  let m := (vfs.drop n).foldl (fun (m : Chip) v => m.resetFn false v) m
  m.setFn f { m.fn f with numVfs := min n vfs.length }

/-- Change what a function's configuration space holds. -/
def Chip.modPcie (m : Chip) (f : Nat) (g : FnPcie → FnPcie) : Chip := m.setFn f { m.fn f with pcie := g (m.fn f).pcie }

/-- A configuration write (R85, R86, R91). A size code or timeout range the device does not support leaves its field (log entry 165); what belongs to
the port is written through its physical function. -/
def Chip.configWrite (m : Chip) (f : Nat) : CfgReq → Chip
  | .read => m
  | .numVfs n => if m.portPf (m.slotOf f) = some f then (m.setNumVfs f n.val).settle else m
  | .deviceControl mps mrrs =>
    m.modPcie f fun p => { p with mps := if mps.val ≤ 2 then mps.val else p.mps, mrrs := if mrrs.val ≤ 5 then mrrs.val else p.mrrs }
  | .deviceControl2 range off =>
    m.modPcie f fun p => { p with ctoRange := if range.val ∈ [0, 1, 2, 5, 6, 9, 10] then range.val else p.ctoRange, ctoOff := off }
  | .linkControl aspm => m.modPcie f fun p => { p with aspm := aspm }
  | .msixControl on mask => (m.modPcie f fun p => { p with msixOn := on, msixMask := mask }).sendPending f
  | .ideSelective stream lo hi addrs =>
    let q := m.slotOf f
    let p := m.port q
    if m.portPf q = some f then
      m.setPort q { p with streams := tput p.streams stream.val { (tfind p.streams stream.val).getD IdeStream.blank with lo := lo, hi := hi, addrs := addrs } }
    else m
  | .aerClear =>
    let q := m.slotOf f
    if m.portPf q = some f then m.setPort q { m.port q with aer := [], aerHeader := none } else m

/-- The link that a function's requests come over is up; before the structure is applied, that of its port, of which a virtual function's is not known. -/
def Chip.trained (m : Chip) (f : Nat) : Bool :=
  (List.range 32).any fun q => m.linkUp q && m.portUsed q && decide (32 ≤ f ∨ m.f HPT_PCFG.PORT q = f)

/-- A configuration request to a function of a trained port (R463): answered with Request Retry Status (status 1) before the structure is applied, as
unsupported (2) where no such function is there, else normally (0). -/
def Chip.configRequest (m : Chip) (f : Nat) (c : CfgReq) : Chip :=
  if m.f GEN_STAT.STRUCT_OK = 0 ∧ m.f GEN_STAT.RECOVERY = 0 ∧ m.f TRS_STAT.ROMREC = 0 then
    (if m.trained f then m.send (.config f 1 []) else m)
  else if !m.fnLive f then m.send (.config f 2 [])
  else if !m.linkUp (m.slotOf f) then m
  else let m := m.configWrite f c; m.send (.config f 0 (if c = .read then m.configProps f else []))

def execConfigRequest (f : Fn) (c : CfgReq) (s : State) : Host.Outcome State Fault Refusal := run s fun m => m.configRequest f.val c

/-- CC.EN is written 1, with the admin queues' bases and sizes less 1, and the arbitration CC.AMS chooses: held before step 14. -/
def Chip.enable (m : Chip) (f asq acq asqs acqs : Nat) (wrr : Bool) : Chip :=
  let x := m.fn f
  if !m.reached f ∨ x.en ∨ x.enHeld then m
  else
    let k := 262144 + f
    let m := m.setFn f { x with
      enHeld := true, wrr := wrr, anaNotices := true, zoneNotices := true, aqa := asqs + 2 ^ 16 * acqs, asq := asq / 4096 * 4096,
      acq := acq / 4096 * 4096, cc := 0x460001 + 2 ^ 11 * b1 wrr }
    let m := m.setQc k { m.qc k with
      sqBase := asq / 4096 * 4096, sqValid := true, sqSize := asqs, sqHead := 0, sqTail := 0, sqState := 3, sqCq := k
      cqBase := acq / 4096 * 4096, cqValid := true, cqIen := true, cqPhase := 1, cqSize := acqs, cqHead := 0, cqTail := 0, cqIv := 0
      func := f, qid := 0 }
    if m.st.step = 14 then m.fnReady f else m

def execControllerEnable (f : Fn) (asq acq : BitVec 64) (asqs acqs : Fin 4096) (wrr : Bool) (s : State) :
    Host.Outcome State Fault Refusal :=
  run s fun m => m.enable f.val asq.toNat acq.toNat asqs.val acqs.val wrr

/-- CAP.TO has passed since CC.EN was written and step 14 has not been reached. -/
def execControllerReadyTimeout (f : Fn) (s : State) : Host.Outcome State Fault Refusal :=
  run s fun m => let x := m.fn f.val; if x.enHeld then m.setFn f.val { x with cfs := true } else m

/-- CC.EN is written 1 to 0. -/
def Chip.disable (m : Chip) (f : Nat) : Chip :=
  let x := m.fn f
  if m.reached f ∧ (x.en ∨ x.enHeld) then (m.resetFn true f).late else m

def execControllerReset (f : Fn) (s : State) : Host.Outcome State Fault Refusal := run s fun m => m.disable f.val

/-- CC.SHN: 1 normal, 2 abrupt. -/
def Chip.notifyShutdown (m : Chip) (f : Nat) (abrupt : Bool) : Chip :=
  let x := m.fn f
  let shn := if abrupt then 2 else 1
  if m.reached f ∧ x.en then (m.setFn f { x with shn := shn, shst := 1, cc := x.cc % 2 ^ 14 + 2 ^ 14 * shn + x.cc / 2 ^ 16 * 2 ^ 16 }).late else m

def execShutdownNotification (f : Fn) (abrupt : Bool) (s : State) : Host.Outcome State Fault Refusal := run s fun m => m.notifyShutdown f.val abrupt

def execCleanShutdown (twinShut : Bool) (s : State) : Host.Outcome State Fault Refusal := run s fun m => (m.cleanShutdown twinShut).late
/-- A die has gained 64 erases since the last checkpoint, or 60 s have passed since it. -/
def execCheckpoint (s : State) : Host.Outcome State Fault Refusal := run s fun m => if m.st.step = 14 then m.checkpoint else m

/-! ## Rows: the epoch switch -/

/-- An island reports LOADED. -/
def execEpochLoaded (i : Isl) (s : State) : Host.Outcome State Fault Refusal :=
  run s fun m => match m.img.switch with
    | some sw => if m.islServes i.val then
        ({ m with img := { m.img with switch := some { sw with loaded := sw.loaded ||| 2 ^ i.val } } } : Chip).switchPoll.late
      else m
    | none => m

/-- An island applies and acknowledges the commit; a cluster once every die queue of its holds the marker. -/
def execEpochCommitAck (i : Isl) (s : State) : Host.Outcome State Fault Refusal :=
  run s fun m => match m.img.switch with
    | some sw =>
      let late := decide (12 ≤ i.val) && m.isl.flight.any fun b => decide (b.src = .image) && m.markLate b (i.val - 12)
      if sw.stamping && m.islServes i.val && !late then (m.commitAck i.val sw.epoch).switchPoll.late else m
    | none => m

/-- 10 ms after PREPARE: the switch rolls back, with a fault that names the missing acknowledgements (R78). -/
def execEpochSwitchTimeout (s : State) : Host.Outcome State Fault Refusal :=
  run s fun m => match m.img.switch with
    | some _ => ((m.rollback 0xD).emit 1 0x3004 (allIslands - m.f IMG_ACKMASK.ACK)).late
    | none => m

/-! ## Rows: the array, DRAM, dies and training -/

/-- A pulse ends: `ok` when its verify passes (R314, R318). -/
def execNvaPulseDone (ok : Bool) (s : State) : Host.Outcome State Fault Refusal := run s fun m => (m.nvaPulse ok).late

/-- A DRAM training run ends: at start with what the DIMM is, in service with its narrowest eyes. -/
def execDramTrainDone (ch : DramCh) (present ranks2 gb32 : Bool) (rd wr : Fin 64) (s : State) : Host.Outcome State Fault Refusal :=
  run s fun m =>
    let left := m.st.dramLeft
    let m := if bitOf left ch.val then m.dramStartRun ch.val present ranks2 gb32 rd.val wr.val else m.dramRunEnd ch.val rd.val wr.val
    (if left ≠ 0 ∧ m.st.dramLeft = 0 then m.dramRateSet else m).late

/-- A die operation ends: with status FAIL, or for a read with the corrected bits of each codeword (none: it did not decode), after
`busy` ticks. -/
def execDieOperationDone (d : Die) (fail : Bool) (decodes : List (Option Nat)) (busy : Nat) (s : State) :
    Host.Outcome State Fault Refusal :=
  run s fun m => (m.dieDone d.val fail decodes busy).late

def execDieResetDone (d : Die) (r : DieReset) (s : State) : Host.Outcome State Fault Refusal :=
  run s fun m => (m.dieResetDone d.val r).late

/-- A program of a row's spill is on a die, in its queue, or on its way there. -/
def Chip.spilling (m : Chip) (z r : Nat) : Bool := m.allUnits.any (·.spills z r)

/-- The programs of a zone's spills have ended: of each of its rows, or of those of its log blocks, whose last one has (R158). -/
def Chip.spillsDone (m : Chip) (z : Nat) : Chip :=
  ((m.stagedStripes z).flatMap m.openRows).foldl (fun (m : Chip) e => if m.spilling e.1 e.2 then m else m.spillDone e.1 e.2) m

def execSpillProgramDone (z : ZoneId) (s : State) : Host.Outcome State Fault Refusal := run s fun m => (m.spillsDone z.val).late

def execTrainingRunStart (ch : Chan) (s : State) : Host.Outcome State Fault Refusal := run s fun m => m.startRun ch.val

/-- A die of the CE in turn has not become ready (R223). -/
def execTrainingNotreadyTimeout (ch : Chan) (s : State) : Host.Outcome State Fault Refusal :=
  run s fun m => match (m.train ch.val).ce with
    | some ce => if (m.train ch.val).started then m else (m.runFailed ch.val ce 2 true).late
    | none => m

def execTrainingRunDone (ch : Chan) (e : TrainEnd) (s : State) : Host.Outcome State Fault Refusal :=
  run s fun m => match (m.train ch.val).ce with
    | none => m
    | some ce =>
      if !(m.train ch.val).started then m
      else
        (match e with
        | .eyes rd wr => m.runEyes ch.val ce rd wr
        | .busy => m.abandonRun ch.val ce 3
        | .status => m.abandonRun ch.val ce 4
        | .mode => m.abandonRun ch.val ce 5
        | .noAnswer => m.abandonRun ch.val ce 6).late

/-- 10 ms have passed since a run of a CE that is to be retried (R224). -/
def execTrainingRetryTimer (ch : Chan) (ce : Grp) (s : State) : Host.Outcome State Fault Refusal :=
  run s fun m =>
    let t := m.train ch.val
    if ce.val ∈ t.retry then (m.setTrain ch.val { t with retry := t.retry.filter fun k => decide (k ≠ ce.val) }).askTrain ch.val [ce.val]
    else m

/-! ## Rows: sequencing and power loss -/

def execSeqFront (s : State) : Host.Outcome State Fault Refusal := run s fun m => m.seqFront.late
def execSeqInAssert (s : State) : Host.Outcome State Fault Refusal :=
  run s fun m => (((m.setF PSQ_STAT.SEQIN 1).upPoll)).late
/-- One sample of the ADC over the VS inputs in order. -/
def execVsSample (codes : List (Fin 1024)) (s : State) : Host.Outcome State Fault Refusal :=
  run s fun m => ((codes.zipIdx.filter fun e => decide (e.2 < 16)).foldl (fun (m : Chip) e => m.vsSample e.2 e.1.val) m).late
def execPgChange (r : Rail) (v : Bool) (s : State) : Host.Outcome State Fault Refusal := run s fun m => (m.pgChange r.val v).late
def execPgTimeout (r : Rail) (s : State) : Host.Outcome State Fault Refusal := run s fun m => (m.pgTimeout r.val).late
def execPfailAssert (b : Bool) (s : State) : Host.Outcome State Fault Refusal := run s fun m => ((m.lullWake 5 0).pfailAssert b).late
def execDiscrepancyTimeout (s : State) : Host.Outcome State Fault Refusal := run s fun m => m.discTimeout.late
/-- A flush unit's program ends on a die. -/
def execFlushUnitDone (d : Die) (fail : Bool) (s : State) : Host.Outcome State Fault Refusal := run s fun m => (m.flushUnit d.val fail).late

end Sys2Proof.Machine
end

