-- ==== Sys2Proof/Machine/PoolRows.lean ====
section
/-! DEFINITION. The rows of the buffer pools that grant or free (R353 to R363). -/

namespace Sys2Proof.Machine

def execPoolAllocRequest (rq : Fin 64) (sizes : List Nat) (work deadline : Nat) (cls : Fin 8) (popped : Option (BitVec 64)) (s : State) :
    Host.Outcome State Fault Refusal :=
  run s fun m => (m.poolRequest rq.val sizes work deadline cls.val popped).late

/-- Waiting requests of a pool are granted from the head (R359). -/
def execPoolGrant (p : Fin 64) (popped : Option (BitVec 64)) (s : State) : Host.Outcome State Fault Refusal :=
  run s fun m => (m.grantPopped p.val popped).late

/-- A request has waited 5 ms (R360). -/
def Chip.poolWatchdog (m : Chip) (id : Nat) : Chip :=
  match m.bp.pools.findSome? fun e => (e.2.wait.find? (·.id = id)).map fun q => (e.1, q) with
  | none => m
  | some (p, q) =>
    let m := m.setPool p { m.pool p with wait := (m.pool p).wait.filter (·.id ≠ id) }
    let m := m.incF BPM_WDOGCNT.COUNT
    let m := if m.f BPM_WDOGLOG.VALID = 1 then m
      else ((m.setF BPM_WDOGLOG.VALID 1).setF BPM_WDOGLOG.POOL p).setF BPM_WDOGLOG.REQ q.rq
    let m := m.emit 11 0x6601 0 ((m.cmd? q.work).map fun c => m.cmdTag q.work c)
    let m := if q.work < 65536 then m.endCmd q.work (some stInterrupted)
      else if q.rq = 36 then (m.waitsLost 0 (q.work - 2 ^ 40)).waitsLost 1 (q.work - 2 ^ 40)
      else { m with bp := { m.bp with retry := m.bp.retry ++ [q] } }
    (m.grantPool p).late

def execPoolAllocWatchdog (id : Nat) (s : State) : Host.Outcome State Fault Refusal := run s fun m => m.poolWatchdog id

/-- A release by a named owner lowers the count; at 0 the buffer is free, and what waits on its pool may be granted. -/
def execBufferRelease (rq : Fin 64) (buf : Nat) (s : State) : Host.Outcome State Fault Refusal :=
  run s fun m =>
    match tfind m.bp.bufs buf with
    | none => m.refuseOwner
    | some b =>
      if rq.val ∉ b.owners ∨ b.count = 0 then m.refuseOwner
      else ((m.dropRef buf).grantPool b.pool).late

/-- The rebuild of a pool's free lists ends (R363), and what waited is granted. -/
def execFreeListRebuildDone (p : Fin 64) (popped : Option (BitVec 64)) (s : State) : Host.Outcome State Fault Refusal :=
  run s fun m =>
    if m.f BPM_POOLSTAT.REBUILD p.val = 0 then m
    else
      ((m.setF BPM_POOLSTAT.REBUILD 0 p.val).grantPopped p.val popped).late

end Sys2Proof.Machine
end

