-- ==== Sys2Proof/Machine/Bar0.lean ====
section
/-! DEFINITION. BAR0 of a function (R87 to R89, R107, R112): the NVMe controller registers, the doorbells, the MSI-X table and its pending bits; with the
meanings of the rows that access it. The places and fields of the controller registers are those of NVMe (log entry 166). -/

namespace Sys2Proof.Machine

/-- Where the doorbells end, and where the MSI-X table and the pending bits begin (R87). -/
def doorbellEnd (count : Nat) : Nat := 0x1000 + 8 * (count + 1)
def msixStart (count : Nat) : Nat := ceilDiv (doorbellEnd count) 4096 * 4096
def pbaStart (count msix : Nat) : Nat := ceilDiv (msixStart count + 16 * msix) 4096 * 4096

/-- The place of a BAR0 offset in the layout (R87). -/
inductive Bar0Place where
  | register (off : Nat)
  | doorbell (y : Nat) (head : Bool)
  | vector (v word : Nat)
  | pending (word : Nat)
  | none
deriving DecidableEq, Repr

/-- What lies at an offset of a function with `count` I/O queue pairs and `msix` vectors (R87, R112). -/
def bar0Place (count msix off : Nat) : Bar0Place :=
  let t := msixStart count
  let p := pbaStart count msix
  if off < 0x1000 then .register (off / 4 * 4)
  else if off < doorbellEnd count then .doorbell ((off - 0x1000) / 8) (decide (4 ≤ (off - 0x1000) % 8))
  else if t ≤ off ∧ off < t + 16 * msix then .vector ((off - t) / 16) ((off - t) % 16 / 4)
  else if p ≤ off ∧ off < p + 8 * ceilDiv msix 64 then .pending ((off - p) / 4)
  else .none

/-- What lies at an offset of a function's BAR0. -/
def Chip.bar0At (m : Chip) (f off : Nat) : Bar0Place :=
  bar0Place (m.img.tables.qcount f) (((m.img.tables.func? f).map (·.msix)).getD 0) off

/-- A controller register as read (R107, R463): MQES 0xFFFF, CQR 1, AMS with weighted round robin, TO 120, DSTRD 0 and MPSMIN 0 of CAP, CSTS, and what the
host has written; a bit the spec gives no value is free. -/
def Chip.nvmeReg (m : Chip) (f off : Nat) : Nat :=
  let x := m.fn f
  let free := (Config.nvmeReg f off).toNat
  if off = 0x00 then 0xFFFF + 2 ^ 16 + 2 ^ 17 + 120 * 2 ^ 24
  else if off = 0x04 then free &&& 0xFFF0FFF0
  else if off = 0x14 then x.cc
  else if off = 0x1C then b1 x.rdy + 2 * b1 x.cfs + 4 * x.shst + free / 16 * 16
  else if off = 0x20 then 0
  else if off = 0x24 then x.aqa
  else if off = 0x28 then x.asq % 2 ^ 32
  else if off = 0x2C then x.asq / 2 ^ 32
  else if off = 0x30 then x.acq % 2 ^ 32
  else if off = 0x34 then x.acq / 2 ^ 32
  else free

/-- A write of CC: EN set enables the controller with the admin queues of AQA, ASQ and ACQ, EN cleared resets it, SHN notifies of a shutdown. -/
def Chip.writeCc (m : Chip) (f v : Nat) : Chip :=
  let x := m.fn f
  let on := x.en || x.enHeld
  if bitOf v 0 then
    if !on then
      let m := m.enable f x.asq x.acq (bits x.aqa 11 0) (bits x.aqa 27 16) (decide (bits v 13 11 = 1))
      m.setFn f { m.fn f with cc := v }
    else if bits v 15 14 = 0 ∨ x.shn ≠ 0 then m.setFn f { x with cc := v }
    else (m.setFn f { x with cc := v }).notifyShutdown f (decide (bits v 15 14 = 2))
  else
    let m := if on then m.disable f else m
    m.setFn f { m.fn f with cc := v }

/-- A write of a controller register: CC, NSSR on function 0 (R472), AQA, ASQ and ACQ while the controller is off; the others keep what they hold. -/
def Chip.writeNvme (m : Chip) (f off v : Nat) : Chip :=
  let x := m.fn f
  let off_ := !x.en && !x.enHeld
  if off = 0x14 then m.writeCc f v
  else if off = 0x20 then (if f = 0 ∧ v = 0x4E564D65 then (m.warmAsk 2).late else m)
  else if !off_ then m
  else if off = 0x24 then m.setFn f { x with aqa := v &&& 0x0FFF0FFF }
  else if off = 0x28 then m.setFn f { x with asq := x.asq / 2 ^ 32 * 2 ^ 32 + v / 4096 * 4096 }
  else if off = 0x2C then m.setFn f { x with asq := x.asq % 2 ^ 32 + 2 ^ 32 * v }
  else if off = 0x30 then m.setFn f { x with acq := x.acq / 2 ^ 32 * 2 ^ 32 + v / 4096 * 4096 }
  else if off = 0x34 then m.setFn f { x with acq := x.acq % 2 ^ 32 + 2 ^ 32 * v }
  else m

/-- A word of an MSI-X table entry: the message's address, its data, the vector's mask (PCIe). -/
def MsixEnt.word (e : MsixEnt) (w : Nat) : Nat :=
  if w = 0 then e.addr % 2 ^ 32 else if w = 1 then e.addr / 2 ^ 32 else if w = 2 then e.data else b1 e.masked

def MsixEnt.put (e : MsixEnt) (w v : Nat) : MsixEnt :=
  if w = 0 then { e with addr := e.addr / 2 ^ 32 * 2 ^ 32 + v / 4 * 4 }
  else if w = 1 then { e with addr := e.addr % 2 ^ 32 + 2 ^ 32 * v }
  else if w = 2 then { e with data := v }
  else { e with masked := bitOf v 0 }

/-- A word of the pending bits. -/
def FnPcie.pba (p : FnPcie) (w : Nat) : Nat := ((p.pending.filter fun v => decide (v / 32 = w)).map fun v => 2 ^ (v % 32)).sum

/-- A read of a BAR0 word. Outside the layout it returns 0 and is counted (R89); what a doorbell reads is free. -/
def Chip.bar0Read (m : Chip) (f off : Nat) : Chip :=
  let p := (m.fn f).pcie
  match m.bar0At f off with
  | .register r => m.giveWord (m.nvmeReg f r)
  | .doorbell .. => m.giveWord (Config.nvmeReg f off).toNat
  | .vector v w => m.giveWord ((tget MsixEnt.blank p.vectors v).word w)
  | .pending w => m.giveWord (p.pba w)
  | .none => (m.unmapped (m.slotOf f)).giveWord 0

/-- A write of a BAR0 word. Outside the layout it is discarded and counted (R89); the pending bits are read only. -/
def Chip.bar0Write (m : Chip) (f off v : Nat) : Chip :=
  match m.bar0At f off with
  | .register r => m.writeNvme f r v
  | .doorbell y head => if head then m.cqHead f y (v % 65536) else m.sqTail f y (v % 65536)
  | .vector i w =>
    (m.modPcie f fun p => { p with vectors := tset MsixEnt.blank p.vectors i ((tget MsixEnt.blank p.vectors i).put w v) }).sendPending f
  | .pending _ => m
  | .none => m.unmapped (m.slotOf f)

/-- An access to a word of a function's BAR0 that arrives over its link: outside a Secure stream that the function requires it is dropped or
unsupported (R92). -/
def Chip.bar0 (m : Chip) (f off : Nat) (data : Option Nat) : Chip :=
  if !m.fnSeen f then m
  else if !m.reached f then m.nonsecure f data.isNone
  else match data with
  | none => m.bar0Read f off
  | some v => m.bar0Write f off v

def execBar0UnmappedAccess (f : Fn) (a : Bar0Access) (s : State) : Host.Outcome State Fault Refusal :=
  run s fun m => m.bar0 f.val a.off (a.data.map (·.toNat))

/-- The doorbells lie at 0x1000 + 8y and 4 above (R112). -/
def execSqTailDoorbell (f : Fn) (y : Fin 65536) (v : BitVec 16) (s : State) : Host.Outcome State Fault Refusal :=
  run s fun m => m.bar0 f.val (0x1000 + 8 * y.val) (some v.toNat)
def execCqHeadDoorbell (f : Fn) (y : Fin 65536) (v : BitVec 16) (s : State) : Host.Outcome State Fault Refusal :=
  run s fun m => m.bar0 f.val (0x1000 + 8 * y.val + 4) (some v.toNat)

end Sys2Proof.Machine
end

