-- ==== Sys2Proof/Machine/TwinRows.lean ====
section
/-! DEFINITION. The rows of the twin link (R405 to R441): flits and sub-links, the received frames by type, the link's timers, the
side-band lines, fencing and takeover. -/

namespace Sys2Proof.Machine

/-! ## Sub-links and frames -/

/-- A flit is received; `found`: what SPDM has found of the twin where a fragment in it ends the attestation. -/
def execFlitReceive (sub : SubLink) (bytes : List Byte) (found : Option TwinEvidence) (s : State) : Host.Outcome State Fault Refusal :=
  run s fun m => (m.flit sub bytes found).late
/-- All 16 lanes have trained at 64 (2) or 32 GT/s (1). -/
def execSublinkUp (sub : SubLink) (full : Bool) (s : State) : Host.Outcome State Fault Refusal :=
  run s fun m => (m.subUp sub.val (if full then 2 else 1)).late
def execSublinkBlockLockLoss (sub : SubLink) (s : State) : Host.Outcome State Fault Refusal := run s fun m => (m.subDown sub.val).late

def execHello (r : RxFrame) (body : List Byte) (s : State) : Host.Outcome State Fault Refusal :=
  run s fun m => (m.rxReliable (.hello r body) r true).late

def execSpdmFrame (r : RxFrame) (msg index : Fin 65536) (last : Bool) (msgLen : BitVec 32) (fragLen : Fin 65536) (body : List Byte)
    (found : Option TwinEvidence) (s : State) : Host.Outcome State Fault Refusal :=
  run s fun m => (m.rxReliable (.spdmFrame r msg index last msgLen fragLen body found) r true).late

def execHeartbeat (r : RxFrame) (dtc : BitVec 64) (state _devbaro _epoch : Fin 256) (s : State) : Host.Outcome State Fault Refusal :=
  run s fun m => m.rxUnseq r fun m => m.beatIn dtc.toNat state.val

def execAck (r : RxFrame) (ackSeq credSeq : BitVec 64) (nak : Bool) (s : State) : Host.Outcome State Fault Refusal :=
  run s fun m => (m.rxUnseq r fun m => m.ackIn r.sub.val ackSeq.toNat credSeq.toNat nak).late

def execMirror (r : RxFrame) (row : Fin 1024) (offset : BitVec 32) (body : List Byte) (s : State) : Host.Outcome State Fault Refusal :=
  run s fun m => (m.rxReliable (.mirror r row offset body) r false).late

def execCommit (r : RxFrame) (cwp rwp pfp : BitVec 32) (flags : Fin 65536) (body : List Byte) (s : State) :
    Host.Outcome State Fault Refusal :=
  run s fun m => (m.rxReliable (.commit r cwp rwp pfp flags body) r false).late

def execRelease (r : RxFrame) (row : Fin 1024) (reason : Fin 256) (pwp from_ : BitVec 32) (s : State) :
    Host.Outcome State Fault Refusal :=
  run s fun m => (m.rxReliable (.release r row reason pwp from_) r false).late

def execDelta (r : RxFrame) (body : List Byte) (s : State) : Host.Outcome State Fault Refusal :=
  run s fun m => (m.rxReliable (.delta r body) r false).late

def execParity (r : RxFrame) (row : Fin 1024) (member : Fin 18) (q : Bool) (offset : BitVec 32) (body : List Byte)
    (s : State) : Host.Outcome State Fault Refusal :=
  run s fun m => (m.rxReliable (.parity r row member q offset body) r false).late

def execFwdreqRead (r : RxFrame) (q : FwdOp) (s : State) : Host.Outcome State Fault Refusal :=
  run s fun m => (m.rxReliable (.fwdreqRead r q) r false).late
def execFwdreqProgram (r : RxFrame) (q : FwdOp) (s : State) : Host.Outcome State Fault Refusal :=
  run s fun m => (m.rxReliable (.fwdreqProgram r q) r false).late
def execFwdreqErase (r : RxFrame) (q : FwdOp) (s : State) : Host.Outcome State Fault Refusal :=
  run s fun m => (m.rxReliable (.fwdreqErase r q) r false).late

def execFwddata (r : RxFrame) (req offset : BitVec 32) (body : List Byte) (s : State) : Host.Outcome State Fault Refusal :=
  run s fun m => (m.rxReliable (.fwddata r req offset body) r false).late

def execFwddone (r : RxFrame) (req : BitVec 32) (status : Fin 256) (bits_ : Fin 65536) (busyUs : BitVec 32) (s : State) :
    Host.Outcome State Fault Refusal :=
  run s fun m => (m.rxReliable (.fwddone r req status bits_ busyUs) r false).late

def execFwdcmd (r : RxFrame) (fn : Fn) (queue : BitVec 32) (slot : SlotId) (tenant : Ten) (cls : Grp) (flags level : Fin 256)
    (entry : List Byte) (s : State) : Host.Outcome State Fault Refusal :=
  run s fun m => (m.rxReliable (.fwdcmd r fn queue slot tenant cls flags level entry) r false).late

def execFwdcpl (r : RxFrame) (slot : SlotId) (status : Fin 65536) (dw0 : BitVec 32) (s : State) : Host.Outcome State Fault Refusal :=
  run s fun m => (m.rxReliable (.fwdcpl r slot status dw0) r false).late

def execMarker (r : RxFrame) (marker : Fin 65536) (snap ack : Bool) (s : State) : Host.Outcome State Fault Refusal :=
  run s fun m => (m.rxReliable (.marker r marker snap ack) r false).late

def execFence (r : RxFrame) (_reason : Fin 256) (s : State) : Host.Outcome State Fault Refusal :=
  run s fun m => (m.rxUnseq r Chip.fenceIn).late

def execFenceack (r : RxFrame) (s : State) : Host.Outcome State Fault Refusal := run s fun m => (m.rxUnseq r Chip.fenceDone).late

/-- CTRL OP 1; `blocks`: of a Block Erase. -/
def execCtrlSanitizeRelay (r : RxFrame) (blocks : Bool) (s : State) : Host.Outcome State Fault Refusal :=
  run s fun m => (m.rxReliable (.ctrlSanitizeRelay r blocks) r false).late
def execCtrlResendRow (r : RxFrame) (row : Fin 1024) (s : State) : Host.Outcome State Fault Refusal :=
  run s fun m => (m.rxReliable (.ctrlResendRow r row) r false).late
def execCtrlHandover (r : RxFrame) (s : State) : Host.Outcome State Fault Refusal :=
  run s fun m => (m.rxReliable (.ctrlHandover r) r false).late
def execCtrlStateTransfer (r : RxFrame) (body : List Byte) (s : State) : Host.Outcome State Fault Refusal :=
  run s fun m => (m.rxReliable (.ctrlStateTransfer r body) r false).late
def execReservedFrame (r : RxFrame) (s : State) : Host.Outcome State Fault Refusal :=
  run s fun m => (m.rxReliable (.reservedFrame r) r false).late

/-! ## Link timers -/

/-- 2 µs have passed since the first bytes of a frame that is not complete (R417). -/
def execFrameIncompleteTimeout (sub : SubLink) (s : State) : Host.Outcome State Fault Refusal :=
  run s fun m => if (m.sub sub.val).up then m.loseFrame sub.val else m
def execReplayTimer (sub : SubLink) (s : State) : Host.Outcome State Fault Refusal := run s fun m => (m.replayTimer sub.val).late
/-- 10 µs have passed on an idle sub-link: an ACK goes out, and while this controller fences, FENCE (R415, R433). -/
def execAckIdleTimer (sub : SubLink) (s : State) : Host.Outcome State Fault Refusal :=
  run s fun m =>
    if !(m.sub sub.val).up then m
    else
      let m := if (m.sub sub.val).keyNum = 0 then m else m.sendAck sub.val false
      if m.tw.fencing then m.sendUnseq sub.val 0x10 (leBytes 1 m.tw.suspectWhy) else m
def execHandshakeTimeout (s : State) : Host.Outcome State Fault Refusal := run s fun m => m.handshakeTimeout.late
def execHeartbeatSendTimer (s : State) : Host.Outcome State Fault Refusal := run s Chip.sendBeat
def execTwinHbPulseTimer (s : State) : Host.Outcome State Fault Refusal := run s Chip.sendPulse
def execHeartbeatWindowClose (s : State) : Host.Outcome State Fault Refusal := run s fun m => m.windowClose.late

/-! ## Fencing, claims, takeover -/

def execFenceDeferTimeout (s : State) : Host.Outcome State Fault Refusal :=
  run s fun m => if m.tw.deferring ∧ m.f TWN_STAT.STATE = 3 then m.assertFence.late else m
def execFenceLineTimeout (s : State) : Host.Outcome State Fault Refusal :=
  run s fun m => if m.tw.fencing then m.fenceDone.late else m
def execTwinFenceAssert (s : State) : Host.Outcome State Fault Refusal := run s fun m => m.fenceSeen.late
def execTwinFenceRelease (s : State) : Host.Outcome State Fault Refusal := run s fun m => m.fenceReleased.late
/-- Mirror replay and the recomputation of accumulators have ended. -/
def execMirrorReplayDone (s : State) : Host.Outcome State Fault Refusal :=
  run s fun m =>
    if m.tw.takeover then (({ m with tw := { m.tw with takeover := false } } : Chip).takeoverEnd).late else m
def execClaimSeenAssert (k : Clus) (s : State) : Host.Outcome State Fault Refusal := run s fun m => (m.claimSeen k.val).late
def execClaimSeenDeassert (k : Clus) (s : State) : Host.Outcome State Fault Refusal := run s fun m => (m.seenLost k.val).late
def execClaimRefuseTimeout (k : Clus) (s : State) : Host.Outcome State Fault Refusal := run s fun m => (m.claimRefused k.val).late
def execClaimRetryTimer (s : State) : Host.Outcome State Fault Refusal := run s fun m => m.claimRetry.late
def execTakeoverClaimTimeout (s : State) : Host.Outcome State Fault Refusal := run s fun m => m.takeoverFails.late

/-- The acknowledgements of a barrier are in (R54 to R57). -/
def execBarrierComplete (s : State) : Host.Outcome State Fault Refusal := run s fun m => m.barDone.late

end Sys2Proof.Machine
end

