-- ==== Sys2Proof/Machine/Power.lean ====
section
/-! DEFINITION. Power states (R479 to R490): the entries to Lull and Calm and their ends, wake events, and the lines that can wake the
device. -/

namespace Sys2Proof.Machine

/-- The conditions of R481 hold. -/
def Chip.lullIdle (m : Chip) : Bool :=
  let tw := m.f TWN_STAT.STATE
  (m.q.slots.all fun e => e.2.admin && decide (opcodeOf e.2.entry = 0x0C)) &&
  (m.md.dies.all fun e => decide (e.2.queue = [] ∧ e.2.overflow = []) && e.2.running.isNone && e.2.suspended.isNone) &&
  decide (m.md.disp = [] ∧ m.md.softQ = [] ∧ m.md.solves = [] ∧ m.zn.moves = [] ∧ m.zn.regionMoves = [] ∧ m.md.retry = [] ∧ m.dr.runs = [] ∧ m.tw.mirror = [] ∧ m.isl.barQueue = []) &&
  m.zn.compact.isNone && m.zn.merge.isNone && !m.dirty && decide (m.f SDP_SCRUB_STAT.BUSY = 0 ∧ m.f PLP_STAT.STATE = 0) &&
  ((List.range 12).all fun k => !m.clusterTrains k) && m.isl.flight.isNone && m.img.switch.isNone &&
  (decide (tw = 2 ∨ tw = 6 ∨ tw = 8) || m.twnIdle)

/-- IDLE_MS has passed with R481's conditions held. -/
def Chip.lullEnter (m : Chip) : Chip :=
  if m.f PWR_CTL.LULL_EN = 1 ∧ m.f PWR_STAT.STATE ≤ 1 ∧ m.st.step = 14 ∧ m.lullIdle then
    ((m.setF PWR_STAT.STATE 2).setF PWR_STAT.LATCHED 0).powerPoll
  else m

/-- Islands that are all off. -/
def Chip.allOff (m : Chip) (is : List Nat) : Bool := is.all fun i => decide (m.islState i = 0)

/-- The Lull-off islands are off: LULL, and a latched wake starts the exit at once. -/
def Chip.lullDone (m : Chip) : Chip :=
  if m.f PWR_STAT.STATE = 2 ∧ m.allOff ((List.range 28).filter lullOff) then
    let m := ((m.setF PWR_STAT.STATE 3).incF PWR_COUNT.LULLS).emit 0 0x6C01
    if m.f PWR_STAT.LATCHED = 1 then m.startExit.lullExitPoll else m
  else m

/-- Every island but AON is off: CALM. -/
def Chip.calmDone (m : Chip) : Chip :=
  if m.f PWR_STAT.STATE = 4 ∧ m.allOff ((List.range 27).map (· + 1)) then
    let m := (((m.setF PWR_STAT.STATE 5).setF PWR_CALMRES.RESULT 1).setF PWR_CTL.CALM 0).incF PWR_COUNT.CALMS
    let m := m.emit 0 0x6C02
    if m.f PWR_STAT.LATCHED = 1 then m.startExit else m
  else m

/-- A wake source of Calm, by its bit in WAKEEN, with the group for PERST. -/
def Chip.calmWake (m : Chip) (bit wh : Nat) : Chip :=
  let st := m.f PWR_STAT.STATE
  if (st = 4 ∨ st = 5) ∧ m.fbit PWR_CALMCFG.WAKEEN bit then m.wakeEvent (7 + bit) wh else m

/-- The firmware check of R334 at a Calm exit: the bank that runs, or ROM recovery. -/
def Chip.calmFirmware (m : Chip) : Chip :=
  let m := m.startFirmware
  if m.f TRS_STAT.ROMREC = 1 then m.goStep 6 else m.goStep 14

/-- Calm exit completes: islands awake, DRAM and CEs trained, and with a twin the handshake run again on the claims held; pools enter
service. -/
def Chip.calmExitDone (m : Chip) : Chip :=
  if m.f PWR_STAT.STATE ≠ 6 ∨ m.f PWR_WAKESRC.FROM ≠ 2 ∨ !((List.range 28).all fun i => decide (m.islState i ≠ 1)) ∨
      m.dr.runs ≠ [] ∨ (List.range 12).any (fun k => m.clusterTrains k) ∨ (m.f TWN_STAT.STATE = 2 ∧ !m.linkKeyed) then m
  else
    let m := m.calmFirmware
    if m.f TRS_STAT.ROMREC = 1 then m
    else
      let m := (m.setF PWR_STAT.STATE 1).setF PWR_CTL.WAKE 0
      let m := m.img.tables.pools.foldl (fun (m : Chip) r => m.grantPool r.pool) (m.setF BPM_STAT.MODE 0)
      m.showTrim.late

/-- PWR_WAKETMR has run out since the entry to Lull or Calm. -/
def Chip.timerWake (m : Chip) : Chip :=
  if m.f PWR_WAKETMR.SECONDS = 0 then m
  else if m.f PWR_STAT.STATE = 2 ∨ m.f PWR_STAT.STATE = 3 then m.wakeEvent 11 0
  else m.calmWake 4 0

/-- PWR_CTL.WAKE; the bit stays until the exit completes. -/
def Chip.wakeAsked (m : Chip) : Chip :=
  let st := m.f PWR_STAT.STATE
  if 2 ≤ st ∧ st ≤ 5 then (m.setF PWR_CTL.WAKE 1).wakeEvent 3 0 else m

/-! ## Rows -/

def execLullIdleTimeout (s : State) : Host.Outcome State Fault Refusal := run s Chip.lullEnter
def execLullEntryDone (s : State) : Host.Outcome State Fault Refusal := run s Chip.lullDone

/-- A Lull wake event: a unit sent toward a Lull-off island, an access with AUTOWAKE set to one, or Drizzle that firmware finds due. -/
def execLullWake (w : LullSrc) (s : State) : Host.Outcome State Fault Refusal :=
  run s fun m =>
    match w with
    | .unit i => if lullOff i.val then m.lullWake 1 i.val else m
    | .cw i => if lullOff i.val ∧ m.f ISL_CTL.AUTOWAKE i.val = 1 then m.lullWake 2 i.val else m
    | .schedule => m.lullWake 4 0

def execWakeTimerExpiry (s : State) : Host.Outcome State Fault Refusal := run s Chip.timerWake
def execCalmEntryDone (s : State) : Host.Outcome State Fault Refusal := run s Chip.calmDone

/-- A Calm wake source: the address matched on I3C or SMBus, PERST_nk deasserted, a twin pulse, or the timer. -/
def execCalmWake (w : CalmSrc) (s : State) : Host.Outcome State Fault Refusal :=
  run s fun m =>
    match w with
    | .i3c => m.calmWake 0 0
    | .smbus => m.calmWake 1 0
    | .perst g => m.calmWake 2 g.val
    | .twinHb => m.calmWake 3 0
    | .timer => if m.f PWR_WAKETMR.SECONDS = 0 then m else m.calmWake 4 0

def execCalmExitDone (s : State) : Host.Outcome State Fault Refusal := run s Chip.calmExitDone
/-- 500 ms have passed since Calm exit started. -/
def execPairHoldEnd (s : State) : Host.Outcome State Fault Refusal :=
  run s fun m => if m.tw.heldHb ∧ m.tw.holdWoke then m.pairFree else m

/-- PERST_nk deasserts: the group's ports train, which is a use that turns the HST island on (R42, R464); in Calm it is a wake
source. -/
def execPerstDeassert (g : Grp) (s : State) : Host.Outcome State Fault Refusal :=
  run s fun m =>
    let m := if bitOf m.q.perst g.val then { m with q := { m.q with perst := m.q.perst - 2 ^ g.val } } else m
    let st := m.f PWR_STAT.STATE
    if st = 4 ∨ st = 5 then m.calmWake 2 g.val
    else ((List.range 4).foldl (fun (m : Chip) k => m.startTraining (4 * g.val + k)) m).powerPoll

/-- A low of the twin's on TWIN_HB: a pulse, and in Calm a wake source (R431, R487). -/
def execTwinHbPulseDetect (s : State) : Host.Outcome State Fault Refusal := run s fun m => m.pulseIn.calmWake 3 0

end Sys2Proof.Machine
end

