-- ==== Sys2Proof/Machine/Recorder.lean ====
section
/-! DEFINITION. The event recorder and the fault lines (rules R510 to R524): records, token buckets, notices, the fault mask. -/

namespace Sys2Proof.Machine

/-! ## Records (R514 to R516) -/

/-- The bin of a value: 0 for 0, k for 2^(k−1) to 2^k − 1, 63 from 2^62 on. -/
def binOf (v : Nat) : Nat := if v = 0 then 0 else min (Nat.log2 v + 1) 63

/-- A 32-bit count that saturates (R11). -/
def sat32 (x : Nat) : Nat := min x (2 ^ 32 - 1)

/-- A record after one event. -/
def EvRec.take (r : EvRec) (e : Ev) : EvRec :=
  let x : Extreme := ⟨e.value, e.dtc, e.tag⟩
  { r with
    fault := r.fault || e.fault
    group := if r.fault || e.fault then groupOf e.code else 0
    gen := (r.gen + 2) % 2 ^ 32
    count := sat32 (r.count + 1)
    min := if r.fresh ∨ e.value < r.min.value then x else r.min
    max := if r.fresh ∨ r.max.value < e.value then x else r.max
    fresh := false
    last := e.dtc % 2 ^ 32
    bins := tput r.bins (binOf e.value) (sat32 (tget 0 r.bins (binOf e.value) + 1)) }

/-- A record as it is allocated. -/
def EvRec.new (code : Nat) (fault : Bool) : EvRec :=
  ⟨code, fault, if fault then groupOf code else 0, 0, 0, 0, true, ⟨0, 0, none⟩, ⟨0, 0, none⟩, 0, []⟩

/-- The record of a code. -/
def Chip.evRec? (m : Chip) (code : Nat) : Option EvRec := m.evr.records.find? (·.code = code)

/-- Change the record of a code. -/
def Chip.mapRec (m : Chip) (code : Nat) (g : EvRec → EvRec) : Chip :=
  { m with evr := { m.evr with records := m.evr.records.map fun r => if r.code = code then g r else r } }

/-- The records changed hands: RECORDS shows how many are in use, and GEN rises by `k`. -/
def Chip.recsMoved (m : Chip) (k : Nat) : Chip := (m.setF EVR_STAT.RECORDS m.evr.records.length).addF EVR_GEN.GEN k

/-- An event updates its code's record; one without a free record is counted, and the first such since OVF was read raises
0x7001. -/
def Chip.recordEv (m : Chip) (e : Ev) : Chip :=
  match m.evRec? e.code with
  | some _ => m.mapRec e.code (·.take e)
  | none =>
    if m.evr.records.length < 1024 then
      let r := (EvRec.new e.code e.fault).take e
      ({ m with evr := { m.evr with records := m.evr.records ++ [r] } } : Chip).recsMoved 1
    else
      let m' := m.incF EVR_STAT.OVF
      if m.f EVR_STAT.OVF = 0 then m'.emit 0 0x7001 e.code else m'

/-! ## Notices (R518 to R520) -/

/-- The tables AON has applied. -/
def Chip.evrTables (m : Chip) : Image := m.tablesOf (m.f ISL_STAT.APPLIED_EPOCH 0)

/-- The tokens in a code's bucket. -/
def Chip.tokens (m : Chip) (code : Nat) : Nat := (m.evrTables.bucket code).1 - tget 0 m.evr.spent code

/-- The notice of an event (R519). -/
def Ev.notice (e : Ev) (seq : Nat) : Notice :=
  let host := match e.tag with | some t => decide (tagFn t ≠ 0x1FFF) && !tagInternal t | none => false
  { code := e.code
    flags := b1 e.fault + 2 * b1 e.tag.isSome + 4 * b1 e.first + 8 * b1 host
    group := if e.fault then groupOf e.code else 0
    seq := seq, dtc := e.dtc, value := e.value
    func := match e.tag with | some t => tagFn t | none => 0x1FFF
    tenant := match e.tag with | some t => if tagInternal t then 0xFFFF else tagTenant t | none => 0xFFFF
    zone := match e.tag with | some t => if tagNoZone t then 0xFFFFFFFF else tagZone t | none => 0xFFFFFFFF }

/-- An event's notice reaches the hosts when its EVR record asks for it: function 0, and the host function it names. -/
def Chip.noticeAens (m : Chip) (n : Notice) : Chip :=
  match m.evrTables.evr.find? (·.code = n.code) with
  | some r =>
    if bitOf r.flags 0 then
      let m := m.aen 0 7 0xC1 0xC1
      if bitOf n.flags 3 ∧ n.func ≠ 0 then m.aen n.func 7 0xC1 0xC1 else m
    else m
  | none => m

/-- A notice is produced: the ring of 256, the fault log, the asynchronous events. -/
def Chip.produce (m : Chip) (e : Ev) : Chip :=
  let seq := (m.f EVR_NTCSEQ.SEQ + 1) % 2 ^ 32
  let n := e.notice seq
  let m := ({ m with evr := { m.evr with ring := (n :: m.evr.ring).take 256 } } : Chip).setF EVR_NTCSEQ.SEQ seq
  let m := if e.fault then m.plogWrite n else m
  m.noticeAens n

/-- The bucket decides: a token is taken and a notice produced; without one only a fault that set its pending bit produces one
where the depth is not 0, and another event is withheld. -/
def Chip.noticeEv (m : Chip) (e : Ev) : Chip :=
  if 0 < m.tokens e.code then
    ({ m with evr := { m.evr with spent := tset 0 m.evr.spent e.code (tget 0 m.evr.spent e.code + 1) } } : Chip).produce e
  else if e.first ∧ 0 < (m.evrTables.bucket e.code).1 then m.produce e
  else m.mapRec e.code fun r => { r with withheld := sat32 (r.withheld + 1) }

/-- The first event in an island's porter queue reaches the recorder. -/
def Chip.evArrive (m : Chip) (isl : Nat) : Chip :=
  match tget [] m.evr.queues isl with
  | [] => m
  | e :: rest =>
    let m : Chip := { m with evr := { m.evr with queues := tset [] m.evr.queues isl rest } }
    (m.recordEv e).noticeEv e

/-- One token comes back to a code's bucket. -/
def Chip.refill (m : Chip) (code : Nat) : Chip :=
  { m with evr := { m.evr with spent := tset 0 m.evr.spent code (min (tget 0 m.evr.spent code) (m.evrTables.bucket code).1 - 1) } }

/-! ## EVR_CTL (R514, R516) -/

/-- The record named in EVR_IDX is cleared and stays allocated. -/
def Chip.evrClear (m : Chip) : Chip :=
  let code := m.f EVR_IDX.CODE
  match m.evRec? code with
  | some _ => (m.mapRec code fun r => { EvRec.new code r.fault with gen := (r.gen + 2) % 2 ^ 32, group := r.group }).addF EVR_GEN.GEN 1
  | none => m

/-- Every record but that of 0x7001 is released. -/
def Chip.evrFree (m : Chip) : Chip :=
  let keep := m.evr.records.filter fun r => decide (r.code = 0x7001)
  let n := m.evr.records.length - keep.length
  ({ m with evr := { m.evr with records := keep } } : Chip).recsMoved n

/-! ## Commands -/

/-- An event reaches the recorder from an island's porter queue. -/
def execEventRaise (i : Isl) (s : State) : Host.Outcome State Fault Refusal := run s fun m => m.evArrive i.val

/-- REFILL_US have passed for a code. -/
def execTokenRefill (code : Fin 65536) (s : State) : Host.Outcome State Fault Refusal := run s fun m => m.refill code.val

end Sys2Proof.Machine
end

