-- ==== Sys2Proof/Machine/Live.lean ====
section
/-! DEFINITION. What registers that show other state read as: the fields no meaning stores, each computed from the state it
shows. -/

namespace Sys2Proof.Machine

/-! ## Helpers -/

/-- The 32-bit word `i` of a byte string. -/
def wordAt (b : List Byte) (i : Nat) : Nat := fieldAt b (4 * i) 4

/-- The status of the slot KVT_SLOT_IDX names. -/
def Chip.slotShown (m : Chip) : KeySlot :=
  (tfind m.kv.slots (m.f KVT_SLOT_IDX.SLOT)).getD
    { state := 0, kind := 0, tenant := 0, keygen := 0, nsid := 0, key := 0, reload := false }

/-- The snapshot record of the zone ZNE_SNAPIDX names. -/
def Chip.snapShown (m : Chip) : SnapRec := tget ⟨0, 0, 0⟩ m.isl.snap (m.f ZNE_SNAPIDX.ZONE)

/-- No operation runs on a channel. -/
def Chip.chanIdle (m : Chip) (ch : Nat) : Bool := (List.range 32).all fun i => (m.die (32 * ch + i)).running.isNone

/-- The record of the code EVR_IDX names as the 89 words of R517. -/
def Chip.recWord (m : Chip) (w : Nat) : Nat :=
  match m.evRec? (m.f EVR_IDX.CODE) with
  | none => 0
  | some r =>
    let tagWord (x : Extreme) (i : Nat) : Nat := bits (x.tag.getD 0) (32 * i + 31) (32 * i)
    if w = 0 then
      r.code + 2 ^ 24 * r.group + 2 ^ 28 * (b1 r.max.tag.isSome) + 2 ^ 29 * (b1 r.min.tag.isSome) + 2 ^ 30 * (b1 r.fault) + 2 ^ 31
    else if w = 1 then r.gen
    else if w = 2 then r.count
    else if w = 3 then r.withheld
    else if w = 4 then bits r.min.value 31 0
    else if w = 5 then bits r.min.value 63 32
    else if w = 6 then bits r.min.dtc 31 0
    else if w = 7 then bits r.min.dtc 63 32
    else if w ≤ 13 then tagWord r.min (w - 8)
    else if w = 14 then bits r.max.value 31 0
    else if w = 15 then bits r.max.value 63 32
    else if w = 16 then bits r.max.dtc 31 0
    else if w = 17 then bits r.max.dtc 63 32
    else if w ≤ 23 then tagWord r.max (w - 18)
    else if w = 24 then r.last
    else tget 0 r.bins (w - 25)

/-- The notice of the ring entry EVR_NTCIDX names. -/
def Chip.ringShown (m : Chip) : List Byte :=
  match m.evr.ring.find? fun n => decide ((n.seq - 1) % 256 = m.f EVR_NTCIDX.ENTRY) with
  | some n => n.bytes
  | none => []

/-- The notice of the log entry EVR_PLIDX names. -/
def Chip.plogShown (m : Chip) : List Byte := ((tfind m.evr.plog (m.f EVR_PLIDX.ENTRY)).map Notice.bytes).getD []

/-- Seconds left on a debug grant; 0 at level 0 and without one. -/
def Chip.remainS (m : Chip) : Nat :=
  if m.level = 0 ∨ m.tr.debug = 0 then 0 else ceilDiv (m.tr.debugEnd - m.isl.dtc) 62500000

/-- A GCM lane has a message. -/
def Chip.gcmBusy (m : Chip) : Nat := ((List.range 8).filter fun i => (m.lane i).running.isSome).length

/-- XTS lanes busy: a lane for every write whose data is not all encrypted, at most 32. -/
def Chip.xtsBusy (m : Chip) : Nat :=
  min 32 ((m.q.slots.filter fun e => m.xtsMore e.2).length)

/-- A parity verify's units are under way. -/
def Chip.verifying (m : Chip) : Bool :=
  let isV (u : DUnit) : Bool := match u.purpose with | .verify _ _ => true | _ => false
  m.md.disp.any isV || (List.range 3072).any fun d =>
    let x := m.die d
    x.queue.any isV || x.overflow.any isV || x.running.any isV

/-- What requester `r` holds, in units of 64 KiB rounded up. -/
def Chip.heldAll (m : Chip) (r : Nat) : Nat :=
  ceilDiv ((m.bp.bufs.filter fun e => decide (e.2.allocator = r)).map (·.2.size)).sum 65536

/-- The words of AGE_W for an island. -/
def Chip.ageWord (m : Chip) (i w : Nat) : Nat :=
  let x := m.ageIsl i
  let (v, f) := m.pointOf i
  let k := ((m.islandRec i).map fun r => stepsBelow r f).getD 0
  if w = 0 then
    if x.m0.isNone then 0
    else 2 ^ 24 * (x.m0.getD 0 % 64) + 2 ^ 16 * (x.margin % 64) + (v - ((m.islandRec i).map (·.vpt)).getD 0) % 16 * 2 ^ 8 + k % 16
  else if w = 1 then leNat ((x.canary.take 4).map (BitVec.ofNat 8 ·))
  else if w = 2 then leNat (((x.canary.drop 4).take 4).map (BitVec.ofNat 8 ·))
  else x.ro0 + 65536 * x.ro1

/-! ## The live fields, by block -/

/-- A field that shows other state, and what it shows for an element. -/
abbrev Live := Fld × (Chip → Nat → Nat)

def liveGEN : List Live :=
  [(GEN_ID.GRADE, fun _ _ => b1 Config.gradeX), (GEN_FLOOR.VERSION, fun m _ => m.nv.floor),
   (GEN_UID_LO.UID, fun _ _ => bits Config.uid.toNat 31 0), (GEN_UID_HI.UID, fun _ _ => bits Config.uid.toNat 63 32)]

def liveISL : List Live :=
  [(ISL_DTC_LO.DTC, fun m _ => bits m.isl.dtc 31 0), (ISL_DTC_HI.DTC, fun m _ => bits m.isl.dtc 63 32)]

def liveIMG : List Live := [(IMG_BANK.ACTIVE, fun m _ => m.nv.banks.2)]

def liveQIE : List Live :=
  [(QIE_STAT.HOST_FREE, fun m _ => m.freeIn 0 hostSlots), (QIE_STAT.ADMIN_FREE, fun m _ => m.freeIn hostSlots adminSlots),
   (QIE_STAT.PAUSED, fun m _ => b1 (decide (m.f QIE_CTL.FETCH_PAUSE = 1) && m.q.slots.all fun e => decide (e.2.phase ≠ .reserved)))]

def liveZNE : List Live :=
  [(ZNE_STAT.ACTIVE, fun m _ => m.activeCount), (ZNE_STAT.OPEN, fun m _ => m.openCount),
   (ZNE_LIMITS.ACTIVE_LIMIT, fun m _ => m.activeLimit), (ZNE_LIMITS.OPEN_LIMIT, fun m _ => m.openLimit),
   (ZNE_FREE.NOERASED, fun m _ => ((List.range 3072).filter fun d =>
      m.declared d && m.eligible d && (m.freeBlocks d).all fun e => decide (e.2.state ≠ 0)).length),
   (ZNE_FREE.NOFREE, fun m _ => ((List.range 3072).filter fun d =>
      m.declared d && decide (2 ≤ m.f FCH_DIE.STATE d ∧ m.f FCH_DIE.STATE d ≤ 5) && (m.freeBlocks d).isEmpty).length),
   (ZNE_SNAPW.WORD, fun m w => let r := m.snapShown; if w = 0 then r.state else if w = 1 then r.cwp else r.rwp)]

/-- The mode a channel is driven in: not at all while unclaimed (R23), SDR from its identification to its first passed run (R215). -/
def Chip.chanMode (m : Chip) (ch : Nat) : Nat :=
  if !m.claims (ch / 8) ∨ m.st.step < 10 then 0 else max 1 (m.f FCH_STAT.MODE ch)

def liveFCH : List Live :=
  [(FCH_STAT.OWNED, fun m ch => b1 (m.claims (ch / 8))),
   (FCH_STAT.HELD, fun m ch => b1 (decide (m.f FCH_CTL.HOLD ch = 1) && m.chanIdle ch)),
   (FCH_STAT.MODE, fun m ch => m.chanMode ch)]

def liveXFM : List Live :=
  [(CMP_STAT.DEC_BUSY, fun m _ => m.eng.decomp.length), (CMP_STAT.CMP_BUSY, fun m _ => m.eng.comp.length),
   (CPH_STAT.SUSPENDED, fun m _ => ((List.range 8).map fun i => (m.lane i).susp.length).foldl max 0),
   (CPH_STAT.GCM_BUSY, fun m _ => m.gcmBusy), (CPH_STAT.XTS_BUSY, fun m _ => m.xtsBusy),
   (SPE_STAT.VERIFYING, fun m _ => b1 m.verifying)]

def liveKVT : List Live :=
  [(KVT_STAT.DWK, fun m _ => b1 m.dwkLoaded),
   (KVT_STAT.META, fun m _ => b1 (decide (((tfind m.kv.slots 8193).map (·.state)).getD 0 = 1))),
   (KVT_STAT.DATA_LOADED, fun m _ => (m.kv.slots.filter fun e => decide (e.1 < 8192 ∧ e.2.state = 1)).length),
   (KVT_SLOT_STAT.STATE, fun m _ => m.slotShown.state), (KVT_SLOT_STAT.KIND, fun m _ => m.slotShown.kind),
   (KVT_SLOT_STAT.TENANT, fun m _ => m.slotShown.tenant), (KVT_SLOT_STAT.KEYGEN, fun m _ => m.slotShown.keygen),
   (KVT_SLOT_W.NSID, fun m _ => m.slotShown.nsid)]

def liveNVA : List Live :=
  [(NVA_ACTIVE.ERASEALL, fun m _ => b1 m.nv.eraseAll), (NVA_ACTIVE.PENDERASE, fun m _ => m.nv.pendErase.length),
   (NVA_ACTIVE.FW_BANK, fun m _ => m.nv.banks.1), (NVA_ECNT.ECNT, fun m _ => tget 0 m.nv.ecnt (m.f NVA_ECNT_IDX.SECTOR))]

def liveTRS : List Live :=
  [(TRS_STAT.LEVEL, fun m _ => m.level), (TRS_STAT.OWNED, fun m _ => b1 (decide (m.nv.owner ≠ []))),
   (TRS_STAT.LEVEL2_FUSE, fun m _ => b1 m.nv.level2), (TRS_DEBUG.REMAIN_S, fun m _ => m.remainS),
   (TRS_DEBUG.CORE, fun m _ => bits m.scopes 1 1), (TRS_DEBUG.PERTURB, fun m _ => bits m.scopes 0 0),
   (TRS_SVN.FLOOR, fun m _ => m.nv.svnFloor), (TRS_SVN.RUNNING, fun m _ => fieldAt m.tr.running 0x14 2),
   (TRS_IMGKEY.STATE, fun m _ => (List.range 4).foldl (fun a k => a + ((m.nv.imgKeys[k]?).map (·.1)).getD 0 * 4 ^ k) 0),
   (TRS_SANSTAT.DWK_GEN, fun m _ => m.nv.dwkGen),
   (TRS_OWNERDIG.WORD, fun m i => if m.nv.owner = [] then 0 else wordAt (Config.sha384 m.nv.owner) i)]

/-- A field of the image's record of a pool. -/
def poolShown (g : PoolRec → Nat) (m : Chip) (p : Nat) : Nat := ((m.poolRec p).map g).getD 0

def liveBPM : List Live :=
  [(BPM_POOLCFG.VALID, poolShown fun _ => 1), (BPM_POOLCFG.USED, fun m p => b1 (m.poolUsed p)),
   (BPM_POOLCFG.MIRROR, poolShown fun r => bits r.flags 0 0), (BPM_POOLCFG.MEM, poolShown (·.mem)),
   (BPM_POOLCFG.MODE, poolShown (·.mode)), (BPM_POOLCFG.RANK, poolShown (·.rank)),
   (BPM_POOLCFG.CLASSMASK, poolShown (·.classmask)), (BPM_POOLSTAT.BARO, fun m p => m.baroOf p),
   (BPM_POOLSTAT.FILL, fun m p => m.poolFill p), (BPM_POOLFREE.FREE, fun m p => ((m.pool p).cap - (m.pool p).used) / 65536),
   (BPM_RQHELD.WAITING, fun m r => min 255 ((m.bp.pools.map fun e => (e.2.wait.filter fun q => decide (q.rq = r)).length).sum)),
   (BPM_RQHELD.HELD, fun m r => m.heldAll r),
   (BPM_RQCFG.QUOTA, fun m r => if rqHasPool r then m.f BPM_RQCFG.QUOTA r else 0),
   (BPM_RQCFG.MIN, fun m r => if rqHasPool r then m.f BPM_RQCFG.MIN r else 0)]

def liveDRC : List Live := [(DRC_STAT.QUIET, fun m ch => b1 (decide (m.f DRC_CTL.QUIESCE ch = 1) && !m.dramQueued ch))]

def liveAON : List Live :=
  [(PWR_ISLON.ON, fun m _ => (List.range 28).foldl (fun a i => a + b1 (decide (m.islState i = 2)) * 2 ^ i) 0),
   (THM_SENS.MASKED, fun m i => b1 (!m.diodeOn i)), (THM_SENS.NBR_A, fun _ i => Config.neighbourA i % 64),
   (THM_SENS.NBR_B, fun _ i => Config.neighbourB i % 64)]

def liveEVR : List Live :=
  [(EVR_PLSTAT.WRAPPED, fun m _ => b1 m.evr.plogFull), (EVR_PLSTAT.NEXT, fun m _ => m.evr.plogNext),
   (EVR_W.WORD, fun m w => m.recWord w), (EVR_NTCW.WORD, fun m w => wordAt m.ringShown w),
   (EVR_PLW.WORD, fun m w => wordAt m.plogShown w)]

def liveFLT : List Live :=
  [(FLT_STAT.FAULT_N, fun m _ => b1 m.faultN), (FLT_STAT.ACTIVE, fun m _ => m.f FLT_PEND.GROUP &&& (0xFFFF ^^^ m.f FLT_MASK.GROUP))]

/-- The live fields of the block a CW offset lies in. -/
def liveOf (off : Nat) : List Live :=
  let b := off / 0x10000
  if b = 0x0 then liveGEN else if b = 0x1 then liveISL else if b = 0x2 then liveIMG
  else if 0x4 ≤ b ∧ b ≤ 0x7 then liveQIE else if b = 0x9 then liveZNE
  else if 0x10 ≤ b ∧ b ≤ 0x15 then liveFCH else if 0x17 ≤ b ∧ b ≤ 0x19 then liveXFM
  else if b = 0x1A then liveKVT else if b = 0x1B then liveNVA else if b = 0x1C then liveTRS else if b = 0x1D then liveBPM
  else if b = 0x1E then liveDRC else if b = 0x23 ∨ b = 0x24 then liveAON else if b = 0x26 then liveEVR
  else if b = 0x29 then liveFLT else []

/-- The fields of the block a CW offset lies in. -/
def blockFields (off : Nat) : List Fld :=
  let b := off / 0x10000
  if b = 0x0 then fieldsGEN else if b = 0x1 then fieldsISL else if b = 0x2 then fieldsIMG else if b = 0x3 then fieldsHPT
  else if 0x4 ≤ b ∧ b ≤ 0x7 then fieldsQIE else if b = 0x8 then fieldsQCX else if b = 0x9 then fieldsZNE
  else if b = 0xA then fieldsDLS else if b = 0xB then fieldsTNT else if 0x10 ≤ b ∧ b ≤ 0x15 then fieldsFCH
  else if b = 0x16 then fieldsLDP else if b = 0x17 then fieldsSPE else if b = 0x18 then fieldsCMP else if b = 0x19 then fieldsCPH
  else if b = 0x1A then fieldsKVT else if b = 0x1B then fieldsNVA else if b = 0x1C then fieldsTRS else if b = 0x1D then fieldsBPM
  else if b = 0x1E then fieldsDRC else if b = 0x1F then fieldsSDP else if b = 0x20 then fieldsTWN else if b = 0x21 then fieldsPSQ
  else if b = 0x22 then fieldsPLP else if b = 0x23 then fieldsPWR else if b = 0x24 then fieldsTHM else if b = 0x25 then fieldsAGE
  else if b = 0x26 then fieldsEVR else if b = 0x27 then fieldsARB else if b = 0x28 then fieldsPTB else if b = 0x29 then fieldsFLT
  else []

/-- The fields of the register at a CW offset, each with the element it is there; none where no register is. -/
def fieldsAt (off : Nat) : List (Fld × Nat) := (blockFields off).filterMap fun f => (f.index? off).map fun n => (f, n)

/-- What a field reads as. -/
def Chip.see (m : Chip) (off : Nat) (f : Fld) (n : Nat) : Nat :=
  match (liveOf off).find? fun e => decide (e.1.base = f.base ∧ e.1.lo = f.lo) with
  | some e => e.2 m n % f.span
  | none => m.f f n

/-- What the register at a CW offset reads as: its fields in their places, a WO field 0, reserved bits 0 (R5, R6). -/
def Chip.regWord (m : Chip) (off : Nat) : Nat :=
  (fieldsAt off).foldl (fun a e => a + (if e.1.acc = .wo then 0 else m.see off e.1 e.2) * 2 ^ e.1.lo) 0

end Sys2Proof.Machine
end

