-- ==== Sys2Proof/Machine/Cw.lean ====
section
/-! DEFINITION. A write of a 32-bit word to a register of the control window: its fields by their access codes and ranges (R5, R6,
R12), and what the register does beside (R11 to R15, and the register tables of the chapters). -/

namespace Sys2Proof.Machine

/-! ## Fields -/

/-- The bits of the register at a CW offset that the running image marks writable (R61). -/
def Chip.rwlOpen (m : Chip) (off : Nat) : Nat :=
  (m.img.tables.writable.filter fun e => decide (e.1 = off)).foldl (fun a e => a ||| e.2) 0

/-- The value a write of word `w` asks a field to take; none where the access code ignores writes. -/
def Chip.asked (m : Chip) (off w : Nat) (f : Fld) (n : Nat) : Option Nat :=
  let v := bits w f.hi f.lo
  match f.acc with
  | .rw => some v
  | .rwl =>
    let k := bits (m.rwlOpen off) f.hi f.lo
    if k = 0 then none else some ((v &&& k) ||| (m.f f n &&& (f.span - 1 - k)))
  | .w1c => some (m.f f n &&& (f.span - 1 - v))
  | _ => none

/-- Fields whose permitted values are narrower than their range of bits and no single range: the field, and the test. -/
def oddRanges : List (Fld × (Nat → Bool)) :=
  [(IMG_CMD.OP, fun v => decide (v ≤ 4)),
   (LDP_RRCFG.SOFT_MV, fun v => decide (10 ≤ v ∧ v ≤ 250 ∧ v % 10 = 0)),
   (PTB_HSDLY.CYCLES, fun v => decide (1 ≤ v)), (PTB_STALL.LEN, fun v => decide (1 ≤ v)),
   (PTB_CAPAR.COUNT, fun v => decide (1 ≤ v)), (PTB_LDPC.FAILS, fun v => decide (1 ≤ v)),
   (PTB_LDPC.COUNT, fun v => decide (1 ≤ v)), (PTB_LDPC.DIE, fun v => decide (v ≤ 3071))]

/-- A field may take a value (R12 and the ranges of the register tables). -/
def Fld.takes (f : Fld) (v : Nat) : Bool :=
  decide (f.vmin ≤ v ∧ v ≤ f.vmax) && (match oddRanges.find? fun e => decide (e.1 = f) with | some e => e.2 v | none => true)

/-- One field of a written register: its new value, or unchanged and `true` where the value is refused. -/
def Chip.storeField (m : Chip) (off w : Nat) (f : Fld) (n : Nat) : Chip × Bool :=
  match m.asked off w f n with
  | none => (m, false)
  | some v => if f.acc = .w1c ∨ f.takes v then (m.setF f v n, false) else (m, true)

/-- The fields of a written register; a refused value is a configuration-class event (R12). -/
def Chip.storeReg (m : Chip) (off w : Nat) : Chip :=
  let (m, bad) := (fieldsAt off).foldl (fun (a : Chip × Bool) e =>
    let (m, b) := a.1.storeField off w e.1 e.2
    (m, a.2 || b)) (m, false)
  if bad then m.cfgEvent off else m

/-- Fields whose ranges depend on each other: all of a write's values together where they fit, else one after another those that fit
what is there. -/
def Chip.storeTied (m : Chip) (off w n : Nat) (fs : List Fld) (ok : List Nat → Bool) : Chip :=
  let old := fs.map fun f => m.f f n
  let new_ := fs.map fun f => (m.asked off w f n).getD (m.f f n)
  let fit := if ok new_ then new_
    else (List.range fs.length).foldl (fun a i => let b := a.set i (new_.getD i 0); if ok b then b else a) old
  let m := (fs.zip fit).foldl (fun (m : Chip) e => m.setF e.1 e.2 n) m
  if fit = new_ then m else m.cfgEvent off

/-! ## Registers with an effect, by block -/

/-- A read or erase of the device's own is placed anew: its die stays in service (R474, log entry 173). -/
def Chip.putOff (m : Chip) (u : DUnit) : Chip :=
  { m with md := { m.md with disp := m.md.disp ++ [{ u with ladder := [], bad := [], soft := false, susp := 0, busy := 0 }] } }

/-- ISL_CTL.RST (R474). An island that is off or not yet on has nothing to reset. -/
def Chip.islandReset (m : Chip) (i : Nat) : Chip :=
  if i = 0 ∨ !m.islServes i then m
  else if i = 10 ∨ i = 11 ∨ i = 24 ∨ i = 25 then ((m.barReset.setF ISL_CTL.RST 1 i).warmAsk 4)
  else if i = 1 then m.mgtReset
  else if i = 27 ∧ !decide (m.f TWN_STAT.STATE ∈ [0, 7, 8, 9]) then m.cfgEvent (ISL_CTL.RST.off i)
  else
    let m := (((m.setIsl i 4).setF ISL_CTL.RST 1 i).islandReloads i).arbSeeds i
    if i ≤ 9 then
      (List.range 4).foldl (fun (m : Chip) k =>
        let q := 4 * (i - 2) + k
        if m.portUsed q then (m.linkDown q).startTraining q else m) m
    else if i ≤ 23 then
      let k := i - 12
      let ds := (clusterDies k).filter fun d => let st := m.f FCH_DIE.STATE d; decide (2 ≤ st ∧ st ≤ 5)
      let m := m.barReset
      let m := ds.foldl (fun (m : Chip) d =>
        let us := m.dieUnits d
        us.foldl (fun (m : Chip) u =>
          if u.kind = .program then m.progFailed u true
          else if u.own then m.putOff u
          else m.failUnit u) (m.clearDie d)) m
      if m.claims k then
        (List.range 8).foldl (fun (m : Chip) c => (m.chanReset (8 * k + c)).askTrain (8 * k + c) m.populated) m
      else m
    else if i = 26 then
      let onEngine (s : Nat) : Bool := m.eng.comp.any fun h => decide (h.2.1 = s)
      let cut := m.q.slots.filter fun e => e.2.writing && m.elasticCmd e.2 && (onEngine e.1 || !m.allStored e.2 && decide (e.2.blocks ≠ []))
      let m := { m with kv := { m.kv with cache := [], lanes := [], waiting := [] }, eng := { comp := [], decomp := [] } }
      cut.foldl (fun (m : Chip) e => m.endCmd e.1 (some stAborted)) m
    else m.islandLost 27

/-- ISL: barrier requests, PWR_REQ and RST; PWR_REQ of AON stays 1. -/
def Chip.cwISL (m : Chip) (off w : Nat) : Chip :=
  if off = ISL_BARCTL.GO.off 0 then
    let m := m.storeReg off w
    if bitOf w 0 then (m.barRequest .cw (bitOf w 2) (bitOf w 1) none).powerPoll else m
  else match ISL_CTL.RST.index? off with
    | some i =>
      let m := (m.storeReg off (if i = 0 then w ||| 1 else w)).powerPoll
      (if bitOf w 7 then m.islandReset i else m).late
    | none => m.storeReg off w

/-- IMG. A write with GO while BUSY has no effect, on SRC and OP neither (R73, log entry 154). -/
def Chip.cwIMG (m : Chip) (off w : Nat) : Chip :=
  if off = IMG_CMD.GO.off 0 then
    if bitOf w 7 ∧ m.f IMG_STAT.BUSY = 1 then m.cfgEvent off
    else
      let m := m.storeReg off w
      if bitOf w 7 then (m.imgGo (m.f IMG_CMD.OP) (m.f IMG_CMD.SRC)).late else m
  else if off = IMG_DATA.DATA.off 0 then m.imgData w
  else m.storeReg off w

def Chip.cwHPT (m : Chip) (off w : Nat) : Chip :=
  match HPT_PCTL.DISABLE.index? off with
  | some q =>
    let m := m.portDisable q (bitOf w 0)
    (if bitOf w 1 then m.portRetrain q else m).late
  | none => m.storeReg off w

/-- DLS and BPM_BPCFG: what a changed limit now allows goes on. -/
def Chip.cwDLS (m : Chip) (off w : Nat) : Chip :=
  if off = DLS_DCX_IDX.DIE.off 0 then m.idxWrite .dcx w else ((m.storeReg off w).devBaro).late

def Chip.cwFCH (m : Chip) (off w : Nat) : Chip :=
  match FCH_CTL.HOLD.index? off with
  | some ch =>
    let m := match m.asked off w FCH_CTL.HOLD ch with
      | some v => if v = m.f FCH_CTL.HOLD ch then m else m.chanHold ch (decide (v = 1))
      | none => m
    let m := if bitOf w 2 then m.chanReset ch else m
    (if bitOf w 1 then m.chanTrain ch else m).late
  | none => m.storeReg off w

def Chip.cwLDP (m : Chip) (off w : Nat) : Chip :=
  if off = LDP_BLK_IDX.DIE.off 0 then m.idxWrite .blk w
  else if off = LDP_DIECMD.GO.off 0 then
    let m := m.storeReg off w
    if bitOf w 31 ∧ m.f LDP_DIECMD.OP = 1 then (m.dieCmd (m.f LDP_DIECMD.DIE)).late else m
  else (m.storeReg off w).late

def Chip.cwTNT (m : Chip) (off w : Nat) : Chip :=
  if off = TNT_IDX.TENANT.off 0 then m.idxWrite .tnt w
  else if off = TNT_LDG_IDX.DIE.off 0 then m.idxWrite .ldg w
  else m.storeReg off w

def Chip.cwNVA (m : Chip) (off w : Nat) : Chip :=
  if off = NVA_KEY.KEY.off 0 then m.nvaKey w
  else if off = NVA_CMD.OP.off 0 then m.nvaCmd w
  else if off = NVA_ADDR.ADDR.off 0 then m.nvaAddr w
  else if off = NVA_DATA.WORD.off 0 then m.nvaData w
  else if off = NVA_RADDR.WORD.off 0 then m.nvaRaddr w
  else m.storeReg off w

/-- TRS_CMD.FWLOAD in ROM recovery (R335): the package in the staging area is checked, written to bank A, and the device restarts. -/
def Chip.fwLoad (m : Chip) : Chip :=
  if m.f TRS_STAT.ROMREC = 0 then m.cfgEvent (TRS_CMD.FWLOAD.off 0)
  else
    let b := memGetBytes m.img.staging 0 (min (leNat (memGetBytes m.img.staging 0x0C 4)) 4194304)
    let r := m.fwCheck b
    if r ≠ 0 then m.setF TRS_STAT.BOOTFAIL r
    else
      let m := ((m.countErases (fwSector 0) (ceilDiv b.length 65536)).codeClear 0).array (.flag (.firmware 0))
      ({ m with nv := { m.nv with fwA := b } } : Chip).warmAsk 3

/-- TRS_CMD: GO, NONCE, REVOKE and FWLOAD, from the highest bit down. -/
def Chip.cwTRS (m : Chip) (off w : Nat) : Chip :=
  if off = TRS_CMD.GO.off 0 then
    let m := if bitOf w 31 then m.ownerGo else m
    let m := if bitOf w 30 then m.drawNonce else m
    let m := if bitOf w 29 then m.endGrant else m
    (if bitOf w 28 then m.fwLoad else m).late
  else match TRS_MBOX.WORD.index? off with
    | some i => if m.tr.check.isSome then m else { m with tr := { m.tr with mbox := memSetBytes m.tr.mbox (4 * i) (leBytes 4 w) } }
    | none => m.storeReg off w

/-- The minima of a pool's requesters with requester `r`'s taken as `v` (R356). -/
def Chip.minimaWith (m : Chip) (r v : Nat) : Nat :=
  match m.img.tables.poolOf r with
  | none => v
  | some p => ((rqList.filter fun q => decide ((m.img.tables.poolOf q).map PoolRec.pool = some p.pool)).map fun q =>
      if q = r then v else m.f BPM_RQCFG.MIN q).sum

def Chip.cwBPM (m : Chip) (off w : Nat) : Chip :=
  match BPM_RQCFG.QUOTA.index? off with
  | some r =>
    if !rqHasPool r then m
    else if 1024 < m.minimaWith r ((m.asked off w BPM_RQCFG.MIN r).getD (m.f BPM_RQCFG.MIN r)) then m.cfgEvent off
    else
      let m := m.storeReg off w
      (match m.img.tables.poolOf r with | some p => m.grantPool p.pool | none => m).late
  | none => (m.storeReg off w).late

/-- DRC: QUIESCE, and TRAIN with the operation as written. -/
def Chip.cwDRC (m : Chip) (off w : Nat) : Chip :=
  match DRC_CTL.QUIESCE.index? off with
  | some ch =>
    let q := m.asked off w DRC_CTL.QUIESCE ch
    let (m, bad) := m.storeField off w DRC_CTL.TRAIN_OP ch
    let m := if bad then m.cfgEvent off else m
    let m := match q with
      | some v => if v = m.f DRC_CTL.QUIESCE ch then m else m.dramQuiesce ch (decide (v = 1))
      | none => m
    if bitOf w 1 then m.dramTrain ch (m.f DRC_CTL.TRAIN_OP ch) else m
  | none =>
    match DRC_CFG.WDRAIN_LO.index? off with
    | some ch =>
      let (m, bad) := m.storeField off w DRC_CFG.STARVE_NS ch
      let m := if bad then m.cfgEvent off else m
      m.storeTied off w ch [DRC_CFG.WDRAIN_LO, DRC_CFG.WDRAIN_HI] fun v => decide (v.getD 0 0 < v.getD 1 0 ∧ v.getD 1 0 ≤ 64)
    | none => m.storeReg off w

def Chip.cwSDP (m : Chip) (off w : Nat) : Chip :=
  if off = SDP_LOG_IDX.MEM.off 0 then (m.storeReg off w).logCopy
  else if off = SDP_REMAPCMD.GO.off 0 then (if bitOf w 31 then m.remapCmd else m)
  else if off = SDP_SCRUB_CTL.GO.off 0 then
    let m := m.storeReg off w
    let m := if bitOf w 30 then m.scrubAbort else m
    (if bitOf w 31 then m.scrubGo (m.f SDP_SCRUB_CTL.MEM) else m).powerPoll
  else m.storeReg off w

def Chip.cwTWN (m : Chip) (off w : Nat) : Chip :=
  if off = TWN_CTL.FENCE.off 0 then
    let m := if bitOf w 2 then m.rekey else m
    let m := if bitOf w 1 then m.rejoinGo else m
    (if bitOf w 0 then m.fenceRequest else m).late
  else m.storeReg off w

def Chip.cwPSQ (m : Chip) (off w : Nat) : Chip :=
  if off = PSQ_CTL.DOWN.off 0 then (if bitOf w 0 then m.psqDown.late else m) else m.storeReg off w

/-- PLP_CFG: DIRTY_GIB and BUDGET_MS only together within the budget (R457). -/
def Chip.cwPLP (m : Chip) (off w : Nat) : Chip :=
  if off = PLP_CFG.DIRTY_GIB.off 0 then
    let (m, bad) := m.storeField off w PLP_CFG.DISC_T 0
    let m := if bad then m.cfgEvent off else m
    let g := (m.asked off w PLP_CFG.DIRTY_GIB 0).getD (m.f PLP_CFG.DIRTY_GIB)
    let b := (m.asked off w PLP_CFG.BUDGET_MS 0).getD (m.f PLP_CFG.BUDGET_MS)
    let m := m.storeTied off w 0 [PLP_CFG.DIRTY_GIB, PLP_CFG.BUDGET_MS] fun v =>
      PLP_CFG.DIRTY_GIB.takes (v.getD 0 0) && PLP_CFG.BUDGET_MS.takes (v.getD 1 0) &&
        (plpCfgOk (v.getD 0 0) (v.getD 1 0) && plpCfgOk g b)
    (m.limitView).late
  else m.storeReg off w

/-- PWR: Trim gating, Calm and wake; both in one write refuse Calm (R490). -/
def Chip.cwPWR (m : Chip) (off w : Nat) : Chip :=
  if off = PWR_CTL.TRIM_EN.off 0 then
    let m := (m.storeReg off w).powerPoll
    let m := if bitOf w 3 then m.wakeAsked else m
    (if bitOf w 2 then (if bitOf w 3 then m.calmRefuse 6 else (m.setF PWR_CTL.CALM 1).calmPoll) else m).late
  else if off = PWR_CALMCFG.PAIR.off 0 then
    let was := m.f PWR_CALMCFG.PAIR
    let m := m.storeReg off w
    if m.f PWR_CALMCFG.PAIR = was then m else if was = 0 then m.pairHold else m.pairFree
  else m.storeReg off w

def Chip.cwTHM (m : Chip) (off w : Nat) : Chip :=
  if off = THM_CAL.GO.off 0 then
    let busy := m.th.cal.isSome
    let m := if busy && bitOf w 31 then m else m.storeReg off w
    if bitOf w 31 then m.calGo else m
  else match THM_SENS.UNREL.index? off with
    | some i => if bitOf w 30 then m.unrelClear i else m
    | none => m.storeReg off w

/-- AGE: MEASURE starts a pass; AGE_CFG's ranges depend on each other; AGE_IDX copies the island's words. -/
def Chip.cwAGE (m : Chip) (off w : Nat) : Chip :=
  if off = AGE_CTL.MEASURE.off 0 then (if bitOf w 0 then (m.setF AGE_CTL.MEASURE 1).agePass else m)
  else if off = AGE_CFG.GUARD.off 0 then
    let m := (m.storeField off w AGE_CFG.WARN_YEARS 0).1
    m.storeTied off w 0 [AGE_CFG.GUARD, AGE_CFG.ENDGUARD, AGE_CFG.LOW, AGE_CFG.HIGH] fun v =>
      let g := v.getD 0 0
      let e := v.getD 1 0
      let l := v.getD 2 0
      let h := v.getD 3 0
      decide (1 ≤ g ∧ g ≤ 16 ∧ g + 1 ≤ e ∧ e ≤ 32 ∧ e + 2 ≤ l ∧ l + 4 ≤ h ∧ h ≤ 63)
  else if off = AGE_IDX.ISLAND.off 0 then
    let m := m.storeReg off w
    if bits w 4 0 = m.f AGE_IDX.ISLAND then m.setWords AGE_W.WORD ((List.range 4).map fun k => m.ageWord (m.f AGE_IDX.ISLAND) k) else m
  else m.storeReg off w

def Chip.cwEVR (m : Chip) (off w : Nat) : Chip :=
  if off = EVR_CTL.CLEAR.off 0 then
    let m := if bitOf w 31 then m.evrClear else m
    if bitOf w 30 then m.evrFree else m
  else m.storeReg off w

def Chip.cwARB (m : Chip) (off w : Nat) : Chip :=
  match ARB_TKT.TKT0.index? off with
  | some k => (m.storeReg off w).tktDirty (k / 16)
  | none => m.storeReg off w

/-- A perturbation register other than PTB_CTL, PTB_CORE and PTB_BIST: an island out of range leaves the whole register (R529); a write
starts the register's count of injections afresh. -/
def Chip.ptbStore (m : Chip) (off w : Nat) : Chip :=
  let i := bits w 28 24
  let isle := (decide (off = PTB_HSDLY.EN.off 0 ∨ off = PTB_STALL.EN.off 0) && decide (i = 0 ∨ 27 < i)) ||
    (decide (off = PTB_SKEW.EN.off 0) && !decide (i = 10 ∨ (12 ≤ i ∧ i ≤ 23)))
  if isle then m.cfgEvent off
  else
    let m := m.storeReg off w
    let again : Nat := if off = PTB_CAPAR.EN.off 0 then 3 else if off = PTB_ECC.EN.off 0 then 4 else if off = PTB_LDPC.EN.off 0 then 5 else 99
    let m := { m with pt := { m.pt with acted := tset 0 m.pt.acted again 0 } }
    if off = PTB_BARO.EN.off 0 ∨ off = PTB_SCOPE.FILTER.off 0 then m.devBaro.late else m

/-- PTB: the scopes of R525, then ARM, STOP, the halts, the self-test and the injections' registers. -/
def Chip.cwPTB (m : Chip) (off w : Nat) : Chip :=
  if off = PTB_BIST.GO.off 0 then
    if m.f PTB_BIST.GO = 1 then (if bitOf w 31 then m else m.storeReg off w)
    else
      let m := m.storeReg off w
      if bitOf w 31 then m.bistGo else m
  else if off = PTB_CORE.HALT.off 0 then (if bitOf m.scopes 1 then m.coreHalt w else m.cfgEvent off)
  else if !bitOf m.scopes 0 then m.cfgEvent off
  else if off = PTB_CTL.ARM.off 0 then
    let m := if bitOf w 31 then m.ptbArm else m
    (if bitOf w 30 then m.ptbStop 1 true else m).late
  else m.ptbStore off w

/-! ## A write -/

/-- The blocks that act on writes: in ROM recovery GEN, ISL, IMG, NVA and TRS (R335), in image recovery also EVR and FLT (R70). -/
def Chip.blockActs (m : Chip) (b : Nat) : Bool :=
  if m.f TRS_STAT.ROMREC = 1 then decide (b ∈ [0x0, 0x1, 0x2, 0x1B, 0x1C])
  else if m.f GEN_STAT.RECOVERY = 1 then decide (b ∈ [0x0, 0x1, 0x2, 0x1B, 0x1C, 0x26, 0x29])
  else true

/-- A write of a word to the register at a CW offset, in an island that serves. -/
def Chip.writeReg (m : Chip) (off w : Nat) : Chip :=
  let b := off / 0x10000
  if !m.blockActs b then m
  else if b = 0x1 then m.cwISL off w
  else if b = 0x2 then m.cwIMG off w
  else if b = 0x3 then m.cwHPT off w
  else if b = 0x8 then (if off = QCX_IDX.INDEX.off 0 then m.idxWrite .qcx w else m.storeReg off w)
  else if b = 0x9 then (if off = ZNE_ZCX_IDX.ZONE.off 0 then m.idxWrite .zcx (bits w 17 0) else m.storeReg off w)
  else if b = 0xA then m.cwDLS off w
  else if b = 0xB then m.cwTNT off w
  else if 0x10 ≤ b ∧ b ≤ 0x15 then m.cwFCH off w
  else if b = 0x16 then m.cwLDP off w
  else if b = 0x1A then (if off = KVT_FORCE.CODE.off 0 then (m.kvtForce w).late else m.storeReg off w)
  else if b = 0x1B then m.cwNVA off w
  else if b = 0x1C then m.cwTRS off w
  else if b = 0x1D then m.cwBPM off w
  else if b = 0x1E then m.cwDRC off w
  else if b = 0x1F then m.cwSDP off w
  else if b = 0x20 then m.cwTWN off w
  else if b = 0x21 then m.cwPSQ off w
  else if b = 0x22 then m.cwPLP off w
  else if b = 0x23 then m.cwPWR off w
  else if b = 0x24 then m.cwTHM off w
  else if b = 0x25 then m.cwAGE off w
  else if b = 0x26 then m.cwEVR off w
  else if b = 0x27 then m.cwARB off w
  else if b = 0x28 then m.cwPTB off w
  else m.storeReg off w

end Sys2Proof.Machine
end

