-- ==== Sys2Proof/Machine/Porter.lean ====
section
/-! DEFINITION. Accesses of the control window: what a read of a register does (R5, R6, R14), the porters' answers for islands that do
not serve (R36 to R38), reads that stall (R111, R175, R210, R246, R316), and the meanings of the rows that stop a stall. -/

namespace Sys2Proof.Machine

/-! ## Reads -/

/-- The offset of a pair's _LO register; its _HI follows it. -/
def pairLo : RegPair → Nat
  | .imgSrc => IMG_SRC_LO.ADDR.off 0
  | .genUid => GEN_UID_LO.UID.off 0
  | .islDtc => ISL_DTC_LO.DTC.off 0
  | .cmpIn => CMP_INBYTES_LO.BYTES.off 0
  | .cmpOut => CMP_OUTBYTES_LO.BYTES.off 0
  | .cphXts => CPH_XTSBYTES_LO.BYTES.off 0
  | .cphGcm => CPH_GCMBYTES_LO.BYTES.off 0
  | .cphIv => CPH_IVCTR_LO.COUNT.off 0
  | .scrubBase => SDP_SCRUB_BASE_LO.BASE.off 0
  | .drcRd ch => DRC_RDBYTES_LO.BYTES.off ch.val
  | .drcWr ch => DRC_WRBYTES_LO.BYTES.off ch.val

/-- The _LO registers of every pair. -/
def pairLos : List Nat :=
  ([.imgSrc, .genUid, .islDtc, .cmpIn, .cmpOut, .cphXts, .cphGcm, .cphIv, .scrubBase] : List RegPair).map pairLo ++
    ((List.range 8).map fun ch => DRC_RDBYTES_LO.BYTES.off ch) ++ ((List.range 8).map fun ch => DRC_WRBYTES_LO.BYTES.off ch)

/-- The shadow of a requester for the _HI register at an offset. -/
def Chip.shadowOf (m : Chip) (off : Nat) (rq : Rq) : Option Nat :=
  (m.shadow.find? fun e => decide (e.1 = off ∧ e.2.1 = rq)).map (·.2.2)

/-- The shadows without a requester's for the _HI register at an offset. -/
def Chip.dropShadow (m : Chip) (off : Nat) (rq : Rq) : Chip :=
  { m with shadow := m.shadow.filter fun e => !decide (e.1 = off ∧ e.2.1 = rq) }

/-- A read of a _LO register latches the upper half (R14). -/
def Chip.latchHi (m : Chip) (off : Nat) (rq : Rq) : Chip :=
  let v := m.regWord (off + 4)
  let m := m.dropShadow (off + 4) rq
  { m with shadow := m.shadow ++ [(off + 4, rq, v)] }

/-- The read clears the RC fields of a register (R6). -/
def Chip.clearRc (m : Chip) (off : Nat) : Chip :=
  (fieldsAt off).foldl (fun (m : Chip) e => if e.1.acc = .rc then m.setF e.1 0 e.2 else m) m

/-- The word a read of a register returns, and what the read does. The level of the shared SEQ_SYNC line while other devices of the
group may pull it, and the program counter of a core, are free values (log entry 1). -/
def Chip.readWord (m : Chip) (rq : Rq) (off : Nat) : Nat × Chip :=
  if off = NVA_RDATA.WORD.off 0 then m.nvaRead
  else if off = PTB_COREPC.PC.off 0 then m.draw 32
  else if off = PSQ_STAT.SYNC_HIGH.off 0 then
    let v := m.regWord off - m.f PSQ_STAT.SYNC_HIGH * 2 ^ PSQ_STAT.SYNC_HIGH.lo
    if m.f PSQ_STAT.SYNC_PULL = 1 then (v, m)
    else if m.f PSQ_STAT.GROUP_SIZE ≤ 1 then (v + 2 ^ PSQ_STAT.SYNC_HIGH.lo, m)
    else
      let (b, m) := m.draw 1
      (v + b * 2 ^ PSQ_STAT.SYNC_HIGH.lo, m)
  else if off - 4 ∈ pairLos ∧ 4 ≤ off then ((m.shadowOf off rq).getD (m.regWord off), m.dropShadow off rq)
  else
    let v := m.regWord off
    let m := m.clearRc off
    (v, if off ∈ pairLos then m.latchHi off rq else m)

/-! ## Accesses -/

/-- An access waits at a porter, or for what the register shows. -/
def Chip.stall (m : Chip) (island : Nat) (rq : Rq) (off : Nat) (data : Option Nat) : Chip :=
  { m with isl := { m.isl with stalled := m.isl.stalled ++ [⟨island, rq, off, data⟩] } }

/-- What a read of a register waits for, by the number its stall is kept under: 28 to 33 the copy of an indirect window (R111, R175,
R210, R246), 40 the CW read buffer of ENVA (R316). -/
def Chip.readWaits (m : Chip) (off : Nat) : Option Nat :=
  let shows (w : Fld) (ready : Fld) : Bool := (w.index? off).isSome && decide (m.f ready = 0)
  if shows QCX_W.WORD QCX_STAT.READY then some 28
  else if shows ZNE_ZCX_W.WORD ZNE_ZCX_STAT.READY then some 29
  else if shows DLS_DCX_W.WORD DLS_DCX_STAT.READY then some 30
  else if shows TNT_W.WORD TNT_STAT.READY then some 31
  else if shows TNT_LDG_W.WORD TNT_LDG_STAT.READY then some 32
  else if shows LDP_BLK_W.WORD LDP_BLK_STAT.READY then some 33
  else if off = NVA_RDATA.WORD.off 0 ∧ m.f NVA_STAT.RDMISS = 0 ∧ m.f NVA_STAT.RDVALID = 0 then some 40
  else none

/-- An access reaches a register of an island that serves. -/
def Chip.reach (m : Chip) (rq : Rq) (off : Nat) (data : Option Nat) : Chip :=
  match data with
  | some w => m.writeReg off w
  | none =>
    match m.readWaits off with
    | some k => m.stall k rq off none
    | none => let (v, m) := m.readWord rq off; m.giveWord v

/-- An access that its porter lets through (R37, R40): in a draining island it is a use, or a wake event of Lull or Calm entry. -/
def Chip.pass (m : Chip) (i : Nat) (rq : Rq) (off : Nat) (data : Option Nat) : Chip :=
  let m := if m.islState i = 3 then
      (match tget 0 m.isl.offStep i with
       | 3 => m.setIsl i 2
       | 2 => m.wakeEvent 2 i
       | _ => m)
    else m
  m.reach rq off data

/-- One 32-bit access at an aligned offset: a write of `data`, or a read. In Calm none reaches the device (R42); an offset without a
register reads 0 (R15); the accesses of one requester take effect in order (R16); the porter of an island that is off answers, or wakes
it (R36, R37); after a failed wake it answers as if AUTOWAKE were 0 until WAKEFAIL is cleared (R38). -/
def Chip.access (m : Chip) (rq : Rq) (off : Nat) (data : Option Nat) : Chip :=
  let i := cwIsland off
  if m.f PWR_STAT.STATE = 5 then m
  else if m.isl.stalled.any fun a => decide (a.rq = rq) then m.stall i rq off data
  else if (fieldsAt off).isEmpty then (if data.isNone then m.giveWord 0 else m)
  else if m.islServes i then m.pass i rq off data
  else if m.islState i = 0 then
    if m.f ISL_CTL.AUTOWAKE i = 1 ∧ m.f ISL_STAT.WAKEFAIL i = 0 then (m.stall i rq off data).wakeFor i 2
    else
      let m := m.downHit i off data.isSome
      if data.isNone then m.giveWord downWord else m
  else m.stall i rq off data

/-- The stalled accesses try again, in their order. -/
def Chip.replay (m : Chip) : Chip :=
  let as_ := m.isl.stalled
  as_.foldl (fun (m : Chip) a => m.access a.rq a.off a.data) { m with isl := { m.isl with stalled := [] } }

/-! ## Register accesses of any alignment (R13) -/

/-- The aligned offsets a transfer of `n` bytes at an offset touches. -/
def touched (off n : Nat) : List Nat :=
  if n = 0 then [] else (List.range ((off + n - 1) / 4 - off / 4 + 1)).map fun k => (off / 4 + k) * 4

/-- A CW access error at a register (R13). -/
def Chip.cwError (m : Chip) (off : Nat) : Chip :=
  if m.f PWR_STAT.STATE = 5 ∨ (fieldsAt off).isEmpty then m else m.emit 0 0x1002 off

/-- The byte of a transfer that an address gets; none where its byte enable is off or the transfer does not reach. -/
def laneAt (off : Nat) (data : List (Option Byte)) (a : Nat) : Option Byte := if a < off then none else (data[a - off]?).getD none

/-- The word a transfer writes to the register at an aligned offset: none where a byte of it is missing. -/
def fullWord (off : Nat) (data : List (Option Byte)) (r : Nat) : Option Nat :=
  match laneAt off data r, laneAt off data (r + 1), laneAt off data (r + 2), laneAt off data (r + 3) with
  | some a, some b, some c, some d => some (leNat [a, b, c, d])
  | _, _, _, _ => none

/-- A write of bytes, `none` where the byte enable is off: every register it covers whole is written, one it covers in part is not
and is a CW access error (R13). -/
def Chip.cwWrite (m : Chip) (rq : Rq) (off : Nat) (data : List (Option Byte)) : Chip :=
  (touched off data.length).foldl (fun (m : Chip) r =>
    match fullWord off data r with
    | some w => m.access rq r (some w)
    | none => m.cwError r) m

/-- A read of `n` bytes returns every register it touches, whole (R13). -/
def Chip.cwRead (m : Chip) (rq : Rq) (off n : Nat) : Chip := (touched off n).foldl (fun (m : Chip) r => m.access rq r none) m

/-- A full write of the register of a field. -/
def Chip.cwPut (m : Chip) (rq : Rq) (f : Fld) (w : Nat) (n : Nat := 0) : Chip := m.access rq (f.off n) (some w)

/-! ## Rows: accesses -/

def execCwWrite (rq : Rq) (off : BitVec 26) (data : List (Option Byte)) (s : State) : Host.Outcome State Fault Refusal :=
  run s fun m => m.cwWrite rq off.toNat data
def execRcFieldRead (rq : Rq) (off : BitVec 26) (len : Nat) (s : State) : Host.Outcome State Fault Refusal :=
  run s fun m => m.cwRead rq off.toNat len
def execLoRegisterRead (rq : Rq) (p : RegPair) (s : State) : Host.Outcome State Fault Refusal :=
  run s fun m => m.access rq (pairLo p) none
def execHiRegisterRead (rq : Rq) (p : RegPair) (s : State) : Host.Outcome State Fault Refusal :=
  run s fun m => m.access rq (pairLo p + 4) none
def execPorterCwAccess (rq : Rq) (off : BitVec 26) (data : Option (BitVec 32)) (s : State) : Host.Outcome State Fault Refusal :=
  run s fun m => m.access rq (off.toNat / 4 * 4) (data.map BitVec.toNat)

/-! ## Rows: what stalled accesses wait for -/

/-- An island finishes waking, or the RST of a reset of it ends (R31, R474). -/
def execIslandWakeDone (i : Isl) (s : State) : Host.Outcome State Fault Refusal := run s fun m => (m.islandOn i.val).replay.late
/-- 2.5 µs have passed since an access or unit stalled on an island (R38, R39). -/
def execWakeTimeout (i : Isl) (s : State) : Host.Outcome State Fault Refusal := run s fun m => (m.wakeFailed i.val).replay
/-- The copy behind an indirect window is complete. -/
def execWindowCopyDone (w : Win) (s : State) : Host.Outcome State Fault Refusal := run s fun m => (m.windowDone w).replay
def execNvaLineLoadDone (s : State) : Host.Outcome State Fault Refusal := run s fun m => m.nvaLoaded.replay
/-- A read of NVA_RDATA has stalled for 2 µs (R316). -/
def execNvaRdataStallTimeout (s : State) : Host.Outcome State Fault Refusal :=
  run s fun m => if m.isl.stalled.any fun a => decide (a.island = 40) then (m.setF NVA_STAT.RDMISS 1).replay else m

/-! ## Rows: ISL and IMG -/

/-- ISL_CTL of an island (R42). -/
def execIslandPwrReqWrite (rq : Rq) (i : Isl) (pwrReq autowake : Bool) (s : State) : Host.Outcome State Fault Refusal :=
  run s fun m => m.cwPut rq ISL_CTL.RST (b1 pwrReq * 2 ^ ISL_CTL.PWR_REQ.lo + b1 autowake * 2 ^ ISL_CTL.AUTOWAKE.lo) i.val
/-- ISL_CTL.RST with PWR_REQ and AUTOWAKE as written with it (R474). -/
def execIslandReset (rq : Rq) (i : Isl) (pwrReq autowake : Bool) (s : State) : Host.Outcome State Fault Refusal :=
  run s fun m => m.cwPut rq ISL_CTL.RST
    (2 ^ ISL_CTL.RST.lo + b1 pwrReq * 2 ^ ISL_CTL.PWR_REQ.lo + b1 autowake * 2 ^ ISL_CTL.AUTOWAKE.lo) i.val
def execBarrierRequest (rq : Rq) (snap twin : Bool) (s : State) : Host.Outcome State Fault Refusal :=
  run s fun m => m.cwPut rq ISL_BARCTL.GO
    (2 ^ ISL_BARCTL.GO.lo + b1 snap * 2 ^ ISL_BARCTL.SNAP.lo + b1 twin * 2 ^ ISL_BARCTL.TWIN.lo)

/-- IMG_CMD with GO: an operation and where its bytes come from (R72). -/
def Chip.imgPut (m : Chip) (rq : Rq) (op : Nat) (src : Bool) : Chip :=
  m.cwPut rq IMG_CMD.GO (2 ^ IMG_CMD.GO.lo + b1 src * 2 ^ IMG_CMD.SRC.lo + op * 2 ^ IMG_CMD.OP.lo)

def execImgNop (rq : Rq) (src : Bool) (s : State) : Host.Outcome State Fault Refusal := run s fun m => m.imgPut rq 0 src
def execVerify (rq : Rq) (src : Bool) (s : State) : Host.Outcome State Fault Refusal := run s fun m => m.imgPut rq 1 src
def execStore (rq : Rq) (src : Bool) (s : State) : Host.Outcome State Fault Refusal := run s fun m => m.imgPut rq 2 src
def execActivate (rq : Rq) (src : Bool) (s : State) : Host.Outcome State Fault Refusal := run s fun m => m.imgPut rq 3 src
def execLive (rq : Rq) (src : Bool) (s : State) : Host.Outcome State Fault Refusal := run s fun m => m.imgPut rq 4 src
def execImgDataWrite (rq : Rq) (v : BitVec 32) (s : State) : Host.Outcome State Fault Refusal :=
  run s fun m => m.cwPut rq IMG_DATA.DATA v.toNat

/-! ## Rows: ports, windows, flash -/

def execPortRetrain (rq : Rq) (q : PSlot) (disable : Bool) (s : State) : Host.Outcome State Fault Refusal :=
  run s fun m => m.cwPut rq HPT_PCTL.DISABLE (2 ^ HPT_PCTL.RETRAIN.lo + b1 disable * 2 ^ HPT_PCTL.DISABLE.lo) q.val
def execPortDisable (rq : Rq) (q : PSlot) (disable : Bool) (s : State) : Host.Outcome State Fault Refusal :=
  run s fun m => m.cwPut rq HPT_PCTL.DISABLE (b1 disable * 2 ^ HPT_PCTL.DISABLE.lo) q.val

def execQcxIdxWrite (rq : Rq) (v : BitVec 32) (s : State) : Host.Outcome State Fault Refusal :=
  run s fun m => m.cwPut rq QCX_IDX.INDEX v.toNat
def execZneZcxIdxWrite (rq : Rq) (v : BitVec 32) (s : State) : Host.Outcome State Fault Refusal :=
  run s fun m => m.cwPut rq ZNE_ZCX_IDX.ZONE v.toNat
def execDlsDcxIdxWrite (rq : Rq) (v : BitVec 32) (s : State) : Host.Outcome State Fault Refusal :=
  run s fun m => m.cwPut rq DLS_DCX_IDX.DIE v.toNat
def execTntIdxWrite (rq : Rq) (v : BitVec 32) (s : State) : Host.Outcome State Fault Refusal :=
  run s fun m => m.cwPut rq TNT_IDX.TENANT v.toNat
def execTntLdgIdxWrite (rq : Rq) (v : BitVec 32) (s : State) : Host.Outcome State Fault Refusal :=
  run s fun m => m.cwPut rq TNT_LDG_IDX.DIE v.toNat
def execLdpBlkIdxWrite (rq : Rq) (v : BitVec 32) (s : State) : Host.Outcome State Fault Refusal :=
  run s fun m => m.cwPut rq LDP_BLK_IDX.DIE v.toNat

def execChannelHold (rq : Rq) (ch : Chan) (hold : Bool) (s : State) : Host.Outcome State Fault Refusal :=
  run s fun m => m.cwPut rq FCH_CTL.HOLD (b1 hold * 2 ^ FCH_CTL.HOLD.lo) ch.val
def execChannelResetDies (rq : Rq) (ch : Chan) (hold : Bool) (s : State) : Host.Outcome State Fault Refusal :=
  run s fun m => m.cwPut rq FCH_CTL.HOLD (2 ^ FCH_CTL.RESETDIES.lo + b1 hold * 2 ^ FCH_CTL.HOLD.lo) ch.val
def execChannelTrain (rq : Rq) (ch : Chan) (hold : Bool) (s : State) : Host.Outcome State Fault Refusal :=
  run s fun m => m.cwPut rq FCH_CTL.HOLD (2 ^ FCH_CTL.TRAIN.lo + b1 hold * 2 ^ FCH_CTL.HOLD.lo) ch.val
/-- LDP_DIECMD with OP 1 and GO for a die number as written (R242). -/
def execDieRetire (rq : Rq) (die : Fin 4096) (s : State) : Host.Outcome State Fault Refusal :=
  run s fun m => m.cwPut rq LDP_DIECMD.GO (2 ^ LDP_DIECMD.GO.lo + 2 ^ LDP_DIECMD.OP.lo + die.val * 2 ^ LDP_DIECMD.DIE.lo)

/-- A tenant's credit on a die has regained 0 (R193). -/
def execLedgerCreditRecovery (t : Ten) (d : Die) (s : State) : Host.Outcome State Fault Refusal :=
  run s fun m =>
    if m.img.tables.share t.val = 0 then m
    else
      let c := m.credit t.val d.val
      let c : Credit := ⟨if c.credit < 0 then 0 else c.credit, m.now⟩
      (({ m with md := { m.md with ledger := tput m.md.ledger (ldgKey t.val d.val) c } } : Chip).turn d.val).late

/-! ## Rows: vault, array, trust -/

def execKvtForce (rq : Rq) (v : BitVec 32) (s : State) : Host.Outcome State Fault Refusal :=
  run s fun m => m.cwPut rq KVT_FORCE.CODE v.toNat
def execNvaKeyWrite (rq : Rq) (v : BitVec 32) (s : State) : Host.Outcome State Fault Refusal :=
  run s fun m => m.cwPut rq NVA_KEY.KEY v.toNat
def execNvaCmdWrite (rq : Rq) (v : BitVec 32) (s : State) : Host.Outcome State Fault Refusal :=
  run s fun m => m.cwPut rq NVA_CMD.OP v.toNat
def execNvaAddrWrite (rq : Rq) (v : BitVec 32) (s : State) : Host.Outcome State Fault Refusal :=
  run s fun m => m.cwPut rq NVA_ADDR.ADDR v.toNat
def execNvaDataWrite (rq : Rq) (v : BitVec 32) (s : State) : Host.Outcome State Fault Refusal :=
  run s fun m => m.cwPut rq NVA_DATA.WORD v.toNat
def execNvaRaddrWrite (rq : Rq) (v : BitVec 32) (s : State) : Host.Outcome State Fault Refusal :=
  run s fun m => m.cwPut rq NVA_RADDR.WORD v.toNat
def execNvaRdataRead (rq : Rq) (s : State) : Host.Outcome State Fault Refusal :=
  run s fun m => m.access rq (NVA_RDATA.WORD.off 0) none
def execFwload (rq : Rq) (s : State) : Host.Outcome State Fault Refusal :=
  run s fun m => m.cwPut rq TRS_CMD.GO (2 ^ TRS_CMD.FWLOAD.lo)

/-! ## Rows: pools, arbiters, memories -/

def execBpmRqcfgWrite (rq : Rq) (r : Fin 64) (v : BitVec 32) (s : State) : Host.Outcome State Fault Refusal :=
  run s fun m => m.cwPut rq BPM_RQCFG.QUOTA v.toNat r.val
/-- Tickets of four requesters of an arbiter instance. -/
def execArbTktWrite (rq : Rq) (inst : Fin 12) (wd : Fin 16) (v : BitVec 32) (s : State) : Host.Outcome State Fault Refusal :=
  run s fun m => m.cwPut rq ARB_TKT.TKT0 v.toNat (inst.val * 16 + wd.val)

/-- DRC_CTL of a channel. -/
def Chip.drcPut (m : Chip) (rq : Rq) (ch : Nat) (quiesce train full : Bool) : Chip :=
  m.cwPut rq DRC_CTL.QUIESCE
    (b1 quiesce * 2 ^ DRC_CTL.QUIESCE.lo + b1 train * 2 ^ DRC_CTL.TRAIN.lo + (1 + b1 full) * 2 ^ DRC_CTL.TRAIN_OP.lo) ch

def execDramDqRun (rq : Rq) (ch : DramCh) (quiesce : Bool) (s : State) : Host.Outcome State Fault Refusal :=
  run s fun m => m.drcPut rq ch.val quiesce true false
def execDramFullRun (rq : Rq) (ch : DramCh) (quiesce : Bool) (s : State) : Host.Outcome State Fault Refusal :=
  run s fun m => m.drcPut rq ch.val quiesce true true
def execDramQuiesce (rq : Rq) (ch : DramCh) (quiesce full : Bool) (s : State) : Host.Outcome State Fault Refusal :=
  run s fun m => m.drcPut rq ch.val quiesce false full

def execSdpRemap (rq : Rq) (s : State) : Host.Outcome State Fault Refusal :=
  run s fun m => m.cwPut rq SDP_REMAPCMD.GO (2 ^ SDP_REMAPCMD.GO.lo)
def execSdpLogIdxWrite (rq : Rq) (v : BitVec 32) (s : State) : Host.Outcome State Fault Refusal :=
  run s fun m => m.cwPut rq SDP_LOG_IDX.MEM v.toNat
def execMemoryScrub (rq : Rq) (mem : Fin 4) (s : State) : Host.Outcome State Fault Refusal :=
  run s fun m => m.cwPut rq SDP_SCRUB_CTL.GO (2 ^ SDP_SCRUB_CTL.GO.lo + mem.val * 2 ^ SDP_SCRUB_CTL.MEM.lo)
def execScrubAbort (rq : Rq) (mem : Fin 4) (s : State) : Host.Outcome State Fault Refusal :=
  run s fun m => m.cwPut rq SDP_SCRUB_CTL.GO (2 ^ SDP_SCRUB_CTL.ABORT.lo + mem.val * 2 ^ SDP_SCRUB_CTL.MEM.lo)

/-! ## Rows: pair, sequencer, power -/

def execRekey (rq : Rq) (s : State) : Host.Outcome State Fault Refusal :=
  run s fun m => m.cwPut rq TWN_CTL.FENCE (2 ^ TWN_CTL.REKEY.lo)
def execFenceRequest (rq : Rq) (s : State) : Host.Outcome State Fault Refusal :=
  run s fun m => m.cwPut rq TWN_CTL.FENCE (2 ^ TWN_CTL.FENCE.lo)
def execRejoin (rq : Rq) (s : State) : Host.Outcome State Fault Refusal :=
  run s fun m => m.cwPut rq TWN_CTL.FENCE (2 ^ TWN_CTL.REJOIN.lo)
def execPsqDown (rq : Rq) (s : State) : Host.Outcome State Fault Refusal :=
  run s fun m => m.cwPut rq PSQ_CTL.DOWN (2 ^ PSQ_CTL.DOWN.lo)
def execPlpCfgWrite (rq : Rq) (v : BitVec 32) (s : State) : Host.Outcome State Fault Refusal :=
  run s fun m => m.cwPut rq PLP_CFG.DIRTY_GIB v.toNat

/-- PWR_CTL: the enables, and WAKE or CALM. -/
def Chip.pwrPut (m : Chip) (rq : Rq) (trimEn lullEn calm wake : Bool) : Chip :=
  m.cwPut rq PWR_CTL.TRIM_EN (b1 trimEn * 2 ^ PWR_CTL.TRIM_EN.lo + b1 lullEn * 2 ^ PWR_CTL.LULL_EN.lo +
    b1 calm * 2 ^ PWR_CTL.CALM.lo + b1 wake * 2 ^ PWR_CTL.WAKE.lo)

def execPwrWake (rq : Rq) (trimEn lullEn : Bool) (s : State) : Host.Outcome State Fault Refusal :=
  run s fun m => m.pwrPut rq trimEn lullEn false true
def execTrimEnWrite (rq : Rq) (trimEn lullEn : Bool) (s : State) : Host.Outcome State Fault Refusal :=
  run s fun m => m.pwrPut rq trimEn lullEn false false
def execCalmRequest (rq : Rq) (trimEn lullEn : Bool) (s : State) : Host.Outcome State Fault Refusal :=
  run s fun m => m.pwrPut rq trimEn lullEn true false

/-! ## Rows: sensors, ageing, recorder, perturbation -/

def execDiodeCalibrate (rq : Rq) (sensor : Fin 64) (s : State) : Host.Outcome State Fault Refusal :=
  run s fun m => m.cwPut rq THM_CAL.GO (2 ^ THM_CAL.GO.lo + sensor.val * 2 ^ THM_CAL.SENSOR.lo)
def execAgeMeasure (rq : Rq) (s : State) : Host.Outcome State Fault Refusal :=
  run s fun m => m.cwPut rq AGE_CTL.MEASURE (2 ^ AGE_CTL.MEASURE.lo)
def execClear (rq : Rq) (s : State) : Host.Outcome State Fault Refusal :=
  run s fun m => m.cwPut rq EVR_CTL.CLEAR (2 ^ EVR_CTL.CLEAR.lo)
def execFree (rq : Rq) (s : State) : Host.Outcome State Fault Refusal :=
  run s fun m => m.cwPut rq EVR_CTL.CLEAR (2 ^ EVR_CTL.FREE.lo)
def execFltMaskWrite (rq : Rq) (v : BitVec 32) (s : State) : Host.Outcome State Fault Refusal :=
  run s fun m => m.cwPut rq FLT_MASK.GROUP v.toNat
def execArm (rq : Rq) (s : State) : Host.Outcome State Fault Refusal :=
  run s fun m => m.cwPut rq PTB_CTL.ARM (2 ^ PTB_CTL.ARM.lo)
def execStop (rq : Rq) (s : State) : Host.Outcome State Fault Refusal :=
  run s fun m => m.cwPut rq PTB_CTL.ARM (2 ^ PTB_CTL.STOP.lo)
def execCoreHalt (rq : Rq) (v : BitVec 32) (s : State) : Host.Outcome State Fault Refusal :=
  run s fun m => m.cwPut rq PTB_CORE.HALT v.toNat
def execOndemandSelftest (rq : Rq) (mask : Fin 8) (s : State) : Host.Outcome State Fault Refusal :=
  run s fun m => m.cwPut rq PTB_BIST.GO (2 ^ PTB_BIST.GO.lo + mask.val * 2 ^ PTB_BIST.MASK.lo)
/-- The run ends; `bad` names the memories whose checkers failed. -/
def execOndemandSelftestDone (bad : Fin 8) (s : State) : Host.Outcome State Fault Refusal :=
  run s fun m => (m.bistDone bad.val).late

/-! ## Rows: the I3C window (R535) -/

/-- A write of the window pointer. -/
def Chip.i3cPoint (m : Chip) (v : Nat) : Chip := { m with i3cPtr := v % 2 ^ 26 / 4 * 4 }

/-- A write through the window: 4 bytes set the pointer, 8 also write the register at it; any other length is an error. In Calm nothing
answers. -/
def Chip.i3cWrite (m : Chip) (bytes : List Byte) : Chip :=
  if m.f PWR_STAT.STATE = 5 then m
  else if bytes.length = 4 ∨ bytes.length = 8 then
    let m := m.i3cPoint (leNat (bytes.take 4))
    if bytes.length = 8 then m.access .i3c m.i3cPtr (some (leNat (bytes.drop 4))) else m
  else m.emit 0 0x1002 m.i3cPtr

/-- The master took only some bytes of the last word returned: the others are lost. -/
def Chip.cutReply (m : Chip) (bytes : Nat) : Chip :=
  { m with reply := m.reply.dropLast ++ (m.reply.getLast?.map fun w => w % 256 ^ bytes).toList }

/-- A read of `n` bytes: one register for every 4 begun, each with its whole effect; an incomplete one at the end is an error. -/
def Chip.i3cRead (m : Chip) (n : Nat) : Chip :=
  if m.f PWR_STAT.STATE = 5 then m
  else
    let m := (List.range (ceilDiv n 4)).foldl (fun (m : Chip) _ =>
      let m := m.access .i3c m.i3cPtr none
      ({ m with i3cPtr := (m.i3cPtr + 4) % 2 ^ 26 } : Chip)) m
    if n % 4 = 0 then m
    else
      let m := if m.reply.length = ceilDiv n 4 then m.cutReply (n % 4) else m
      m.emit 0 0x1002 ((m.i3cPtr + 2 ^ 26 - 4) % 2 ^ 26)

/-- A write of 4 bytes. -/
def execI3cWindowPointerWrite (off : BitVec 32) (s : State) : Host.Outcome State Fault Refusal :=
  run s fun m => if m.f PWR_STAT.STATE = 5 then m else m.i3cPoint off.toNat
/-- A write of 8 bytes, or of a wrong length. -/
def execI3cWindowWrite (bytes : List Byte) (s : State) : Host.Outcome State Fault Refusal := run s fun m => m.i3cWrite bytes
def execI3cWindowRead (n : Nat) (s : State) : Host.Outcome State Fault Refusal := run s fun m => m.i3cRead n

end Sys2Proof.Machine
end

