-- ==== Sys2Proof/Machine/Dispatch.lean ====
section
/-! DEFINITION. One arm for each command: its meaning. -/

namespace Sys2Proof.Machine

def exec (i : Instr) (s : State) : Host.Outcome State Fault Refusal :=
  match i with
  | .cwWrite rq off data => Sys2Proof.Machine.execCwWrite rq off data s
  | .rcFieldRead rq off len => Sys2Proof.Machine.execRcFieldRead rq off len s
  | .loRegisterRead rq p => Sys2Proof.Machine.execLoRegisterRead rq p s
  | .hiRegisterRead rq p => Sys2Proof.Machine.execHiRegisterRead rq p s
  | .porterCwAccess rq off data => Sys2Proof.Machine.execPorterCwAccess rq off data s
  | .islandWakeDone isl => Sys2Proof.Machine.execIslandWakeDone isl s
  | .wakeTimeout isl => Sys2Proof.Machine.execWakeTimeout isl s
  | .unitReceive isl u => Sys2Proof.Machine.execUnitReceive isl u s
  | .islandIdleTimeout isl => Sys2Proof.Machine.execIslandIdleTimeout isl s
  | .islandDrainDone isl => Sys2Proof.Machine.execIslandDrainDone isl s
  | .islandPwrReqWrite rq isl pwrReq autowake => Sys2Proof.Machine.execIslandPwrReqWrite rq isl pwrReq autowake s
  | .islandReset rq isl pwrReq autowake => Sys2Proof.Machine.execIslandReset rq isl pwrReq autowake s
  | .dtcBroadcast dev => Sys2Proof.Machine.execDtcBroadcast dev s
  | .lostPartWatchdog slot => Sys2Proof.Machine.execLostPartWatchdog slot s
  | .barrierRequest rq snap twin => Sys2Proof.Machine.execBarrierRequest rq snap twin s
  | .barrierComplete => Sys2Proof.Machine.execBarrierComplete s
  | .pairBarrierTimeout => Sys2Proof.Machine.execPairBarrierTimeout s
  | .snapshotRecordDone => Sys2Proof.Machine.execSnapshotRecordDone s
  | .imgNop rq src => Sys2Proof.Machine.execImgNop rq src s
  | .verify rq src => Sys2Proof.Machine.execVerify rq src s
  | .store rq src => Sys2Proof.Machine.execStore rq src s
  | .activate rq src => Sys2Proof.Machine.execActivate rq src s
  | .live rq src => Sys2Proof.Machine.execLive rq src s
  | .imgDataWrite rq v => Sys2Proof.Machine.execImgDataWrite rq v s
  | .imageDmaDone bytes => Sys2Proof.Machine.execImageDmaDone bytes s
  | .storeBankWriteDone => Sys2Proof.Machine.execStoreBankWriteDone s
  | .epochLoaded isl => Sys2Proof.Machine.execEpochLoaded isl s
  | .epochCommitAck isl => Sys2Proof.Machine.execEpochCommitAck isl s
  | .epochSwitchTimeout => Sys2Proof.Machine.execEpochSwitchTimeout s
  | .epochDrainDone => Sys2Proof.Machine.execEpochDrainDone s
  | .liveverMismatchTimeout twinVer => Sys2Proof.Machine.execLiveverMismatchTimeout twinVer s
  | .perstAssert g => Sys2Proof.Machine.execPerstAssert g s
  | .perstDeassert g => Sys2Proof.Machine.execPerstDeassert g s
  | .portTrainDone q rate width e => Sys2Proof.Machine.execPortTrainDone q rate width e s
  | .hotReset q => Sys2Proof.Machine.execHotReset q s
  | .linkDown q => Sys2Proof.Machine.execLinkDown q s
  | .surpriseLinkDown q => Sys2Proof.Machine.execSurpriseLinkDown q s
  | .functionLevelReset f => Sys2Proof.Machine.execFunctionLevelReset f s
  | .portRetrain rq q disable => Sys2Proof.Machine.execPortRetrain rq q disable s
  | .portDisable rq q disable => Sys2Proof.Machine.execPortDisable rq q disable s
  | .bar0UnmappedAccess f a => Sys2Proof.Machine.execBar0UnmappedAccess f a s
  | .malformedTlp q t => Sys2Proof.Machine.execMalformedTlp q t s
  | .nonsecureTlp f isRead => Sys2Proof.Machine.execNonsecureTlp f isRead s
  | .ideStreamFail q stream => Sys2Proof.Machine.execIdeStreamFail q stream s
  | .kSetGo q x keyset => Sys2Proof.Machine.execKSetGo q x keyset s
  | .dataCompletion slot q bytes status => Sys2Proof.Machine.execDataCompletion slot q bytes status s
  | .dataStallTimeout slot => Sys2Proof.Machine.execDataStallTimeout slot s
  | .completionTimeout w => Sys2Proof.Machine.execCompletionTimeout w s
  | .creditStallTimeout q => Sys2Proof.Machine.execCreditStallTimeout q s
  | .creditRecoveryTimeout q => Sys2Proof.Machine.execCreditRecoveryTimeout q s
  | .sqTailDoorbell f y v => Sys2Proof.Machine.execSqTailDoorbell f y v s
  | .cqHeadDoorbell f y v => Sys2Proof.Machine.execCqHeadDoorbell f y v s
  | .sqFetch h => Sys2Proof.Machine.execSqFetch h s
  | .sqEntryArrival first more => Sys2Proof.Machine.execSqEntryArrival first more s
  | .read slot => Sys2Proof.Machine.execRead slot s
  | .write slot => Sys2Proof.Machine.execWrite slot s
  | .writeZeroes slot => Sys2Proof.Machine.execWriteZeroes slot s
  | .zoneAppend slot => Sys2Proof.Machine.execZoneAppend slot s
  | .datasetManagement slot => Sys2Proof.Machine.execDatasetManagement slot s
  | .flush slot => Sys2Proof.Machine.execFlush slot s
  | .writeCommit slot => Sys2Proof.Machine.execWriteCommit slot s
  | .parityFold slot => Sys2Proof.Machine.execParityFold slot s
  | .createIoSubmissionQueue slot => Sys2Proof.Machine.execCreateIoSubmissionQueue slot s
  | .createIoCompletionQueue slot => Sys2Proof.Machine.execCreateIoCompletionQueue slot s
  | .deleteIoSubmissionQueue slot => Sys2Proof.Machine.execDeleteIoSubmissionQueue slot s
  | .deleteIoCompletionQueue slot => Sys2Proof.Machine.execDeleteIoCompletionQueue slot s
  | .abort slot => Sys2Proof.Machine.execAbort slot s
  | .asynchronousEventRequest slot => Sys2Proof.Machine.execAsynchronousEventRequest slot s
  | .setFeaturesNumberOfQueues slot => Sys2Proof.Machine.execSetFeaturesNumberOfQueues slot s
  | .getFeaturesNumberOfQueues slot => Sys2Proof.Machine.execGetFeaturesNumberOfQueues slot s
  | .setFeaturesArbitration slot => Sys2Proof.Machine.execSetFeaturesArbitration slot s
  | .getFeaturesArbitration slot => Sys2Proof.Machine.execGetFeaturesArbitration slot s
  | .setFeaturesCompressionLevel slot => Sys2Proof.Machine.execSetFeaturesCompressionLevel slot s
  | .getFeaturesCompressionLevel slot => Sys2Proof.Machine.execGetFeaturesCompressionLevel slot s
  | .identify slot => Sys2Proof.Machine.execIdentify slot s
  | .namespaceCreate slot => Sys2Proof.Machine.execNamespaceCreate slot s
  | .namespaceDelete slot => Sys2Proof.Machine.execNamespaceDelete slot s
  | .namespaceAttachment slot => Sys2Proof.Machine.execNamespaceAttachment slot s
  | .formatNvm slot => Sys2Proof.Machine.execFormatNvm slot s
  | .getLogPageTenant slot => Sys2Proof.Machine.execGetLogPageTenant slot s
  | .getLogPageNotices slot => Sys2Proof.Machine.execGetLogPageNotices slot s
  | .getLogPageAna slot => Sys2Proof.Machine.execGetLogPageAna slot s
  | .getLogPageChangedZoneList slot => Sys2Proof.Machine.execGetLogPageChangedZoneList slot s
  | .getLogPageFirmwareSlot slot => Sys2Proof.Machine.execGetLogPageFirmwareSlot slot s
  | .firmwareImageDownload slot => Sys2Proof.Machine.execFirmwareImageDownload slot s
  | .firmwareCommitStore slot => Sys2Proof.Machine.execFirmwareCommitStore slot s
  | .firmwareCommitStoreActivate slot => Sys2Proof.Machine.execFirmwareCommitStoreActivate slot s
  | .firmwareCommitActivate slot => Sys2Proof.Machine.execFirmwareCommitActivate slot s
  | .firmwareCommitImmediate slot => Sys2Proof.Machine.execFirmwareCommitImmediate slot s
  | .sanitizeCryptoErase slot => Sys2Proof.Machine.execSanitizeCryptoErase slot s
  | .sanitizeBlockErase slot => Sys2Proof.Machine.execSanitizeBlockErase slot s
  | .sanitizeExitFailureMode slot => Sys2Proof.Machine.execSanitizeExitFailureMode slot s
  | .sanitizeOverwrite slot => Sys2Proof.Machine.execSanitizeOverwrite slot s
  | .openZone slot => Sys2Proof.Machine.execOpenZone slot s
  | .closeZone slot => Sys2Proof.Machine.execCloseZone slot s
  | .finishZone slot => Sys2Proof.Machine.execFinishZone slot s
  | .resetZone slot => Sys2Proof.Machine.execResetZone slot s
  | .offlineZone slot => Sys2Proof.Machine.execOfflineZone slot s
  | .setZoneDescriptorExtension slot => Sys2Proof.Machine.execSetZoneDescriptorExtension slot s
  | .reportZones slot => Sys2Proof.Machine.execReportZones slot s
  | .extendedReportZones slot => Sys2Proof.Machine.execExtendedReportZones slot s
  | .avfortZoneReport slot => Sys2Proof.Machine.execAvfortZoneReport slot s
  | .qcxIdxWrite rq v => Sys2Proof.Machine.execQcxIdxWrite rq v s
  | .zneZcxIdxWrite rq v => Sys2Proof.Machine.execZneZcxIdxWrite rq v s
  | .dlsDcxIdxWrite rq v => Sys2Proof.Machine.execDlsDcxIdxWrite rq v s
  | .tntIdxWrite rq v => Sys2Proof.Machine.execTntIdxWrite rq v s
  | .tntLdgIdxWrite rq v => Sys2Proof.Machine.execTntLdgIdxWrite rq v s
  | .ldpBlkIdxWrite rq v => Sys2Proof.Machine.execLdpBlkIdxWrite rq v s
  | .windowCopyDone w => Sys2Proof.Machine.execWindowCopyDone w s
  | .spillAgeTimeout z => Sys2Proof.Machine.execSpillAgeTimeout z s
  | .spillProgramDone z => Sys2Proof.Machine.execSpillProgramDone z s
  | .logCompaction => Sys2Proof.Machine.execLogCompaction s
  | .zoneMerge z => Sys2Proof.Machine.execZoneMerge z s
  | .memberRelocation z isl => Sys2Proof.Machine.execMemberRelocation z isl s
  | .dieUnitEnqueue d => Sys2Proof.Machine.execDieUnitEnqueue d s
  | .suspendReady d => Sys2Proof.Machine.execSuspendReady d s
  | .dieOperationDone d fail decodes busy => Sys2Proof.Machine.execDieOperationDone d fail decodes busy s
  | .quotaBucketRefill t us => Sys2Proof.Machine.execQuotaBucketRefill t us s
  | .deadlineMiss w => Sys2Proof.Machine.execDeadlineMiss w s
  | .channelHold rq ch hold => Sys2Proof.Machine.execChannelHold rq ch hold s
  | .channelResetDies rq ch hold => Sys2Proof.Machine.execChannelResetDies rq ch hold s
  | .channelTrain rq ch hold => Sys2Proof.Machine.execChannelTrain rq ch hold s
  | .trainingRunStart ch => Sys2Proof.Machine.execTrainingRunStart ch s
  | .trainingNotreadyTimeout ch => Sys2Proof.Machine.execTrainingNotreadyTimeout ch s
  | .trainingRunDone ch e => Sys2Proof.Machine.execTrainingRunDone ch e s
  | .trainingRetryTimer ch ce => Sys2Proof.Machine.execTrainingRetryTimer ch ce s
  | .dataPhaseWatchdog d dataIn => Sys2Proof.Machine.execDataPhaseWatchdog d dataIn s
  | .dieOperationTimeout d => Sys2Proof.Machine.execDieOperationTimeout d s
  | .dieResetDone d r => Sys2Proof.Machine.execDieResetDone d r s
  | .softDecodeDone c decodes => Sys2Proof.Machine.execSoftDecodeDone c decodes s
  | .scrubPassTimer => Sys2Proof.Machine.execScrubPassTimer s
  | .wearLevelTimer => Sys2Proof.Machine.execWearLevelTimer s
  | .dieRetire rq die => Sys2Proof.Machine.execDieRetire rq die s
  | .dieTempPoll d temp => Sys2Proof.Machine.execDieTempPoll d temp s
  | .zqShortTimer ch ce => Sys2Proof.Machine.execZqShortTimer ch ce s
  | .rowSolveDone id => Sys2Proof.Machine.execRowSolveDone id s
  | .rebuildBucketRefill us => Sys2Proof.Machine.execRebuildBucketRefill us s
  | .parityVerifyTimer found => Sys2Proof.Machine.execParityVerifyTimer found s
  | .compressBlockDone slot payload => Sys2Proof.Machine.execCompressBlockDone slot payload s
  | .decompressBlockDone slot part lbaOff stored => Sys2Proof.Machine.execDecompressBlockDone slot part lbaOff stored s
  | .xtsUnitDone slot units => Sys2Proof.Machine.execXtsUnitDone slot units s
  | .gcmMessageDone lane w ok => Sys2Proof.Machine.execGcmMessageDone lane w ok s
  | .gcmSuspend lane l w => Sys2Proof.Machine.execGcmSuspend lane l w s
  | .keyBusTransfer isl parityError => Sys2Proof.Machine.execKeyBusTransfer isl parityError s
  | .keySlotClear isl => Sys2Proof.Machine.execKeySlotClear isl s
  | .keyUnwrap isl tagOk => Sys2Proof.Machine.execKeyUnwrap isl tagOk s
  | .voltageGlitch isl => Sys2Proof.Machine.execVoltageGlitch isl s
  | .clockMonitorFault isl => Sys2Proof.Machine.execClockMonitorFault isl s
  | .shieldBreach => Sys2Proof.Machine.execShieldBreach s
  | .lockstepMismatch => Sys2Proof.Machine.execLockstepMismatch s
  | .kvtForce rq v => Sys2Proof.Machine.execKvtForce rq v s
  | .nvaKeyWrite rq v => Sys2Proof.Machine.execNvaKeyWrite rq v s
  | .nvaCmdWrite rq v => Sys2Proof.Machine.execNvaCmdWrite rq v s
  | .nvaDataWrite rq v => Sys2Proof.Machine.execNvaDataWrite rq v s
  | .program => Sys2Proof.Machine.execProgram s
  | .erase => Sys2Proof.Machine.execErase s
  | .blankcheck => Sys2Proof.Machine.execBlankcheck s
  | .nvaSequenceTimeout => Sys2Proof.Machine.execNvaSequenceTimeout s
  | .nvaPulseDone ok => Sys2Proof.Machine.execNvaPulseDone ok s
  | .nvaRaddrWrite rq v => Sys2Proof.Machine.execNvaRaddrWrite rq v s
  | .nvaRdataRead rq => Sys2Proof.Machine.execNvaRdataRead rq s
  | .nvaLineLoadDone => Sys2Proof.Machine.execNvaLineLoadDone s
  | .nvaRdataStallTimeout => Sys2Proof.Machine.execNvaRdataStallTimeout s
  | .nvaBrownout => Sys2Proof.Machine.execNvaBrownout s
  | .nvaBrownoutRecover => Sys2Proof.Machine.execNvaBrownoutRecover s
  | .nonce => Sys2Proof.Machine.execNonce s
  | .nonceExpiry => Sys2Proof.Machine.execNonceExpiry s
  | .take b => Sys2Proof.Machine.execTake b s
  | .transfer b => Sys2Proof.Machine.execTransfer b s
  | .setLevel b => Sys2Proof.Machine.execSetLevel b s
  | .imgkeySet b => Sys2Proof.Machine.execImgkeySet b s
  | .imgkeyRevoke b => Sys2Proof.Machine.execImgkeyRevoke b s
  | .unlock b => Sys2Proof.Machine.execUnlock b s
  | .debugGrant b => Sys2Proof.Machine.execDebugGrant b s
  | .badop b => Sys2Proof.Machine.execBadop b s
  | .debugRevoke => Sys2Proof.Machine.execDebugRevoke s
  | .debugGrantExpiry => Sys2Proof.Machine.execDebugGrantExpiry s
  | .fwload rq => Sys2Proof.Machine.execFwload rq s
  | .spdmGetVersion p => Sys2Proof.Machine.execSpdmGetVersion p s
  | .spdmGetCapabilities p => Sys2Proof.Machine.execSpdmGetCapabilities p s
  | .spdmNegotiateAlgorithms p => Sys2Proof.Machine.execSpdmNegotiateAlgorithms p s
  | .spdmGetDigests p => Sys2Proof.Machine.execSpdmGetDigests p s
  | .spdmGetCertificate p slot offset len => Sys2Proof.Machine.execSpdmGetCertificate p slot offset len s
  | .spdmChallenge p request => Sys2Proof.Machine.execSpdmChallenge p request s
  | .spdmGetMeasurements p index signed request => Sys2Proof.Machine.execSpdmGetMeasurements p index signed request s
  | .spdmKeyExchange p id request => Sys2Proof.Machine.execSpdmKeyExchange p id request s
  | .spdmFinish p id => Sys2Proof.Machine.execSpdmFinish p id s
  | .spdmKeyUpdate p id => Sys2Proof.Machine.execSpdmKeyUpdate p id s
  | .spdmHeartbeat p id => Sys2Proof.Machine.execSpdmHeartbeat p id s
  | .spdmEndSession p id => Sys2Proof.Machine.execSpdmEndSession p id s
  | .spdmVendorDefined p id km => Sys2Proof.Machine.execSpdmVendorDefined p id km s
  | .keyStoreErase => Sys2Proof.Machine.execKeyStoreErase s
  | .poolAllocRequest rq sizes work deadline cls popped => Sys2Proof.Machine.execPoolAllocRequest rq sizes work deadline cls popped s
  | .poolGrant p popped => Sys2Proof.Machine.execPoolGrant p popped s
  | .poolAllocWatchdog id => Sys2Proof.Machine.execPoolAllocWatchdog id s
  | .bufferRelease rq buf => Sys2Proof.Machine.execBufferRelease rq buf s
  | .bufferAddOwner rq buf => Sys2Proof.Machine.execBufferAddOwner rq buf s
  | .freeListRebuildDone p popped => Sys2Proof.Machine.execFreeListRebuildDone p popped s
  | .bpmRqcfgWrite rq r v => Sys2Proof.Machine.execBpmRqcfgWrite rq r v s
  | .arbiterDraw isl reqs withdrew => Sys2Proof.Machine.execArbiterDraw isl reqs withdrew s
  | .arbiterTransferEnd isl reqs => Sys2Proof.Machine.execArbiterTransferEnd isl reqs s
  | .arbTktWrite rq inst wd v => Sys2Proof.Machine.execArbTktWrite rq inst wd v s
  | .dramAccessArrive addr len write tenant owner => Sys2Proof.Machine.execDramAccessArrive addr len write tenant owner s
  | .dramAccessDone ch sub errs => Sys2Proof.Machine.execDramAccessDone ch sub errs s
  | .refreshInterval ch sub => Sys2Proof.Machine.execRefreshInterval ch sub s
  | .dramAlert ch sub index readable again => Sys2Proof.Machine.execDramAlert ch sub index readable again s
  | .mr4Poll ch sub double => Sys2Proof.Machine.execMr4Poll ch sub double s
  | .dqsOscillatorPoll ch drift => Sys2Proof.Machine.execDqsOscillatorPoll ch drift s
  | .dramDqRun rq ch quiesce => Sys2Proof.Machine.execDramDqRun rq ch quiesce s
  | .dramFullRun rq ch quiesce => Sys2Proof.Machine.execDramFullRun rq ch quiesce s
  | .dramTrainDone ch present ranks2 gb32 rd wr => Sys2Proof.Machine.execDramTrainDone ch present ranks2 gb32 rd wr s
  | .dramQuiesce rq ch quiesce full => Sys2Proof.Machine.execDramQuiesce rq ch quiesce full s
  | .sdpRemap rq => Sys2Proof.Machine.execSdpRemap rq s
  | .sdpLogIdxWrite rq v => Sys2Proof.Machine.execSdpLogIdxWrite rq v s
  | .memoryScrub rq mem => Sys2Proof.Machine.execMemoryScrub rq mem s
  | .scrubAbort rq mem => Sys2Proof.Machine.execScrubAbort rq mem s
  | .memoryScrubDone errs => Sys2Proof.Machine.execMemoryScrubDone errs s
  | .flitReceive sub bytes found => Sys2Proof.Machine.execFlitReceive sub bytes found s
  | .sublinkUp sub full => Sys2Proof.Machine.execSublinkUp sub full s
  | .hello r body => Sys2Proof.Machine.execHello r body s
  | .spdmFrame r msg index last msgLen fragLen body found => Sys2Proof.Machine.execSpdmFrame r msg index last msgLen fragLen body found s
  | .heartbeat r dtc state devbaro epoch => Sys2Proof.Machine.execHeartbeat r dtc state devbaro epoch s
  | .ack r ackSeq credSeq nak => Sys2Proof.Machine.execAck r ackSeq credSeq nak s
  | .mirror r row offset body => Sys2Proof.Machine.execMirror r row offset body s
  | .commit r cwp rwp pfp flags body => Sys2Proof.Machine.execCommit r cwp rwp pfp flags body s
  | .release r row reason pwp from_ => Sys2Proof.Machine.execRelease r row reason pwp from_ s
  | .delta r body => Sys2Proof.Machine.execDelta r body s
  | .parity r row member q offset body => Sys2Proof.Machine.execParity r row member q offset body s
  | .fwdreqRead r q => Sys2Proof.Machine.execFwdreqRead r q s
  | .fwdreqProgram r q => Sys2Proof.Machine.execFwdreqProgram r q s
  | .fwdreqErase r q => Sys2Proof.Machine.execFwdreqErase r q s
  | .fwddata r req offset body => Sys2Proof.Machine.execFwddata r req offset body s
  | .fwddone r req status bits_ busyUs => Sys2Proof.Machine.execFwddone r req status bits_ busyUs s
  | .fwdcmd r fn queue slot tenant cls flags level entry => Sys2Proof.Machine.execFwdcmd r fn queue slot tenant cls flags level entry s
  | .fwdcpl r slot status dw0 => Sys2Proof.Machine.execFwdcpl r slot status dw0 s
  | .marker r marker snap ack => Sys2Proof.Machine.execMarker r marker snap ack s
  | .fence r reason => Sys2Proof.Machine.execFence r reason s
  | .fenceack r => Sys2Proof.Machine.execFenceack r s
  | .ctrlSanitizeRelay r blocks => Sys2Proof.Machine.execCtrlSanitizeRelay r blocks s
  | .ctrlResendRow r row => Sys2Proof.Machine.execCtrlResendRow r row s
  | .ctrlHandover r => Sys2Proof.Machine.execCtrlHandover r s
  | .ctrlStateTransfer r body => Sys2Proof.Machine.execCtrlStateTransfer r body s
  | .reservedFrame r => Sys2Proof.Machine.execReservedFrame r s
  | .frameIncompleteTimeout sub => Sys2Proof.Machine.execFrameIncompleteTimeout sub s
  | .replayTimer sub => Sys2Proof.Machine.execReplayTimer sub s
  | .ackIdleTimer sub => Sys2Proof.Machine.execAckIdleTimer sub s
  | .rekey rq => Sys2Proof.Machine.execRekey rq s
  | .handshakeTimeout => Sys2Proof.Machine.execHandshakeTimeout s
  | .heartbeatSendTimer => Sys2Proof.Machine.execHeartbeatSendTimer s
  | .twinHbPulseTimer => Sys2Proof.Machine.execTwinHbPulseTimer s
  | .twinHbPulseDetect => Sys2Proof.Machine.execTwinHbPulseDetect s
  | .heartbeatWindowClose => Sys2Proof.Machine.execHeartbeatWindowClose s
  | .fenceRequest rq => Sys2Proof.Machine.execFenceRequest rq s
  | .fenceDeferTimeout => Sys2Proof.Machine.execFenceDeferTimeout s
  | .fenceLineTimeout => Sys2Proof.Machine.execFenceLineTimeout s
  | .twinFenceAssert => Sys2Proof.Machine.execTwinFenceAssert s
  | .mirrorReplayDone => Sys2Proof.Machine.execMirrorReplayDone s
  | .claimSeenAssert k => Sys2Proof.Machine.execClaimSeenAssert k s
  | .claimSeenDeassert k => Sys2Proof.Machine.execClaimSeenDeassert k s
  | .claimRefuseTimeout k => Sys2Proof.Machine.execClaimRefuseTimeout k s
  | .claimRetryTimer => Sys2Proof.Machine.execClaimRetryTimer s
  | .takeoverClaimTimeout => Sys2Proof.Machine.execTakeoverClaimTimeout s
  | .rejoin rq => Sys2Proof.Machine.execRejoin rq s
  | .seqFront => Sys2Proof.Machine.execSeqFront s
  | .seqInAssert => Sys2Proof.Machine.execSeqInAssert s
  | .vsSample codes => Sys2Proof.Machine.execVsSample codes s
  | .pgChange r v => Sys2Proof.Machine.execPgChange r v s
  | .pgTimeout r => Sys2Proof.Machine.execPgTimeout r s
  | .frontTimeout => Sys2Proof.Machine.execFrontTimeout s
  | .seqFltAssert => Sys2Proof.Machine.execSeqFltAssert s
  | .psqDown rq => Sys2Proof.Machine.execPsqDown rq s
  | .dischargeTimeout r => Sys2Proof.Machine.execDischargeTimeout r s
  | .pfailAssert b => Sys2Proof.Machine.execPfailAssert b s
  | .pfailDeassert b => Sys2Proof.Machine.execPfailDeassert b s
  | .discrepancyTimeout => Sys2Proof.Machine.execDiscrepancyTimeout s
  | .flushUnitDone d fail => Sys2Proof.Machine.execFlushUnitDone d fail s
  | .flushBudgetTimeout => Sys2Proof.Machine.execFlushBudgetTimeout s
  | .plpCfgWrite rq v => Sys2Proof.Machine.execPlpCfgWrite rq v s
  | .coldStart side twinPres selfTest metaOk => Sys2Proof.Machine.execColdStart side twinPres selfTest metaOk s
  | .porstAssert => Sys2Proof.Machine.execPorstAssert s
  | .warmReset selfTest metaOk => Sys2Proof.Machine.execWarmReset selfTest metaOk s
  | .mgtWatchdogExpiry => Sys2Proof.Machine.execMgtWatchdogExpiry s
  | .nvmSubsystemReset => Sys2Proof.Machine.execNvmSubsystemReset s
  | .configRequest f c => Sys2Proof.Machine.execConfigRequest f c s
  | .controllerEnable f asq acq asqs acqs wrr => Sys2Proof.Machine.execControllerEnable f asq acq asqs acqs wrr s
  | .controllerReadyTimeout f => Sys2Proof.Machine.execControllerReadyTimeout f s
  | .controllerReset f => Sys2Proof.Machine.execControllerReset f s
  | .shutdownNotification f abrupt => Sys2Proof.Machine.execShutdownNotification f abrupt s
  | .cleanShutdown twinShut => Sys2Proof.Machine.execCleanShutdown twinShut s
  | .checkpoint => Sys2Proof.Machine.execCheckpoint s
  | .lullIdleTimeout => Sys2Proof.Machine.execLullIdleTimeout s
  | .lullEntryDone => Sys2Proof.Machine.execLullEntryDone s
  | .lullWake w => Sys2Proof.Machine.execLullWake w s
  | .pwrWake rq trimEn lullEn => Sys2Proof.Machine.execPwrWake rq trimEn lullEn s
  | .wakeTimerExpiry => Sys2Proof.Machine.execWakeTimerExpiry s
  | .trimEnWrite rq trimEn lullEn => Sys2Proof.Machine.execTrimEnWrite rq trimEn lullEn s
  | .calmRequest rq trimEn lullEn => Sys2Proof.Machine.execCalmRequest rq trimEn lullEn s
  | .calmEntryDone => Sys2Proof.Machine.execCalmEntryDone s
  | .calmWake w => Sys2Proof.Machine.execCalmWake w s
  | .calmExitDone => Sys2Proof.Machine.execCalmExitDone s
  | .pairHoldEnd => Sys2Proof.Machine.execPairHoldEnd s
  | .diodeSample readings => Sys2Proof.Machine.execDiodeSample readings s
  | .throttleBucketRefill us => Sys2Proof.Machine.execThrottleBucketRefill us s
  | .diodeCalibrate rq sensor => Sys2Proof.Machine.execDiodeCalibrate rq sensor s
  | .calibrationDone stable mean => Sys2Proof.Machine.execCalibrationDone stable mean s
  | .canaryGuardFail isl => Sys2Proof.Machine.execCanaryGuardFail isl s
  | .ageMeasureTimer => Sys2Proof.Machine.execAgeMeasureTimer s
  | .ageMeasure rq => Sys2Proof.Machine.execAgeMeasure rq s
  | .islandMeasureDone isl canary ro0 ro1 written => Sys2Proof.Machine.execIslandMeasureDone isl canary ro0 ro1 written s
  | .remeasureTimer isl => Sys2Proof.Machine.execRemeasureTimer isl s
  | .powerOnHour => Sys2Proof.Machine.execPowerOnHour s
  | .eventRaise isl => Sys2Proof.Machine.execEventRaise isl s
  | .tokenRefill code => Sys2Proof.Machine.execTokenRefill code s
  | .clear rq => Sys2Proof.Machine.execClear rq s
  | .free rq => Sys2Proof.Machine.execFree rq s
  | .fltMaskWrite rq v => Sys2Proof.Machine.execFltMaskWrite rq v s
  | .arm rq => Sys2Proof.Machine.execArm rq s
  | .stop rq => Sys2Proof.Machine.execStop rq s
  | .coreHalt rq v => Sys2Proof.Machine.execCoreHalt rq v s
  | .ondemandSelftest rq mask => Sys2Proof.Machine.execOndemandSelftest rq mask s
  | .i3cWindowPointerWrite off => Sys2Proof.Machine.execI3cWindowPointerWrite off s
  | .i3cWindowWrite bytes => Sys2Proof.Machine.execI3cWindowWrite bytes s
  | .i3cWindowRead n => Sys2Proof.Machine.execI3cWindowRead n s
  | .sublinkBlockLockLoss sub => Sys2Proof.Machine.execSublinkBlockLockLoss sub s
  | .twinFenceRelease => Sys2Proof.Machine.execTwinFenceRelease s
  | .deviceWorkRetry work => Sys2Proof.Machine.execDeviceWorkRetry work s
  | .ledgerCreditRecovery t d => Sys2Proof.Machine.execLedgerCreditRecovery t d s
  | .ondemandSelftestDone bad => Sys2Proof.Machine.execOndemandSelftestDone bad s
  | .nvaAddrWrite rq v => Sys2Proof.Machine.execNvaAddrWrite rq v s
  | .standbyRailLoss => Sys2Proof.Machine.execStandbyRailLoss s
  | .retrainTimeout q => Sys2Proof.Machine.execRetrainTimeout q s

end Sys2Proof.Machine
end

