-- ==== Sys2Proof/WellFormed.lean ====
section
/-! DEFINITION. The operands a command can carry on this hardware beyond what their types say: lengths and ranges of what arrives. -/

namespace Sys2Proof

/-- A received frame's fields fit their widths (R408, R410). -/
def RxFrame.wf (r : RxFrame) : Bool :=
  decide (r.seq < 2 ^ 64 ∧ r.xseq < 2 ^ 64 ∧ r.keyNum < 65536 ∧ r.slack < 2 ^ 32)

/-- The body of a frame: at most 4,096 bytes, a multiple of 8 (R408). -/
def bodyWf (body : List Byte) : Bool := decide (body.length ≤ 4096 ∧ body.length % 8 = 0)

/-- The eyes of a training run are delays of its sweep (R224). -/
def trainEndWf : TrainEnd → Bool
  | .eyes rd wr => decide (rd < 65536 ∧ wr < 65536)
  | .busy | .status | .mode | .noAnswer => true

/-- A link comes up at one of the rates and widths of R84 and HPT_PSTAT; going to L1 it has no new ones. -/
def linkEndWf (rate width : Nat) : LinkEnd → Bool
  | .l0 _ => decide (1 ≤ rate ∧ rate ≤ 6 ∧ width ∈ [1, 2, 4, 8, 16])
  | .l1 => decide (rate = 0 ∧ width = 0)

/-- A request to associate an IDE stream names at most two address ranges (R91). -/
def cfgWf : CfgReq → Bool
  | .ideSelective _ lo hi addrs => decide (lo < 65536 ∧ hi < 65536 ∧ addrs.length ≤ 2)
  | .read | .numVfs _ | .deviceControl .. | .deviceControl2 .. | .linkControl _ | .msixControl .. | .aerClear => true

/-- A GCM message is one of the three uses of R292. -/
def gcmWf (g : GcmMsg) : Bool := decide (g.use ≤ 2 ∧ g.deadline < 2 ^ 32 ∧ g.done ≤ g.len ∧ g.len ≤ 262144)

/-- A command's operands are such as can arrive. -/
def Instr.wf : Instr → Bool
  | .cwWrite _ _ data => decide (data ≠ [])
  | .rcFieldRead _ _ len => decide (1 ≤ len)
  | .dtcBroadcast dev => dev.all fun e => decide (e.1.val ≠ 0)
  | .portTrainDone _ rate width e => linkEndWf rate width e
  | .bar0UnmappedAccess _ a => decide (a.off % 4 = 0)
  | .malformedTlp _ t => decide (t.header.length = 16)
  | .configRequest _ c => cfgWf c
  | .dataCompletion _ _ bytes _ => decide (bytes.length ≤ 4096)
  | .sqEntryArrival first more => (first :: more).all fun e => decide (e.2.length = 64)
  | .trainingRunDone _ e => trainEndWf e
  | .dieTempPoll _ temp => (match temp with | some t => decide (-128 ≤ t ∧ t ≤ 127) | none => true)
  | .gcmMessageDone _ w _ => gcmWf w
  | .gcmSuspend _ l w => gcmWf l && gcmWf w
  | .spdmGetCertificate _ slot offset len => decide (slot ≤ 7 ∧ offset < 65536 ∧ len < 65536)
  | .spdmGetMeasurements _ index _ _ => decide (index ≤ 255)
  | .poolAllocRequest _ sizes _ deadline _ _ => decide (sizes ≠ [] ∧ deadline < 2 ^ 32)
  | .arbiterDraw _ reqs _ | .arbiterTransferEnd _ reqs => reqs.all fun r => decide (r < 64)
  | .dramAccessArrive _ len _ _ _ => decide (1 ≤ len)
  | .hello r body | .delta r body | .ctrlStateTransfer r body => r.wf && bodyWf body
  | .spdmFrame r _ _ _ _ _ body _ => r.wf && bodyWf body
  | .mirror r _ _ body => r.wf && bodyWf body
  | .commit r _ _ _ _ body => r.wf && bodyWf body
  | .parity r _ _ _ _ body => r.wf && bodyWf body
  | .fwddata r _ _ body => r.wf && bodyWf body
  | .fwdcmd r _ _ _ _ _ _ _ entry => r.wf && decide (entry.length = 64)
  | .heartbeat r _ _ _ _ => r.wf
  | .ack r _ _ _ => r.wf
  | .release r _ _ _ _ => r.wf
  | .fwdreqRead r _ | .fwdreqProgram r _ | .fwdreqErase r _ => r.wf
  | .fwddone r _ _ _ _ => r.wf
  | .fwdcpl r _ _ _ => r.wf
  | .marker r _ _ _ => r.wf
  | .fence r _ => r.wf
  | .fenceack r | .ctrlHandover r | .reservedFrame r => r.wf
  | .ctrlSanitizeRelay r _ => r.wf
  | .ctrlResendRow r _ => r.wf
  | .vsSample codes => decide (codes.length = 16)
  | .diodeSample readings => decide (readings.length = 40)
  | .islandMeasureDone _ canary _ _ _ => decide (canary.length = 8)
  | .loRegisterRead .. | .hiRegisterRead .. | .porterCwAccess .. | .islandWakeDone .. | .wakeTimeout .. | .unitReceive ..
  | .islandIdleTimeout .. | .islandDrainDone .. | .islandPwrReqWrite .. | .islandReset .. | .lostPartWatchdog ..
  | .barrierRequest .. | .barrierComplete | .pairBarrierTimeout | .snapshotRecordDone | .imgNop .. | .verify .. | .store ..
  | .activate .. | .live .. | .imgDataWrite .. | .imageDmaDone .. | .storeBankWriteDone | .epochLoaded .. | .epochCommitAck ..
  | .epochSwitchTimeout | .epochDrainDone | .liveverMismatchTimeout .. | .perstAssert .. | .perstDeassert .. | .hotReset ..
  | .linkDown .. | .surpriseLinkDown .. | .functionLevelReset .. | .portRetrain .. | .portDisable ..
  | .nonsecureTlp .. | .ideStreamFail .. | .kSetGo .. | .dataStallTimeout .. | .completionTimeout ..
  | .creditStallTimeout .. | .creditRecoveryTimeout .. | .sqTailDoorbell .. | .cqHeadDoorbell .. | .sqFetch .. | .read ..
  | .write .. | .writeZeroes .. | .zoneAppend .. | .datasetManagement .. | .flush .. | .writeCommit .. | .parityFold ..
  | .createIoSubmissionQueue .. | .createIoCompletionQueue .. | .deleteIoSubmissionQueue .. | .deleteIoCompletionQueue ..
  | .abort .. | .asynchronousEventRequest .. | .setFeaturesNumberOfQueues .. | .getFeaturesNumberOfQueues ..
  | .setFeaturesArbitration .. | .getFeaturesArbitration .. | .setFeaturesCompressionLevel ..
  | .getFeaturesCompressionLevel .. | .identify .. | .namespaceCreate .. | .namespaceDelete .. | .namespaceAttachment ..
  | .formatNvm .. | .getLogPageTenant .. | .getLogPageNotices .. | .getLogPageAna .. | .getLogPageChangedZoneList ..
  | .getLogPageFirmwareSlot .. | .firmwareImageDownload .. | .firmwareCommitStore .. | .firmwareCommitStoreActivate ..
  | .firmwareCommitActivate .. | .firmwareCommitImmediate .. | .sanitizeCryptoErase .. | .sanitizeBlockErase ..
  | .sanitizeExitFailureMode .. | .sanitizeOverwrite .. | .openZone .. | .closeZone .. | .finishZone .. | .resetZone ..
  | .offlineZone .. | .setZoneDescriptorExtension .. | .reportZones .. | .extendedReportZones .. | .avfortZoneReport ..
  | .qcxIdxWrite .. | .zneZcxIdxWrite .. | .dlsDcxIdxWrite .. | .tntIdxWrite .. | .tntLdgIdxWrite .. | .ldpBlkIdxWrite ..
  | .windowCopyDone .. | .spillAgeTimeout .. | .spillProgramDone .. | .logCompaction | .zoneMerge .. | .memberRelocation ..
  | .dieUnitEnqueue .. | .suspendReady .. | .dieOperationDone .. | .quotaBucketRefill .. | .deadlineMiss .. | .channelHold ..
  | .channelResetDies .. | .channelTrain .. | .trainingRunStart .. | .trainingNotreadyTimeout .. | .trainingRetryTimer ..
  | .dataPhaseWatchdog .. | .dieOperationTimeout .. | .dieResetDone .. | .softDecodeDone .. | .scrubPassTimer
  | .wearLevelTimer | .dieRetire .. | .zqShortTimer .. | .rowSolveDone .. | .rebuildBucketRefill .. | .parityVerifyTimer ..
  | .compressBlockDone .. | .decompressBlockDone .. | .xtsUnitDone .. | .keyBusTransfer .. | .keySlotClear .. | .keyUnwrap ..
  | .voltageGlitch .. | .clockMonitorFault .. | .shieldBreach | .lockstepMismatch | .kvtForce .. | .nvaKeyWrite ..
  | .nvaCmdWrite .. | .nvaDataWrite .. | .program | .erase | .blankcheck | .nvaSequenceTimeout | .nvaPulseDone ..
  | .nvaRaddrWrite .. | .nvaRdataRead .. | .nvaLineLoadDone | .nvaRdataStallTimeout | .nvaBrownout | .nvaBrownoutRecover
  | .nonce | .nonceExpiry | .take .. | .transfer .. | .setLevel .. | .imgkeySet .. | .imgkeyRevoke .. | .unlock ..
  | .debugGrant .. | .badop .. | .debugRevoke | .debugGrantExpiry | .fwload .. | .spdmGetVersion .. | .spdmGetCapabilities ..
  | .spdmNegotiateAlgorithms .. | .spdmGetDigests .. | .spdmChallenge .. | .spdmKeyExchange .. | .spdmFinish ..
  | .spdmKeyUpdate .. | .spdmHeartbeat .. | .spdmEndSession .. | .spdmVendorDefined .. | .keyStoreErase | .poolGrant ..
  | .poolAllocWatchdog .. | .bufferRelease .. | .bufferAddOwner .. | .freeListRebuildDone .. | .bpmRqcfgWrite ..
  | .arbTktWrite .. | .dramAccessDone .. | .refreshInterval .. | .dramAlert .. | .mr4Poll .. | .dqsOscillatorPoll ..
  | .dramDqRun .. | .dramFullRun .. | .dramTrainDone .. | .dramQuiesce .. | .sdpRemap .. | .sdpLogIdxWrite ..
  | .memoryScrub .. | .scrubAbort .. | .memoryScrubDone .. | .flitReceive .. | .sublinkUp .. | .frameIncompleteTimeout ..
  | .replayTimer .. | .ackIdleTimer .. | .rekey .. | .handshakeTimeout | .heartbeatSendTimer | .twinHbPulseTimer
  | .twinHbPulseDetect | .heartbeatWindowClose | .fenceRequest .. | .fenceDeferTimeout | .fenceLineTimeout | .twinFenceAssert
  | .mirrorReplayDone | .claimSeenAssert .. | .claimSeenDeassert .. | .claimRefuseTimeout .. | .claimRetryTimer
  | .takeoverClaimTimeout | .rejoin .. | .seqFront | .seqInAssert | .pgChange .. | .pgTimeout .. | .frontTimeout
  | .seqFltAssert | .psqDown .. | .dischargeTimeout .. | .pfailAssert .. | .pfailDeassert .. | .discrepancyTimeout
  | .flushUnitDone .. | .flushBudgetTimeout | .plpCfgWrite .. | .coldStart .. | .porstAssert | .warmReset ..
  | .mgtWatchdogExpiry | .nvmSubsystemReset | .controllerEnable .. | .controllerReadyTimeout ..
  | .controllerReset .. | .shutdownNotification .. | .cleanShutdown .. | .checkpoint | .lullIdleTimeout | .lullEntryDone
  | .lullWake .. | .pwrWake .. | .wakeTimerExpiry | .trimEnWrite .. | .calmRequest .. | .calmEntryDone | .calmWake ..
  | .calmExitDone | .pairHoldEnd | .throttleBucketRefill .. | .diodeCalibrate .. | .calibrationDone .. | .canaryGuardFail ..
  | .ageMeasureTimer | .ageMeasure .. | .remeasureTimer .. | .powerOnHour | .eventRaise .. | .tokenRefill .. | .clear ..
  | .free .. | .fltMaskWrite .. | .arm .. | .stop .. | .coreHalt .. | .ondemandSelftest .. | .i3cWindowPointerWrite ..
  | .i3cWindowWrite .. | .i3cWindowRead .. | .sublinkBlockLockLoss .. | .twinFenceRelease | .deviceWorkRetry ..
  | .ledgerCreditRecovery .. | .ondemandSelftestDone .. | .nvaAddrWrite .. | .standbyRailLoss | .retrainTimeout .. => true

end Sys2Proof
end

