-- ==== Sys2Proof/Safety.lean ====
section
/-! DEFINITION. The terms the statements use: a command that completes with an effect, commands that leave the chip alone, when the
control window lets an access through, and the invariants that every step keeps. -/

namespace Sys2Proof.Machine

/-- The command completes: the next state is the change `e` of the chip, made from the chip with the outputs of earlier commands
gone; frames leave in flits and the side-band outputs follow; the commands that wait are untouched. As the whole next state is given, this says its frame
too: what `e` leaves alone is as before. -/
def Completes (c : Instr) (s : State) (e : Chip → Chip) : Prop :=
  exec c s = .next { s with chip := (e s.chip.fresh).sendFlits.drivePins }

/-- An access of a requester to the register at a CW offset is let through: not in Calm, none of the requester's accesses is stalled,
and the register's island is ON. -/
abbrev Chip.open_ (m : Chip) (rq : Rq) (off : Nat) : Prop :=
  m.f PWR_STAT.STATE ≠ 5 ∧ m.isl.stalled.any (fun a => decide (a.rq = rq)) = false ∧ m.islState (cwIsland off) = 2

/-- A write by a requester to the register at a CW offset is let through, and its block acts on it. -/
abbrev Chip.writable (m : Chip) (rq : Rq) (off : Nat) : Prop := m.open_ rq off ∧ m.blockActs (off / 0x10000) = true

/-- Slot `s` holds an admin command of opcode `op` that CMD has accepted. -/
abbrev Chip.adminAt (m : Chip) (s op : Nat) (c : Cmd) : Prop :=
  m.cmd? s = some c ∧ c.admin = true ∧ c.phase = .accepted ∧ opcodeOf c.entry = op

/-- Slot `s` holds an admin command of opcode `op` whose data has all arrived. -/
abbrev Chip.dataAt (m : Chip) (s op : Nat) (c : Cmd) : Prop :=
  m.cmd? s = some c ∧ c.admin = true ∧ c.phase = .running ∧ opcodeOf c.entry = op ∧ c.want ≠ 0 ∧ c.takesData = false

/-- The chip once an admitted command has its pointers asked for, where none are known yet. -/
def Chip.ptrsAsked (m : Chip) (s len : Nat) (c : Cmd) : Chip := if c.ptrs = [] ∧ c.list.isNone then m.askPtrs s len else m

/-- Its pointers are then all known: it is command `d`, with no list or segment still to read. -/
abbrev Chip.ptrsIn (m : Chip) (s len : Nat) (c d : Cmd) : Prop := (m.ptrsAsked s len c).cmd? s = some d ∧ d.list = none

/-- Slot `s` holds an accepted I/O command of opcode `op` for namespace `n`, whose turn in its zone has come, on the controller that serves it. -/
abbrev Chip.ioAt (m : Chip) (s op : Nat) (c : Cmd) (n : Ns) : Prop :=
  m.cmd? s = some c ∧ c.admin = false ∧ c.phase = .accepted ∧ opcodeOf c.entry = op ∧ m.slotClearing c = false ∧
    m.zoneTurn c = true ∧ m.ns? (nsidOf c.entry) = some n ∧
    ((match c.zone with
      | some z => m.ownsZone z
      | none => decide (anaHome n.ana = m.side) || m.aloneNow) || c.peer.isSome) = true

/-- An owner command of operation `op` is being checked, and what comes before its signature lets it through (R341): the count of bad
signatures is below 8, the header and the UID are right, and it bore the nonce of its time. -/
abbrev Chip.ownerPasses (m : Chip) (c : OwnerCheck) (op : Nat) : Prop :=
  m.tr.check = some c ∧ m.f TRS_FAILCNT.CONSEC ≠ 8 ∧ slice c.bytes 0 4 = [0x4F, 0x57, 0x4E, 0x43] ∧
    fieldAt c.bytes 8 8 = Config.uid.toNat ∧ c.fresh = true ∧ fieldAt c.bytes 4 2 = op

/-- Its signature verifies under the owner's key, or, for TAKE, under the key it brings. -/
abbrev Chip.ownerSigned (m : Chip) (c : OwnerCheck) : Prop :=
  m.ownerSigner c.bytes ≠ [] ∧
    Config.ecdsaVerify (m.ownerSigner c.bytes) (c.bytes.take 0xA0) (slice c.bytes 0xA0 48) (slice c.bytes 0xD0 48) = true

/-- A frame comes in on a sub-link that is up, under its current key, and verifies; no perturbation is armed. -/
abbrev Chip.verified (m : Chip) (r : RxFrame) : Prop :=
  (m.sub r.sub.val).up = true ∧ m.f PTB_CTL.ARMED = 0 ∧ (m.sub r.sub.val).rxKey ≠ 0 ∧ r.keyNum ≠ 0 ∧
    r.keyNum = (m.sub r.sub.val).rxKey % 65536 ∧ r.tagOk = true

/-- It is the reliable frame expected next, sent on this sub-link first, with none that waits before it (R414). -/
abbrev Chip.inOrder (m : Chip) (r : RxFrame) : Prop :=
  m.verified r ∧ r.seq = (m.sub r.sub.val).expect ∧ r.xseq = 0 ∧ (m.sub r.sub.val).waits = []

/-- The same before keys, when a frame of the handshake goes in the clear with a CRC (R409, R419). -/
abbrev Chip.inClear (m : Chip) (r : RxFrame) : Prop :=
  (m.sub r.sub.val).up = true ∧ m.f PTB_CTL.ARMED = 0 ∧ (m.sub r.sub.val).rxKey = 0 ∧ r.keyNum = 0 ∧ r.tagOk = true ∧
    r.seq = (m.sub r.sub.val).expect ∧ r.xseq = 0 ∧ (m.sub r.sub.val).waits = []

/-- Every side-band output is driven at its level: EN_RAIL as PSQ_RAILS, CLAIM_n and TWIN_FENCE_n as TWN_LINES, FAULT_n as FLT_PEND,
FLT_MASK and the forced sources have it (R523), THERM_n and TRIP_n as THM_STAT. -/
abbrev Chip.pinsOk (m : Chip) : Prop := m.pins = m.pinLevels

/-- What holds in every state: the side-band outputs are at their levels, and every waiting command is well-formed. -/
def State.Inv (s : State) : Prop := s.chip.pinsOk ∧ ∀ c ∈ s.pending, c.wf = true

end Sys2Proof.Machine
end

