-- ==== Sys2Proof/Certificates/Slice0/Obligations.lean ====
section
/-! DEFINITION. The statements for the provers: what the rules of the spec say of single operations, of every step, and, by family, what
each command's next state is. -/

open Sys2Proof Sys2Proof.Machine

/-- A step with a command at the front of the queue is that command's meaning on the state with the rest of the queue. -/
def Obligations.StepRunsTheFrontCommand : Prop :=
  ∀ (c : Instr) (rest : List Instr) (s : State), step { s with pending := c :: rest } = exec c { s with pending := rest }

/-- With no command waiting a step lets one tick of the device time counter pass once a start has begun, and changes no register
(the model's choice, log entry 8). -/
def Obligations.AnEmptyQueueLetsOneTickPass : Prop :=
  ∀ s : State, s.pending = [] → ∃ t, step s = .next t ∧ t.pending = [] ∧ t.chip.regs = s.chip.regs ∧
    t.chip.isl.dtc = if s.chip.st.step = 0 then s.chip.isl.dtc else (s.chip.isl.dtc + 1) % 2 ^ 64

/-- After reset every register field reads its reset value, no command waits, no start has begun, and memories hold no byte. -/
def Obligations.ResetLeavesTheStatedValues : Prop :=
  (∀ (g : Fld) (n : Nat), State.reset.chip.f g n = g.rst n) ∧ State.reset.pending = [] ∧ State.reset.chip.st.step = 0 ∧
    (∀ a : Nat, memGet State.reset.chip.img.staging a = 0 ∧ memGet State.reset.chip.zn.store a = 0) ∧
    State.reset.chip.pins = State.reset.chip.pinLevels ∧ State.reset.chip.q.slots = [] ∧ State.reset.chip.freeCtr = 0

/-- What holds in every state of a run holds after reset. -/
def Obligations.TheInvariantHoldsAfterReset : Prop := State.reset.Inv

/-- Every step from a state in which the side-band outputs are at their levels and the waiting commands are well-formed leads to such
a state. -/
def Obligations.EveryStepKeepsTheInvariant : Prop := ∀ s t : State, s.Inv → step s = .next t → t.Inv

/-- Every command answers a next state, with the side-band outputs at their levels and the queue as it was. -/
def Obligations.EveryCommandAnswersANextState : Prop :=
  ∀ (c : Instr) (s : State), ∃ t, exec c s = .next t ∧ t.pending = s.pending ∧ t.chip.pinsOk

/-- Counters saturate at their all-ones value (R11), and a counter's rise changes no other field. -/
def Obligations.CountersSaturateAtAllOnes : Prop :=
  ∀ (m : Chip) (c : Fld) (k n : Nat), (m.addF c k n).f c n = min (m.f c n + k) (2 ^ (c.hi - c.lo + 1) - 1) ∧
    ∀ (g : Fld) (j : Nat), g.key j ≠ c.key n → (m.addF c k n).f g j = m.f g j

/-- Deadlines are compared and slack is taken modulo 2^32 in the half range (R46). -/
def Obligations.DeadlinesCompareModulo32Bits : Prop :=
  ∀ a b : BitVec 32,
    (earlier a.toNat b.toNat = true ↔ 1 ≤ (b - a).toNat ∧ (b - a).toNat ≤ 2 ^ 31 - 1) ∧
    (earlier a.toNat b.toNat = false ∧ earlier b.toNat a.toNat = false ↔ (b - a).toNat = 0 ∨ (b - a).toNat = 2 ^ 31) ∧
    (1 ≤ (b - a).toNat ∧ (b - a).toNat ≤ 2 ^ 31 - 1 → slackAt a.toNat b.toNat = (b - a).toNat) ∧
    (slackAt a.toNat b.toNat = 0 ↔ (b - a).toNat = 0 ∨ 2 ^ 31 ≤ (b - a).toNat)

/-- Units with equal deadlines: lower latency class first, then reads before programs before erases, then earlier acceptance, a host unit
first in a tie (R181). -/
def Obligations.UnitsWithEqualDeadlinesAreOrdered : Prop :=
  ∀ a b : DUnit, earlier a.deadline b.deadline = false → earlier b.deadline a.deadline = false →
    (a.cls < b.cls → a.before b = true ∧ b.before a = false) ∧
    (a.cls = b.cls →
      (a.kind = .read ∧ b.kind ≠ .read ∨ a.kind = .program ∧ b.kind = .erase → a.before b = true ∧ b.before a = false) ∧
      (a.kind = b.kind →
        (a.created < b.created → a.before b = true ∧ b.before a = false) ∧
        (a.created = b.created → a.internal = false → b.internal = true → a.before b = true ∧ b.before a = false)))

/-- The members of a row: P on r mod 18, Q on (r + 1) mod 18, data column c on (r + 2 + c) mod 18, and no two of them on one member
(R156). -/
def Obligations.ARowsUnitsLieOnDistinctMembers : Prop :=
  ∀ r c : Nat, c < 16 → parityP r = r % 18 ∧ parityQ r = (r + 1) % 18 ∧ memberOf r c = (r + 2 + c) % 18 ∧
    parityP r ≠ parityQ r ∧ memberOf r c ≠ parityP r ∧ memberOf r c ≠ parityQ r ∧
    ∀ c' : Nat, c' < 16 → memberOf r c' = memberOf r c → c' = c

/-- The row, data column, page, byte in page and member of a zone byte offset are in range and name the offset (R157). -/
def Obligations.AZoneOffsetIsItsPlace : Prop :=
  ∀ b : Nat, b < 2 ^ 32 → rowOf b < 1024 ∧ columnOf b < 16 ∧ pageOf b < 16 ∧ memberOf (rowOf b) (columnOf b) < 18 ∧
    b = 4194304 * (rowOf b) + 262144 * (columnOf b) + 16384 * (pageOf b) + b % 16384

/-- The ONFI row addresses of two pages of the dies of one chip enable differ where die, block, row or page differ (R218). -/
def Obligations.OnfiRowAddressesAreDistinct : Prop :=
  ∀ d d' b b' r r' k k' : Nat, d / 4 = d' / 4 → b < 5120 → b' < 5120 → r < 1024 → r' < 1024 → k < 16 → k' < 16 →
    onfiRow d b r k = onfiRow d' b' r' k' → d = d' ∧ b = b' ∧ r = r' ∧ k = k'

/-- Two erased data columns of a row come back from P, Q and the other columns (R249, R255). -/
def Obligations.ParityRestoresTwoColumns : Prop :=
  ∀ (ds : List Nat) (x y : Nat), ds.length = 16 → (∀ d ∈ ds, d < 256) → x < y → y < 16 →
    solveXY (parityPAt ds) (parityQAt ds) x y ((ds.set x 0).set y 0) = (ds.getD x 0, ds.getD y 0)

/-- One erased data column comes back from P, and from Q where P is left out (R255). -/
def Obligations.ParityRestoresOneColumn : Prop :=
  ∀ (ds : List Nat) (x : Nat), ds.length = 16 → (∀ d ∈ ds, d < 256) → x < 16 →
    solveP (parityPAt ds) (ds.set x 0) = ds.getD x 0 ∧ solveQ (parityQAt ds) x (ds.set x 0) = ds.getD x 0

/-- One wrong member of a row is located by its syndromes: P, Q, or the data column in error (R265). -/
def Obligations.OneWrongMemberIsLocated : Prop :=
  ∀ e : Nat, 0 < e → e < 256 → locateAt e 0 = .parityP ∧ locateAt 0 e = .parityQ ∧
    ∀ x : Nat, x < 16 → locateAt e (gfMul (gfPow x) e) = .column x

/-- The CRC-64 of a block's original bytes gives the spec's check value (R272). -/
def Obligations.Crc64GivesTheCheckValue : Prop :=
  crc64 [0x31, 0x32, 0x33, 0x34, 0x35, 0x36, 0x37, 0x38, 0x39] = 0x6C40DF5F0B497347

/-- An arbiter's LFSR never reaches 0 from a nonzero value, and no two values have the same next one (R368). -/
def Obligations.TheLfsrNeverStops : Prop :=
  ∀ x y : Nat, x < 2 ^ 32 → y < 2 ^ 32 → (x ≠ 0 → lfsrNext x ≠ 0) ∧ lfsrNext x < 2 ^ 32 ∧ (lfsrNext x = lfsrNext y → x = y)

/-- A flow tag with any one bit inverted fails its check (R47, R51). -/
def Obligations.OneInvertedBitFailsATag : Prop :=
  ∀ t i : Nat, t < 2 ^ 192 → i < 192 → bits t 191 176 = tagCheck t → tagPasses (t ^^^ 2 ^ i) = false

/-- The fields of the tag of an I/O command read back as they were put in, and the tag passes its check (R47 to R51). -/
def Obligations.ACommandTagReadsBack : Prop :=
  ∀ (m : Chip) (slot : Nat) (c : Cmd), c.admin = false → slot < 65536 → c.q < 262144 → c.fn < 4128 → c.tenant < 4096 → c.level ≤ 9 →
    c.hint ≤ 4 → c.epoch < 16 → c.cls < 8 → c.zone.getD 0 < 262144 →
    (∀ n, m.ns? (nsidOf c.entry) = some n → n.keySlot < 8448 ∨ n.keySlot = 0x3FFF) →
    let t := m.cmdTag slot c
    tagSlot t = slot ∧ bits t 92 75 = c.q ∧ tagFn t = c.fn ∧ tagTenant t = c.tenant ∧ tagLevel t = c.level ∧ tagHint t = c.hint ∧
      tagEpoch t = c.epoch ∧ bits t 38 36 = c.cls ∧ bits t 31 0 = c.deadline % 2 ^ 32 ∧ tagZone t = c.zone.getD 0 ∧ tagPasses t = true

/-- The admin queue of a function has context index 262,144 + f, and an admin command's tag carries queue 0 and flag ADMIN (R106). -/
def Obligations.AdminQueuesHaveTheirOwnIndices : Prop :=
  (∀ (i : Image) (f : Fn), i.qctxOf f 0 = some (262144 + f.val) ∧ 262144 + f.val ≤ 266271) ∧
  ∀ (m : Chip) (slot : Nat) (c : Cmd), c.admin = true → slot < 65536 → c.fn < 4128 → c.tenant < 4096 → c.level ≤ 9 → c.hint ≤ 4 →
    c.epoch < 16 → c.cls < 8 → c.zone.getD 0 < 262144 → bits (m.cmdTag slot c) 92 75 = 0 ∧ bitOf (m.cmdTag slot c) 143 = true

/-- One barrier flies and up to 4 more wait in request order, whatever the source; a sixth request is refused with result code 3
(R58). -/
def Obligations.OneBarrierFliesAndFourWait : Prop :=
  ∀ (m : Chip) (src : BarSrc) (snap twin : Bool) (mk : Option Nat),
    (∀ b, m.isl.flight = some b → m.isl.barQueue.length < 4 →
      (m.barRequest src snap twin mk).isl.flight = some b ∧
      ∃ w, (m.barRequest src snap twin mk).isl.barQueue = m.isl.barQueue ++ [w] ∧ w.src = src ∧ w.snap = snap) ∧
    (m.isl.flight.isSome = true → 4 ≤ m.isl.barQueue.length →
      (m.barRequest src snap twin mk).isl = m.isl ∧ (src = .cw → (m.barRequest src snap twin mk).f ISL_BARSTAT.RESULT = 3)) ∧
    (m.isl.flight = none → m.isl.barQueue = [] →
      ∃ w, (m.barRequest src snap twin mk).isl.flight = some w ∧ w.src = src ∧ w.snap = snap ∧
        (m.barRequest src snap twin mk).isl.barQueue = [])

/-- GO while an image operation runs has no effect but a configuration-class event, and IMG_DATA is discarded (R73). -/
def Obligations.ImageCommandsWaitForTheRunningOperation : Prop :=
  ∀ (s : State) (rq : Rq) (src : Bool) (v : BitVec 32), s.chip.f IMG_STAT.BUSY = 1 →
    (s.chip.writable rq (IMG_CMD.GO.off 0) →
      (∀ c ∈ [Instr.imgNop rq src, .verify rq src, .store rq src, .activate rq src, .live rq src],
        Completes c s fun m => m.cfgEvent (IMG_CMD.GO.off 0)) ∧
      ∀ g ∈ [IMG_STAT.BUSY, IMG_STAT.RESULT, IMG_STAT.SECTYPE, IMG_STAT.RECORD], (s.chip.fresh.cfgEvent (IMG_CMD.GO.off 0)).f g = s.chip.f g) ∧
    (s.chip.writable rq (IMG_DATA.DATA.off 0) → Completes (.imgDataWrite rq v) s fun m => m)

/-- An access to a BAR0 offset outside its regions reads 0 or is discarded, and is counted (R89). -/
def Obligations.UnmappedBar0AccessesAreCounted : Prop :=
  ∀ (s : State) (f : Fn) (off : Nat), s.chip.fnSeen f = true → s.chip.reached f = true → s.chip.bar0At f off = .none →
    Completes (.bar0UnmappedAccess f ⟨off, none⟩) s (fun m => { m.addF HPT_ERRCNT.UNMAPPED 1 (m.slotOf f) with reply := [0] }) ∧
    ∀ v : BitVec 32, Completes (.bar0UnmappedAccess f ⟨off, some v⟩) s (fun m => m.addF HPT_ERRCNT.UNMAPPED 1 (m.slotOf f))

/-- THERM_n is asserted from THERM_N_C on, with event 0x6D02, and deasserted below THERM_N_C less the hysteresis (R497). -/
def Obligations.ThermNFollowsTheJunction : Prop :=
  ∀ m : Chip, m.f THM_STAT.THERM_OUT < 2 →
    (2 * (m.therm.thermN : Int) ≤ m.tj → m.f THM_STAT.THERM_OUT = 0 →
      m.thermLine = (m.setF THM_STAT.THERM_OUT 1).emit 0 0x6D02 ∧ m.thermLine.f THM_STAT.THERM_OUT = 1) ∧
    (2 * (m.therm.thermN : Int) ≤ m.tj → m.f THM_STAT.THERM_OUT = 1 → m.thermLine = m) ∧
    (m.tj < 2 * (m.therm.thermN : Int) - 2 * (m.therm.hyst : Int) → m.thermLine.f THM_STAT.THERM_OUT = 0 ∧
      ∀ g j, g.key j ≠ THM_STAT.THERM_OUT.key 0 → m.thermLine.f g j = m.f g j) ∧
    (m.tj < 2 * (m.therm.thermN : Int) → 2 * (m.therm.thermN : Int) - 2 * (m.therm.hyst : Int) ≤ m.tj → m.thermLine = m)

/-- A release or an add that the buffer's owners do not allow is counted, is fault event 0x6604 and leaves the buffer alone (R361). -/
def Obligations.BadBufferOwnersAreRefused : Prop :=
  ∀ (s : State) (rq : Fin 64) (buf : Nat) (b : Buf), tfind s.chip.bp.bufs buf = some b →
    (rq.val ∉ b.owners ∨ b.count = 0 → Completes (.bufferRelease rq buf) s Chip.refuseOwner) ∧
    (b.count = 0xFFFF ∨ rq.val ∉ b.owners ∧ 6 ≤ b.owners.length → Completes (.bufferAddOwner rq buf) s Chip.refuseOwner) ∧
    s.chip.refuseOwner.bp = s.chip.bp

/-- An access to an offset without a register reads 0 and ignores writes (R15). -/
def Obligations.UnlistedOffsetsReadZero : Prop :=
  ∀ (m : Chip) (rq : Rq) (off : Nat) (w : Nat), (fieldsAt off).isEmpty = true → m.f PWR_STAT.STATE ≠ 5 →
    m.isl.stalled.any (fun a => decide (a.rq = rq)) = false →
    m.access rq off none = m.giveWord 0 ∧ m.access rq off (some w) = m

/-- A write to a PTB register without its scope is discarded and is event 0x1001; PTB_BIST needs no scope; reads answer (R525). -/
def Obligations.PerturbationNeedsItsScope : Prop :=
  ∀ (m : Chip) (rq : Rq) (off w : Nat), m.writable rq off → (fieldsAt off).isEmpty = false → off / 0x10000 = 0x28 →
    (off = PTB_CORE.HALT.off 0 → bitOf m.scopes 1 = false → m.access rq off (some w) = m.cfgEvent off) ∧
    (off ≠ PTB_CORE.HALT.off 0 → off ≠ PTB_BIST.GO.off 0 → bitOf m.scopes 0 = false → m.access rq off (some w) = m.cfgEvent off) ∧
    (off = PTB_BIST.GO.off 0 → m.f PTB_BIST.GO = 0 → m.access rq off (some w) =
      if bitOf w 31 then (m.storeReg off w).bistGo else m.storeReg off w) ∧
    ∃ v t, m.access rq off none = Chip.giveWord t v

/-- A fault event sets its group's pending bit, raises its count and is logged first where no fault is; FAULT_n is asserted while a group
is pending and unmasked or a forced source is set (R523). -/
def Obligations.FaultEventsRaiseTheirGroup : Prop :=
  ∀ (m : Chip) (i code v g : Nat), faultGroup code = some g → g < 16 →
    (m.emit i code v).fbit FLT_PEND.GROUP g = true ∧
    (m.emit i code v).f FLT_GCNT.COUNT g = min (m.f FLT_GCNT.COUNT g + 1) (FLT_GCNT.COUNT.span - 1) ∧
    (m.f FLT_FIRST.VALID ≠ 1 → (m.emit i code v).f FLT_FIRST.VALID = 1 ∧ (m.emit i code v).f FLT_FIRST.GROUP = g ∧
      (m.emit i code v).f FLT_FIRST.CODE = code ∧ (m.emit i code v).f FLT_FIRSTDTC.DTC = m.now) ∧
    (bitOf (m.f FLT_MASK.GROUP) g = false → (m.emit i code v).faultN = true)

/-- In Calm no access of the control window does anything (R42). -/
def Obligations.CalmShutsTheWindow : Prop :=
  ∀ (s : State) (rq : Rq), s.chip.f PWR_STAT.STATE = 5 →
    (∀ (off : BitVec 26) (data : List (Option Byte)), Completes (.cwWrite rq off data) s fun m => m) ∧
    (∀ (off : BitVec 26) (n : Nat), Completes (.rcFieldRead rq off n) s fun m => m) ∧
    (∀ (off : BitVec 26) (w : Option (BitVec 32)), Completes (.porterCwAccess rq off w) s fun m => m) ∧
    ∀ p : RegPair, Completes (.loRegisterRead rq p) s (fun m => m) ∧ Completes (.hiRegisterRead rq p) s (fun m => m)

/-- A raw block opens to what it holds (R271 to R274). -/
def Obligations.ARawBlockOpensToItsBytes : Prop :=
  ∀ (level lbaOff : Nat) (early : Bool) (orig payload : List Byte), level < 10 → lbaOff < 65536 → orig.length % 512 = 0 → 512 ≤ orig.length →
    orig.length ≤ 65536 → orig.length ≤ 24 + payload.length →
    (makeBlock level lbaOff early orig payload).2 = true ∧ openBlock (makeBlock level lbaOff early orig payload).1 = .good orig

/-- A little-endian field reads back what was written, cut to its bytes (R4). -/
def Obligations.LittleEndianFieldsReadBack : Prop := ∀ n x : Nat, leNat (leBytes n x) = x % 256 ^ n ∧ (leBytes n x).length = n

/-- A size class request gets the smallest enabled class not below it, and none where every enabled class is below (R353). -/
def Obligations.ARequestGetsTheSmallestClass : Prop :=
  ∀ mask n : Nat,
    (∀ k, classFor mask n = some k → k < 6 ∧ bitOf mask k = true ∧ n ≤ 4096 * 4 ^ k ∧
      ∀ j, j < k → bitOf mask j = true → 4096 * 4 ^ j < n) ∧
    (classFor mask n = none → ∀ k, k < 6 → bitOf mask k = true → 4096 * 4 ^ k < n)

/-- A credit entry stays between minus the depth and the depth through an update and a charge (R190). -/
def Obligations.CreditsStayWithinTheirDepth : Prop :=
  ∀ (share windowMs now : Nat) (c : Credit) (t : Int), 0 ≤ t →
    let d := ldgDepth share windowMs
    let x := ldgCharge share windowMs (ldgGain share windowMs now c) t
    x.credit ≤ d ∧ -d ≤ x.credit ∧ x.last = now ∧
      (ldgGain share windowMs now c).credit ≤ d ∧ (c.credit ≤ d → c.last ≤ now → now < 2 ^ 32 → c.credit ≤ (ldgGain share windowMs now c).credit)

/-- A flit holds 256 bytes: the offset of the first frame in it, its bytes with zeros behind them, and a CRC that checks (R406). -/
def Obligations.AFlitCarriesItsBytes : Prop :=
  ∀ (first : Nat) (bs : List Byte), first < 65536 → bs.length ≤ 240 →
    (flitOf first bs).length = 256 ∧ fieldAt (flitOf first bs) 0 2 = first ∧ slice (flitOf first bs) 2 bs.length = bs ∧
      (∀ x ∈ slice (flitOf first bs) (2 + bs.length) (240 - bs.length), x = 0) ∧
      fieldAt (flitOf first bs) 242 8 = crc64 ((flitOf first bs).take 242)

/-- A draw of an arbiter names one of the requesters that request; where any of them holds tickets, one that holds tickets (R368). -/
def Obligations.ADrawNamesARequester : Prop :=
  ∀ (a : ArbSt) (reqs : List Nat), reqs ≠ [] →
    ∃ w ∈ reqs, (a.draw reqs).1 = some w ∧ ((∃ r ∈ reqs, tget 0 a.active r ≠ 0) → tget 0 a.active w ≠ 0) ∧
      (a.draw reqs).2.lfsr = lfsrNext a.lfsr ∧ (a.draw reqs).2.active = a.active

/-- The bus of a channel goes to a die of the channel that holds data ready, and is free where none does (R185). -/
def Obligations.TheBusGoesToADieWithDataReady : Prop :=
  ∀ (m : Chip) (ch : Nat),
    (∀ d, tfind (m.busNext ch).md.bus ch = some d → dieChannel d = ch ∧ m.dataReady d = true) ∧
    (tfind (m.busNext ch).md.bus ch = none → ∀ d, dieChannel d = ch → m.dataReady d = false) ∧
    ∀ c, c ≠ ch → tfind (m.busNext ch).md.bus c = tfind m.md.bus c

/-- Admin commands for queues, aborts, event requests and features complete: each, accepted in a slot with operands it permits, has the effect
named here and answers its completion entry. The whole next state is given, so each clause says its frame too. The rules of the rows:
R107, R108, R116, R138, R139, R205, R268. -/
def Obligations.QueueAndFeatureCommandsComplete : Prop :=
  (∀ (s : State) (slot : SlotId) (c : Cmd) (i k : Nat), s.chip.adminAt slot 0x01 c →
    bits (dw c.entry 10) 15 0 ≠ 0 →
    bits (dw c.entry 10) 15 0 ≤ s.chip.img.tables.qcount c.fn →
    s.chip.img.tables.qctxOf c.fn (bits (dw c.entry 10) 15 0) = some i →
    (s.chip.qc i).sqValid = false →
    bitOf (dw c.entry 11) 0 = true →
    bits (dw c.entry 11) 31 16 ≠ 0 →
    bits (dw c.entry 11) 31 16 ≤ s.chip.img.tables.qcount c.fn →
    s.chip.img.tables.qctxOf c.fn (bits (dw c.entry 11) 31 16) = some k →
    (s.chip.qc k).cqValid = true →
    Completes (.createIoSubmissionQueue slot) s (fun m => (m.setQc i { m.qc i with
        sqBase := prp1Of c.entry / 4096 * 4096, sqValid := true, sqSize := bits (dw c.entry 10) 31 16, sqHead := 0, sqTail := 0
        sqPrio := if (m.fn c.fn).wrr then bits (dw c.entry 11) 2 1 else 0, sqState := 1, sqCq := k, func := c.fn
        qid := bits (dw c.entry 10) 15 0, pairs := [] }).finish slot (some stOk))) ∧
  (∀ (s : State) (slot : SlotId) (c : Cmd) (i : Nat), s.chip.adminAt slot 0x05 c →
    bits (dw c.entry 10) 15 0 ≠ 0 →
    bits (dw c.entry 10) 15 0 ≤ s.chip.img.tables.qcount c.fn →
    s.chip.img.tables.qctxOf c.fn (bits (dw c.entry 10) 15 0) = some i →
    (s.chip.qc i).cqValid = false →
    bitOf (dw c.entry 11) 0 = true →
    Completes (.createIoCompletionQueue slot) s (fun m => (m.setQc i { m.qc i with
        cqBase := prp1Of c.entry / 4096 * 4096, cqValid := true, cqIen := bitOf (dw c.entry 11) 1, cqPhase := 1
        cqSize := bits (dw c.entry 10) 31 16, cqHead := 0, cqTail := 0, cqIv := bits (dw c.entry 11) 26 16, func := c.fn
        qid := bits (dw c.entry 10) 15 0 }).finish slot (some stOk))) ∧
  (∀ (s : State) (slot : SlotId) (c : Cmd) (i : Nat), s.chip.adminAt slot 0x00 c →
    s.chip.img.tables.qctxOf c.fn (bits (dw c.entry 10) 15 0) = some i →
    bits (dw c.entry 10) 15 0 ≠ 0 →
    (s.chip.qc i).sqValid = true →
    (s.chip.qc i).sqState ≠ 2 →
    Completes (.deleteIoSubmissionQueue slot) s (fun m => 
      let m := (m.setQc i { m.qc i with sqState := 2 }).modCmd slot fun c => { c with phase := .running }
      let mine := m.q.slots.filter fun e => decide (e.2.q = i ∧ e.2.peer = none)
      let m := (mine.filter fun e => decide (e.2.phase ≠ .reserved ∧ e.2.phase ≠ .committed)).foldl
        (fun (m : Chip) e => if (m.cmd? e.1).isSome then m.endCmd e.1 (some stSqDeleted) else m) m
      (m.finishDelete i).settle)) ∧
  (∀ (s : State) (slot : SlotId) (c : Cmd) (i : Nat), s.chip.adminAt slot 0x04 c →
    s.chip.img.tables.qctxOf c.fn (bits (dw c.entry 10) 15 0) = some i →
    bits (dw c.entry 10) 15 0 ≠ 0 →
    (s.chip.qc i).cqValid = true →
    s.chip.q.qctx.any (fun e => decide (e.2.sqState ≠ 0 ∧ e.1 < 262144 ∧ e.2.sqCq = i)) = false →
    Completes (.deleteIoCompletionQueue slot) s (fun m => (m.setQc i { m.qc i with
        cqBase := 0, cqValid := false, cqIen := false, cqPhase := 0, cqSize := 0, cqHead := 0, cqTail := 0
        cqIv := 0 }).finish slot (some stOk))) ∧
  (∀ (s : State) (slot : SlotId) (c : Cmd), s.chip.adminAt slot 0x08 c →
    s.chip.img.tables.qctxOf c.fn (bits (dw c.entry 10) 15 0) = none →
    Completes (.abort slot) s (fun m => (m.finish slot (some stOk) 1).settle)) ∧
  (∀ (s : State) (slot : SlotId) (c : Cmd) (i t : Nat) (d : Cmd), s.chip.adminAt slot 0x08 c →
    s.chip.img.tables.qctxOf c.fn (bits (dw c.entry 10) 15 0) = some i →
    s.chip.q.slots.find? (fun e => decide (e.1 ≠ slot.val ∧ e.2.q = i ∧ e.2.peer = none ∧ e.2.phase ≠ .reserved ∧ e.2.phase ≠ .committed) &&
      decide (cidOf e.2.entry = bits (dw c.entry 10) 31 16) &&
      !(decide (opcodeOf e.2.entry = 0x02) && s.chip.onDie e.1)) = some (t, d) →
    Completes (.abort slot) s (fun m => ((m.endCmd t (some stAborted)).finish slot (some stOk) 0).settle)) ∧
  (∀ (s : State) (slot : SlotId) (c : Cmd), s.chip.adminAt slot 0x0C c →
    (s.chip.fn c.fn).events = [] →
    Completes (.asynchronousEventRequest slot) s (fun m => (m.setFn c.fn { m.fn c.fn with aers := (m.fn c.fn).aers ++ [slot.val] }).modCmd slot fun c => { c with phase := .running })) ∧
  (∀ (s : State) (slot : SlotId) (c : Cmd) (t i p : Nat) (rest : List (Nat × Nat × Nat)), s.chip.adminAt slot 0x0C c →
    (s.chip.fn c.fn).events = (t, i, p) :: rest →
    Completes (.asynchronousEventRequest slot) s (fun m => (m.setFn c.fn { m.fn c.fn with events := rest }).finish slot (some stOk) (65536 * p + i * 256 + t))) ∧
  (∀ (s : State) (slot : SlotId) (c : Cmd), s.chip.adminAt slot 0x09 c →
    bits (dw c.entry 10) 7 0 = 0x07 →
    s.chip.img.tables.qcount c.fn ≠ 0 →
    Completes (.setFeaturesNumberOfQueues slot) s (fun m => m.finish slot (some stOk) (65536 * (m.img.tables.qcount c.fn - 1) + (m.img.tables.qcount c.fn - 1)))) ∧
  (∀ (s : State) (slot : SlotId) (c : Cmd), s.chip.adminAt slot 0x0A c →
    bits (dw c.entry 10) 7 0 = 0x07 →
    s.chip.img.tables.qcount c.fn ≠ 0 →
    Completes (.getFeaturesNumberOfQueues slot) s (fun m => m.finish slot (some stOk) (65536 * (m.img.tables.qcount c.fn - 1) + (m.img.tables.qcount c.fn - 1)))) ∧
  (∀ (s : State) (slot : SlotId) (c : Cmd), s.chip.adminAt slot 0x09 c →
    bits (dw c.entry 10) 7 0 = 0x01 →
    Completes (.setFeaturesArbitration slot) s (fun m => (m.setFn c.fn { m.fn c.fn with
        ab := bits (dw c.entry 11) 2 0, lpw := bits (dw c.entry 11) 15 8, mpw := bits (dw c.entry 11) 23 16
        hpw := bits (dw c.entry 11) 31 24 }).finish slot (some stOk))) ∧
  (∀ (s : State) (slot : SlotId) (c : Cmd), s.chip.adminAt slot 0x0A c →
    bits (dw c.entry 10) 7 0 = 0x01 →
    Completes (.getFeaturesArbitration slot) s (fun m => m.finish slot (some stOk) ((m.fn c.fn).ab + (m.fn c.fn).lpw * 2 ^ 8 + 2 ^ 16 * ((m.fn c.fn).mpw) + 2 ^ 24 * ((m.fn c.fn).hpw)))) ∧
  (∀ (s : State) (slot : SlotId) (c : Cmd) (n : Ns), s.chip.adminAt slot 0x09 c →
    bits (dw c.entry 10) 7 0 = 0xC8 →
    nsidOf c.entry ≠ 0xFFFFFFFF →
    s.chip.visible? c.fn (nsidOf c.entry) = some n →
    n.elastic = true →
    1 ≤ bits (dw c.entry 11) 3 0 →
    bits (dw c.entry 11) 3 0 ≤ 9 →
    Completes (.setFeaturesCompressionLevel slot) s (fun m => (m.modNs n.nsid fun n => { n with level := bits (dw c.entry 11) 3 0 }).finish slot (some stOk))) ∧
  (∀ (s : State) (slot : SlotId) (c : Cmd) (n : Ns), s.chip.adminAt slot 0x0A c →
    bits (dw c.entry 10) 7 0 = 0xC8 →
    nsidOf c.entry ≠ 0xFFFFFFFF →
    s.chip.visible? c.fn (nsidOf c.entry) = some n →
    n.elastic = true →
    Completes (.getFeaturesCompressionLevel slot) s (fun m => m.finish slot (some stOk) n.level))

/-- Identify, namespace management, Format NVM and the log pages complete: each, accepted in a slot with operands it permits (Namespace Create
and Attachment once their data is there), has the effect named here. The whole next state is given, so each clause says its frame too. The
rules of the rows: R103, R143, R145, R152, R177, R208, R302, R327, R346, R520, R559. -/
def Obligations.NamespaceAndLogCommandsComplete : Prop :=
  (∀ (s : State) (slot : SlotId) (c : Cmd) (d : Cmd), s.chip.adminAt slot 0x06 c →
    bits (dw c.entry 10) 7 0 ∈ [0x00, 0x01, 0x02, 0x05, 0x06, 0x07, 0x12, 0x13] →
    ((bits (dw c.entry 10) 7 0 = 0x00 ∨ bits (dw c.entry 10) 7 0 = 0x05 ∨ bits (dw c.entry 10) 7 0 = 0x12) → (s.chip.visible? c.fn (nsidOf c.entry)).isSome = true) →
    s.chip.fresh.ptrsIn slot 4096 c d →
    Completes (.identify slot) s (fun m => 
      let m := m.ptrsAsked slot 4096 c
      (m.post d.fn (.identify d.fn slot.val (bits (dw c.entry 10) 7 0) (hostRange d.ptrs 0 4096)
        (m.identifyProps d.fn (nsidOf d.entry) (bits (dw d.entry 10) 31 16) (bits (dw c.entry 10) 7 0)))).finish slot (some stOk))) ∧
  (∀ (s : State) (slot : SlotId) (c : Cmd) (d : Cmd), s.chip.adminAt slot 0x06 c →
    bits (dw c.entry 10) 7 0 ∈ [0x01, 0x02, 0x06, 0x07, 0x13] →
    (s.chip.fresh.ptrsAsked slot 4096 c).cmd? slot = some d →
    d.list.isSome = true →
    Completes (.identify slot) s (fun m => m.ptrsAsked slot 4096 c)) ∧
  (∀ (s : State) (slot : SlotId) (c : Cmd), s.chip.adminAt slot 0x0D c →
    bits (dw c.entry 10) 3 0 = 0 →
    Completes (.namespaceCreate slot) s (fun m => (m.modCmd slot fun c => { c with phase := .running, want := 4096, dataOpen := true }).fetchData slot 4096)) ∧
  (∀ (s : State) (slot : SlotId) (c : Cmd) (n : Ns), s.chip.dataAt slot 0x0D c →
    bits (dw c.entry 10) 3 0 = 0 →
    s.chip.createNs c = .ok n →
    Completes (.namespaceCreate slot) s (fun m => ((({ m with zn := { m.zn with ns := m.zn.ns ++ [n] } } : Chip).giveZones n).newDataKey n.keySlot n.tenant n.nsid).finish slot
        (some stOk) n.nsid)) ∧
  (∀ (s : State) (slot : SlotId) (c : Cmd), s.chip.adminAt slot 0x0D c →
    bits (dw c.entry 10) 3 0 = 1 →
    (s.chip.zn.ns.filter fun n => decide (n.tenant = s.chip.fnTenant c.fn ∧ (nsidOf c.entry = 0xFFFFFFFF ∨ n.nsid = nsidOf c.entry))) ≠ [] →
    Completes (.namespaceDelete slot) s (fun m => (m.zn.ns.filter fun n => decide (n.tenant = m.fnTenant c.fn ∧ (nsidOf c.entry = 0xFFFFFFFF ∨ n.nsid = nsidOf c.entry))).foldl
        (fun (m : Chip) n => (m.attach n.nsid fun _ => []).startClear n false)
        (m.modCmd slot fun c => { c with phase := .running }))) ∧
  (∀ (s : State) (slot : SlotId) (c : Cmd) (n : Ns), s.chip.dataAt slot 0x15 c →
    s.chip.visible? c.fn (nsidOf c.entry) = some n →
    bits (dw c.entry 10) 3 0 = 0 →
    (∀ id ∈ (List.range (min (fieldAt c.data 0 2) 2047)).map (fun i => fieldAt c.data (2 + 2 * i) 2),
      ∃ f, s.chip.cntlFn id = some f ∧ s.chip.fnTenant f = n.tenant) →
    Completes (.namespaceAttachment slot) s (fun m => 
      let ids := (List.range (min (fieldAt c.data 0 2) 2047)).map fun i => fieldAt c.data (2 + 2 * i) 2
      (m.attach n.nsid fun a => a ++ ids.filter (· ∉ a)).finish slot (some stOk))) ∧
  (∀ (s : State) (slot : SlotId) (c : Cmd) (n : Ns), s.chip.dataAt slot 0x15 c →
    s.chip.visible? c.fn (nsidOf c.entry) = some n →
    bits (dw c.entry 10) 3 0 = 1 →
    (∀ id ∈ (List.range (min (fieldAt c.data 0 2) 2047)).map (fun i => fieldAt c.data (2 + 2 * i) 2),
      (s.chip.cntlFn id).isSome = true) →
    Completes (.namespaceAttachment slot) s (fun m => 
      let ids := (List.range (min (fieldAt c.data 0 2) 2047)).map fun i => fieldAt c.data (2 + 2 * i) 2
      (m.attach n.nsid fun a => a.filter (· ∉ ids)).finish slot (some stOk))) ∧
  (∀ (s : State) (slot : SlotId) (c : Cmd) (n : Ns), s.chip.adminAt slot 0x80 c →
    s.chip.visible? c.fn (nsidOf c.entry) = some n →
    bits (dw c.entry 10) 3 0 < 2 →
    bits (dw c.entry 10) 11 9 = 1 ∨ bits (dw c.entry 10) 11 9 = 2 →
    Completes (.formatNvm slot) s (fun m => (m.modCmd slot fun c => { c with phase := .running }).startClear n true)) ∧
  (∀ (s : State) (slot : SlotId) (c : Cmd) (d : Cmd), s.chip.adminAt slot 0x02 c →
    bits (dw c.entry 10) 7 0 = 0xC0 →
    s.chip.fresh.ptrsIn slot ((65536 * (dw c.entry 11 % 65536) + bits (dw c.entry 10) 31 16 + 1) * 4) c d →
    Completes (.getLogPageTenant slot) s (fun m => 
      let n := (65536 * (dw c.entry 11 % 65536) + bits (dw c.entry 10) 31 16 + 1) * 4
      let m := m.ptrsAsked slot n c
      let bytes := (m.tenantWords (m.fnTenant c.fn)).flatMap (leBytes 4)
      (m.giveHost slot 0 (slice bytes (dw c.entry 12 + 2 ^ 32 * (dw c.entry 13)) n)).finish slot (some stOk))) ∧
  (∀ (s : State) (slot : SlotId) (c : Cmd) (d : Cmd), s.chip.adminAt slot 0x02 c →
    bits (dw c.entry 10) 7 0 = 0xC1 →
    s.chip.fresh.ptrsIn slot ((65536 * (dw c.entry 11 % 65536) + bits (dw c.entry 10) 31 16 + 1) * 4) c d →
    Completes (.getLogPageNotices slot) s (fun m => 
      let n := (65536 * (dw c.entry 11 % 65536) + bits (dw c.entry 10) 31 16 + 1) * 4
      let m := m.ptrsAsked slot n c
      let bytes := leBytes 4 (m.noticesOf c.fn).length ++ List.replicate 12 0 ++ (m.noticesOf c.fn).flatMap Notice.bytes
      (m.giveHost slot 0 (slice bytes (dw c.entry 12 + 2 ^ 32 * (dw c.entry 13)) n)).finish slot (some stOk))) ∧
  (∀ (s : State) (slot : SlotId) (c : Cmd) (d : Cmd), s.chip.adminAt slot 0x02 c →
    bits (dw c.entry 10) 7 0 = 0x0C →
    s.chip.fresh.ptrsIn slot ((65536 * (dw c.entry 11 % 65536) + bits (dw c.entry 10) 31 16 + 1) * 4) c d →
    Completes (.getLogPageAna slot) s (fun m => 
      let n := (65536 * (dw c.entry 11 % 65536) + bits (dw c.entry 10) 31 16 + 1) * 4
      let m := m.ptrsAsked slot n c
      let bytes := leBytes 8 0 ++ leBytes 2 (m.anaGroups (m.fnTenant c.fn)).length ++ leBytes 6 0 ++
        (m.anaGroups (m.fnTenant c.fn)).flatMap fun g =>
          let ids := (m.zn.ns.filter fun n => decide (n.ana = g ∧ n.tenant = m.fnTenant c.fn ∧ m.cntlid c.fn ∈ n.attached)).map (·.nsid)
          leBytes 4 g ++ leBytes 4 ids.length ++ leBytes 8 0 ++ leBytes 1 (m.ana g) ++ leBytes 15 0 ++ ids.flatMap (leBytes 4)
      (m.giveHost slot 0 (slice bytes (dw c.entry 12 + 2 ^ 32 * (dw c.entry 13)) n)).finish slot (some stOk))) ∧
  (∀ (s : State) (slot : SlotId) (c : Cmd) (d : Cmd), s.chip.adminAt slot 0x02 c →
    bits (dw c.entry 10) 7 0 = 0xBF →
    s.chip.fresh.ptrsIn slot ((65536 * (dw c.entry 11 % 65536) + bits (dw c.entry 10) 31 16 + 1) * 4) c d →
    Completes (.getLogPageChangedZoneList slot) s (fun m => 
      let n := (65536 * (dw c.entry 11 % 65536) + bits (dw c.entry 10) 31 16 + 1) * 4
      let m := m.ptrsAsked slot n c
      let mine := (m.fn c.fn).changed.filter fun z => decide ((m.zone z).nsid = nsidOf c.entry)
      let bytes := leBytes 2 (if 511 < mine.length then 0xFFFF else mine.length) ++ leBytes 6 0 ++
        (if 511 < mine.length then []
         else (isort (fun a b => decide (a ≤ b)) (mine.map fun z =>
           (m.zone z).zidx * ((m.ns? (m.zone z).nsid).map (·.zoneLbas)).getD 0)).flatMap (leBytes 8))
      ((m.setFn c.fn { m.fn c.fn with changed := (m.fn c.fn).changed.filter (· ∉ mine) }).giveHost slot 0 (slice bytes (dw c.entry 12 + 2 ^ 32 * (dw c.entry 13)) n)).finish slot (some stOk))) ∧
  (∀ (s : State) (slot : SlotId) (c : Cmd) (d : Cmd), s.chip.adminAt slot 0x02 c →
    bits (dw c.entry 10) 7 0 = 0x03 →
    s.chip.fresh.ptrsIn slot ((65536 * (dw c.entry 11 % 65536) + bits (dw c.entry 10) 31 16 + 1) * 4) c d →
    Completes (.getLogPageFirmwareSlot slot) s (fun m => 
      let n := (65536 * (dw c.entry 11 % 65536) + bits (dw c.entry 10) 31 16 + 1) * 4
      let m := m.ptrsAsked slot n c
      let active := if m.fwBank 1 = m.tr.running ∧ m.fwBank 0 ≠ m.tr.running then 2 else 1
      let bytes := leBytes 1 (active + (if active = m.nv.banks.1 + 1 then 0 else 16 * (m.nv.banks.1 + 1))) ++ leBytes 7 0 ++
        leBytes 8 (if m.fwBank 0 = [] then 0 else fieldAt (m.fwBank 0) 0x10 4) ++
        leBytes 8 (if m.fwBank 1 = [] then 0 else fieldAt (m.fwBank 1) 0x10 4) ++ List.replicate 488 0
      (m.giveHost slot 0 (slice bytes (dw c.entry 12 + 2 ^ 32 * (dw c.entry 13)) n)).finish slot (some stOk)))

/-- Firmware download and commit and Sanitize (R347) complete: each, accepted on function 0 with operands it permits, has the effect named
here; an Overwrite, which the device does not support, ends with Invalid Field. The whole next state is given, so each clause says its
frame too. The rules of the rows: R94, R327, R347. -/
def Obligations.FirmwareAndSanitizeCommandsComplete : Prop :=
  (∀ (s : State) (slot : SlotId) (c : Cmd), s.chip.adminAt slot 0x11 c →
    c.fn = 0 →
    dw c.entry 11 * 4 + (dw c.entry 10 + 1) * 4 ≤ 8388608 →
    Completes (.firmwareImageDownload slot) s (fun m => (m.modCmd slot fun c' => { c' with phase := .running, want := (dw c.entry 10 + 1) * 4, dataOpen := true }).fetchData slot ((dw c.entry 10 + 1) * 4))) ∧
  (∀ (s : State) (slot : SlotId) (c : Cmd), s.chip.dataAt slot 0x11 c →
    Completes (.firmwareImageDownload slot) s (fun m => ({ m with tr := { m.tr with
          pkg := memSetBytes m.tr.pkg (dw c.entry 11 * 4) c.data
          pkgLen := max m.tr.pkgLen (dw c.entry 11 * 4 + c.data.length) } } : Chip).finish slot (some stOk))) ∧
  (∀ (s : State) (slot : SlotId) (c : Cmd), s.chip.adminAt slot 0x10 c →
    bits (dw c.entry 10) 5 3 = 0 →
    c.fn = 0 →
    1 ≤ bits (dw c.entry 10) 2 0 →
    bits (dw c.entry 10) 2 0 ≤ 2 →
    s.chip.bankWorn (fwSector (bits (dw c.entry 10) 2 0 - 1)) 128 = false →
    bits (dw c.entry 10) 2 0 - 1 ≠ s.chip.nv.banks.1 →
    s.chip.f NVA_STAT.BROWNOUT = 0 →
    Completes (.firmwareCommitStore slot) s (fun m => 
      let p := memGetBytes m.tr.pkg 0 m.tr.pkgLen
      let b := bits (dw c.entry 10) 2 0 - 1
      if m.fwCheck p ≠ 0 then m.finish slot (some stFwImage) else
      let m := (m.countErases (fwSector b) (ceilDiv p.length 65536)).codeClear b
      let m := { m with nv := if b = 0 then { m.nv with fwA := p } else { m.nv with fwB := p }, tr := { m.tr with pkg := [], pkgLen := 0 } }
      m.finish slot (some stOk))) ∧
  (∀ (s : State) (slot : SlotId) (c : Cmd), s.chip.adminAt slot 0x10 c →
    bits (dw c.entry 10) 5 3 = 1 →
    c.fn = 0 →
    1 ≤ bits (dw c.entry 10) 2 0 →
    bits (dw c.entry 10) 2 0 ≤ 2 →
    s.chip.bankWorn (fwSector (bits (dw c.entry 10) 2 0 - 1)) 128 = false →
    bits (dw c.entry 10) 2 0 - 1 ≠ s.chip.nv.banks.1 →
    s.chip.f NVA_STAT.BROWNOUT = 0 →
    Completes (.firmwareCommitStoreActivate slot) s (fun m => 
      let p := memGetBytes m.tr.pkg 0 m.tr.pkgLen
      let b := bits (dw c.entry 10) 2 0 - 1
      if m.fwCheck p ≠ 0 then m.finish slot (some stFwImage) else
      let m := (m.countErases (fwSector b) (ceilDiv p.length 65536)).codeClear b
      let m := { m with nv := if b = 0 then { m.nv with fwA := p } else { m.nv with fwB := p }, tr := { m.tr with pkg := [], pkgLen := 0 } }
      (m.array (.flag (.firmware b))).finish slot (some stOk))) ∧
  (∀ (s : State) (slot : SlotId) (c : Cmd), s.chip.adminAt slot 0x10 c →
    bits (dw c.entry 10) 5 3 = 2 →
    c.fn = 0 →
    1 ≤ bits (dw c.entry 10) 2 0 →
    bits (dw c.entry 10) 2 0 ≤ 2 →
    s.chip.bankWorn (fwSector (bits (dw c.entry 10) 2 0 - 1)) 128 = false →
    Completes (.firmwareCommitActivate slot) s (fun m => (m.array (.flag (.firmware (bits (dw c.entry 10) 2 0 - 1)))).finish slot (some stOk))) ∧
  (∀ (s : State) (slot : SlotId) (c : Cmd), s.chip.adminAt slot 0x10 c →
    bits (dw c.entry 10) 5 3 = 3 →
    c.fn = 0 →
    Completes (.firmwareCommitImmediate slot) s (fun m => m.finish slot (some stFwReset))) ∧
  (∀ (s : State) (slot : SlotId) (c : Cmd), s.chip.adminAt slot 0x84 c →
    bits (dw c.entry 10) 2 0 = 4 →
    c.fn = 0 →
    Completes (.sanitizeCryptoErase slot) s (fun m => m.sanStart slot.val false)) ∧
  (∀ (s : State) (slot : SlotId) (c : Cmd), s.chip.adminAt slot 0x84 c →
    bits (dw c.entry 10) 2 0 = 2 →
    c.fn = 0 →
    Completes (.sanitizeBlockErase slot) s (fun m => m.sanStart slot.val true)) ∧
  (∀ (s : State) (slot : SlotId) (c : Cmd), s.chip.adminAt slot 0x84 c →
    bits (dw c.entry 10) 2 0 = 1 →
    c.fn = 0 →
    s.chip.f TRS_SANSTAT.STATE = 3 →
    Completes (.sanitizeExitFailureMode slot) s (fun m => (m.setF TRS_SANSTAT.STATE 0).finish slot (some stOk))) ∧
  (∀ (s : State) (slot : SlotId) (c : Cmd), s.chip.adminAt slot 0x84 c →
    bits (dw c.entry 10) 2 0 = 3 →
    c.fn = 0 →
    Completes (.sanitizeOverwrite slot) s (fun m => m.finish slot (some stInvalidField)))

/-- Writes of the control window that ask islands, barriers, images, ports and channels for something complete: let through, each has the
effect named here. The whole next state is given, so each clause says its frame too. The rules of the rows: R42, R58, R72, R97, R98, R184,
R222, R229, R242, R474. -/
def Obligations.IslandImageAndPortWritesComplete : Prop :=
  (∀ (s : State) (rq : Rq) (v : BitVec 32), s.chip.writable rq (IMG_DATA.DATA.off 0) →
    s.chip.f IMG_STAT.BUSY ≠ 1 →
    Completes (.imgDataWrite rq v) s (fun m => 
      let p := m.f IMG_DATAPTR.PTR % 2 ^ 20
      let m : Chip := { m with img := { m.img with staging := memSetBytes m.img.staging (4 * p) (leBytes 4 v.toNat) } }
      m.setF IMG_DATAPTR.PTR ((p + 1) % 2 ^ 20))) ∧
  (∀ (s : State) (rq : Rq) (i : Isl) (pwrReq autowake : Bool), s.chip.writable rq (ISL_CTL.RST.off i.val) →
    i.val ≠ 0 →
    Completes (.islandPwrReqWrite rq i pwrReq autowake) s (fun m => (((m.setF ISL_CTL.AUTOWAKE (b1 autowake) i.val).setF ISL_CTL.PWR_REQ (b1 pwrReq) i.val).powerPoll).late)) ∧
  (∀ (s : State) (rq : Rq) (i : Isl) (pwrReq autowake : Bool), s.chip.writable rq (ISL_CTL.RST.off i.val) →
    i.val ≠ 0 →
    Completes (.islandReset rq i pwrReq autowake) s (fun m => (((m.setF ISL_CTL.AUTOWAKE (b1 autowake) i.val).setF ISL_CTL.PWR_REQ (b1 pwrReq) i.val).powerPoll.islandReset i.val).late)) ∧
  (∀ (s : State) (rq : Rq) (snap twin : Bool), s.chip.writable rq (ISL_BARCTL.GO.off 0) →
    Completes (.barrierRequest rq snap twin) s (fun m => (((m.setF ISL_BARCTL.SNAP (b1 snap)).setF ISL_BARCTL.TWIN (b1 twin)).barRequest .cw snap twin none).powerPoll)) ∧
  (∀ (s : State) (rq : Rq) (src : Bool), s.chip.writable rq (IMG_CMD.GO.off 0) →
    s.chip.f IMG_STAT.BUSY ≠ 1 →
    Completes (.imgNop rq src) s (fun m => ((m.setF IMG_CMD.SRC (b1 src)).setF IMG_CMD.OP 0).late)) ∧
  (∀ (s : State) (rq : Rq), s.chip.writable rq (IMG_CMD.GO.off 0) →
    s.chip.f IMG_STAT.BUSY ≠ 1 →
    Completes (.verify rq true) s (fun m => (((m.setF IMG_CMD.SRC 1).setF IMG_CMD.OP 1).imgCheck 1 (m.f IMG_LEN.LEN) (memGetBytes m.img.staging 0 (m.f IMG_LEN.LEN))).late)) ∧
  (∀ (s : State) (rq : Rq), s.chip.writable rq (IMG_CMD.GO.off 0) →
    s.chip.f IMG_STAT.BUSY ≠ 1 →
    Completes (.verify rq false) s (fun m => 
      let n := m.f IMG_LEN.LEN
      (((((((m.setF IMG_CMD.SRC 0).setF IMG_CMD.OP 1).setF IMG_STAT.BUSY 1).setF IMG_CMD.GO 1).setPhase (.dma 1 n)).hostRead 0 0 2 [(2 ^ 32 * m.f IMG_SRC_HI.ADDR_HI + 4 * m.f IMG_SRC_LO.ADDR, n)])).late)) ∧
  (∀ (s : State) (rq : Rq), s.chip.writable rq (IMG_CMD.GO.off 0) →
    s.chip.f IMG_STAT.BUSY ≠ 1 →
    Completes (.store rq true) s (fun m => (((m.setF IMG_CMD.SRC 1).setF IMG_CMD.OP 2).imgCheck 2 (m.f IMG_LEN.LEN) (memGetBytes m.img.staging 0 (m.f IMG_LEN.LEN))).late)) ∧
  (∀ (s : State) (rq : Rq), s.chip.writable rq (IMG_CMD.GO.off 0) →
    s.chip.f IMG_STAT.BUSY ≠ 1 →
    Completes (.store rq false) s (fun m => 
      let n := m.f IMG_LEN.LEN
      (((((((m.setF IMG_CMD.SRC 0).setF IMG_CMD.OP 2).setF IMG_STAT.BUSY 1).setF IMG_CMD.GO 1).setPhase (.dma 2 n)).hostRead 0 0 2 [(2 ^ 32 * m.f IMG_SRC_HI.ADDR_HI + 4 * m.f IMG_SRC_LO.ADDR, n)])).late)) ∧
  (∀ (s : State) (rq : Rq) (src : Bool), s.chip.writable rq (IMG_CMD.GO.off 0) →
    s.chip.f IMG_STAT.BUSY ≠ 1 →
    Completes (.activate rq src) s (fun m => ((m.setF IMG_CMD.SRC (b1 src)).setF IMG_CMD.OP 3).imgActivate.late)) ∧
  (∀ (s : State) (rq : Rq), s.chip.writable rq (IMG_CMD.GO.off 0) →
    s.chip.f IMG_STAT.BUSY ≠ 1 →
    Completes (.live rq true) s (fun m => (((m.setF IMG_CMD.SRC 1).setF IMG_CMD.OP 4).imgCheck 4 (m.f IMG_LEN.LEN) (memGetBytes m.img.staging 0 (m.f IMG_LEN.LEN))).late)) ∧
  (∀ (s : State) (rq : Rq), s.chip.writable rq (IMG_CMD.GO.off 0) →
    s.chip.f IMG_STAT.BUSY ≠ 1 →
    Completes (.live rq false) s (fun m => 
      let n := m.f IMG_LEN.LEN
      (((((((m.setF IMG_CMD.SRC 0).setF IMG_CMD.OP 4).setF IMG_STAT.BUSY 1).setF IMG_CMD.GO 1).setPhase (.dma 4 n)).hostRead 0 0 2 [(2 ^ 32 * m.f IMG_SRC_HI.ADDR_HI + 4 * m.f IMG_SRC_LO.ADDR, n)])).late)) ∧
  (∀ (s : State) (rq : Rq) (q : PSlot) (disable : Bool), s.chip.writable rq (HPT_PCTL.DISABLE.off q.val) →
    Completes (.portRetrain rq q disable) s (fun m => ((m.portDisable q disable).portRetrain q).late)) ∧
  (∀ (s : State) (rq : Rq) (q : PSlot), s.chip.writable rq (HPT_PCTL.DISABLE.off q.val) →
    s.chip.portUsed q = true →
    s.chip.f HPT_PCTL.DISABLE q = 0 →
    Completes (.portDisable rq q true) s (fun m => (((m.setF HPT_PCTL.DISABLE 1 q).linkDown q).setF HPT_PSTAT.STATE 6 q).late)) ∧
  (∀ (s : State) (rq : Rq) (q : PSlot), s.chip.writable rq (HPT_PCTL.DISABLE.off q.val) →
    s.chip.portUsed q = true →
    s.chip.f HPT_PCTL.DISABLE q = 1 →
    Completes (.portDisable rq q false) s (fun m => (((m.setF HPT_PCTL.DISABLE 0 q).setF HPT_PSTAT.STATE 0 q).startTraining q).late)) ∧
  (∀ (s : State) (rq : Rq) (q : PSlot) (disable : Bool), s.chip.writable rq (HPT_PCTL.DISABLE.off q.val) →
    s.chip.portUsed q = false →
    Completes (.portDisable rq q disable) s (fun m => (m.setF HPT_PCTL.DISABLE (b1 disable) q).late)) ∧
  (∀ (s : State) (rq : Rq) (ch : Chan) (hold : Bool), s.chip.writable rq (FCH_CTL.HOLD.off ch.val) →
    s.chip.rwlOpen (FCH_CTL.HOLD.off ch.val) % 2 = 1 →
    s.chip.f FCH_CTL.HOLD ch = 1 - b1 hold →
    Completes (.channelHold rq ch hold) s (fun m => (m.chanHold ch hold).late)) ∧
  (∀ (s : State) (rq : Rq) (ch : Chan) (hold : Bool), s.chip.writable rq (FCH_CTL.HOLD.off ch.val) →
    s.chip.rwlOpen (FCH_CTL.HOLD.off ch.val) % 2 = 1 →
    s.chip.f FCH_CTL.HOLD ch = 1 - b1 hold →
    Completes (.channelResetDies rq ch hold) s (fun m => ((m.chanHold ch hold).chanReset ch).late)) ∧
  (∀ (s : State) (rq : Rq) (ch : Chan) (hold : Bool), s.chip.writable rq (FCH_CTL.HOLD.off ch.val) →
    s.chip.rwlOpen (FCH_CTL.HOLD.off ch.val) % 2 = 1 →
    s.chip.f FCH_CTL.HOLD ch = 1 - b1 hold →
    Completes (.channelTrain rq ch hold) s (fun m => ((m.chanHold ch hold).chanTrain ch).late)) ∧
  (∀ (s : State) (rq : Rq) (ch : Chan) (hold : Bool), s.chip.writable rq (FCH_CTL.HOLD.off ch.val) →
    s.chip.f FCH_CTL.HOLD ch = b1 hold →
    s.chip.rwlOpen (FCH_CTL.HOLD.off ch.val) % 2 = 1 →
    Completes (.channelResetDies rq ch hold) s (fun m => (m.chanReset ch).late)) ∧
  (∀ (s : State) (rq : Rq) (ch : Chan) (hold : Bool), s.chip.writable rq (FCH_CTL.HOLD.off ch.val) →
    s.chip.f FCH_CTL.HOLD ch = b1 hold →
    s.chip.rwlOpen (FCH_CTL.HOLD.off ch.val) % 2 = 1 →
    Completes (.channelTrain rq ch hold) s (fun m => (m.chanTrain ch).late)) ∧
  (∀ (s : State) (rq : Rq) (die : Fin 4096), s.chip.writable rq (LDP_DIECMD.GO.off 0) →
    die.val ≤ 3071 →
    s.chip.f FCH_DIE.STATE die.val = 2 →
    Completes (.dieRetire rq die) s (fun m => (((m.setF LDP_DIECMD.OP 1).setF LDP_DIECMD.DIE die.val).retireDie die 8).late))

/-- Plain accesses of the control window, the indirect windows, the porters, the wake of islands and the I3C window complete: each has the
effect named here. The whole next state is given, so each clause says its frame too. The rules of the rows: R6, R8, R14, R31, R36, R38,
R39, R111, R175, R210, R246, R474, R535. -/
def Obligations.WindowAccessesComplete : Prop :=
  (∀ (s : State) (rq : Rq) (v : BitVec 32), s.chip.writable rq (QCX_IDX.INDEX.off 0) →
    v.toNat % 2 ^ 19 ≤ 266271 →
    Completes (.qcxIdxWrite rq v) s (fun m => (m.setF QCX_IDX.INDEX (v.toNat % 2 ^ 19)).setF QCX_STAT.READY 0)) ∧
  (∀ (s : State) (rq : Rq) (v : BitVec 32), s.chip.writable rq (DLS_DCX_IDX.DIE.off 0) →
    v.toNat % 4096 ≤ 3071 →
    Completes (.dlsDcxIdxWrite rq v) s (fun m => (m.setF DLS_DCX_IDX.DIE (v.toNat % 4096)).setF DLS_DCX_STAT.READY 0)) ∧
  (∀ (s : State) (rq : Rq) (v : BitVec 32), s.chip.writable rq (TNT_IDX.TENANT.off 0) →
    Completes (.tntIdxWrite rq v) s (fun m => (m.setF TNT_IDX.TENANT v.toNat).setF TNT_STAT.READY 0)) ∧
  (∀ (s : State) (rq : Rq) (v : BitVec 32), s.chip.writable rq (TNT_LDG_IDX.DIE.off 0) →
    v.toNat % 4096 ≤ 3071 →
    Completes (.tntLdgIdxWrite rq v) s (fun m => ((m.setF TNT_LDG_IDX.TENANT (bits v.toNat 23 12)).setF TNT_LDG_IDX.DIE (v.toNat % 4096)).setF TNT_LDG_STAT.READY 0)) ∧
  (∀ (s : State) (rq : Rq) (v : BitVec 32), s.chip.writable rq (LDP_BLK_IDX.DIE.off 0) →
    v.toNat % 4096 ≤ 3071 →
    bits v.toNat 24 12 ≤ 5119 →
    Completes (.ldpBlkIdxWrite rq v) s (fun m => ((m.setF LDP_BLK_IDX.BLOCK (bits v.toNat 24 12)).setF LDP_BLK_IDX.DIE (v.toNat % 4096)).setF LDP_BLK_STAT.READY 0)) ∧
  (∀ (s : State) (rq : Rq) (v : BitVec 32), s.chip.writable rq (ZNE_ZCX_IDX.ZONE.off 0) →
    Completes (.zneZcxIdxWrite rq v) s (fun m => (m.setF ZNE_ZCX_IDX.ZONE (bits v.toNat 17 0)).setF ZNE_ZCX_STAT.READY 0)) ∧
  (∀ (s : State) (rq : Rq) (off : BitVec 26) (a b c d : Byte), off.toNat % 4 = 0 →
    s.chip.writable rq off.toNat →
    (fieldsAt off.toNat).isEmpty = false →
    Completes (.cwWrite rq off [some a, some b, some c, some d]) s (fun m => m.writeReg off.toNat (leNat [a, b, c, d]))) ∧
  (∀ (s : State) (rq : Rq) (off : BitVec 26) (a : Byte), s.chip.f PWR_STAT.STATE ≠ 5 →
    (fieldsAt (off.toNat / 4 * 4)).isEmpty = false →
    Completes (.cwWrite rq off [some a]) s (fun m => m.emit 0 0x1002 (off.toNat / 4 * 4))) ∧
  (∀ (s : State) (rq : Rq) (off : BitVec 26), off.toNat % 4 = 0 →
    s.chip.open_ rq off.toNat →
    (fieldsAt off.toNat).isEmpty = false →
    s.chip.readWaits off.toNat = none →
    Completes (.rcFieldRead rq off 4) s (fun m => (m.readWord rq off.toNat).2.giveWord (m.readWord rq off.toNat).1)) ∧
  (∀ (s : State) (rq : Rq) (p : RegPair), s.chip.open_ rq (pairLo p) →
    Completes (.loRegisterRead rq p) s (fun m => ((m.clearRc (pairLo p)).latchHi (pairLo p) rq).giveWord (m.regWord (pairLo p)))) ∧
  (∀ (s : State) (rq : Rq) (p : RegPair) (v : Nat), s.chip.open_ rq (pairLo p + 4) →
    s.chip.shadowOf (pairLo p + 4) rq = some v →
    Completes (.hiRegisterRead rq p) s (fun m => (m.dropShadow (pairLo p + 4) rq).giveWord v)) ∧
  (∀ (s : State) (rq : Rq) (p : RegPair), s.chip.open_ rq (pairLo p + 4) →
    s.chip.shadowOf (pairLo p + 4) rq = none →
    Completes (.hiRegisterRead rq p) s (fun m => (m.dropShadow (pairLo p + 4) rq).giveWord (m.regWord (pairLo p + 4)))) ∧
  (∀ (s : State) (rq : Rq) (off : BitVec 26) (w : BitVec 32), s.chip.writable rq (off.toNat / 4 * 4) →
    (fieldsAt (off.toNat / 4 * 4)).isEmpty = false →
    Completes (.porterCwAccess rq off (some w)) s (fun m => m.writeReg (off.toNat / 4 * 4) w.toNat)) ∧
  (∀ (s : State) (rq : Rq) (off : BitVec 26), s.chip.f PWR_STAT.STATE ≠ 5 →
    s.chip.isl.stalled.any (fun a => decide (a.rq = rq)) = false →
    (fieldsAt (off.toNat / 4 * 4)).isEmpty = true →
    Completes (.porterCwAccess rq off none) s (fun m => m.giveWord 0)) ∧
  (∀ (s : State) (rq : Rq) (off : BitVec 26), s.chip.f PWR_STAT.STATE ≠ 5 →
    s.chip.isl.stalled.any (fun a => decide (a.rq = rq)) = false →
    (fieldsAt (off.toNat / 4 * 4)).isEmpty = false →
    s.chip.islState (cwIsland (off.toNat / 4 * 4)) = 0 →
    s.chip.f ISL_CTL.AUTOWAKE (cwIsland (off.toNat / 4 * 4)) = 0 →
    Completes (.porterCwAccess rq off none) s (fun m => (m.downHit (cwIsland (off.toNat / 4 * 4)) (off.toNat / 4 * 4) false).giveWord downWord)) ∧
  (∀ (s : State), s.chip.f QCX_STAT.READY = 0 →
    Completes (.windowCopyDone .qcx) s (fun m => 
      let i := m.f QCX_IDX.INDEX
      (((m.setWords QCX_W.WORD (m.qctxWords i)).setF QCX_STAT.MISS (b1 ((m.qctxOwner i).isNone))).setF QCX_STAT.READY 1).replay)) ∧
  (∀ (s : State), s.chip.f ZNE_ZCX_STAT.READY = 0 →
    Completes (.windowCopyDone .zcx) s (fun m => 
      let i := m.f ZNE_ZCX_IDX.ZONE
      (((m.setWords ZNE_ZCX_W.WORD (m.zoneWords i)).setF ZNE_ZCX_STAT.UNUSED (b1 (decide ((m.zone i).nsid = 0)))).setF ZNE_ZCX_STAT.READY 1).replay)) ∧
  (∀ (s : State), s.chip.f TNT_STAT.READY = 0 →
    Completes (.windowCopyDone .tnt) s (fun m => 
      let i := m.f TNT_IDX.TENANT
      (((m.setWords TNT_W.WORD (m.tenantWords i)).setF TNT_STAT.UNUSED (b1 ((m.tenRec i).isNone))).setF TNT_STAT.READY 1).replay)) ∧
  (∀ (s : State), s.chip.f DLS_DCX_STAT.READY = 0 →
    s.chip.islServes (12 + dieCluster (s.chip.f DLS_DCX_IDX.DIE)) = true →
    s.chip.drives (s.chip.f DLS_DCX_IDX.DIE) = true →
    Completes (.windowCopyDone .dcx) s (fun m => 
      let i := m.f DLS_DCX_IDX.DIE
      ((((m.setWords DLS_DCX_W.WORD (m.dieWords i)).setF DLS_DCX_STAT.OFF 0).setF DLS_DCX_STAT.NOTOWNED 0).setF DLS_DCX_STAT.READY 1).replay)) ∧
  (∀ (s : State), s.chip.f TNT_LDG_STAT.READY = 0 →
    s.chip.drives (s.chip.f TNT_LDG_IDX.DIE) = false →
    Completes (.windowCopyDone .ldg) s (fun m => (((m.setWords TNT_LDG_W.WORD [0, 0]).setF TNT_LDG_STAT.NOTOWNED 1).setF TNT_LDG_STAT.READY 1).replay)) ∧
  (∀ (s : State), s.chip.f TNT_LDG_STAT.READY = 0 →
    s.chip.drives (s.chip.f TNT_LDG_IDX.DIE) = true →
    Completes (.windowCopyDone .ldg) s (fun m => 
      let d := m.f TNT_LDG_IDX.DIE
      let t := m.f TNT_LDG_IDX.TENANT
      let c := m.credit t d
      let m : Chip := { m with md := { m.md with ledger := tput m.md.ledger (ldgKey t d) c } }
      (((m.setWords TNT_LDG_W.WORD [ofSigned 32 c.credit, c.last]).setF TNT_LDG_STAT.NOTOWNED 0).setF TNT_LDG_STAT.READY 1).replay)) ∧
  (∀ (s : State), s.chip.f LDP_BLK_STAT.READY = 0 →
    s.chip.f LDP_BLK_IDX.BLOCK < s.chip.flash.userBlocks + s.chip.flash.rsvBlocks →
    Completes (.windowCopyDone .blk) s (fun m => 
      let d := m.f LDP_BLK_IDX.DIE
      let b := m.f LDP_BLK_IDX.BLOCK
      (((m.setWords LDP_BLK_W.WORD (m.blk d b).words).setF LDP_BLK_STAT.BEYOND 0).setF LDP_BLK_STAT.READY 1).replay)) ∧
  (∀ (s : State) (i : Isl), s.chip.islState i = 1 →
    Completes (.islandWakeDone i) s (fun m => 
      let m := ((m.setIsl i 2).setF ISL_CTL.RST 0 i).applyEpoch i (m.wakeEpoch i)
      let m := { m with isl := { m.isl with skew := tdel m.isl.skew i } }
      let m := m.arbSeeds i
      let m := if i.val = 24 ∨ i.val = 25 then (m.selfRefresh i false).calmRetrain i else m
      let us := m.isl.units.filter fun u => u.1 = i.val
      let m : Chip := { m with isl := { m.isl with units := m.isl.units.filter fun u => decide (u.1 ≠ i.val) } }
      ((us.foldl (fun (m : Chip) u => m.unitCheck u.1 u.2) m).powerPoll.lullExitPoll).replay.late)) ∧
  (∀ (s : State) (i : Isl), s.chip.islState i = 1 →
    Completes (.wakeTimeout i) s (fun m => 
      let m := (m.setIsl i 0).setF ISL_STAT.WAKEFAIL 1 i
      let as_ := m.isl.stalled.filter fun a => a.island = i.val
      let us := m.isl.units.filter fun u => u.1 = i.val
      let m : Chip := { m with isl := { m.isl with
        stalled := m.isl.stalled.filter (fun a => decide (a.island ≠ i.val)), units := m.isl.units.filter fun u => decide (u.1 ≠ i.val) } }
      let m := as_.foldl (fun (m : Chip) a =>
        let m := m.downHit i a.off a.data.isSome
        if a.data.isNone then { m with reply := m.reply ++ [downWord] } else m) m
      let m := us.foldl (fun (m : Chip) u => m.refuseUnit i u.2) m
      m.lullExitPoll.switchPoll.settle.replay)) ∧
  (∀ (s : State) (off : BitVec 32), s.chip.f PWR_STAT.STATE ≠ 5 →
    Completes (.i3cWindowPointerWrite off) s (fun m => { m with i3cPtr := off.toNat % 2 ^ 26 / 4 * 4 })) ∧
  (∀ (s : State) (a b c d e f g h : Byte), s.chip.f PWR_STAT.STATE ≠ 5 →
    Completes (.i3cWindowWrite [a, b, c, d, e, f, g, h]) s (fun m => 
      let p := leNat [a, b, c, d] % 2 ^ 26 / 4 * 4
      ({ m with i3cPtr := p } : Chip).access .i3c p (some (leNat [e, f, g, h])))) ∧
  (∀ (s : State) (bytes : List Byte), s.chip.f PWR_STAT.STATE ≠ 5 →
    bytes.length ≠ 4 →
    bytes.length ≠ 8 →
    Completes (.i3cWindowWrite bytes) s (fun m => m.emit 0 0x1002 m.i3cPtr)) ∧
  (∀ (s : State), s.chip.f PWR_STAT.STATE ≠ 5 →
    Completes (.i3cWindowRead 4) s (fun m => 
      let m := m.access .i3c m.i3cPtr none
      { m with i3cPtr := (m.i3cPtr + 4) % 2 ^ 26 })) ∧
  (∀ (s : State) (n : Nat), s.chip.f PWR_STAT.STATE = 5 →
    Completes (.i3cWindowRead n) s (fun m => m))

/-- Writes of the control window that reach the vault, the non-volatile array, firmware, pools, arbiters, stored-data protection and DRAM
complete: let through, each has the effect named here. The whole next state is given, so each clause says its frame too. The rules of the
rows: R306, R316, R319, R335, R356, R371, R389, R395, R398, R402. -/
def Obligations.VaultArrayAndMemoryWritesComplete : Prop :=
  (∀ (s : State) (rq : Rq), s.chip.writable rq (KVT_FORCE.CODE.off 0) →
    Completes (.kvtForce rq 0x0A1A0001#32) s (fun m => (m.alarm 6).late)) ∧
  (∀ (s : State) (rq : Rq) (v : BitVec 32), s.chip.writable rq (KVT_FORCE.CODE.off 0) →
    v ≠ 0x0A1A0001#32 →
    Completes (.kvtForce rq v) s (fun m => (m.cfgEvent (KVT_FORCE.CODE.off 0)).late)) ∧
  (∀ (s : State) (rq : Rq), s.chip.writable rq (NVA_KEY.KEY.off 0) →
    s.chip.f NVA_STAT.BUSY ≠ 1 →
    s.chip.f NVA_STAT.SEQ = 0 →
    Completes (.nvaKeyWrite rq 0xA5C3#32) s (fun m => m.setF NVA_STAT.SEQ 1)) ∧
  (∀ (s : State) (rq : Rq), s.chip.writable rq (NVA_KEY.KEY.off 0) →
    s.chip.f NVA_STAT.BUSY ≠ 1 →
    s.chip.f NVA_STAT.SEQ = 1 →
    Completes (.nvaKeyWrite rq 0x3C5A#32) s (fun m => m.setF NVA_STAT.SEQ 2)) ∧
  (∀ (s : State) (rq : Rq) (v : BitVec 32), s.chip.writable rq (NVA_CMD.OP.off 0) →
    s.chip.f NVA_STAT.BUSY ≠ 1 →
    s.chip.f NVA_STAT.SEQ = 2 →
    1 ≤ v.toNat % 16 →
    v.toNat % 16 ≤ 3 →
    Completes (.nvaCmdWrite rq v) s (fun m => (m.setF NVA_CMD.OP (v.toNat % 16)).setF NVA_STAT.SEQ 3)) ∧
  (∀ (s : State) (rq : Rq) (v : BitVec 32), s.chip.writable rq (NVA_ADDR.ADDR.off 0) →
    s.chip.f NVA_STAT.BUSY ≠ 1 →
    s.chip.f NVA_STAT.SEQ = 3 →
    s.chip.f NVA_CMD.OP = 1 →
    v.toNat % 2 ^ 26 % 32 = 0 →
    hostLo ≤ v.toNat % 2 ^ 26 →
    s.chip.inXo (v.toNat % 2 ^ 26 / 65536) = false →
    Completes (.nvaAddrWrite rq v) s (fun m => ((m.setF NVA_ADDR.ADDR (v.toNat % 2 ^ 26)).setF NVA_STAT.SEQ 4).setF NVA_STAT.DATACNT 0)) ∧
  (∀ (s : State) (rq : Rq) (v : BitVec 32), s.chip.writable rq (NVA_ADDR.ADDR.off 0) →
    s.chip.f NVA_STAT.BUSY ≠ 1 →
    s.chip.f NVA_STAT.SEQ = 3 →
    s.chip.f NVA_CMD.OP ≠ 1 →
    v.toNat % 2 ^ 26 % 65536 = 0 →
    hostLo ≤ v.toNat % 2 ^ 26 →
    s.chip.inXo (v.toNat % 2 ^ 26 / 65536) = false →
    Completes (.nvaAddrWrite rq v) s (fun m => 
      let op := m.f NVA_CMD.OP
      let m := (((m.setF NVA_ADDR.ADDR (v.toNat % 2 ^ 26)).setF NVA_STAT.SEQ 4).setF NVA_STAT.DATACNT 0).setF NVA_STAT.BUSY 1
      let o : NvaOp := { op := op, addr := v.toNat % 2 ^ 26, data := [], started := false, pulse := false, count := 0 }
      { m with nv := { m.nv with op := some o } })) ∧
  (∀ (s : State) (rq : Rq) (v : BitVec 32), s.chip.writable rq (NVA_DATA.WORD.off 0) →
    s.chip.f NVA_STAT.BUSY ≠ 1 →
    s.chip.f NVA_STAT.SEQ = 4 ∨ s.chip.f NVA_STAT.SEQ = 5 →
    s.chip.f NVA_CMD.OP = 1 →
    s.chip.nv.words.length < 28 →
    Completes (.nvaDataWrite rq v) s (fun m => 
      let ws := m.nv.words ++ leBytes 4 v.toNat
      let m := ((m.setF NVA_STAT.SEQ 5).setF NVA_STAT.DATACNT (ws.length / 4))
      { m with nv := { m.nv with words := ws } })) ∧
  (∀ (s : State) (rq : Rq) (v : BitVec 32), s.chip.writable rq (NVA_RADDR.WORD.off 0) →
    Completes (.nvaRaddrWrite rq v) s (fun m => 
      let m := (m.setF NVA_RADDR.WORD (bits v.toNat 25 2)).setF NVA_STAT.RDVALID 0
      { m with nv := { m.nv with line := none } })) ∧
  (∀ (s : State) (rq : Rq), s.chip.writable rq (TRS_CMD.GO.off 0) →
    s.chip.f TRS_STAT.ROMREC = 1 →
    Completes (.fwload rq) s (fun m => 
      let b := memGetBytes m.img.staging 0 (min (leNat (memGetBytes m.img.staging 0x0C 4)) 4194304)
      (if m.fwCheck b ≠ 0 then m.setF TRS_STAT.BOOTFAIL (m.fwCheck b) else
        let m := ((m.countErases (fwSector 0) (ceilDiv b.length 65536)).codeClear 0).array (.flag (.firmware 0))
        ({ m with nv := { m.nv with fwA := b } } : Chip).warmAsk 3).late)) ∧
  (∀ (s : State) (rq : Rq) (r : Fin 64) (v : BitVec 32) (p : PoolRec), s.chip.writable rq (BPM_RQCFG.QUOTA.off r.val) →
    rqHasPool r = true →
    s.chip.minimaWith r ((s.chip.asked (BPM_RQCFG.QUOTA.off r.val) v.toNat BPM_RQCFG.MIN r).getD (s.chip.f BPM_RQCFG.MIN r)) ≤ 1024 →
    s.chip.img.tables.poolOf r = some p →
    Completes (.bpmRqcfgWrite rq r v) s (fun m => ((m.storeReg (BPM_RQCFG.QUOTA.off r.val) v.toNat).grantPool p.pool).late)) ∧
  (∀ (s : State) (rq : Rq) (inst : Fin 12) (wd : Fin 16) (v : BitVec 32), s.chip.writable rq (ARB_TKT.TKT0.off (inst.val * 16 + wd.val)) →
    inst.val < 11 →
    Completes (.arbTktWrite rq inst wd v) s (fun m => (m.storeReg (ARB_TKT.TKT0.off (inst.val * 16 + wd.val)) v.toNat).tktDirty inst.val)) ∧
  (∀ (s : State) (rq : Rq), s.chip.writable rq (SDP_REMAPCMD.GO.off 0) →
    Completes (.sdpRemap rq) s (fun m => m.remapCmd)) ∧
  (∀ (s : State) (rq : Rq) (v : BitVec 32), s.chip.writable rq (SDP_LOG_IDX.MEM.off 0) →
    bits v.toNat 9 8 ≤ 2 →
    Completes (.sdpLogIdxWrite rq v) s (fun m => ((m.setF SDP_LOG_IDX.MEM (bits v.toNat 9 8)).setF SDP_LOG_IDX.ENTRY (bits v.toNat 4 0)).logCopy)) ∧
  (∀ (s : State) (rq : Rq) (mem : Fin 3), s.chip.writable rq (SDP_SCRUB_CTL.GO.off 0) →
    Completes (.memoryScrub rq ⟨mem.val, by omega⟩) s (fun m => ((m.setF SDP_SCRUB_CTL.MEM mem.val).scrubGo mem.val).powerPoll)) ∧
  (∀ (s : State) (rq : Rq) (mem : Fin 3), s.chip.writable rq (SDP_SCRUB_CTL.GO.off 0) →
    s.chip.f SDP_SCRUB_STAT.BUSY = 1 →
    Completes (.scrubAbort rq ⟨mem.val, by omega⟩) s (fun m => ((m.setF SDP_SCRUB_CTL.MEM mem.val).scrubEnd 2).powerPoll)) ∧
  (∀ (s : State) (rq : Rq) (ch : DramCh) (quiesce : Bool), s.chip.writable rq (DRC_CTL.QUIESCE.off ch.val) →
    s.chip.rwlOpen (DRC_CTL.QUIESCE.off ch.val) % 2 = 1 →
    s.chip.f DRC_CTL.QUIESCE ch = b1 quiesce →
    Completes (.dramDqRun rq ch quiesce) s (fun m => (m.setF DRC_CTL.TRAIN_OP 1 ch).dramTrain ch 1)) ∧
  (∀ (s : State) (rq : Rq) (ch : DramCh) (quiesce : Bool), s.chip.writable rq (DRC_CTL.QUIESCE.off ch.val) →
    s.chip.rwlOpen (DRC_CTL.QUIESCE.off ch.val) % 2 = 1 →
    s.chip.f DRC_CTL.QUIESCE ch = b1 quiesce →
    Completes (.dramFullRun rq ch quiesce) s (fun m => (m.setF DRC_CTL.TRAIN_OP 2 ch).dramTrain ch 2)) ∧
  (∀ (s : State) (rq : Rq) (ch : DramCh) (quiesce full : Bool), s.chip.writable rq (DRC_CTL.QUIESCE.off ch.val) →
    s.chip.rwlOpen (DRC_CTL.QUIESCE.off ch.val) % 2 = 1 →
    s.chip.f DRC_CTL.QUIESCE ch = b1 quiesce →
    Completes (.dramQuiesce rq ch quiesce full) s (fun m => (m.setF DRC_CTL.TRAIN_OP (1 + b1 full) ch))) ∧
  (∀ (s : State) (rq : Rq) (ch : DramCh) (quiesce full : Bool), s.chip.writable rq (DRC_CTL.QUIESCE.off ch.val) →
    s.chip.rwlOpen (DRC_CTL.QUIESCE.off ch.val) % 2 = 1 →
    s.chip.f DRC_CTL.QUIESCE ch = 1 - b1 quiesce →
    Completes (.dramQuiesce rq ch quiesce full) s (fun m => ((m.setF DRC_CTL.TRAIN_OP (1 + b1 full) ch).dramQuiesce ch quiesce))) ∧
  (∀ (s : State) (rq : Rq), s.chip.open_ rq (NVA_RDATA.WORD.off 0) →
    s.chip.f NVA_STAT.RDMISS = 0 →
    s.chip.f NVA_STAT.RDVALID = 1 →
    Completes (.nvaRdataRead rq) s (fun m => m.nvaServe.2.giveWord m.nvaServe.1)) ∧
  (∀ (s : State), Completes (.nvaLineLoadDone) s (fun m => 
      let m := m.setF NVA_STAT.RDVALID 1
      ({ m with nv := { m.nv with line := some (m.nvaLine (m.f NVA_RADDR.WORD / 8)) } } : Chip).replay)) ∧
  (∀ (s : State), s.chip.isl.stalled.any (fun a => decide (a.island = 40)) = true →
    Completes (.nvaRdataStallTimeout) s (fun m => (m.setF NVA_STAT.RDMISS 1).replay))

/-- Writes of the control window that reach the twin, the sequencer, power states, calibration, ageing, the recorder, perturbation, the fault
mask and power-loss protection complete: let through, each has the effect named here. The whole next state is given, so each clause says
its frame too. The rules of the rows: R413, R432, R440, R448, R457, R480, R483, R484, R500, R504, R514, R516, R523, R526, R527, R530,
R531. -/
def Obligations.PairPowerAndRecorderWritesComplete : Prop :=
  (∀ (s : State) (rq : Rq), s.chip.writable rq (TWN_CTL.FENCE.off 0) →
    Completes (.rekey rq) s (fun m => m.rekey.late)) ∧
  (∀ (s : State) (rq : Rq), s.chip.writable rq (TWN_CTL.FENCE.off 0) →
    s.chip.f TWN_STAT.STATE = 1 ∨ s.chip.f TWN_STAT.STATE = 2 →
    Completes (.fenceRequest rq) s (fun m => ((m.setF TWN_CTL.FENCE 1).suspect 0).late)) ∧
  (∀ (s : State) (rq : Rq), s.chip.writable rq (TWN_CTL.FENCE.off 0) →
    s.chip.f TWN_STAT.STATE = 6 →
    s.chip.tw.rejoin = 0 →
    s.chip.linkKeyed = false →
    Completes (.rejoin rq) s (fun m => (m.emit 27 0x6909).late)) ∧
  (∀ (s : State) (rq : Rq), s.chip.writable rq (TWN_CTL.FENCE.off 0) →
    s.chip.f TWN_STAT.STATE = 6 →
    s.chip.tw.rejoin = 0 →
    s.chip.linkKeyed = true →
    Completes (.rejoin rq) s (fun m => 
      let m := ({ m with tw := { m.tw with handover := true, rejoin := 4, hbSeen := false } } : Chip).setF TWN_CTL.REJOIN 1
      let m := m.setF TWN_HBCNT.RUN 0
      let m := m.sendRecords
      let m := m.stagedRows.foldl (fun (m : Chip) e => m.mirrorRow e.1 e.2.1) m
      let m := m.fenceLine false
      let m := (maskList (homeMask (1 - m.side))).foldl (fun (m : Chip) k =>
        (List.range 8).foldl (fun (m : Chip) c => m.chanHold (8 * k + c) true) m) m
      m.rejoinPoll.late)) ∧
  (∀ (s : State) (rq : Rq), s.chip.writable rq (PSQ_CTL.DOWN.off 0) →
    s.chip.f PSQ_STAT.DIR < 2 →
    Completes (.psqDown rq) s (fun m => ((((m.setF PSQ_CTL.DOWN 1).psqLog PSQ_FAULT.REQUEST 4 0).seqFlt).shutdown).late)) ∧
  (∀ (s : State) (rq : Rq) (trimEn lullEn : Bool), s.chip.writable rq (PWR_CTL.TRIM_EN.off 0) →
    Completes (.pwrWake rq trimEn lullEn) s (fun m => ((m.storeReg (PWR_CTL.TRIM_EN.off 0) (b1 trimEn * 2 ^ PWR_CTL.TRIM_EN.lo + b1 lullEn * 2 ^ PWR_CTL.LULL_EN.lo + b1 false * 2 ^ PWR_CTL.CALM.lo + b1 true * 2 ^ PWR_CTL.WAKE.lo)).powerPoll.wakeAsked).late)) ∧
  (∀ (s : State) (rq : Rq) (trimEn lullEn : Bool), s.chip.writable rq (PWR_CTL.TRIM_EN.off 0) →
    Completes (.trimEnWrite rq trimEn lullEn) s (fun m => ((m.storeReg (PWR_CTL.TRIM_EN.off 0) (b1 trimEn * 2 ^ PWR_CTL.TRIM_EN.lo + b1 lullEn * 2 ^ PWR_CTL.LULL_EN.lo + b1 false * 2 ^ PWR_CTL.CALM.lo + b1 false * 2 ^ PWR_CTL.WAKE.lo)).powerPoll).late)) ∧
  (∀ (s : State) (rq : Rq) (trimEn lullEn : Bool), s.chip.writable rq (PWR_CTL.TRIM_EN.off 0) →
    Completes (.calmRequest rq trimEn lullEn) s (fun m => ((((m.storeReg (PWR_CTL.TRIM_EN.off 0) (b1 trimEn * 2 ^ PWR_CTL.TRIM_EN.lo + b1 lullEn * 2 ^ PWR_CTL.LULL_EN.lo + b1 true * 2 ^ PWR_CTL.CALM.lo + b1 false * 2 ^ PWR_CTL.WAKE.lo)).powerPoll).setF PWR_CTL.CALM 1).calmPoll).late)) ∧
  (∀ (s : State) (rq : Rq) (sensor : Fin 64), s.chip.writable rq (THM_CAL.GO.off 0) →
    s.chip.th.cal = none →
    39 < sensor.val →
    Completes (.diodeCalibrate rq sensor) s (fun m => (m.setF THM_CAL.SENSOR sensor.val).calEnd 6)) ∧
  (∀ (s : State) (rq : Rq) (sensor : Fin 64), s.chip.writable rq (THM_CAL.GO.off 0) →
    s.chip.th.cal = none →
    sensor.val ≤ 39 →
    (s.chip.setF THM_CAL.SENSOR sensor.val).diodeOn sensor.val = true →
    s.chip.f THM_STAT.LEVEL = 0 →
    s.chip.f THM_STAT.TRIP = 0 →
    Completes (.diodeCalibrate rq sensor) s (fun m => 
      let m := m.setF THM_CAL.SENSOR sensor.val
      if m.diodeOn (Config.neighbourA sensor.val) then
        ({ m with th := { m.th with cal := some sensor.val } } : Chip).setF THM_CAL.GO 1
      else m.calEnd 4)) ∧
  (∀ (s : State) (rq : Rq), s.chip.writable rq (AGE_CTL.MEASURE.off 0) →
    s.chip.f AGE_STAT.BUSY ≠ 1 →
    Completes (.ageMeasure rq) s (fun m => 
      let m := m.setF AGE_CTL.MEASURE 1
      let todo := m.ag.todo ++ ((List.range 28).filter fun i => decide (1 ≤ i ∧ i ∉ m.ag.todo))
      (({ m with ag := { m.ag with due := false, todo := todo } } : Chip).setF AGE_STAT.BUSY 1).ageNext 64)) ∧
  (∀ (s : State) (rq : Rq), s.chip.writable rq (EVR_CTL.CLEAR.off 0) →
    Completes (.clear rq) s (fun m => m.evrClear)) ∧
  (∀ (s : State) (rq : Rq), s.chip.writable rq (EVR_CTL.CLEAR.off 0) →
    Completes (.free rq) s (fun m => m.evrFree)) ∧
  (∀ (s : State) (rq : Rq), s.chip.writable rq (PTB_CTL.ARM.off 0) →
    bitOf s.chip.scopes 0 = true →
    Completes (.arm rq) s (fun m => m.ptbArm.late)) ∧
  (∀ (s : State) (rq : Rq), s.chip.writable rq (PTB_CTL.ARM.off 0) →
    bitOf s.chip.scopes 0 = false →
    Completes (.arm rq) s (fun m => m.cfgEvent (PTB_CTL.ARM.off 0))) ∧
  (∀ (s : State) (rq : Rq), s.chip.writable rq (PTB_CTL.ARM.off 0) →
    bitOf s.chip.scopes 0 = true →
    Completes (.stop rq) s (fun m => (m.ptbStop 1 true).late)) ∧
  (∀ (s : State) (rq : Rq) (v : BitVec 32), s.chip.writable rq (PTB_CORE.HALT.off 0) →
    bitOf s.chip.scopes 1 = true →
    Completes (.coreHalt rq v) s (fun m => (m.setF PTB_CORE.HALT (bits v.toNat 15 2)).setF PTB_CORE.SEL (bits v.toNat 19 16))) ∧
  (∀ (s : State) (rq : Rq) (v : BitVec 32), s.chip.writable rq (PTB_CORE.HALT.off 0) →
    bitOf s.chip.scopes 1 = false →
    Completes (.coreHalt rq v) s (fun m => m.cfgEvent (PTB_CORE.HALT.off 0))) ∧
  (∀ (s : State) (rq : Rq) (mask : Fin 8), s.chip.writable rq (PTB_BIST.GO.off 0) →
    s.chip.f PTB_BIST.GO = 0 →
    s.chip.islState 11 ≠ 0 →
    s.chip.islState 24 ≠ 0 →
    s.chip.islState 25 ≠ 0 →
    s.chip.islState 1 ≠ 0 →
    Completes (.ondemandSelftest rq mask) s (fun m => (m.setF PTB_BIST.MASK mask.val).setF PTB_BIST.GO 1)) ∧
  (∀ (s : State) (rq : Rq) (v : BitVec 32), s.chip.writable rq (FLT_MASK.GROUP.off 0) →
    Completes (.fltMaskWrite rq v) s (fun m => m.storeReg (FLT_MASK.GROUP.off 0) v.toNat)) ∧
  (∀ (s : State) (rq : Rq) (v : BitVec 32), s.chip.writable rq (PLP_CFG.DIRTY_GIB.off 0) →
    s.chip.rwlOpen (PLP_CFG.DIRTY_GIB.off 0) = 0xFF1F03FF →
    PLP_CFG.DISC_T.takes (bits v.toNat 9 0) = true →
    PLP_CFG.DIRTY_GIB.takes (bits v.toNat 20 16) = true →
    PLP_CFG.BUDGET_MS.takes (bits v.toNat 31 24) = true →
    plpCfgOk (bits v.toNat 20 16) (bits v.toNat 31 24) = true →
    Completes (.plpCfgWrite rq v) s (fun m => ((((m.setF PLP_CFG.DISC_T (bits v.toNat 9 0)).setF PLP_CFG.DIRTY_GIB (bits v.toNat 20 16)).setF PLP_CFG.BUDGET_MS (bits v.toNat 31 24)).limitView).late))

/-- Reads, writes, appends and their steps complete: each has the effect named here under hypotheses on the slot and the zone alone; a write
to a sequential zone reserves its range first, a commit stores its data, advances the zone's pointers and posts its completion entry. The
whole next state is given, so each clause says its frame too. The rules of the rows: R49, R127, R131, R134, R135, R145, R250, R270, R273,
R281, R282, R283, R290. -/
def Obligations.ReadAndWriteCommandsComplete : Prop :=
  (∀ (s : State) (slot : SlotId) (c : Cmd) (n : Ns), s.chip.ioAt slot 0x02 c n →
    (n.ranges (slbaOf c.entry) (nlbOf c.entry)).any (fun r => decide ((s.chip.zone r.1).state = zso)) = false →
    Completes (.read slot) s (fun m => 
      let parts := (n.ranges (slbaOf c.entry) (nlbOf c.entry)).flatMap fun r => m.cutParts r.1 none (r.2.2 / 512 + 4) r.2.1 r.2.2
      let m := (m.addF QIE_WBHIT.COUNT (stretches .buffer parts)).addF QIE_OVLWAIT.COUNT (stretches .wait parts)
      let m := m.modCmd slot fun c => { c with phase := .running, parts := parts }
      let m := if c.peer.isSome then m else m.askPtrs slot (m.xferBytes false c.entry)
      let m := (List.range parts.length).foldl (fun (m : Chip) i => m.startPart slot i) m
      (m.settleRead slot).settle)) ∧
  (∀ (s : State) (slot : SlotId) (c : Cmd) (n : Ns) (z : Nat), s.chip.ioAt slot 0x01 c n →
    c.zone = some z →
    (s.chip.zone z).type = 2 →
    (s.chip.cmdZones c).any (fun z => decide ((s.chip.zone z).state = zso)) = false →
    (s.chip.cmdZones c).any (fun z => decide ((s.chip.zone z).state = zsro)) = false →
    Completes (.write slot) s (fun m => 
      let m := (m.cmdZones c).foldl (fun (m : Chip) z => m.setZone z { m.zone z with lastWrite := m.now }) m
      ((((m.modCmd slot fun c => { c with phase := .running }).unclean).takeIn slot).readBesides slot c n).settle)) ∧
  (∀ (s : State) (slot : SlotId) (c : Cmd) (n : Ns) (z : Nat), s.chip.ioAt slot 0x01 c n →
    c.zone = some z →
    (s.chip.zone z).type ≠ 2 →
    (s.chip.zone z).checkWrite false c.off c.nlb n.zoneLbas (if (s.chip.zone z).type = 1 then reserveUnits (c.off * 2 ^ n.lbaLog) (c.nlb * 2 ^ n.lbaLog) else 0) = none →
    (s.chip.fresh.takeZone z zsio c.hint).2 = none →
    Completes (.write slot) s (fun m => 
      let off := c.off
      let resv := if (m.zone z).type = 1 then reserveUnits (off * 2 ^ n.lbaLog) (c.nlb * 2 ^ n.lbaLog) else 0
      let m := (m.takeZone z zsio c.hint).1
      let m := m.setZone z { m.zone z with rwp := (m.zone z).rwp + c.nlb, rpp := (m.zone z).rpp + resv, lastWrite := m.now }
      let m := m.modCmd slot fun c => { c with phase := .running, off := off, resv := resv }
      (m.unclean.takeIn slot).settle)) ∧
  (∀ (s : State) (slot : SlotId) (c : Cmd) (n : Ns) (z : Nat), s.chip.ioAt slot 0x08 c n →
    c.zone = some z →
    (s.chip.zone z).type = 2 →
    (s.chip.cmdZones c).any (fun z => decide ((s.chip.zone z).state = zso)) = false →
    (s.chip.cmdZones c).any (fun z => decide ((s.chip.zone z).state = zsro)) = false →
    Completes (.writeZeroes slot) s (fun m => 
      let m := (m.cmdZones c).foldl (fun (m : Chip) z => m.setZone z { m.zone z with lastWrite := m.now }) m
      ((((m.modCmd slot fun c => { c with phase := .running }).unclean).takeIn slot).readBesides slot c n).settle)) ∧
  (∀ (s : State) (slot : SlotId) (c : Cmd) (n : Ns) (z : Nat), s.chip.ioAt slot 0x08 c n →
    c.zone = some z →
    (s.chip.zone z).type ≠ 2 →
    (s.chip.zone z).checkWrite false c.off c.nlb n.zoneLbas (if (s.chip.zone z).type = 1 then reserveUnits (c.off * 2 ^ n.lbaLog) (c.nlb * 2 ^ n.lbaLog) else 0) = none →
    (s.chip.fresh.takeZone z zsio c.hint).2 = none →
    Completes (.writeZeroes slot) s (fun m => 
      let off := c.off
      let resv := if (m.zone z).type = 1 then reserveUnits (off * 2 ^ n.lbaLog) (c.nlb * 2 ^ n.lbaLog) else 0
      let m := (m.takeZone z zsio c.hint).1
      let m := m.setZone z { m.zone z with rwp := (m.zone z).rwp + c.nlb, rpp := (m.zone z).rpp + resv, lastWrite := m.now }
      let m := m.modCmd slot fun c => { c with phase := .running, off := off, resv := resv }
      (m.unclean.takeIn slot).settle)) ∧
  (∀ (s : State) (slot : SlotId) (c : Cmd) (n : Ns) (z : Nat), s.chip.ioAt slot 0x7D c n →
    c.zone = some z →
    (s.chip.zone z).type ≠ 2 →
    (s.chip.zone z).checkWrite true c.off c.nlb n.zoneLbas (if (s.chip.zone z).type = 1 then reserveUnits ((s.chip.zone z).rwp * 2 ^ n.lbaLog) (c.nlb * 2 ^ n.lbaLog) else 0) = none →
    (s.chip.fresh.takeZone z zsio c.hint).2 = none →
    Completes (.zoneAppend slot) s (fun m => 
      let off := (m.zone z).rwp
      let resv := if (m.zone z).type = 1 then reserveUnits (off * 2 ^ n.lbaLog) (c.nlb * 2 ^ n.lbaLog) else 0
      let m := (m.takeZone z zsio c.hint).1
      let m := m.setZone z { m.zone z with rwp := (m.zone z).rwp + c.nlb, rpp := (m.zone z).rpp + resv, lastWrite := m.now }
      let m := m.modCmd slot fun c => { c with phase := .running, off := off, resv := resv }
      (m.unclean.takeIn slot).settle)) ∧
  (∀ (s : State) (slot : SlotId) (c : Cmd) (n : Ns), s.chip.ioAt slot 0x09 c n →
    c.peer = none →
    Completes (.datasetManagement slot) s (fun m => (m.modCmd slot fun c => { c with phase := .running, dataOpen := true }).fetchData slot c.want)) ∧
  (∀ (s : State) (slot : SlotId) (c : Cmd), s.chip.cmd? slot = some c →
    c.admin = false →
    opcodeOf c.entry = 0x09 →
    c.phase = .running →
    c.fwd = false →
    c.takesData = false →
    Completes (.datasetManagement slot) s (fun m => m.finish slot (some stOk))) ∧
  (∀ (s : State) (slot : SlotId) (c : Cmd) (n : Ns), s.chip.ioAt slot 0x09 c n →
    c.peer.isSome = true →
    Completes (.datasetManagement slot) s (fun m => m.finish slot (some stOk))) ∧
  (∀ (s : State) (slot : SlotId) (c : Cmd), s.chip.cmd? slot = some c →
    c.admin = false →
    c.phase = .accepted →
    opcodeOf c.entry = 0x00 →
    s.chip.flushWaits c = false →
    Completes (.flush slot) s (fun m => m.finish slot (some stOk))) ∧
  (∀ (s : State) (slot : SlotId) (c : Cmd) (z : Nat), s.chip.cmd? slot = some c →
    c.zone = some z →
    c.writing = true →
    c.staged = true →
    c.folded = false →
    c.fwd = false →
    s.chip.inTurn z c = true →
    s.chip.paired = false →
    Completes (.parityFold slot) s (fun m => m.modCmd slot fun c => { c with folded := true })) ∧
  (∀ (s : State) (slot : SlotId) (units : Nat) (c : Cmd) (z : Nat), s.chip.cmd? slot = some c →
    c.zone = some z →
    c.writing = true →
    c.staged = false →
    s.chip.onXts slot c = true →
    s.chip.keyLoaded (nsidOf c.entry) = true →
    s.chip.allStored c = true →
    ceilDiv (s.chip.storedPlain c).length 256 ≤ c.enc + units →
    Completes (.xtsUnitDone slot units) s (fun m => 
      let all := ceilDiv (m.storedPlain c).length 256
      let m := m.addWide CPH_XTSBYTES_LO.BYTES CPH_XTSBYTES_HI.BYTES ((all - c.enc) * 256)
      (((m.modCmd slot fun c => { c with enc := all, staged := true }).mirrorData slot c z)).settle)) ∧
  (∀ (s : State) (slot : SlotId) (c : Cmd) (z : Nat) (r : Cmd), s.chip.cmd? slot = some c →
    c.zone = some z →
    s.chip.canCommit slot z c = true →
    c.parts.any (fun p => decide (p.lost ≠ [])) = false →
    s.chip.nextRecord z c = some r →
    c.phase = .committed ∨ ((s.chip.fresh.commitRecord slot z r).records z c).length ≤ 1 →
    Completes (.writeCommit slot) s (fun m => 
      let m := m.commitRecord slot z r
      let x := m.zone z
      let cap := ((m.ns? x.nsid).map (·.zoneLbas)).getD 0
      let m := m.finish slot (some stOk) (if opcodeOf c.entry = 0x7D then x.zidx * cap + c.off else 0)
      let m := if x.type ≠ 2 ∧ x.cwp = cap then m.makeFull z false else m.lastGranule z
      ((m.checkPending z).reclassify z).settle)) ∧
  (∀ (s : State) (slot : SlotId) (c : Cmd) (z : Nat) (r : Cmd), s.chip.cmd? slot = some c →
    c.zone = some z →
    s.chip.canCommit slot z c = true →
    c.parts.any (fun p => decide (p.lost ≠ [])) = false →
    s.chip.nextRecord z c = some r →
    c.phase = .running →
    1 < ((s.chip.fresh.commitRecord slot z r).records z c).length →
    Completes (.writeCommit slot) s (fun m => (((m.commitRecord slot z r).modCmd slot fun c => { c with phase := .committed }).reclassify z).settle)) ∧
  (∀ (s : State) (slot : SlotId) (c : Cmd) (z : Nat), s.chip.cmd? slot = some c →
    c.zone = some z →
    s.chip.canCommit slot z c = true →
    c.parts.any (fun p => decide (p.lost ≠ [])) = true →
    Completes (.writeCommit slot) s (fun m => (m.endCmd slot (some stUnrecovered)).settle)) ∧
  (∀ (s : State) (slot : SlotId) (payload : List Byte) (c : Cmd) (n : Ns) (e b k : Nat), s.chip.cmd? slot = some c →
    s.chip.ns? (nsidOf c.entry) = some n →
    n.elastic = true →
    c.writing = true →
    (piecesOf (c.off * 2 ^ n.lbaLog) (c.nlb * 2 ^ n.lbaLog))[c.blocks.length]? = some (b, k) →
    (slice (c.payload n.lbaLog) (b - c.off * 2 ^ n.lbaLog) k).length = k →
    s.chip.compressEngine slot c.blocks.length = some e →
    mayEmit c.level (slice (c.payload n.lbaLog) (b - c.off * 2 ^ n.lbaLog) k) payload = true →
    Completes (.compressBlockDone slot payload) s (fun m => 
      let r := makeBlock c.level (b % 65536 / 512) (decide ((b + k) % 65536 ≠ 0)) (slice (c.payload n.lbaLog) (b - c.off * 2 ^ n.lbaLog) k) payload
      let m := if r.2 then m.incF CMP_RAWCNT.COUNT else m.incF CMP_BLKCNT.COUNT
      let m := (m.addWide CMP_INBYTES_LO.BYTES CMP_INBYTES_HI.BYTES k).addWide CMP_OUTBYTES_LO.BYTES CMP_OUTBYTES_HI.BYTES r.1.length
      let ends := if c.blocks.length + 1 = (piecesOf (c.off * 2 ^ n.lbaLog) (c.nlb * 2 ^ n.lbaLog)).length then [142] else []
      let m := m.send (.unit 26 (m.cmdUnitTag slot c c.kind ([155] ++ (if c.blocks = [] then [141] else []) ++ ends ++ (if r.2 then [156] else []))))
      let m := { m with eng := { m.eng with comp := tdel m.eng.comp e } }
      m.modCmd slot fun c => { c with blocks := c.blocks ++ [(b / 65536, r.1)] })) ∧
  (∀ (s : State) (slot : SlotId) (part : Nat) (lbaOff : Fin 128) (stored : List Byte) (e : Nat) (j : DecJob), s.chip.eng.decomp.find? (fun h => decide (h.2.slot = slot.val ∧ h.2.part = part ∧ h.2.lbaOff = lbaOff.val)) = some (e, j) →
    j.live = true →
    Completes (.decompressBlockDone slot part lbaOff stored) s (fun m => (({ m with eng := { m.eng with decomp := tdel m.eng.decomp e } } : Chip).decompressed slot part lbaOff stored).settle)) ∧
  (∀ (s : State) (slot : SlotId) (part : Nat) (lbaOff : Fin 128) (stored : List Byte) (e : Nat) (j : DecJob), s.chip.eng.decomp.find? (fun h => decide (h.2.slot = slot.val ∧ h.2.part = part ∧ h.2.lbaOff = lbaOff.val)) = some (e, j) →
    j.live = false →
    Completes (.decompressBlockDone slot part lbaOff stored) s (fun m => ({ m with eng := { m.eng with decomp := tdel m.eng.decomp e } } : Chip).settle))

/-- Zone Management Send and Receive complete: each action on one zone that may take it, or on all the zones it selects, has the effect named
here and ends with success; the actions and reports the device does not support end with Invalid Field. The whole next state is given, so
each clause says its frame too. The rules of the rows: R145, R146, R173. -/
def Obligations.ZoneCommandsComplete : Prop :=
  (∀ (s : State) (slot : SlotId) (c : Cmd) (n : Ns) (z : Nat), s.chip.ioAt slot 0x79 c n →
    zsaOf c.entry = 3 →
    selectAll c.entry = false →
    c.zone = some z →
    s.chip.zoneQuiet z c.seq = true →
    (s.chip.zone z).state ≠ zso →
    zoneAction 3 (s.chip.zone z).state = .go →
    (s.chip.fresh.takeZone z zseo c.hint).2 = none →
    Completes (.openZone slot) s (fun m => ((((m.takeZone z zseo c.hint).1).finish slot (some stOk)).reclassify z).settle)) ∧
  (∀ (s : State) (slot : SlotId) (c : Cmd) (n : Ns), s.chip.ioAt slot 0x79 c n →
    zsaOf c.entry = 3 →
    selectAll c.entry = true →
    (n.zones.filter fun z => selectsState 3 (s.chip.zone z).state).all (s.chip.zoneQuiet · c.seq) = true →
    Completes (.openZone slot) s (fun m => ((((n.zones.filter fun z => selectsState 3 (m.zone z).state).foldl (fun (m : Chip) z => (m.zoneDo z 3 c.hint).1) m).finish slot
        (some stOk))).settle)) ∧
  (∀ (s : State) (slot : SlotId) (c : Cmd) (n : Ns) (z : Nat), s.chip.ioAt slot 0x79 c n →
    zsaOf c.entry = 1 →
    selectAll c.entry = false →
    c.zone = some z →
    s.chip.zoneQuiet z c.seq = true →
    (s.chip.zone z).state ≠ zso →
    zoneAction 1 (s.chip.zone z).state = .go →
    Completes (.closeZone slot) s (fun m => (((m.closeZone z).finish slot (some stOk)).reclassify z).settle)) ∧
  (∀ (s : State) (slot : SlotId) (c : Cmd) (n : Ns), s.chip.ioAt slot 0x79 c n →
    zsaOf c.entry = 1 →
    selectAll c.entry = true →
    (n.zones.filter fun z => selectsState 1 (s.chip.zone z).state).all (s.chip.zoneQuiet · c.seq) = true →
    Completes (.closeZone slot) s (fun m => ((((n.zones.filter fun z => selectsState 1 (m.zone z).state).foldl (fun (m : Chip) z => (m.zoneDo z 1 c.hint).1) m).finish slot
        (some stOk))).settle)) ∧
  (∀ (s : State) (slot : SlotId) (c : Cmd) (n : Ns) (z : Nat), s.chip.ioAt slot 0x79 c n →
    zsaOf c.entry = 2 →
    selectAll c.entry = false →
    c.zone = some z →
    s.chip.zoneQuiet z c.seq = true →
    (s.chip.zone z).state ≠ zso →
    zoneAction 2 (s.chip.zone z).state = .go →
    Completes (.finishZone slot) s (fun m => (((m.finishZone z).finish slot (some stOk)).reclassify z).settle)) ∧
  (∀ (s : State) (slot : SlotId) (c : Cmd) (n : Ns), s.chip.ioAt slot 0x79 c n →
    zsaOf c.entry = 2 →
    selectAll c.entry = true →
    (n.zones.filter fun z => selectsState 2 (s.chip.zone z).state).all (s.chip.zoneQuiet · c.seq) = true →
    Completes (.finishZone slot) s (fun m => ((((n.zones.filter fun z => selectsState 2 (m.zone z).state).foldl (fun (m : Chip) z => (m.zoneDo z 2 c.hint).1) m).finish slot
        (some stOk))).settle)) ∧
  (∀ (s : State) (slot : SlotId) (c : Cmd) (n : Ns) (z : Nat), s.chip.ioAt slot 0x79 c n →
    zsaOf c.entry = 4 →
    selectAll c.entry = false →
    c.zone = some z →
    s.chip.zoneQuiet z c.seq = true →
    (s.chip.zone z).state ≠ zso →
    zoneAction 4 (s.chip.zone z).state = .go →
    Completes (.resetZone slot) s (fun m => (((m.resetZone z).finish slot (some stOk)).reclassify z).settle)) ∧
  (∀ (s : State) (slot : SlotId) (c : Cmd) (n : Ns), s.chip.ioAt slot 0x79 c n →
    zsaOf c.entry = 4 →
    selectAll c.entry = true →
    (n.zones.filter fun z => selectsState 4 (s.chip.zone z).state).all (s.chip.zoneQuiet · c.seq) = true →
    Completes (.resetZone slot) s (fun m => ((((n.zones.filter fun z => selectsState 4 (m.zone z).state).foldl (fun (m : Chip) z => (m.zoneDo z 4 c.hint).1) m).finish slot
        (some stOk))).settle)) ∧
  (∀ (s : State) (slot : SlotId) (c : Cmd) (n : Ns) (z : Nat), s.chip.ioAt slot 0x79 c n →
    zsaOf c.entry = 5 →
    selectAll c.entry = false →
    c.zone = some z →
    s.chip.zoneQuiet z c.seq = true →
    zoneAction 5 (s.chip.zone z).state = .go →
    Completes (.offlineZone slot) s (fun m => (((m.setZoneState z zso).finish slot (some stOk)).reclassify z).settle)) ∧
  (∀ (s : State) (slot : SlotId) (c : Cmd) (n : Ns), s.chip.ioAt slot 0x79 c n →
    zsaOf c.entry = 5 →
    selectAll c.entry = true →
    (n.zones.filter fun z => selectsState 5 (s.chip.zone z).state).all (s.chip.zoneQuiet · c.seq) = true →
    Completes (.offlineZone slot) s (fun m => ((((n.zones.filter fun z => selectsState 5 (m.zone z).state).foldl (fun (m : Chip) z => (m.zoneDo z 5 c.hint).1) m).finish slot
        (some stOk))).settle)) ∧
  (∀ (s : State) (slot : SlotId) (c : Cmd) (n : Ns), s.chip.ioAt slot 0x79 c n →
    zsaOf c.entry = 0x10 →
    Completes (.setZoneDescriptorExtension slot) s (fun m => m.finish slot (some stNoAction))) ∧
  (∀ (s : State) (slot : SlotId) (c : Cmd) (n : Ns) (d : Cmd), s.chip.ioAt slot 0x7A c n →
    zraOf c.entry = 0 →
    s.chip.fresh.ptrsIn slot (s.chip.fresh.report c n (bits (dw c.entry 13) 15 8) 64 (s.chip.fresh.zoneDescriptor n)).length c d →
    Completes (.reportZones slot) s (fun m => 
      let bytes := m.report c n (bits (dw c.entry 13) 15 8) 64 (m.zoneDescriptor n)
      ((m.ptrsAsked slot bytes.length c).giveHost slot 0 bytes).finish slot (some stOk))) ∧
  (∀ (s : State) (slot : SlotId) (c : Cmd) (n : Ns) (d : Cmd), s.chip.ioAt slot 0x7A c n →
    zraOf c.entry = 0 →
    (s.chip.fresh.ptrsAsked slot (s.chip.fresh.report c n (bits (dw c.entry 13) 15 8) 64 (s.chip.fresh.zoneDescriptor n)).length c).cmd? slot = some d →
    d.list.isSome = true →
    Completes (.reportZones slot) s (fun m => m.ptrsAsked slot (m.report c n (bits (dw c.entry 13) 15 8) 64 (m.zoneDescriptor n)).length c)) ∧
  (∀ (s : State) (slot : SlotId) (c : Cmd) (n : Ns), s.chip.ioAt slot 0x7A c n →
    zraOf c.entry = 1 →
    Completes (.extendedReportZones slot) s (fun m => m.finish slot (some stNoAction))) ∧
  (∀ (s : State) (slot : SlotId) (c : Cmd) (n : Ns) (d : Cmd), s.chip.ioAt slot 0x7A c n →
    zraOf c.entry = 0xF →
    s.chip.fresh.ptrsIn slot (s.chip.fresh.report c n (bits (dw c.entry 14) 3 0) 128 fun z => (s.chip.fresh.zoneWords z).flatMap (leBytes 4)).length c d →
    Completes (.avfortZoneReport slot) s (fun m => 
      let bytes := m.report c n (bits (dw c.entry 14) 3 0) 128 fun z => (m.zoneWords z).flatMap (leBytes 4)
      ((m.ptrsAsked slot bytes.length c).giveHost slot 0 bytes).finish slot (some stOk))) ∧
  (∀ (s : State) (slot : SlotId) (c : Cmd) (n : Ns) (d : Cmd), s.chip.ioAt slot 0x7A c n →
    zraOf c.entry = 0xF →
    (s.chip.fresh.ptrsAsked slot (s.chip.fresh.report c n (bits (dw c.entry 14) 3 0) 128 fun z => (s.chip.fresh.zoneWords z).flatMap (leBytes 4)).length c).cmd? slot = some d →
    d.list.isSome = true →
    Completes (.avfortZoneReport slot) s (fun m => m.ptrsAsked slot (m.report c n (bits (dw c.entry 14) 3 0) 128 fun z => (m.zoneWords z).flatMap (leBytes 4)).length c))

/-- Boundary units, island turn-off, the DTC broadcast, lost parts, barriers, the image's own events and a retrain's end complete: each event
has the effect named here. The whole next state is given, so each clause says its frame too. The rules of the rows: R40, R42, R43, R44,
R50, R52, R57, R72, R76, R80, R97, R176, R480. -/
def Obligations.IslandBarrierAndImageEventsComplete : Prop :=
  (∀ (s : State) (i : Isl) (tag : Tag), s.chip.islState i = 2 →
    s.chip.f PTB_CTL.ARMED = 0 →
    tagPasses tag.toNat = true →
    i.val ≠ 26 →
    Completes (.unitReceive i ⟨tag, false⟩) s (fun m => (m.unitServed i tag.toNat).settle)) ∧
  (∀ (s : State) (i : Isl) (tag : Tag), s.chip.islState i = 1 ∨ s.chip.islState i = 4 →
    Completes (.unitReceive i ⟨tag, false⟩) s (fun m => { m with isl := { m.isl with units := m.isl.units ++ [(i.val, tag.toNat)] } })) ∧
  (∀ (s : State) (i : Isl) (tag : Tag), Completes (.unitReceive i ⟨tag, true⟩) s (fun m => ((m.setF ISL_STAT.TAGERR 1 i).refuseUnit i tag.toNat).settle)) ∧
  (∀ (s : State) (i : Isl) (tag : Tag), s.chip.islState i = 0 →
    Completes (.unitReceive i ⟨tag, false⟩) s (fun m => ({ m with isl := { m.isl with units := m.isl.units ++ [(i.val, tag.toNat)] } } : Chip).wakeFor i 1)) ∧
  (∀ (s : State) (i : Isl) (tag : Tag), s.chip.islState i = 2 →
    s.chip.f PTB_CTL.ARMED = 0 →
    tagPasses tag.toNat = false →
    Completes (.unitReceive i ⟨tag, false⟩) s (fun m => ((m.tagErr i).failTagged tag.toNat).settle)) ∧
  (∀ (s : State) (i : Isl), s.chip.islState i = 2 →
    s.chip.offBy i = some 3 →
    Completes (.islandIdleTimeout i) s (fun m => (m.drain i 3).showTrim)) ∧
  (∀ (s : State) (i : Isl), s.chip.islState i = 3 →
    s.chip.offBy i ≠ none →
    Completes (.islandDrainDone i) s (fun m => 
      let m := ((m.setIsl i 0).islandLost i).switchPoll.showTrim
      if m.f PWR_STAT.STATE = 4 then m.powerPoll else m)) ∧
  (∀ (s : State) (i : Isl), s.chip.islState i = 3 →
    s.chip.offBy i = none →
    Completes (.islandDrainDone i) s (fun m => (m.setIsl i 2).showTrim)) ∧
  (∀ (s : State), s.chip.st.step ≠ 0 →
    Completes (.dtcBroadcast []) s (fun m => { m with isl := { m.isl with dtc := (m.isl.dtc / 1024 + 1) * 1024 % 2 ^ 64, skew := [] } })) ∧
  (∀ (s : State) (i : Isl) (d : Int), s.chip.st.step = 0 →
    s.chip.islServes i = true →
    d.natAbs ≤ s.chip.f ISL_SKEW.WORST_TICKS →
    d.natAbs ≤ 2 →
    Completes (.dtcBroadcast [(i, d)]) s (fun m => { m with isl := { m.isl with skew := tset 0 m.isl.skew i d } })) ∧
  (∀ (s : State) (i : Isl) (d : Int), s.chip.st.step = 0 →
    s.chip.islServes i = true →
    s.chip.f ISL_SKEW.WORST_TICKS < d.natAbs →
    2 < d.natAbs →
    d.natAbs ≤ 15 →
    Completes (.dtcBroadcast [(i, d)]) s (fun m => ((m.setF ISL_SKEW.WORST_TICKS d.natAbs).setF ISL_SKEW.WORST_ISL i).emit i 0x3002 d.natAbs)) ∧
  (∀ (s : State) (slot : SlotId) (c : Cmd), s.chip.cmd? slot = some c →
    s.chip.waiting slot c = false →
    c.phase ≠ .committed →
    Completes (.lostPartWatchdog slot) s (fun m => ((m.emit 10 0x3005 slot (some (m.cmdTag slot c))).failSlot slot).settle)) ∧
  (∀ (s : State) (slot : SlotId) (c : Cmd), s.chip.cmd? slot = some c →
    s.chip.waiting slot c = false →
    c.phase = .committed →
    Completes (.lostPartWatchdog slot) s (fun m => ((m.emit 10 0x3005 slot (some (m.cmdTag slot c))).finish slot (some stOk)).settle)) ∧
  (∀ (s : State) (b : Barrier), s.chip.isl.flight = some b →
    b.twin = true →
    b.twinAck = false →
    Completes (.pairBarrierTimeout) s (fun m => (((m.setF TWN_FAULT.BARRIER 1).emit 27 0x690A).barEnd 2).switchPoll)) ∧
  (∀ (s : State) (k : Nat), s.chip.isl.snapMarker = some k →
    Completes (.snapshotRecordDone) s (fun m => (({ m with isl := { m.isl with snapMarker := none } } : Chip).setF ZNE_SNAPSTAT.MARKER k).setF ZNE_SNAPSTAT.READY 1)) ∧
  (∀ (s : State) (bytes : List Byte) (op len : Nat), s.chip.img.phase = .dma op len →
    Completes (.imageDmaDone bytes) s (fun m => m.imgCheck op len bytes)) ∧
  (∀ (s : State) (b : List Byte), s.chip.img.phase = .bankWrite b →
    s.chip.f NVA_STAT.BROWNOUT ≠ 1 →
    Completes (.storeBankWriteDone) s (fun m => 
      let i := m.inactiveBank
      let m := (m.setBank i b).showBank i true
      ({ m with nv := { m.nv with pendErase := [] } } : Chip).imgEnd ⟨1, 0, 0⟩)) ∧
  (∀ (s : State), s.chip.f NVA_STAT.BROWNOUT = 1 →
    Completes (.storeBankWriteDone) s (fun m => m)) ∧
  (∀ (s : State), s.chip.f GEN_EPOCH.DRAINING = 1 →
    s.chip.epochUsed (s.chip.f GEN_EPOCH.OLD) = false →
    Completes (.epochDrainDone) s (fun m => (({ m with img := { m.img with old := none } } : Chip).setF GEN_EPOCH.DRAINING 0).setF GEN_EPOCH.OLD 0)) ∧
  (∀ (s : State) (v : BitVec 32), v.toNat ≠ s.chip.f GEN_LIVEVER.VERSION →
    Completes (.liveverMismatchTimeout v) s (fun m => m.emit 1 0x1003)) ∧
  (∀ (s : State) (v : BitVec 32), v.toNat = s.chip.f GEN_LIVEVER.VERSION →
    Completes (.liveverMismatchTimeout v) s (fun m => m)) ∧
  (∀ (s : State) (q : PSlot), s.chip.f HPT_PSTAT.STATE q ≠ 2 →
    Completes (.retrainTimeout q) s (fun m => m.setF HPT_PCTL.RETRAIN 0 q))

/-- Spills, log compaction, merges, relocations, solves, rebuild and parity verify complete: each event has the effect named here. The whole
next state is given, so each clause says its frame too. The rules of the rows: R158, R169, R170, R255, R262, R264. -/
def Obligations.ZoneBackgroundEventsComplete : Prop :=
  (∀ (s : State) (z : ZoneId), (s.chip.stagedStripes z).flatMap s.chip.openRows = [] →
    Completes (.spillAgeTimeout z) s (fun m => m)) ∧
  (∀ (s : State) (z : ZoneId) (r d b n : Nat), (s.chip.stagedStripes z).flatMap s.chip.openRows = [(z.val, r)] →
    s.chip.spillable z r = true →
    0 < n →
    s.chip.spillDies.findSome? (fun d => (s.chip.spillPlace d (ceilDiv (min (s.chip.filledBytes z - 4194304 * r) 4194304) 65536)).map fun p => (d, p)) = some (d, b, n) →
    Completes (.spillAgeTimeout z) s (fun m => 
      let len := min (m.filledBytes z - 4194304 * r) 4194304
      let w := ceilDiv len 65536
      let cls := if m.st.shutting then 5 else 4
      let dl := m.rowDeadline (m.zone z).tenant m.now cls
      let m := { m with zn := { m.zn with spillBlk := tput m.zn.spillBlk d (b, n + w), spillNext := d + 1 } }
      let m := m.setRow z r { m.row z r with plan := some (d, b, n), spillLen := len }
      (List.range w).foldl (fun (m : Chip) k =>
        m.place z { DUnit.make d .program (.spill z r) cls dl b (n + k) 0 with slc := true }) m)) ∧
  (∀ (s : State), 8 ≤ s.chip.freeLog →
    Completes (.logCompaction) s (fun m => m.settle)) ∧
  (∀ (s : State) (c : Nat × LogBlk), s.chip.freeLog < 8 →
    s.chip.zn.compact = none →
    (s.chip.zn.logBlks.filter fun e => !e.2.opened && s.chip.ownsStripe (logZone e.1) && decide ((s.chip.zone (logZone e.1)).rows = 1024)) = [c] →
    Completes (.logCompaction) s (fun m => (({ m with zn := { m.zn with compact := some { victim := c.1, left := c.2.units } } } : Chip).compactNext).settle)) ∧
  (∀ (s : State), s.chip.zn.compact.isSome = true →
    Completes (.logCompaction) s (fun m => m.settle)) ∧
  (∀ (s : State) (z : ZoneId) (v : Chip) (ms : List Member), (s.chip.zone z).type = 2 →
    s.chip.ownsZone z = true →
    262144 < s.chip.logUnitsOf z →
    s.chip.zn.merge = none →
    s.chip.fresh.newStripe (if (s.chip.fresh.zone z).cls = 0 then 2 else (s.chip.fresh.zone z).cls) = (v, some ms) →
    Completes (.zoneMerge z) s (fun _ => (v.mergeRow { zone := z, members := ms, row := 0, reads := 0, left := [], taken := [], lost := [] }).settle)) ∧
  (∀ (s : State) (z : ZoneId) (v : Chip), (s.chip.zone z).type = 2 →
    s.chip.ownsZone z = true →
    262144 < s.chip.logUnitsOf z →
    s.chip.zn.merge = none →
    s.chip.fresh.newStripe (if (s.chip.fresh.zone z).cls = 0 then 2 else (s.chip.fresh.zone z).cls) = (v, none) →
    Completes (.zoneMerge z) s (fun m => (m.incF ZNE_MOVES.PLACEFAIL).settle)) ∧
  (∀ (s : State) (z : ZoneId), s.chip.logUnitsOf z ≤ 262144 →
    Completes (.zoneMerge z) s (fun m => m.settle)) ∧
  (∀ (s : State) (z : ZoneId) (i : Fin 18), (s.chip.zone z).members ≠ [] →
    ((s.chip.zone z).member i).failed = false →
    s.chip.ownsStripe z = true →
    Completes (.memberRelocation z i) s (fun m => m.startMove z i (m.blk ((m.zone z).member i).die ((m.zone z).member i).block).urgent false false)) ∧
  (∀ (s : State) (id : Nat) (v : Solve), s.chip.md.solves.find? (fun x => decide (x.id = id)) = some v →
    v.ready = true →
    (s.chip.md.solves.filter (·.ready)).all v.before = true →
    Completes (.rowSolveDone id) s (fun m => (m.endSolve v).settle)) ∧
  (∀ (s : State) (id : Nat) (v : Solve), s.chip.md.solves.find? (fun x => decide (x.id = id)) = some v →
    v.ready = false →
    Completes (.rowSolveDone id) s (fun m => m)) ∧
  (∀ (s : State) (us : Nat), Completes (.rebuildBucketRefill us) s (fun m => 
      let m := { m with md := { m.md with rebuildBytes := min 4194304 (m.md.rebuildBytes + us * m.f SPE_RBCFG.RATE_MBS) } }
      let m := m.startRebuilds
      let waiting := m.zn.moves.filter fun v => v.rebuild && v.queued
      let m := m.setF SPE_STAT.PAUSED (b1 (waiting.any fun v => m.rebuildPaused v.zone))
      waiting.foldl (fun (m : Chip) v => match m.move? v.zone v.member with
        | some w => m.goMove w
        | none => m) m)) ∧
  (∀ (s : State) (found : List (Nat × Nat × List (Nat × Nat))), s.chip.f SPE_CTL.VERIFY_EN = 0 ∨ s.chip.f SPE_VFYCFG.HOURS = 0 →
    Completes (.parityVerifyTimer found) s (fun m => m)) ∧
  (∀ (s : State), s.chip.f SPE_CTL.VERIFY_EN ≠ 0 →
    s.chip.f SPE_VFYCFG.HOURS ≠ 0 →
    Completes (.parityVerifyTimer []) s (fun m => 
      let dl := (m.now + m.stampEpoch.2.deadlineLen 0 7) % 2 ^ 32
      let zs := (m.zn.zones.filter fun e => m.ownsStripe e.1 && decide (e.2.members ≠ [])).map (·.1)
      zs.foldl (fun (m : Chip) z =>
        (m.verifyRows z).foldl (fun (m : Chip) r =>
          let m := m.incF SPE_VFYROWS.COUNT
          (m.zone z).liveMembers.foldl (fun (m : Chip) i =>
            let y := (m.zone z).member i
            m.place z { DUnit.make y.die .read (.verify z r) 7 dl y.block r 255 with off := pageStart r i 0 }) m) m) m))

/-- Lull, Calm, their wake events, the power sequencer's timeouts and the flush's budget complete: each event has the effect named here. The
whole next state is given, so each clause says its frame too. The rules of the rows: R42, R431, R447, R448, R450, R451, R459, R464, R481,
R482, R483, R485, R486, R487, R488, R556. -/
def Obligations.PowerStateAndSequencerEventsComplete : Prop :=
  (∀ (s : State), s.chip.plp.flushing = true →
    s.chip.plp.late = true →
    Completes (.flushBudgetTimeout) s (fun m => (m.setF PLP_FAULT.OVERBUDGET 1).emit 0 0x6A07)) ∧
  (∀ (s : State), s.chip.plp.flushing = true →
    s.chip.plp.late = false →
    Completes (.flushBudgetTimeout) s (fun m => 
      let m := (m.setF PLP_FAULT.OVERBUDGET 1).emit 0 0x6A07
      ({ m with plp := { m.plp with late := true } } : Chip).countMiss 0 none)) ∧
  (∀ (s : State) (b : Bool), s.chip.f PLP_STAT.FIRST = b1 b →
    Completes (.pfailDeassert b) s (fun m => (m.setF (pfailField b) 0).setF PLP_STAT.LINGER 0)) ∧
  (∀ (s : State) (g : Grp), bitOf s.chip.q.perst g = true →
    s.chip.f PWR_STAT.STATE < 4 →
    Completes (.perstDeassert g) s (fun m => 
      let m := { m with q := { m.q with perst := m.q.perst - 2 ^ g.val } }
      ((List.range 4).foldl (fun (m : Chip) k => m.startTraining (4 * g.val + k)) m).powerPoll)) ∧
  (∀ (s : State), s.chip.f PWR_STAT.STATE ≠ 4 →
    s.chip.f PWR_STAT.STATE ≠ 5 →
    Completes (.twinHbPulseDetect) s (fun m => (({ m with tw := { m.tw with hbAge := 0 } } : Chip).setF TWN_STAT.HB_SEEN 1))) ∧
  (∀ (s : State), s.chip.f PWR_CTL.LULL_EN = 1 →
    s.chip.f PWR_STAT.STATE ≤ 1 →
    s.chip.st.step = 14 →
    s.chip.lullIdle = true →
    Completes (.lullIdleTimeout) s (fun m => ((m.setF PWR_STAT.STATE 2).setF PWR_STAT.LATCHED 0).powerPoll)) ∧
  (∀ (s : State), s.chip.f PWR_STAT.STATE = 2 →
    s.chip.allOff ((List.range 28).filter lullOff) = true →
    s.chip.f PWR_STAT.LATCHED = 0 →
    Completes (.lullEntryDone) s (fun m => ((m.setF PWR_STAT.STATE 3).incF PWR_COUNT.LULLS).emit 0 0x6C01)) ∧
  (∀ (s : State) (i : Isl), s.chip.f PWR_STAT.STATE = 2 ∨ s.chip.f PWR_STAT.STATE = 3 →
    12 ≤ i.val ∧ i.val ≤ 26 →
    Completes (.lullWake (.unit i)) s (fun m => m.wakeEvent 1 i)) ∧
  (∀ (s : State) (i : Isl), s.chip.f PWR_STAT.STATE = 2 ∨ s.chip.f PWR_STAT.STATE = 3 →
    12 ≤ i.val ∧ i.val ≤ 26 →
    s.chip.f ISL_CTL.AUTOWAKE i = 1 →
    Completes (.lullWake (.cw i)) s (fun m => m.wakeEvent 2 i)) ∧
  (∀ (s : State), s.chip.f PWR_STAT.STATE = 2 ∨ s.chip.f PWR_STAT.STATE = 3 →
    Completes (.lullWake .schedule) s (fun m => m.wakeEvent 4 0)) ∧
  (∀ (s : State), s.chip.f PWR_WAKETMR.SECONDS ≠ 0 →
    s.chip.f PWR_STAT.STATE = 2 ∨ s.chip.f PWR_STAT.STATE = 3 →
    Completes (.wakeTimerExpiry) s (fun m => m.wakeEvent 11 0)) ∧
  (∀ (s : State), s.chip.f PWR_STAT.STATE = 4 →
    s.chip.allOff ((List.range 27).map (· + 1)) = true →
    s.chip.f PWR_STAT.LATCHED = 0 →
    Completes (.calmEntryDone) s (fun m => ((((m.setF PWR_STAT.STATE 5).setF PWR_CALMRES.RESULT 1).setF PWR_CTL.CALM 0).incF PWR_COUNT.CALMS).emit 0 0x6C02)) ∧
  (∀ (s : State), s.chip.f PWR_STAT.STATE = 4 ∨ s.chip.f PWR_STAT.STATE = 5 →
    s.chip.fbit PWR_CALMCFG.WAKEEN 0 = true →
    Completes (.calmWake .i3c) s (fun m => m.wakeEvent 7 0)) ∧
  (∀ (s : State), s.chip.f PWR_STAT.STATE = 4 ∨ s.chip.f PWR_STAT.STATE = 5 →
    s.chip.fbit PWR_CALMCFG.WAKEEN 1 = true →
    Completes (.calmWake .smbus) s (fun m => m.wakeEvent 8 0)) ∧
  (∀ (s : State) (g : Grp), s.chip.f PWR_STAT.STATE = 4 ∨ s.chip.f PWR_STAT.STATE = 5 →
    s.chip.fbit PWR_CALMCFG.WAKEEN 2 = true →
    Completes (.calmWake (.perst g)) s (fun m => m.wakeEvent 9 g)) ∧
  (∀ (s : State), s.chip.f PWR_STAT.STATE = 4 ∨ s.chip.f PWR_STAT.STATE = 5 →
    s.chip.fbit PWR_CALMCFG.WAKEEN 3 = true →
    Completes (.calmWake .twinHb) s (fun m => m.wakeEvent 10 0)) ∧
  (∀ (s : State), s.chip.f PWR_STAT.STATE = 4 ∨ s.chip.f PWR_STAT.STATE = 5 →
    s.chip.fbit PWR_CALMCFG.WAKEEN 4 = true →
    s.chip.f PWR_WAKETMR.SECONDS ≠ 0 →
    Completes (.calmWake .timer) s (fun m => m.wakeEvent 11 0)) ∧
  (∀ (s : State), s.chip.f PWR_STAT.STATE = 6 →
    s.chip.f PWR_WAKESRC.FROM = 2 →
    (List.range 28).all (fun i => decide (s.chip.islState i ≠ 1)) = true →
    s.chip.dr.runs = [] →
    (List.range 12).any (fun k => s.chip.clusterTrains k) = false →
    s.chip.f TWN_STAT.STATE ≠ 2 →
    Completes (.calmExitDone) s (fun m => 
      let m := m.calmFirmware
      if m.f TRS_STAT.ROMREC = 1 then m else
      let m := (m.setF PWR_STAT.STATE 1).setF PWR_CTL.WAKE 0
      let m := m.img.tables.pools.foldl (fun (m : Chip) r => m.grantPool r.pool) (m.setF BPM_STAT.MODE 0)
      m.showTrim.late)) ∧
  (∀ (s : State), s.chip.tw.heldHb = true →
    s.chip.tw.holdWoke = true →
    Completes (.pairHoldEnd) s (fun m => ({ m with tw := { m.tw with heldHb := false, holdWoke := false } } : Chip).setF PWR_STAT.PAIRHOLD 0)) ∧
  (∀ (s : State) (r : Rail), (s.chip.rail r).state = 4 →
    Completes (.dischargeTimeout r) s (fun m => 
      let m := ((m.setBit PSQ_STUCK.RAIL r true).setF PSQ_FAULT.STUCK 1).emit 0 0x6A02
      (m.setRail r { m.rail r with state := 5 }).downPoll)) ∧
  (∀ (s : State), s.chip.f PSQ_STAT.FLT_OUT = 0 →
    s.chip.f PSQ_STAT.DIR < 2 →
    Completes (.seqFltAssert) s (fun m => ((m.setF PSQ_STAT.FLT_IN 1).psqLog PSQ_FAULT.EXTERNAL 5 0).shutdown)) ∧
  (∀ (s : State), s.chip.f PSQ_STAT.DIR = 0 →
    Completes (.frontTimeout) s (fun m => m.seqFault PSQ_FAULT.FRONT 3 0)) ∧
  (∀ (s : State), s.chip.f PSQ_STAT.DIR = 2 →
    s.chip.f PSQ_STAT.SYNC_PULL = 0 →
    Completes (.frontTimeout) s (fun m => (m.psqLog PSQ_FAULT.FRONT 3 0).seqFront)) ∧
  (∀ (s : State), Completes (.standbyRailLoss) s (fun m => 
      let m := (((m.setF PSQ_RAILS.EN 0).setF PSQ_STAT.SYNC_PULL 0).setF PSQ_STAT.FLT_OUT 0).setF PSQ_STAT.SEQOUT 0
      let m := (m.setF TWN_LINES.CLAIM 0).setF TWN_LINES.FENCE_OUT 0
      { m with psq := { m.psq with rails := [], flushHold := false } }))

/-- What happens at the dies and channels completes: units enter a die's queue, operations, resets, training runs and temperature polls end,
and the timers of scrub, wear, quota and deadlines pass, each with the effect named here. The whole next state is given, so each clause
says its frame too. The rules of the rows: R183, R184, R187, R193, R196, R198, R205, R215, R223, R224, R225, R227, R228, R229, R231, R235,
R240, R243, R244, R456. -/
def Obligations.DieAndChannelEventsComplete : Prop :=
  (∀ (s : State) (d : Die) (u : DUnit), firstUnit (s.chip.md.disp.filter fun u => decide (u.die = d.val) && !(s.chip.needsSlot u && u.slot.isNone && s.chip.deviceSlot.isNone)) = some u →
    Completes (.dieUnitEnqueue d) s (fun m => 
      let v := if m.needsSlot u && u.slot.isNone then { u with slot := m.deviceSlot } else u
      let m := { m with md := { m.md with disp := m.md.disp.filter (·.id ≠ v.id) } }
      (m.setDie d { m.die d with overflow := insertUnit v (m.die d).overflow }.fill).turn d)) ∧
  (∀ (s : State) (d : Die) (p : DUnit), (s.chip.die d).running = some p →
    (s.chip.die d).suspending = true →
    Completes (.suspendReady d) s (fun m => 
      let t := (m.die d).suspAt
      let m := (m.setDie d { m.die d with running := none, suspended := some p, suspending := false }).startDie d
      match (m.die d).running with
      | some r => if r.kind = .read then m.charge r (m.isl.dtc - t : Nat) else m
      | none => m)) ∧
  (∀ (s : State) (d : Die) (dataIn : Bool) (u : DUnit), (s.chip.die d).running = some u →
    Completes (.dataPhaseWatchdog d dataIn) s (fun m => 
      let m := m.hourly d
      let m := if dataIn then m.incF FCH_WDOG.DATAIN (dieChannel d) else m.incF FCH_WDOG.DATAOUT (dieChannel d)
      let m := m.emit (12 + dieCluster d) 0x6003
      let n := (m.die d).watchdogs ++ [m.isl.dtc]
      let m := (m.setDie d { m.die d with watchdogs := n }).cutOff d fun m u =>
        match u.kind with
        | .read => m.rereadOr u
        | .program => if dataIn && !u.again then m.requeue u else m.progFailed u true
        | .erase => m.requeue u
      (if m.f LDP_DIECFG.WD_MAX < n.length then m.failDie d 6 else m).settle)) ∧
  (∀ (s : State) (d : Die) (u : DUnit), (s.chip.die d).running = some u →
    Completes (.dieOperationTimeout d) s (fun m => 
      let m := ((m.hourly d).incF FCH_ERRCNT.TIMEOUT (dieChannel d)).emit (12 + dieCluster d) 0x6004
      let n := (m.die d).timeouts ++ [m.isl.dtc]
      let m := (m.setDie d { m.die d with timeouts := n }).cutOff d Chip.interrupted
      (if 2 ≤ n.length then m.failDie d 5 else m).settle)) ∧
  (∀ (s : State) (c : Clus) (decodes : List (Option Nat)) (u : DUnit), firstUnit (s.chip.md.softQ.filter fun u => decide (dieCluster u.die = c.val)) = some u →
    Completes (.softDecodeDone c decodes) s (fun m => 
      let m := { m with md := { m.md with softQ := m.md.softQ.filter (·.id ≠ u.id) } }
      let got := (List.range u.bad.length).map fun k => if m.ptbFails u (u.ladder.length + 2) then none else decodes.getD k none
      let lost := (u.bad.zip got).filterMap fun e => if e.2.isNone then some e.1 else none
      let m := m.addF LDP_SOFTCNT.COUNT (u.bad.length - lost.length)
      let m := if lost.length < u.bad.length then
          (if m.quiet u then m.noteDecodes u none got else (m.noteDecodes u none got).markRefresh u.die u.block true) else m
      (if (m.die u.die).running.any (fun v => decide (v.id = u.id)) then
        let busy := m.isl.dtc - (m.die u.die).start
        ((m.endUnit u busy).readDone u lost busy).turn u.die
      else m).settle)) ∧
  (∀ (s : State) (ch : Chan) (ce : Grp), Completes (.zqShortTimer ch ce) s (fun m => m)) ∧
  (∀ (s : State) (d : Die) (temp : Option Int), s.chip.drives d = true →
    2 ≤ s.chip.f FCH_DIE.STATE d →
    s.chip.f FCH_DIE.STATE d ≤ 5 →
    Completes (.dieTempPoll d temp) s (fun m => (m.dieTemp d temp).settle)) ∧
  (∀ (s : State), s.chip.f LDP_SCRUBCFG.HOURS ≠ 0 →
    Completes (.scrubPassTimer) s (fun m => 
      let dl := (m.now + m.stampEpoch.2.deadlineLen 0 7) % 2 ^ 32
      let bs := m.md.blocks.filter fun e => decide (2 ≤ e.2.state ∧ e.2.state ≤ 5 ∧ 0 < e.2.rows) && m.drives (e.1 / 8192)
      bs.foldl (fun (m : Chip) e =>
        (scrubRows (m.f LDP_SCRUBCFG.STRIDE) e.2.rows).foldl (fun (m : Chip) r =>
          m.newUnit (DUnit.make (e.1 / 8192) .read .scrub 7 dl (e.1 % 8192) r 255)) m) m)) ∧
  (∀ (s : State), s.chip.f LDP_WEARCFG.WEAR_GAP ≠ 0 →
    Completes (.wearLevelTimer) s (fun m => (m.serving.filter fun d => decide (m.f FCH_DIE.STATE d = 2)).foldl (fun (m : Chip) d => m.wearDie d) m)) ∧
  (∀ (s : State) (t : Ten) (us : Nat) (r : TenantRec), s.chip.tenRec t = some r →
    r.quota ≠ 0 →
    Completes (.quotaBucketRefill t us) s (fun m => (m.setTen t ((m.ten t).refill r us)).settle)) ∧
  (∀ (s : State) (i : SlotId) (c : Cmd), s.chip.cmd? i = some c →
    c.missAt = none →
    s.chip.expired (some c.tenant) c.deadline = true →
    c.phase = .running →
    c.admin = false →
    c.abortMiss = false →
    Completes (.deadlineMiss (.slot i)) s (fun m => 
      let m := m.countMiss c.cls (some c.tenant)
      let m := (m.diesOf i).foldl (fun (m : Chip) d => m.setDie d { m.die d with misses := (m.die d).misses + 1 }) m
      m.putCmd i { c with missAt := some m.isl.dtc })) ∧
  (∀ (s : State) (i : SlotId) (c : Cmd), s.chip.cmd? i = some c →
    c.missAt = none →
    s.chip.expired (some c.tenant) c.deadline = true →
    c.phase = .running →
    c.admin = false →
    c.abortMiss = true →
    Completes (.deadlineMiss (.slot i)) s (fun m => 
      let m := m.countMiss c.cls (some c.tenant)
      let m := (m.diesOf i).foldl (fun (m : Chip) d => m.setDie d { m.die d with misses := (m.die d).misses + 1 }) m
      let m := m.putCmd i { c with missAt := some m.isl.dtc }
      let m := m.setTen c.tenant { m.ten c.tenant with aborts := sat16 (m.ten c.tenant).aborts }
      (((m.incF DLS_ABORTCNT.COUNT).emit 10 0x5002 0 (some (m.cmdTag i c))).endCmd i (some stDeadline)).settle)) ∧
  (∀ (s : State) (d : Die) (fail : Bool) (decodes : List (Option Nat)) (busy : Nat) (u : DUnit), (s.chip.die d).running = some u →
    u.soft = false →
    u.kind = .read →
    s.chip.busMine d = true →
    Completes (.dieOperationDone d fail decodes busy) s (fun m => (((m.readAttempt u decodes busy).busNext (dieChannel d)).turn d).late)) ∧
  (∀ (s : State) (d : Die) (fail : Bool) (decodes : List (Option Nat)) (busy : Nat) (u : DUnit), (s.chip.die d).running = some u →
    u.soft = false →
    u.kind = .read →
    s.chip.busMine d = false →
    Completes (.dieOperationDone d fail decodes busy) s (fun m => m.late)) ∧
  (∀ (s : State) (d : Die) (fail : Bool) (decodes : List (Option Nat)) (busy : Nat) (u : DUnit), (s.chip.die d).running = some u →
    u.soft = false →
    u.kind = .erase →
    Completes (.dieOperationDone d fail decodes busy) s (fun m => (((m.endUnit u busy).eraseDone u fail busy).turn d).late)) ∧
  (∀ (s : State) (d : Die) (decodes : List (Option Nat)) (busy : Nat) (u : DUnit), (s.chip.die d).running = some u →
    u.soft = false →
    u.kind = .program →
    (if u.slc then 1 else 4 / s.chip.flash.cellBits) ≤ u.passes + 1 →
    Completes (.dieOperationDone d false decodes busy) s (fun m => (((m.endUnit u busy).progDone u busy).turn d).late)) ∧
  (∀ (s : State) (d : Die) (decodes : List (Option Nat)) (busy : Nat) (u : DUnit), (s.chip.die d).running = some u →
    u.soft = false →
    u.kind = .program →
    Completes (.dieOperationDone d true decodes busy) s (fun m => (((m.endUnit u busy).progFailed u false).turn d).late)) ∧
  (∀ (s : State) (d : Die), s.chip.f FCH_DIE.STATE d = 4 →
    Completes (.dieResetDone d .ok) s (fun m => 
      let m := (m.setF FCH_DIE.STATE (m.serviceState d) d).turn d
      (match (m.train (dieChannel d)).resets with
      | e :: rest => (m.setTrain (dieChannel d) { m.train (dieChannel d) with resets := rest }).cutOff e Chip.interrupted
      | [] => m.setF FCH_CTL.RESETDIES 0 (dieChannel d)).late)) ∧
  (∀ (s : State) (ch : Chan) (ce : Nat), (s.chip.train ch).ce = some ce →
    (s.chip.train ch).started = false →
    ((ceDies ch ce).all fun d => (s.chip.die d).running.isNone && (s.chip.die d).suspended.isNone) = true →
    Completes (.trainingRunStart ch) s (fun m => 
      let n := (ceDies ch ce).foldl (fun (m : Chip) d => m.setDie d { m.die d with start := m.isl.dtc }) m
      (n.setTrain ch { m.train ch with started := true }).setF FCH_STAT.TRAINING 1 ch)) ∧
  (∀ (s : State) (ch : Chan) (ce : Nat), (s.chip.train ch).ce = some ce →
    (s.chip.train ch).started = false →
    Completes (.trainingNotreadyTimeout ch) s (fun m => (m.runFailed ch ce 2 true).late)) ∧
  (∀ (s : State) (ch : Chan) (ce rd wr : Nat), (s.chip.train ch).ce = some ce →
    (s.chip.train ch).started = true →
    Completes (.trainingRunDone ch (.eyes rd wr)) s (fun m => (m.runEyes ch ce rd wr).late)) ∧
  (∀ (s : State) (ch : Chan) (ce : Nat), (s.chip.train ch).ce = some ce →
    (s.chip.train ch).started = true →
    Completes (.trainingRunDone ch .busy) s (fun m => (m.abandonRun ch ce 3).late)) ∧
  (∀ (s : State) (ch : Chan) (ce : Nat), (s.chip.train ch).ce = some ce →
    (s.chip.train ch).started = true →
    Completes (.trainingRunDone ch .status) s (fun m => (m.abandonRun ch ce 4).late)) ∧
  (∀ (s : State) (ch : Chan) (ce : Nat), (s.chip.train ch).ce = some ce →
    (s.chip.train ch).started = true →
    Completes (.trainingRunDone ch .mode) s (fun m => (m.abandonRun ch ce 5).late)) ∧
  (∀ (s : State) (ch : Chan) (ce : Nat), (s.chip.train ch).ce = some ce →
    (s.chip.train ch).started = true →
    Completes (.trainingRunDone ch .noAnswer) s (fun m => (m.abandonRun ch ce 6).late)) ∧
  (∀ (s : State) (ch : Chan) (ce : Grp), ce.val ∈ (s.chip.train ch).retry →
    Completes (.trainingRetryTimer ch ce) s (fun m => (m.setTrain ch { m.train ch with retry := (m.train ch).retry.filter fun k => decide (k ≠ ce.val) }).askTrain ch [ce.val])) ∧
  (∀ (s : State) (t : Ten) (d : Die), s.chip.img.tables.share t ≠ 0 →
    Completes (.ledgerCreditRecovery t d) s (fun m => 
      let c : Credit := ⟨if (m.credit t d).credit < 0 then 0 else (m.credit t d).credit, m.now⟩
      (({ m with md := { m.md with ledger := tput m.md.ledger (ldgKey t d) c } } : Chip).turn d).late)) ∧
  (∀ (s : State) (d : Die) (u : FlushUnit) (seq b : Nat), tfind s.chip.plp.flight d = some (u, seq) →
    s.chip.flushBlock d = some b →
    Completes (.flushUnitDone d false) s (fun m => 
      let m := { m with plp := { m.plp with flight := tdel m.plp.flight d } }
      let side := if u.kind < 4 then m.stripeSide u.zone else m.side
      let g : FlushPage := { die := d, block := b, bytes := flushImage (m.f PLP_FLUSHID.FLUSH_ID) seq side u (m.flushPayload u) }
      let m := { m with plp := { m.plp with good := m.plp.good ++ [g] } }
      let hot := decide (m.f FCH_DIE.HOT d = 1)
      let x := m.blk d b
      let x := { x with rows := x.rows + 1, slc := true, outwin := x.outwin || hot }
      let m := (m.setBlk d b x).tellDelta none (deltaRecord 0x05 d (x.record b))
      ((if hot then m.markRefresh d b false else m).flushPoll.turn d).late)) ∧
  (∀ (s : State) (d : Die) (u : FlushUnit) (seq b : Nat), tfind s.chip.plp.flight d = some (u, seq) →
    s.chip.flushBlock d = some b →
    Completes (.flushUnitDone d true) s (fun m => 
      let m := { m with plp := { m.plp with flight := tdel m.plp.flight d, failed := m.plp.failed ++ [(u, seq)] } }
      let m := ((m.growBad d b).incF FCH_ERRCNT.PROGFAIL (dieChannel d)).emit (12 + dieCluster d) 0x6007
      (m.flushPoll.turn d).late))

/-- What happens at the host ports completes: link events, resets, TLPs that reach no register, data completions and their time-outs,
doorbells, fetches and arriving entries each have the effect named here. The whole next state is given, so each clause says its frame too.
The rules of the rows: R83, R84, R85, R89, R91, R92, R93, R94, R95, R96, R97, R98, R100, R101, R112, R113, R114, R116, R119. -/
def Obligations.PortAndQueueEventsComplete : Prop :=
  (∀ (s : State) (g : Grp), Completes (.perstAssert g) s (fun m => 
      let m := { m with q := { m.q with perst := m.q.perst ||| 2 ^ g.val } }
      (List.range 4).foldl (fun (m : Chip) i =>
        if m.portUsed (4 * g.val + i) then ((m.tellDown (4 * g.val + i)).linkGone (4 * g.val + i) 0).resetPortFns (4 * g.val + i) else m) m)) ∧
  (∀ (s : State) (q : PSlot) (rate width : Nat) (flit : Bool), s.chip.portUsed q = true →
    s.chip.f HPT_PSTAT.STATE q = 1 ∨ s.chip.f HPT_PSTAT.STATE q = 3 ∨ s.chip.f HPT_PSTAT.STATE q = 4 →
    Completes (.portTrainDone q rate width (.l0 flit)) s (fun m => 
      let w := min width (m.f HPT_PCFG.WIDTH q)
      let m := (m.setF HPT_PSTAT.STATE 2 q).setF HPT_PSTAT.SPEED (linkRate (m.f HPT_PCFG.MAX_GEN q) rate flit) q
      let m := (m.setF HPT_PSTAT.NEG_WIDTH w q).setF HPT_PSTAT.FLIT (b1 flit) q
      let m := (m.setF HPT_PCTL.RETRAIN 0 q).payOwed q
      if w < m.f HPT_PCFG.WIDTH q then m.emit (2 + q.val / 4) 0x2001 q else m)) ∧
  (∀ (s : State) (q : PSlot) (f : Nat), s.chip.portUsed q = true →
    s.chip.f HPT_PSTAT.STATE q = 2 →
    s.chip.portPf q = some f →
    (s.chip.fn f).pcie.aspm = true →
    Completes (.portTrainDone q 0 0 .l1) s (fun m => m.setF HPT_PSTAT.STATE 4 q)) ∧
  (∀ (s : State) (q : PSlot), s.chip.portUsed q = true →
    s.chip.linkUp q = true →
    Completes (.hotReset q) s (fun m => ((((m.setF HPT_EVT.HOTRESET 1 q).linkGone q 5).resetPortFns q).setF HPT_PSTAT.STATE 0 q).startTraining q)) ∧
  (∀ (s : State) (q : PSlot), s.chip.portUsed q = true →
    s.chip.linkUp q = true →
    Completes (.linkDown q) s (fun m => ((((m.setF HPT_EVT.LINKDOWN 1 q).linkGone q 0).resetPortFns q)).startTraining q)) ∧
  (∀ (s : State) (q : PSlot), s.chip.portUsed q = true →
    s.chip.linkUp q = false →
    Completes (.linkDown q) s (fun m => m)) ∧
  (∀ (s : State) (q : PSlot), s.chip.portUsed q = true →
    s.chip.linkUp q = true →
    Completes (.surpriseLinkDown q) s (fun m => (((((m.setF HPT_EVT.SURPRISE 1 q).setF HPT_EVT.LINKDOWN 1 q).linkGone q 0).resetPortFns q)).startTraining q)) ∧
  (∀ (s : State) (f : Fn) (r : FuncRec), s.chip.img.tables.func? f = some r →
    r.type ≠ 0 →
    Completes (.functionLevelReset f) s (fun m => (m.resetFn false f).settle)) ∧
  (∀ (s : State) (f : Fn) (r : FuncRec), s.chip.img.tables.func? f = some r →
    r.type = 0 →
    Completes (.functionLevelReset f) s (fun m => (((m.img.tables.vfsOf f).foldl (fun (m : Chip) v => m.resetFn false v) m).resetFn false f).settle)) ∧
  (∀ (s : State) (f : Fn) (off : Nat), s.chip.fnSeen f = true →
    s.chip.reached f = true →
    s.chip.bar0At f off = .none →
    Completes (.bar0UnmappedAccess f ⟨off, none⟩) s (fun m => (m.unmapped (m.slotOf f)).giveWord 0)) ∧
  (∀ (s : State) (f : Fn) (off : Nat) (v : BitVec 32), s.chip.fnSeen f = true →
    s.chip.reached f = true →
    s.chip.bar0At f off = .none →
    Completes (.bar0UnmappedAccess f ⟨off, some v⟩) s (fun m => m.unmapped (m.slotOf f))) ∧
  (∀ (s : State) (f : Fn) (off r : Nat), s.chip.fnSeen f = true →
    s.chip.reached f = true →
    s.chip.bar0At f off = .register r →
    Completes (.bar0UnmappedAccess f ⟨off, none⟩) s (fun m => m.giveWord (m.nvmeReg f r))) ∧
  (∀ (s : State) (f : Fn) (off r : Nat) (v : BitVec 32), s.chip.fnSeen f = true →
    s.chip.reached f = true →
    s.chip.bar0At f off = .register r →
    Completes (.bar0UnmappedAccess f ⟨off, some v⟩) s (fun m => m.writeNvme f r v.toNat)) ∧
  (∀ (s : State) (f : Fn) (off i w : Nat) (v : BitVec 32), s.chip.fnSeen f = true →
    s.chip.reached f = true →
    s.chip.bar0At f off = .vector i w →
    Completes (.bar0UnmappedAccess f ⟨off, some v⟩) s (fun m => (m.modPcie f fun p => { p with vectors := tset MsixEnt.blank p.vectors i ((tget MsixEnt.blank p.vectors i).put w v.toNat) }).sendPending f)) ∧
  (∀ (s : State) (f : Fn) (off w : Nat), s.chip.fnSeen f = true →
    s.chip.reached f = true →
    s.chip.bar0At f off = .pending w →
    Completes (.bar0UnmappedAccess f ⟨off, none⟩) s (fun m => m.giveWord ((m.fn f).pcie.pba w))) ∧
  (∀ (s : State) (f : Fn) (off : Nat) (v : BitVec 32), s.chip.fnSeen f = true →
    s.chip.reached f = false →
    s.chip.needsIde f = true →
    Completes (.bar0UnmappedAccess f ⟨off, some v⟩) s (fun m => m.incF HPT_DROPCNT.DROPS (m.slotOf f))) ∧
  (∀ (s : State) (q : PSlot) (why : TlpFault) (req : Bool) (h : List Byte), why ≠ .ecrc ∨ s.chip.f HPT_PSTAT.FLIT q ≠ 1 →
    Completes (.malformedTlp q ⟨why, req, h⟩) s (fun m => 
      let m := (m.incF HPT_ERRCNT.MALFORMED q).aerLog q why h
      if why = .undecoded ∧ req then m.send (.tlpUr q) else m)) ∧
  (∀ (s : State) (q : PSlot) (req : Bool) (h : List Byte), s.chip.f HPT_PSTAT.FLIT q = 1 →
    Completes (.malformedTlp q ⟨.ecrc, req, h⟩) s (fun m => m)) ∧
  (∀ (s : State) (f : Fn), s.chip.needsIde f = true →
    Completes (.nonsecureTlp f true) s (fun m => m.send (.tlpUr (m.slotOf f)))) ∧
  (∀ (s : State) (f : Fn), s.chip.needsIde f = true →
    Completes (.nonsecureTlp f false) s (fun m => m.incF HPT_DROPCNT.DROPS (m.slotOf f))) ∧
  (∀ (s : State) (q : PSlot) (k : Fin 9), s.chip.streamSecure q k = true →
    Completes (.ideStreamFail q k) s (fun m => 
      let was := (m.img.tables.fnsOnSlot q).filter fun f => m.needsIde f && m.secureFor q f
      let m := m.setSecure q k false
      let x := (tfind (m.port q).streams k).getD IdeStream.blank
      let m := m.setPort q { m.port q with streams := tput (m.port q).streams k { x with keys := [], runs := [] } }
      let lost := was.filter fun f => !(m.needsIde f && m.secureFor q f)
      let m := lost.foldl (fun (m : Chip) f => (m.endFnCmds f).setFn f { (m.endFnCmds f).fn f with cfs := true }) m
      ((m.setF HPT_EVT.IDEFAIL 1 q).emit (2 + q.val / 4) 0x2002 q).settle)) ∧
  (∀ (s : State) (q : PSlot) (k : Fin 9) (sub : Fin 6) (ks : Fin 2) (x : IdeStream), s.chip.portUsed q = true →
    s.chip.ideSession q = true →
    (tfind (s.chip.port q).streams k).getD IdeStream.blank = x →
    (sub.val, ks.val) ∈ x.keys →
    (x.runs.filter fun r => decide (r.1 ≠ sub.val)).length < 5 →
    Completes (.kSetGo q ⟨k, sub⟩ ks) s (fun m => m.setPort q { m.port q with streams := tput (m.port q).streams k { x with runs := (sub.val, ks.val) :: x.runs.filter fun r => decide (r.1 ≠ sub.val) } })) ∧
  (∀ (s : State) (q : PSlot) (k : Fin 9) (sub : Fin 6) (ks : Fin 2) (x : IdeStream), s.chip.portUsed q = true →
    s.chip.ideSession q = true →
    (tfind (s.chip.port q).streams k).getD IdeStream.blank = x →
    (sub.val, ks.val) ∈ x.keys →
    ¬ (x.runs.filter fun r => decide (r.1 ≠ sub.val)).length < 5 →
    Completes (.kSetGo q ⟨k, sub⟩ ks) s (fun m => 
      let runs := (sub.val, ks.val) :: x.runs.filter fun r => decide (r.1 ≠ sub.val)
      let m := (m.setPort q { m.port q with streams := tput (m.port q).streams k { x with runs := runs } }).setSecure q k true
      let m := if k.val < 8 then m.setBit HPT_IDESTAT.SEL_KEYSET k (runs.all fun r => decide (r.2 = 1)) q else m
      if m.st.step ≠ 14 then m else (m.img.tables.fnsOnSlot q).foldl (fun (m : Chip) f => m.fnReady f) m)) ∧
  (∀ (s : State) (slot : SlotId) (q : PSlot) (bytes : List Byte) (c : Cmd), s.chip.cmd? slot = some c →
    c.takesData = true →
    c.list = none →
    Completes (.dataCompletion slot q bytes .ok) s (fun m => m.modCmd slot fun c => { c with data := (c.data ++ bytes).take c.want, dataOpen := decide (((c.data ++ bytes).take c.want).length < c.want) })) ∧
  (∀ (s : State) (slot : SlotId) (q : PSlot) (bytes : List Byte) (c : Cmd) (l : Nat × Nat), s.chip.cmd? slot = some c →
    c.takesData = true →
    c.list = some l →
    Completes (.dataCompletion slot q bytes .ok) s (fun m => m.listIn slot c (slice (bytes ++ List.replicate l.2 0) 0 l.2))) ∧
  (∀ (s : State) (slot : SlotId) (q : PSlot) (bytes : List Byte) (c : Cmd), s.chip.cmd? slot = some c →
    c.takesData = true →
    Completes (.dataCompletion slot q bytes .poisoned) s (fun m => ((m.incF HPT_ERRCNT.POISONED q).endCmd slot (some stDataTransfer)).settle)) ∧
  (∀ (s : State) (slot : SlotId) (q : PSlot) (bytes : List Byte) (st : DataStatus), s.chip.cmd? slot = none →
    Completes (.dataCompletion slot q bytes st) s (fun m => m.incF HPT_LATECNT.LATE q)) ∧
  (∀ (s : State) (slot : SlotId) (c : Cmd), s.chip.cmd? slot = some c →
    c.takesData = true →
    Completes (.dataStallTimeout slot) s (fun m => ((m.incF HPT_ABORTCNT.STALL (m.slotOf c.fn)).endCmd slot (some stDataTransfer)).settle)) ∧
  (∀ (s : State) (slot : SlotId) (c : Cmd), s.chip.cmd? slot = some c →
    c.takesData = true →
    (s.chip.fn c.fn).pcie.ctoOff = false →
    Completes (.completionTimeout (.command slot)) s (fun m => ((m.incF HPT_ABORTCNT.CTO (m.slotOf c.fn)).endCmd slot (some stDataTransfer)).settle)) ∧
  (∀ (s : State) (slot : SlotId) (c : Cmd), s.chip.cmd? slot = some c →
    c.phase = .reserved →
    (s.chip.fn c.fn).pcie.ctoOff = false →
    Completes (.completionTimeout (.sqFetch slot)) s (fun m => 
      let mine := m.q.slots.filter fun e => decide (e.2.q = c.q ∧ e.2.burst = c.burst ∧ e.2.peer = none ∧ e.2.phase = .reserved)
      (mine.foldl (fun (m : Chip) e => m.freeSlot e.1) (m.incF HPT_ABORTCNT.CTO (m.slotOf c.fn))).finishDelete c.q)) ∧
  (∀ (s : State) (op len : Nat), s.chip.img.phase = .dma op len →
    (s.chip.fn 0).pcie.ctoOff = false →
    Completes (.completionTimeout .image) s (fun m => (m.incF HPT_ABORTCNT.CTO (m.slotOf 0)).imgEnd ⟨2, 0, 0⟩)) ∧
  (∀ (s : State) (q : PSlot), s.chip.portUsed q = true →
    s.chip.f HPT_PSTAT.STATE q = 2 →
    Completes (.creditStallTimeout q) s (fun m => 
      let m := ((m.setF HPT_EVT.CREDSTALL 1 q).emit (2 + q.val / 4) 0x2003 q).setF HPT_PSTAT.STATE 3 q
      let m := m.setPort q { m.port q with relinking := true }
      let fns := m.img.tables.fnsOnSlot q
      let mine := m.q.slots.filter fun e => decide (e.2.fn ∈ fns ∧ e.2.peer = none ∧ (e.2.phase = .accepted ∨ e.2.phase = .running)) &&
        e.2.givesData
      (mine.foldl (fun (m : Chip) e => if (m.cmd? e.1).isSome then m.endCmd e.1 (some stDataTransfer) else m) m).settle)) ∧
  (∀ (s : State) (q : PSlot), (s.chip.port q).relinking = true →
    s.chip.linkUp q = true →
    Completes (.creditRecoveryTimeout q) s (fun m => (((((m.setF HPT_EVT.SURPRISE 1 q).setF HPT_EVT.LINKDOWN 1 q).linkGone q 0).resetPortFns q)).startTraining q)) ∧
  (∀ (s : State) (f : Fn) (y : Fin 65536) (v : BitVec 16) (i : Nat), s.chip.fnSeen f = true →
    s.chip.reached f = true →
    y.val ≤ s.chip.img.tables.qcount f →
    s.chip.img.tables.qctxOf f y = some i →
    (s.chip.qc i).sqState = 1 →
    (s.chip.qc i).sqValid = true →
    v.toNat ≤ (s.chip.qc i).sqSize →
    Completes (.sqTailDoorbell f y v) s (fun m => m.setQc i ((m.qc i).ring v.toNat m.isl.dtc))) ∧
  (∀ (s : State) (f : Fn) (y : Fin 65536) (v : BitVec 16), s.chip.fnSeen f = false →
    Completes (.sqTailDoorbell f y v) s (fun m => m)) ∧
  (∀ (s : State) (f : Fn) (y : Fin 65536) (v : BitVec 16) (i : Nat), s.chip.fnSeen f = true →
    s.chip.reached f = true →
    y.val ≤ s.chip.img.tables.qcount f →
    s.chip.img.tables.qctxOf f y = some i →
    (s.chip.qc i).sqState ≠ 3 →
    (s.chip.qc i).cqValid = true →
    v.toNat ≤ (s.chip.qc i).cqSize →
    ringDist (s.chip.qc i).cqSize (s.chip.qc i).cqHead v.toNat ≤ ringDist (s.chip.qc i).cqSize (s.chip.qc i).cqHead (s.chip.qc i).cqTail →
    Completes (.cqHeadDoorbell f y v) s (fun m => m.setQc i { m.qc i with cqHead := v.toNat })) ∧
  (∀ (s : State) (h : Grp), s.chip.fetchStopped = false →
    Completes (.sqFetch h) s (fun m => 
      let fns := isort (fun a b => decide (a ≤ b))
        ((m.img.tables.funcs.map (·.func)).filter fun f => decide (m.slotOf f / 4 = h.val ∧ m.f HPT_PSTAT.STATE (m.slotOf f) ≠ 3) &&
          m.fnSeen f && (m.fn f).en && m.dmaOk f)
      m.serveHst h (fns.filter (tget 0 m.q.rrFn h ≤ ·) ++ fns.filter (· < tget 0 m.q.rrFn h)))) ∧
  (∀ (s : State) (slot : SlotId) (entry : List Byte) (c : Cmd), s.chip.cmd? slot = some c →
    c.phase = .reserved →
    Completes (.sqEntryArrival (slot, entry) []) s (fun m => 
      let m := m.putCmd slot { c with phase := .fetched, entry := slice (entry ++ List.replicate 64 0) 0 64, progress := m.isl.dtc }
      m.acceptAll.settle)) ∧
  (∀ (s : State) (slot : SlotId) (entry : List Byte), s.chip.cmd? slot = none →
    Completes (.sqEntryArrival (slot, entry) []) s (fun m => m.acceptAll.settle))

/-- Owner commands and SPDM requests complete: an owner command that passes its checks and is signed does its operation and gives result 1,
and one whose signature is bad is counted; a request at its stage or in its session is answered. The whole next state is given, so each
clause says its frame too. The rules of the rows: R91, R340, R341, R342, R343, R344. -/
def Obligations.OwnerAndSpdmCommandsComplete : Prop :=
  (∀ (s : State), Completes (.nonce) s (fun m => 
      let r := m.drawBytes 32
      r.2.setNonce (some (r.1, r.2.isl.dtc)))) ∧
  (∀ (s : State), Completes (.nonceExpiry) s (fun m => m.setNonce none)) ∧
  (∀ (s : State) (b : List Byte) (c : OwnerCheck), s.chip.ownerPasses c 1 →
    s.chip.nv.owner = [] →
    Completes (.take b) s (fun m => 
      if m.ownerSigned c then
        let m := m.ownerIdle.ownerShown 1
        (({ m with nv := { m.nv with owner := (slice c.bytes 0x30 96) } } : Chip).array .record).ownerEnd 1 1
      else m.ownerIdle.badSig 1)) ∧
  (∀ (s : State) (b : List Byte) (c : OwnerCheck), s.chip.ownerPasses c 1 →
    s.chip.nv.owner ≠ [] →
    Completes (.take b) s (fun m => 
      if m.ownerSigned c then
        let m := m.ownerIdle.ownerShown 1
        (m).ownerEnd 1 6
      else m.ownerIdle.badSig 1)) ∧
  (∀ (s : State) (b : List Byte) (c : OwnerCheck), s.chip.ownerPasses c 2 →
    (slice c.bytes 0x30 96).all (fun x => x = 0) = false →
    Completes (.transfer b) s (fun m => 
      if m.ownerSigned c then
        let m := m.ownerIdle.ownerShown 2
        ((({ m with nv := { m.nv with owner := (slice c.bytes 0x30 96) } } : Chip).array .record).endGrant).ownerEnd 2 1
      else m.ownerIdle.badSig 2)) ∧
  (∀ (s : State) (b : List Byte) (c : OwnerCheck), s.chip.ownerPasses c 2 →
    (slice c.bytes 0x30 96).all (fun x => x = 0) = true →
    s.chip.level ≠ 0 →
    Completes (.transfer b) s (fun m => 
      if m.ownerSigned c then
        let m := m.ownerIdle.ownerShown 2
        (m).ownerEnd 2 6
      else m.ownerIdle.badSig 2)) ∧
  (∀ (s : State) (b : List Byte) (c : OwnerCheck), s.chip.ownerPasses c 3 →
    s.chip.level < (fieldAt c.bytes 0x90 1) →
    (fieldAt c.bytes 0x90 1) ≤ 2 →
    Completes (.setLevel b) s (fun m => 
      if m.ownerSigned c then
        let m := m.ownerIdle.ownerShown 3
        (m.setLevel (fieldAt c.bytes 0x90 1)).ownerEnd 3 1
      else m.ownerIdle.badSig 3)) ∧
  (∀ (s : State) (b : List Byte) (c : OwnerCheck), s.chip.ownerPasses c 4 →
    (s.chip.nv.imgKeys[(fieldAt c.bytes 0x90 1)]?).map Prod.fst = some 0 →
    Completes (.imgkeySet b) s (fun m => 
      if m.ownerSigned c then
        let m := m.ownerIdle.ownerShown 4
        (({ m with nv := { m.nv with imgKeys := m.nv.imgKeys.set (fieldAt c.bytes 0x90 1) (1, (slice c.bytes 0x30 96)) } } : Chip).array .record).ownerEnd 4 1
      else m.ownerIdle.badSig 4)) ∧
  (∀ (s : State) (b : List Byte) (c : OwnerCheck), s.chip.ownerPasses c 4 →
    (s.chip.nv.imgKeys[(fieldAt c.bytes 0x90 1)]?).map Prod.fst = some 2 →
    Completes (.imgkeySet b) s (fun m => 
      if m.ownerSigned c then
        let m := m.ownerIdle.ownerShown 4
        (m).ownerEnd 4 6
      else m.ownerIdle.badSig 4)) ∧
  (∀ (s : State) (b : List Byte) (c : OwnerCheck), s.chip.ownerPasses c 5 →
    (s.chip.nv.imgKeys[(fieldAt c.bytes 0x90 1)]?).isSome = true →
    Completes (.imgkeyRevoke b) s (fun m => 
      if m.ownerSigned c then
        let m := m.ownerIdle.ownerShown 5
        (({ m with nv := { m.nv with imgKeys := m.nv.imgKeys.set (fieldAt c.bytes 0x90 1) (2, []) } } : Chip).array .record).ownerEnd 5 1
      else m.ownerIdle.badSig 5)) ∧
  (∀ (s : State) (b : List Byte) (c : OwnerCheck), s.chip.ownerPasses c 6 →
    s.chip.f KVT_STAT.STATE = 1 →
    c.alarmed = false →
    Completes (.unlock b) s (fun m => 
      if m.ownerSigned c then
        let m := m.ownerIdle.ownerShown 6
        (m.reauth false).ownerEnd 6 1
      else m.ownerIdle.badSig 6)) ∧
  (∀ (s : State) (b : List Byte) (c : OwnerCheck), s.chip.ownerPasses c 6 →
    s.chip.f KVT_STAT.STATE = 1 →
    c.alarmed = true →
    Completes (.unlock b) s (fun m => 
      if m.ownerSigned c then
        let m := m.ownerIdle.ownerShown 6
        (m).ownerEnd 6 6
      else m.ownerIdle.badSig 6)) ∧
  (∀ (s : State) (b : List Byte) (c : OwnerCheck), s.chip.ownerPasses c 7 →
    s.chip.level = 1 →
    1 ≤ fieldAt c.bytes 0x94 4 →
    fieldAt c.bytes 0x94 4 ≤ 86400 →
    Completes (.debugGrant b) s (fun m => 
      if m.ownerSigned c then
        let m := m.ownerIdle.ownerShown 7
        (({ m with tr := { m.tr with
        debug := (fieldAt c.bytes 0x90 1) % 4, debugEnd := m.isl.dtc + 62500000 * (fieldAt c.bytes 0x94 4) } } : Chip).emit 0 0x6506).ownerEnd 7 1
      else m.ownerIdle.badSig 7)) ∧
  (∀ (s : State) (b : List Byte) (c : OwnerCheck) (op : Nat), s.chip.ownerPasses c op →
    op = 0 ∨ 7 < op →
    Completes (.badop b) s (fun m => m.ownerIdle.ownerEnd op 7)) ∧
  (∀ (s : State), s.chip.scopes ≠ 0 →
    s.chip.level ≠ 0 →
    Completes (.debugRevoke) s (fun m => (({ m with tr := { m.tr with debug := 0, debugEnd := 0 } } : Chip).ptbStop 2 false).setF PTB_CORE.HALT 0)) ∧
  (∀ (s : State), s.chip.scopes ≠ 0 →
    s.chip.level ≠ 0 →
    Completes (.debugGrantExpiry) s (fun m => (({ m with tr := { m.tr with debug := 0, debugEnd := 0 } } : Chip).ptbStop 2 false).setF PTB_CORE.HALT 0)) ∧
  (∀ (s : State) (p : Fin 35), Completes (.spdmGetVersion p) s (fun m => (m.setPeer p { stage := 1, sessions := [] }).answer p "VERSION" [("version", 0x13)] [])) ∧
  (∀ (s : State) (p : Fin 35), 1 ≤ (s.chip.peer p).stage →
    Completes (.spdmGetCapabilities p) s (fun m => (m.setPeer p { m.peer p with stage := 2 }).answer p "CAPABILITIES"
      [("CERT", 1), ("CHAL", 1), ("MEAS", 2), ("ENCRYPT", 1), ("MAC", 1), ("KEY_EX", 1), ("PSK", 0), ("CSR", 0), ("SET_CERT", 0)] [])) ∧
  (∀ (s : State) (p : Fin 35), 2 ≤ (s.chip.peer p).stage →
    Completes (.spdmNegotiateAlgorithms p) s (fun m => (m.setPeer p { m.peer p with stage := 3 }).answer p "ALGORITHMS"
      [("ECDSA_P384", 1), ("SHA_384", 1), ("SECP384R1", 1), ("AES_256_GCM", 1)] [])) ∧
  (∀ (s : State) (p : Fin 35), (s.chip.peer p).stage < 3 →
    Completes (.spdmGetDigests p) s (fun m => m.answer p "ERROR" [] [])) ∧
  (∀ (s : State) (p : Fin 35), 3 ≤ (s.chip.peer p).stage →
    Completes (.spdmGetDigests p) s (fun m => m.answer p "DIGESTS" [("slotmask", 1)] (Config.sha384 m.certs))) ∧
  (∀ (s : State) (p : Fin 35) (offset len : Nat), 3 ≤ (s.chip.peer p).stage →
    Completes (.spdmGetCertificate p 0 offset len) s (fun m => m.answer p "CERTIFICATE" [("remainder", m.certs.length - (offset + len))] (slice m.certs offset len))) ∧
  (∀ (s : State) (p : Fin 35) (request : List Byte), 3 ≤ (s.chip.peer p).stage →
    Completes (.spdmChallenge p request) s (fun m => 
      let r := m.drawBytes 32
      let body := Config.sha384 m.certs
      r.2.answer p "CHALLENGE_AUTH" [] (r.1 ++ body ++ Config.ecdsaSign r.2.tr.aliasKey (request ++ r.1 ++ body)))) ∧
  (∀ (s : State) (p : Fin 35) (index : Nat) (request v : List Byte), 3 ≤ (s.chip.peer p).stage →
    index ≠ 0xFF →
    s.chip.measurement index = some v →
    Completes (.spdmGetMeasurements p index false request) s (fun m => m.answer p "MEASUREMENTS" [] (leBytes 1 index ++ v))) ∧
  (∀ (s : State) (p : Fin 35) (request : List Byte), 3 ≤ (s.chip.peer p).stage →
    Completes (.spdmGetMeasurements p 0xFF true request) s (fun m => 
      let body := [1, 2, 3, 4, 5, 6].flatMap fun i => leBytes 1 i ++ (m.measurement i).getD []
      let r := m.drawBytes 32
      r.2.answer p "MEASUREMENTS" [] (r.1 ++ body ++ Config.ecdsaSign r.2.tr.aliasKey (request ++ r.1 ++ body)))) ∧
  (∀ (s : State) (p : Fin 35) (id : Nat) (request : List Byte), 3 ≤ (s.chip.peer p).stage →
    (s.chip.peer p).sessions.length < sessionLimit p →
    (s.chip.peer p).sessions.any (fun e => decide (e.id = id)) = false →
    Completes (.spdmKeyExchange p id request) s (fun m => 
      let x := m.peer p
      let r := (m.setPeer p { x with sessions := x.sessions ++ [{ id := id, established := false, updates := 0 }] }).drawBytes 32
      r.2.answer p "KEY_EXCHANGE_RSP" [] (r.1 ++ [] ++ Config.ecdsaSign r.2.tr.aliasKey (request ++ r.1 ++ [])))) ∧
  (∀ (s : State) (p : Fin 35) (id : Nat) (request : List Byte), 3 ≤ (s.chip.peer p).stage →
    sessionLimit p ≤ (s.chip.peer p).sessions.length →
    Completes (.spdmKeyExchange p id request) s (fun m => m.answer p "ERROR" [] [])) ∧
  (∀ (s : State) (p : Fin 35) (id : Nat), (s.chip.peer p).sessions.any (fun e => decide (e.id = id) && !e.established) = true →
    Completes (.spdmFinish p id) s (fun m => (m.setPeer p ((m.peer p).modSession id fun e => { e with established := true })).answer p "FINISH_RSP" [] [])) ∧
  (∀ (s : State) (p : Fin 35) (id : Nat), (s.chip.peer p).has id = true →
    Completes (.spdmKeyUpdate p id) s (fun m => (m.setPeer p ((m.peer p).modSession id fun e => { e with updates := e.updates + 1 })).answer p "KEY_UPDATE_ACK" [] [])) ∧
  (∀ (s : State) (p : Fin 35) (id : Nat), (s.chip.peer p).has id = true →
    Completes (.spdmHeartbeat p id) s (fun m => m.answer p "HEARTBEAT_ACK" [] [])) ∧
  (∀ (s : State) (p : Fin 35) (id : Nat), (s.chip.peer p).has id = false →
    Completes (.spdmHeartbeat p id) s (fun m => m.answer p "ERROR" [] [])) ∧
  (∀ (s : State) (p : Fin 35) (id : Nat), (s.chip.peer p).has id = true →
    Completes (.spdmEndSession p id) s (fun m => 
      let x := m.peer p
      (m.setPeer p { x with sessions := x.sessions.filter (·.id ≠ id) }).answer p "END_SESSION_ACK" [] [])) ∧
  (∀ (s : State) (p : Fin 32) (id : Nat) (q : PSlot) (stream : Fin 9) (sub : Fin 6) (keyset : Fin 2), (s.chip.peer p).has id = true →
    s.chip.portPf q = some p.val →
    Completes (.spdmVendorDefined ⟨p.val, by omega⟩ id (.keyProg q ⟨stream, sub⟩ keyset)) s (fun m => (m.keyProg q stream sub keyset).answer p "VENDOR_DEFINED_RESPONSE" [] [])) ∧
  (∀ (s : State) (p : Fin 32) (id : Nat) (q : PSlot) (stream : Fin 9) (sub : Fin 6) (keyset : Fin 2), (s.chip.peer p).has id = true →
    s.chip.portPf q = some p.val →
    Completes (.spdmVendorDefined ⟨p.val, by omega⟩ id (.setGo q ⟨stream, sub⟩ keyset)) s (fun m => (m.kSetGo q stream sub keyset).answer p "VENDOR_DEFINED_RESPONSE" [] [])) ∧
  (∀ (s : State) (p : Fin 35) (id : Nat) (km : IdeKm), (s.chip.peer p).has id = true →
    32 ≤ p.val →
    Completes (.spdmVendorDefined p id km) s (fun m => m.answer p "ERROR" [] []))

/-- Starts, resets, controllers' enable and shutdown, epoch switches, checkpoints, the sequencer's inputs and power-fail lines complete: each
command has the effect named here. The whole next state is given, so each clause says its frame too. The rules of the rows: R76, R78,
R158, R443, R445, R446, R447, R453, R454, R461, R463, R465, R466, R472, R473, R475, R477, R478. -/
def Obligations.StartResetAndSequencingEventsComplete : Prop :=
  (∀ (s : State) (side : Fin 2) (twinPres : Bool) (selfTest : Fin 8) (metaOk : Bool), s.chip.st.step = 0 →
    s.chip.st.warm = false →
    Completes (.coldStart side twinPres selfTest metaOk) s (fun m => 
      let m := ({ m with st := { m.st with selfTest := selfTest.val, metaOk := metaOk } } : Chip).startCold side twinPres
      (m.setF PWR_CALMCFG.ADDR (0x1D + side.val)).late)) ∧
  (∀ (s : State), Completes (.porstAssert) s (fun m => m.cold)) ∧
  (∀ (s : State) (selfTest : Fin 8) (metaOk : Bool), 3 ≤ s.chip.st.step →
    s.chip.plp.flushing = false →
    s.chip.f PLP_STAT.STATE ≠ 3 →
    Completes (.warmReset selfTest metaOk) s (fun m => 
      let m := { m with st := { m.st with selfTest := selfTest.val, metaOk := metaOk } }
      (m.warmStart 0).late)) ∧
  (∀ (s : State), 3 ≤ s.chip.st.step →
    s.chip.plp.flushing = false →
    s.chip.f PLP_STAT.STATE ≠ 3 →
    s.chip.pulseRuns = false →
    Completes (.mgtWatchdogExpiry) s (fun m => (m.warmStart 1).late)) ∧
  (∀ (s : State), 3 ≤ s.chip.st.step →
    s.chip.plp.flushing = false →
    s.chip.f PLP_STAT.STATE ≠ 3 →
    Completes (.nvmSubsystemReset) s (fun m => (m.warmStart 2).late)) ∧
  (∀ (s : State), 3 ≤ s.chip.st.step →
    s.chip.plp.flushing = true →
    s.chip.f PLP_STAT.STATE ≠ 3 →
    Completes (.nvmSubsystemReset) s (fun m => ({ m with st := { m.st with pendWarm := some 2 } } : Chip).late)) ∧
  (∀ (s : State) (f : Fn), s.chip.f GEN_STAT.STRUCT_OK = 1 →
    s.chip.fnLive f = true →
    s.chip.linkUp (s.chip.slotOf f) = true →
    Completes (.configRequest f .read) s (fun m => m.send (.config f 0 (m.configProps f)))) ∧
  (∀ (s : State) (f : Fn) (c : CfgReq), s.chip.f GEN_STAT.STRUCT_OK = 1 →
    s.chip.fnLive f = false →
    Completes (.configRequest f c) s (fun m => m.send (.config f 2 []))) ∧
  (∀ (s : State) (f : Fn) (c : CfgReq), s.chip.f GEN_STAT.STRUCT_OK = 0 →
    s.chip.f GEN_STAT.RECOVERY = 0 →
    s.chip.f TRS_STAT.ROMREC = 0 →
    s.chip.trained f = true →
    Completes (.configRequest f c) s (fun m => m.send (.config f 1 []))) ∧
  (∀ (s : State) (f : Fn) (n : Fin 4097), s.chip.f GEN_STAT.STRUCT_OK = 1 →
    s.chip.fnLive f = true →
    s.chip.linkUp (s.chip.slotOf f) = true →
    s.chip.portPf (s.chip.slotOf f) = some f.val →
    Completes (.configRequest f (.numVfs n)) s (fun m => 
      let vfs := m.img.tables.vfsOf f
      let m := (vfs.drop n.val).foldl (fun (m : Chip) v => m.resetFn false v) m
      let m := m.setFn f { m.fn f with numVfs := min n.val vfs.length }
      m.settle.send (.config f 0 []))) ∧
  (∀ (s : State) (f : Fn) (mps mrrs : Fin 8), s.chip.f GEN_STAT.STRUCT_OK = 1 →
    s.chip.fnLive f = true →
    s.chip.linkUp (s.chip.slotOf f) = true →
    mps.val ≤ 2 →
    mrrs.val ≤ 5 →
    Completes (.configRequest f (.deviceControl mps mrrs)) s (fun m => (m.modPcie f fun p => { p with mps := mps.val, mrrs := mrrs.val }).send (.config f 0 []))) ∧
  (∀ (s : State) (f : Fn) (asq acq : BitVec 64) (asqs acqs : Fin 4096) (wrr : Bool), s.chip.reached f = true →
    (s.chip.fn f).en = false →
    (s.chip.fn f).enHeld = false →
    s.chip.st.step ≠ 14 →
    Completes (.controllerEnable f asq acq asqs acqs wrr) s (fun m => 
      let k := 262144 + f.val
      let m := m.setFn f { m.fn f with
        enHeld := true, wrr := wrr, anaNotices := true, zoneNotices := true, aqa := asqs + 2 ^ 16 * acqs, asq := asq.toNat / 4096 * 4096,
        acq := acq.toNat / 4096 * 4096, cc := 0x460001 + 2 ^ 11 * b1 wrr }
      let m := m.setQc k { m.qc k with
        sqBase := asq.toNat / 4096 * 4096, sqValid := true, sqSize := asqs.val, sqHead := 0, sqTail := 0, sqState := 3, sqCq := k
        cqBase := acq.toNat / 4096 * 4096, cqValid := true, cqIen := true, cqPhase := 1, cqSize := acqs.val, cqHead := 0, cqTail := 0, cqIv := 0
        func := f.val, qid := 0 }
      m)) ∧
  (∀ (s : State) (f : Fn) (asq acq : BitVec 64) (asqs acqs : Fin 4096) (wrr : Bool), s.chip.reached f = true →
    (s.chip.fn f).en = false →
    (s.chip.fn f).enHeld = false →
    s.chip.st.step = 14 →
    Completes (.controllerEnable f asq acq asqs acqs wrr) s (fun m => 
      let k := 262144 + f.val
      let m := m.setFn f { m.fn f with
        enHeld := true, wrr := wrr, anaNotices := true, zoneNotices := true, aqa := asqs + 2 ^ 16 * acqs, asq := asq.toNat / 4096 * 4096,
        acq := acq.toNat / 4096 * 4096, cc := 0x460001 + 2 ^ 11 * b1 wrr }
      let m := m.setQc k { m.qc k with
        sqBase := asq.toNat / 4096 * 4096, sqValid := true, sqSize := asqs.val, sqHead := 0, sqTail := 0, sqState := 3, sqCq := k
        cqBase := acq.toNat / 4096 * 4096, cqValid := true, cqIen := true, cqPhase := 1, cqSize := acqs.val, cqHead := 0, cqTail := 0, cqIv := 0
        func := f.val, qid := 0 }
      m.fnReady f)) ∧
  (∀ (s : State) (f : Fn), (s.chip.fn f).enHeld = true →
    Completes (.controllerReadyTimeout f) s (fun m => m.setFn f { m.fn f with cfs := true })) ∧
  (∀ (s : State) (f : Fn), s.chip.reached f = true →
    (s.chip.fn f).en = true →
    Completes (.controllerReset f) s (fun m => (m.resetFn true f).late)) ∧
  (∀ (s : State) (f : Fn) (abrupt : Bool), s.chip.reached f = true →
    (s.chip.fn f).en = true →
    Completes (.shutdownNotification f abrupt) s (fun m => 
      let x := m.fn f
      let shn := if abrupt then 2 else 1
      (m.setFn f { x with shn := shn, shst := 1, cc := x.cc % 2 ^ 14 + 2 ^ 14 * shn + x.cc / 2 ^ 16 * 2 ^ 16 }).late)) ∧
  (∀ (s : State) (twinShut : Bool), s.chip.st.step = 14 →
    s.chip.allShut = true →
    s.chip.aloneNow = true ∨ twinShut = true →
    s.chip.st.clean = false →
    Completes (.cleanShutdown twinShut) s (fun m => 
      let m := { m with st := { m.st with shutting := true } }
      ((m.stagedRows.foldl (fun (m : Chip) e => m.startSpill e.1 e.2.1) m).cleanPoll).late)) ∧
  (∀ (s : State), s.chip.st.step = 14 →
    (s.chip.kslot 8193).state = 1 →
    Completes (.checkpoint) s (fun m => 
      let n := m.st.ckptSeq + 1
      let m := m.writeDeltas true
      let m := { m with st := { m.st with ckptSeq := n, roots := (m.st.roots ++ [n]).drop (m.st.roots.length + 1 - 4), erases := [] } }
      (if (rootPlace n).2 = 1 then m.array (.erase 512 (rootPlace n).1) else m).array (.program 512 (rootPlace n).1 (rootRecord n)))) ∧
  (∀ (s : State), s.chip.st.step = 14 →
    (s.chip.kslot 8193).state ≠ 1 →
    Completes (.checkpoint) s (fun m => m)) ∧
  (∀ (s : State) (i : Isl) (sw : Switch), s.chip.img.switch = some sw →
    s.chip.islServes i = true →
    Completes (.epochLoaded i) s (fun m => ({ m with img := { m.img with switch := some { sw with loaded := sw.loaded ||| 2 ^ i.val } } } : Chip).switchPoll.late)) ∧
  (∀ (s : State) (i : Isl) (sw : Switch), s.chip.img.switch = some sw →
    sw.stamping = true →
    s.chip.islServes i = true →
    i.val < 12 ∨ s.chip.isl.flight = none →
    Completes (.epochCommitAck i) s (fun m => (m.commitAck i.val sw.epoch).switchPoll.late)) ∧
  (∀ (s : State) (sw : Switch), s.chip.img.switch = some sw →
    Completes (.epochSwitchTimeout) s (fun m => ((m.rollback 0xD).emit 1 0x3004 (allIslands - m.f IMG_ACKMASK.ACK)).late)) ∧
  (∀ (s : State) (z : ZoneId) (r d b n : Nat), (s.chip.stagedStripes z).flatMap s.chip.openRows = [(z.val, r)] →
    s.chip.spilling z r = false →
    (s.chip.row z r).plan = some (d, b, n) →
    Completes (.spillProgramDone z) s (fun m => 
      let m := m.setRow z r { m.row z r with plan := none, spill := some (d, b, n) }
      let m := m.delta 0x09 z (some z.val) (leBytes 2 r ++ leBytes 6 0 ++ leBytes 8 (d + b * 2 ^ 12 + 2 ^ 25 * n))
      let m := m.releaseBuffers (rowWork z r)
      let m := if m.paired then m.sendFrame 0x07 (some z.val) none (leBytes 2 r ++ leBytes 1 1 ++ leBytes 4 (m.zone z).pwp) [] else m
      let m := (m.setZone z { m.zone z with spilled := true }).zoneDelta z
      ((m.incF ZNE_SPILLCNT.SPILLS).emit 10 0x403C).late)) ∧
  (∀ (s : State), s.chip.f PSQ_STAT.SYNC_PULL = 0 →
    s.chip.f PSQ_STAT.DIR ≠ 3 →
    Completes (.seqFront) s (fun m => 
      let us := min ((m.isl.dtc - m.psq.frontAt) * 2 / 125) 65535
      let dir := m.f PSQ_STAT.DIR
      let st := m.f PSQ_STAT.S
      let m := (m.setF PSQ_FRONT.LAST_US us).setF PSQ_FRONT.MAX_US (max us (m.f PSQ_FRONT.MAX_US))
      let m := { m with psq := { m.psq with frontAt := m.isl.dtc } }
      let m := (((m.setF PSQ_STAT.S (if dir = 2 then st - 1 else st + 1)).setF PSQ_STAT.SEQOUT 0).setF PSQ_STAT.SEQIN 0).setF PSQ_STAT.SYNC_PULL 1
      (m.upPoll.downPoll).late)) ∧
  (∀ (s : State), Completes (.seqInAssert) s (fun m => (m.setF PSQ_STAT.SEQIN 1).upPoll.late)) ∧
  (∀ (s : State) (init : List (Fin 1024)) (code : Fin 1024) (r : RailRec), init.length = 15 →
    s.chip.psq.seq.rails = [r] →
    r.rail = 15 →
    Completes (.vsSample (init ++ [code])) s (fun m => 
      let m := init.zipIdx.foldl (fun (m : Chip) e => m.setF PSQ_VS.CODE e.1.val e.2) m
      let m := m.setF PSQ_VS.CODE code.val 15
      let x := m.rail 15
      let gap := if code.val < r.vsNominal then r.vsNominal - code.val else code.val - r.vsNominal
      let ok := decide (gap * 100 ≤ m.f PSQ_CFG.VS_TOL * r.vsNominal)
      let x := { x with
        inTol := if ok then min (x.inTol + 1) 3 else 0
        outTol := if ok then 0 else min (x.outTol + 1) 3
        low := if code.val < r.vsDischarge then min (x.low + 1) 3 else 0 }
      (((m.setRail 15 x).setF PSQ_VS.INRANGE (b1 (decide (2 ≤ x.inTol))) 15).judgeNow 15).late)) ∧
  (∀ (s : State) (r : Rail) (v : Bool), Completes (.pgChange r v) s (fun m => ((m.setBit PSQ_RAILS.PG r v).judgeNow r).late)) ∧
  (∀ (s : State) (r : Rail) (x : RailRec), s.chip.railRec? r = some x →
    (s.chip.rail r).state = 1 →
    s.chip.f PSQ_STAT.DIR = 0 →
    x.pg = true →
    Completes (.pgTimeout r) s (fun m => (m.seqFault PSQ_FAULT.PGTIMEOUT 0 r).late)) ∧
  (∀ (s : State) (r : Rail) (x : RailRec), s.chip.railRec? r = some x →
    (s.chip.rail r).state = 1 →
    s.chip.f PSQ_STAT.DIR = 0 →
    x.pg = false →
    x.vs = false →
    Completes (.pgTimeout r) s (fun m => (m.setRail r { m.rail r with state := 2 }).upPoll.late)) ∧
  (∀ (s : State) (b : Bool), s.chip.f PWR_STAT.STATE ≤ 1 →
    s.chip.f PLP_STAT.STATE ≤ 1 →
    s.chip.f PLP_STAT.LINGER = 0 →
    s.chip.plp.first = none →
    Completes (.pfailAssert b) s (fun m => ((m.setF (pfailField b) 1).pfailFirst b).late)) ∧
  (∀ (s : State) (t : Nat), s.chip.plp.first = some t →
    Completes (.discrepancyTimeout) s (fun m => m.discrepancy.late))

/-- What the twin link receives completes: flits, a sub-link that comes up or goes down, and each type of frame, in order on a sub-link under
keys or in the clear before them, has the effect named here; and a barrier that waits for nobody ends (R58). The whole next state is
given, so each clause says its frame too. The rules of the rows: R54, R57, R347, R405, R407, R411, R412, R415, R420, R423, R424, R425,
R426, R427, R429, R430, R433, R434, R440. -/
def Obligations.TwinLinkFramesComplete : Prop :=
  (∀ (s : State) (b : Barrier), s.chip.isl.flight = some b →
    b.src = .cw →
    (s.chip.barMerge b).acks = 0xFFF →
    b.twin = false ∨ b.twinAck = true →
    Completes (.barrierComplete) s (fun m => 
      let m : Chip := { m with isl := { m.isl with flight := some (m.barMerge b) } }
      (m.barEnd 1).switchPoll.late)) ∧
  (∀ (s : State) (b : Barrier), s.chip.isl.flight = some b →
    b.src = .cw →
    (s.chip.barMerge b).acks ≠ 0xFFF ∨ (b.twin = true ∧ b.twinAck = false) →
    Completes (.barrierComplete) s (fun m => ({ m with isl := { m.isl with flight := some (m.barMerge b) } } : Chip).switchPoll.late)) ∧
  (∀ (s : State), s.chip.isl.flight = none →
    Completes (.barrierComplete) s (fun m => m.late)) ∧
  (∀ (s : State) (sub : SubLink) (bytes : List Byte) (found : Option TwinEvidence), (s.chip.sub sub).up = true →
    Completes (.flitReceive sub bytes found) s (fun m => 
      let x := m.sub sub
      let b := fit 256 (Config.flitCorrect bytes)
      let first := fieldAt b 0 2
      (if fieldAt b 242 8 ≠ crc64 (b.take 242) then
        let m := (m.setSub sub { x with badFlits := x.badFlits + 1, rxPart := [], rxSync := false }).incF TWN_SLERR.CRC sub
        if 16 ≤ x.badFlits + 1 then m.subDown sub else if x.rxPart ≠ [] then m.sendAck sub true else m
      else
        let m := m.setSub sub { x with badFlits := 0 }
        let m := if x.rxSync && decide (x.rxPart ≠ []) then
            m.frameBytesIn sub found 1 (if first ≤ 239 then slice b 2 first else slice b 2 240) else m
        if 239 < first then m
        else
          let m := if (m.sub sub).rxPart ≠ [] then m.loseFrame sub else m
          let y := m.sub sub
          if y.up then (m.setSub sub { y with rxPart := [], rxSync := true }).frameBytesIn sub found 8 (slice b (2 + first) (240 - first))
          else m).late)) ∧
  (∀ (s : State) (sub : SubLink) (full : Bool), (s.chip.sub sub).up = false →
    s.chip.linkEnabled sub = true →
    s.chip.islServes 27 = true →
    s.chip.twnIdle = false →
    (s.chip.sub sub).keyNum = 0 →
    Completes (.sublinkUp sub full) s (fun m => 
      let x := m.sub sub
      let m := m.setSub sub { x with up := true, badFlits := 0 }
      let m := ((m.setF TWN_SLSTAT.RATE (if full then 2 else 1) sub).setBit TWN_STAT.UP sub true).emit 27 0x6902
      let m := (m.setSub sub { m.sub sub with txSeq := 0, expect := 1, replay := [], queue := [] }).sendOn sub (TxFrame.make 0x01 none none [] m.helloBody)
      let y := m.sub (1 - sub.val)
      let m := if y.up then m
        else (m.setSub sub { m.sub sub with queue := y.queue ++ (m.sub sub).queue }).setSub (1 - sub.val) { y with queue := [] }
      (m.pumpSub sub).late)) ∧
  (∀ (s : State) (sub : SubLink), (s.chip.sub sub).up = true →
    Completes (.sublinkBlockLockLoss sub) s (fun m => (m.subDown sub).late)) ∧
  (∀ (s : State) (r : RxFrame) (body : List Byte), s.chip.inClear r →
    Completes (.hello r body) s (fun m => 
      let m := m.expectNext r.sub
      let m := m.helloIn r.sub body
      (m.sendAck r.sub false).late)) ∧
  (∀ (s : State) (r : RxFrame) (msg index : Fin 65536) (last : Bool) (msgLen : BitVec 32) (fragLen : Fin 65536) (body : List Byte) (found : Option TwinEvidence), s.chip.inClear r →
    Completes (.spdmFrame r msg index last msgLen fragLen body found) s (fun m => 
      let m := m.expectNext r.sub
      let m := m.spdmFrameIn r.sub msg index last msgLen.toNat fragLen body found
      (m.sendAck r.sub false).late)) ∧
  (∀ (s : State) (r : RxFrame) (body : List Byte), s.chip.inOrder r →
    Completes (.hello r body) s (fun m => 
      let m := m.expectNext r.sub
      let m := m.helloIn r.sub body
      (m.sendAck r.sub false).late)) ∧
  (∀ (s : State) (r : RxFrame) (dtc : BitVec 64) (state devbaro epoch : Fin 256), s.chip.verified r →
    s.chip.tw.heldHb = false →
    Completes (.heartbeat r dtc state devbaro epoch) s (fun m => ({ m with tw := { m.tw with hbSeen := true, peerState := state.val, peerDtc := dtc.toNat } }))) ∧
  (∀ (s : State) (r : RxFrame) (ackSeq credSeq : BitVec 64) (nak : Bool), s.chip.verified r →
    Completes (.ack r ackSeq credSeq nak) s (fun m => (m.ackIn r.sub ackSeq.toNat credSeq.toNat nak).late)) ∧
  (∀ (s : State) (r : RxFrame) (row : Fin 1024) (offset : BitVec 32) (body : List Byte) (x : MirRow), s.chip.inOrder r →
    tfind s.chip.tw.mirror (rowKey ((frameZone r).getD 0) row) = some x →
    Completes (.mirror r row offset body) s (fun m => 
      let m := m.expectNext r.sub
      let m := 
        let z := (frameZone r).getD 0
        let have_ := (x.have_.filter fun e => decide (e ≠ (offset.toNat, body.length))) ++ [(offset.toNat, body.length)]
        ({ m with tw := { m.tw with
          mirror := tput m.tw.mirror (rowKey z row) { x with have_ := have_ }
          mirData := memSetBytes m.tw.mirData (2 ^ 33 * z + 4194304 * row.val + offset.toNat) body } } : Chip).showMirror
      (m.sendAck r.sub false).late)) ∧
  (∀ (s : State) (r : RxFrame) (row : Fin 1024) (offset : BitVec 32) (body : List Byte), s.chip.inOrder r →
    tfind s.chip.tw.mirror (rowKey ((frameZone r).getD 0) row) = none →
    s.chip.img.tables.poolOf 36 = none →
    Completes (.mirror r row offset body) s (fun m => 
      let m := m.expectNext r.sub
      (m.setSub r.sub { m.sub r.sub with waits := [.mirror r row offset body] }).late)) ∧
  (∀ (s : State) (r : RxFrame) (cwp rwp pfp : BitVec 32) (flags : Fin 65536) (body : List Byte) (n : Chip), s.chip.inOrder r →
    (s.chip.fresh.expectNext r.sub.val).commitIn ((frameZone r).getD 0) cwp.toNat rwp.toNat pfp.toNat flags.val ((s.chip.fresh.expectNext r.sub.val).arriveBy r.slack) body = (n, true) →
    Completes (.commit r cwp rwp pfp flags body) s (fun m => 
      let m := m.expectNext r.sub
      let m := n
      (m.sendAck r.sub false).late)) ∧
  (∀ (s : State) (r : RxFrame) (row : Fin 1024) (pwp from_ : BitVec 32), s.chip.inOrder r →
    Completes (.release r row 0 pwp from_) s (fun m => 
      let m := m.expectNext r.sub
      let m := let z := (frameZone r).getD 0
      let x := m.zone z
      ((m.setZone z { x with pwp := pwp.toNat, rows := max x.rows (row.val + 1) }).mirFree (rowKey z row)).showMirror
      (m.sendAck r.sub false).late)) ∧
  (∀ (s : State) (r : RxFrame) (row : Fin 1024) (pwp from_ : BitVec 32), s.chip.inOrder r →
    Completes (.release r row 1 pwp from_) s (fun m => 
      let m := m.expectNext r.sub
      let m := (m.mirFree (rowKey ((frameZone r).getD 0) row)).showMirror
      (m.sendAck r.sub false).late)) ∧
  (∀ (s : State) (r : RxFrame) (body : List Byte), s.chip.inOrder r →
    Completes (.delta r body) s (fun m => 
      let m := m.expectNext r.sub
      let m := m.deltaRecords body.length body
      (m.sendAck r.sub false).late)) ∧
  (∀ (s : State) (r : RxFrame) (row : Fin 1024) (member : Fin 18) (q : Bool) (offset : BitVec 32) (body : List Byte) (x : MirRow), s.chip.inOrder r →
    tfind s.chip.tw.mirror (rowKey ((frameZone r).getD 0) row) = some x →
    Completes (.parity r row member q offset body) s (fun m => 
      let m := m.expectNext r.sub
      let m := 
        let u := (tfind x.parity member).getD []
        { m with tw := { m.tw with
          mirror := tput m.tw.mirror (rowKey ((frameZone r).getD 0) row) { x with
            parity := tput x.parity member (fit offset.toNat u ++ body ++ u.drop (offset.toNat + body.length)) } } }
      (m.sendAck r.sub false).late)) ∧
  (∀ (s : State) (r : RxFrame) (q : FwdOp), s.chip.inOrder r →
    q.flags.val < 16 →
    q.die.val < 3072 →
    q.block.val < s.chip.flash.userBlocks →
    q.row.val < 1024 →
    q.tenant.val < 4096 →
    s.chip.drives q.die = true →
    2 ≤ s.chip.f FCH_DIE.STATE q.die →
    s.chip.f FCH_DIE.STATE q.die ≤ 5 →
    q.page.val < 16 ∧ q.cw.val < 16 ∨ q.page.val = 255 ∧ q.cw.val = 255 →
    Completes (.fwdreqRead r q) s (fun m => 
      let m := m.expectNext r.sub
      let m := let f : FwdIn := {
        id := q.req.toNat, op := 1, flags := q.flags.val, zone := (frameZone r).getD 0, row := q.row.val, die := q.die.val, block := q.block.val
        page := q.page.val, cw := q.cw.val, tenant := q.tenant.val }
      let m : Chip := { m with tw := { m.tw with fwdIns := tput m.tw.fwdIns q.req.toNat f } }
      let u : DUnit := { DUnit.make q.die.val .read (.forwarded q.req.toNat) Config.fwdClass.val (m.arriveBy r.slack) q.block.val q.row.val q.page.val with
        tenant := q.tenant.val, internal := decide (q.tenant.val = 0xFFFF), slc := bitOf q.flags.val 0
        cw := if q.page.val = 255 then 0 else q.cw.val % 4, ncw := if q.page.val = 255 then (if bitOf q.flags.val 0 then 16 else 64) else q.cw.val / 4 + 1 }
      (m.newUnit u).enqueueDie q.die.val
      (m.sendAck r.sub false).late)) ∧
  (∀ (s : State) (r : RxFrame) (q : FwdOp), s.chip.inOrder r →
    q.flags.val < 16 →
    q.die.val < 3072 →
    q.block.val < s.chip.flash.userBlocks →
    q.row.val < 1024 →
    q.tenant.val < 4096 →
    s.chip.drives q.die = true →
    2 ≤ s.chip.f FCH_DIE.STATE q.die →
    s.chip.f FCH_DIE.STATE q.die ≤ 5 →
    Completes (.fwdreqProgram r q) s (fun m => 
      let m := m.expectNext r.sub
      let m := let f : FwdIn := {
        id := q.req.toNat, op := 2, flags := q.flags.val, zone := (frameZone r).getD 0, row := q.row.val, die := q.die.val, block := q.block.val
        page := q.page.val, cw := q.cw.val, tenant := q.tenant.val }
      let m : Chip := { m with tw := { m.tw with fwdIns := tput m.tw.fwdIns q.req.toNat f } }
      let u : DUnit := { DUnit.make q.die.val .program (.forwarded q.req.toNat) Config.fwdClass.val (m.arriveBy r.slack) q.block.val q.row.val q.page.val with
        tenant := q.tenant.val, internal := decide (q.tenant.val = 0xFFFF), slc := bitOf q.flags.val 0
        cw := if q.page.val = 255 then 0 else q.cw.val % 4, ncw := if q.page.val = 255 then (if bitOf q.flags.val 0 then 16 else 64) else q.cw.val / 4 + 1 }
      (m.newUnit u).enqueueDie q.die.val
      (m.sendAck r.sub false).late)) ∧
  (∀ (s : State) (r : RxFrame) (q : FwdOp), s.chip.inOrder r →
    q.flags.val < 16 →
    q.die.val < 3072 →
    q.block.val < s.chip.flash.userBlocks →
    q.row.val < 1024 →
    q.tenant.val < 4096 →
    s.chip.drives q.die = true →
    2 ≤ s.chip.f FCH_DIE.STATE q.die →
    s.chip.f FCH_DIE.STATE q.die ≤ 5 →
    Completes (.fwdreqErase r q) s (fun m => 
      let m := m.expectNext r.sub
      let m := let f : FwdIn := {
        id := q.req.toNat, op := 3, flags := q.flags.val, zone := (frameZone r).getD 0, row := q.row.val, die := q.die.val, block := q.block.val
        page := q.page.val, cw := q.cw.val, tenant := q.tenant.val }
      let m : Chip := { m with tw := { m.tw with fwdIns := tput m.tw.fwdIns q.req.toNat f } }
      let u : DUnit := { DUnit.make q.die.val .erase (.forwarded q.req.toNat) Config.fwdClass.val (m.arriveBy r.slack) q.block.val q.row.val q.page.val with
        tenant := q.tenant.val, internal := decide (q.tenant.val = 0xFFFF), slc := bitOf q.flags.val 0
        cw := if q.page.val = 255 then 0 else q.cw.val % 4, ncw := if q.page.val = 255 then (if bitOf q.flags.val 0 then 16 else 64) else q.cw.val / 4 + 1 }
      (m.newUnit u).enqueueDie q.die.val
      (m.sendAck r.sub false).late)) ∧
  (∀ (s : State) (r : RxFrame) (req offset : BitVec 32) (body : List Byte) (sc : Nat × Cmd), s.chip.inOrder r →
    req.toNat < 65536 →
    s.chip.q.slots.find? (fun e => decide (e.2.peer = some req.toNat)) = some sc →
    sc.2.writing = true →
    sc.2.staged = false →
    Completes (.fwddata r req offset body) s (fun m => 
      let m := m.expectNext r.sub
      let m := m.fwdStored sc.1 sc.2 offset.toNat body
      (m.sendAck r.sub false).late)) ∧
  (∀ (s : State) (r : RxFrame) (req : BitVec 32) (status : Fin 256) (bits_ : Fin 65536) (busyUs : BitVec 32) (f : Fwd), s.chip.inOrder r →
    tfind s.chip.tw.fwds req.toNat = some f →
    f.unit.kind = .program →
    status = 0 →
    Completes (.fwddone r req status bits_ busyUs) s (fun m => 
      let m := m.expectNext r.sub
      let m := ({ m with tw := { m.tw with fwds := tdel m.tw.fwds req.toNat } } : Chip).progDone f.unit (usTicks busyUs.toNat)
      (m.sendAck r.sub false).late)) ∧
  (∀ (s : State) (r : RxFrame) (fn : Fn) (queue : BitVec 32) (slot : SlotId) (tenant : Ten) (cls : Grp) (flags level : Fin 256) (entry : List Byte) (c : Chip), s.chip.inOrder r →
    (s.chip.fresh.expectNext r.sub.val).fwdCmdIn r fn queue.toNat slot tenant cls flags level entry = some c →
    Completes (.fwdcmd r fn queue slot tenant cls flags level entry) s (fun m => 
      let m := m.expectNext r.sub
      let m := c
      (m.sendAck r.sub false).late)) ∧
  (∀ (s : State) (r : RxFrame) (fn : Fn) (queue : BitVec 32) (slot : SlotId) (tenant : Ten) (cls : Grp) (flags level : Fin 256) (entry : List Byte), s.chip.inOrder r →
    s.chip.deviceSlot = none →
    Completes (.fwdcmd r fn queue slot tenant cls flags level entry) s (fun m => 
      let m := m.expectNext r.sub
      (m.setSub r.sub { m.sub r.sub with waits := [.fwdcmd r fn queue slot tenant cls flags level entry] }).late)) ∧
  (∀ (s : State) (r : RxFrame) (slot : SlotId) (status : Fin 65536) (dw0 : BitVec 32) (c : Cmd), s.chip.inOrder r →
    s.chip.cmd? slot = some c →
    c.fwd = true →
    opcodeOf c.entry ≠ 0x02 →
    Completes (.fwdcpl r slot status dw0) s (fun m => 
      let m := m.expectNext r.sub
      let m := (m.finish slot (some { sct := bits status 10 8, sc := bits status 7 0, dnr := bitOf status 15 }) dw0.toNat).settle
      (m.sendAck r.sub false).late)) ∧
  (∀ (s : State) (r : RxFrame) (marker : Fin 65536) (snap : Bool), s.chip.inOrder r →
    Completes (.marker r marker snap false) s (fun m => 
      let m := m.expectNext r.sub
      let m := m.barRequest .twin snap false (some marker.val)
      (m.sendAck r.sub false).late)) ∧
  (∀ (s : State) (r : RxFrame) (marker : Fin 65536) (snap : Bool) (b : Barrier), s.chip.inOrder r →
    s.chip.isl.flight = some b →
    b.twin = true →
    b.marker = marker →
    Completes (.marker r marker snap true) s (fun m => 
      let m := m.expectNext r.sub
      let m := { m with isl := { m.isl with flight := some { b with twinAck := true } } }
      (m.sendAck r.sub false).late)) ∧
  (∀ (s : State) (r : RxFrame) (reason : Fin 256), s.chip.verified r →
    s.chip.f TWN_LINES.FENCE_OUT = 0 ∨ s.chip.side = 1 →
    Completes (.fence r reason) s (fun m => (m.fenced).late)) ∧
  (∀ (s : State) (r : RxFrame), s.chip.verified r →
    Completes (.fenceack r) s (fun m => (m.fenceDone).late)) ∧
  (∀ (s : State) (r : RxFrame) (blocks : Bool), s.chip.inOrder r →
    Completes (.ctrlSanitizeRelay r blocks) s (fun m => 
      let m := m.expectNext r.sub
      let m := (m.sanFence none blocks).sanSteps blocks
      (m.sendAck r.sub false).late)) ∧
  (∀ (s : State) (r : RxFrame) (row : Fin 1024), s.chip.inOrder r →
    s.chip.ownsZone ((frameZone r).getD 0) = true →
    4194304 * row.val < s.chip.filledBytes ((frameZone r).getD 0) →
    (s.chip.zone ((frameZone r).getD 0)).rows ≤ row.val →
    (s.chip.row ((frameZone r).getD 0) row).spill = none →
    Completes (.ctrlResendRow r row) s (fun m => 
      let m := m.expectNext r.sub
      let m := m.mirrorFrames ((frameZone r).getD 0) row (min (m.filledBytes ((frameZone r).getD 0) - 4194304 * row.val) 4194304)
      (m.sendAck r.sub false).late)) ∧
  (∀ (s : State) (r : RxFrame), s.chip.inOrder r →
    Completes (.ctrlHandover r) s (fun m => 
      let m := m.expectNext r.sub
      let m := m.handoverIn
      (m.sendAck r.sub false).late)) ∧
  (∀ (s : State) (r : RxFrame) (body : List Byte), s.chip.inOrder r →
    fieldAt body 4 4 = 0 →
    Completes (.ctrlStateTransfer r body) s (fun m => 
      let m := m.expectNext r.sub
      let m := m.setZone ((frameZone r).getD 0) Zone.blank
      (m.sendAck r.sub false).late)) ∧
  (∀ (s : State) (r : RxFrame) (body : List Byte), s.chip.inOrder r →
    fieldAt body 4 4 ≠ 0 →
    Completes (.ctrlStateTransfer r body) s (fun m => 
      let m := m.expectNext r.sub
      let m := let z := (frameZone r).getD 0
      let w (i : Nat) := fieldAt body (4 * i) 4
      let m := m.learnNs (w 1) z (w 2)
      let x := m.zone z
      m.setZone z { x with
        state := bits (w 0) 3 0, side := bits (w 0) 9 9, type := bits (w 0) 11 10, spilled := bitOf (w 0) 16, refresh := bitOf (w 0) 17
        reloc := bitOf (w 0) 19, zfc := bitOf (w 0) 20, cls := bits (w 0) 23 21, cwp := w 3, rwp := w 4, pwp := w 5, pfp := w 6, rpp := w 7
        rows := w 8 / 65536, tenant := w 9, lastChange := w 10, lastWrite := w 11, logUnits := w 13
        members := if bitOf (w 0) 8 then (List.range 18).map fun i => memberAt body (56 + 4 * i) else [] }
      (m.sendAck r.sub false).late)) ∧
  (∀ (s : State) (r : RxFrame), s.chip.inOrder r →
    Completes (.reservedFrame r) s (fun m => 
      let m := m.expectNext r.sub
      let m := m.emit 27 0x690C
      (m.sendAck r.sub false).late))

/-- The timers of the twin link, the pair's side-band lines, fencing, claims and takeover complete: each has the effect named here. The whole
next state is given, so each clause says its frame too. The rules of the rows: R415, R416, R417, R419, R430, R431, R433, R434, R436, R437,
R438, R440. -/
def Obligations.TwinTimersAndClaimsComplete : Prop :=
  (∀ (s : State) (sub : SubLink), (s.chip.sub sub).up = true →
    Completes (.frameIncompleteTimeout sub) s (fun m => (m.setSub sub { m.sub sub with rxPart := [], rxSync := false }).sendAck sub true)) ∧
  (∀ (s : State) (sub : SubLink), (s.chip.sub sub).up = true →
    (s.chip.sub sub).keyNum ≠ 0 →
    (s.chip.sub sub).replay ≠ [] →
    (s.chip.sub sub).replay.any (fun f => decide (8 ≤ f.sends)) = false →
    Completes (.replayTimer sub) s (fun m => 
      let x := m.sub sub
      let fs := x.replay.map fun f => { f with sends := f.sends + 1, last := m.isl.dtc }
      let m := m.setSub sub { x with replay := fs }
      ((fs.foldl (fun (m : Chip) f => m.send (.frame sub f.type (m.frameBytes sub f))) m).addF TWN_REPLAY.FRAMES fs.length sub).late)) ∧
  (∀ (s : State) (sub : SubLink), (s.chip.sub sub).up = true →
    (s.chip.sub sub).keyNum ≠ 0 →
    (s.chip.sub sub).replay.any (fun f => decide (8 ≤ f.sends)) = true →
    Completes (.replayTimer sub) s (fun m => (m.subDown sub).late)) ∧
  (∀ (s : State) (sub : SubLink), (s.chip.sub sub).up = true →
    Completes (.ackIdleTimer sub) s (fun m => 
      let m := if (m.sub sub).keyNum = 0 then m else m.sendAck sub false
      if m.tw.fencing then m.sendUnseq sub 0x10 (leBytes 1 m.tw.suspectWhy) else m)) ∧
  (∀ (s : State), s.chip.tw.handshake = true →
    s.chip.f TWN_STAT.STATE = 1 →
    Completes (.handshakeTimeout) s (fun m => (m.suspect 5).late)) ∧
  (∀ (s : State), s.chip.beats = true →
    Completes (.heartbeatSendTimer) s (fun m => 
      let args := leBytes 8 m.isl.dtc ++ leBytes 1 (m.f TWN_STAT.STATE) ++ leBytes 1 (m.f BPM_STAT.DEVBARO) ++ leBytes 1 (m.f GEN_EPOCH.CURRENT)
      (m.sendUnseq 0 0x03 args).sendUnseq 1 0x03 args)) ∧
  (∀ (s : State), s.chip.beats = true →
    Completes (.twinHbPulseTimer) s (fun m => (m.send (.pin 86 true)).send (.pin 86 false))) ∧
  (∀ (s : State), s.chip.f TWN_STAT.STATE = 2 →
    s.chip.tw.hbSeen = true →
    s.chip.tw.hbAge < 7 →
    Completes (.heartbeatWindowClose) s (fun m => 
      (({ m with tw := { m.tw with hbAge := m.tw.hbAge + 1, hbSeen := false } } : Chip).setF TWN_HBCNT.RUN 0).late)) ∧
  (∀ (s : State), s.chip.f TWN_STAT.STATE = 2 →
    s.chip.tw.hbSeen = false →
    s.chip.tw.hbAge < 7 →
    s.chip.f TWN_HBCNT.RUN < 3 →
    Completes (.heartbeatWindowClose) s (fun m => 
      let m := { m with tw := { m.tw with hbAge := m.tw.hbAge + 1 } }
      ((m.incF TWN_HBCNT.MISSED).setF TWN_HBCNT.RUN (m.f TWN_HBCNT.RUN + 1)).late)) ∧
  (∀ (s : State), s.chip.tw.deferring = true →
    s.chip.f TWN_STAT.STATE = 3 →
    Completes (.fenceDeferTimeout) s (fun m => m.assertFence.late)) ∧
  (∀ (s : State), s.chip.tw.fencing = true →
    Completes (.fenceLineTimeout) s (fun m => m.fenceDone.late)) ∧
  (∀ (s : State), s.chip.f TWN_LINES.FENCE_OUT = 0 →
    8 ≤ s.chip.st.step →
    s.chip.f TWN_STAT.STATE = 2 →
    Completes (.twinFenceAssert) s (fun m => ((m.setF TWN_LINES.FENCE_IN 1).fenced).late)) ∧
  (∀ (s : State), s.chip.f TWN_LINES.FENCE_OUT = 0 →
    s.chip.f TWN_STAT.STATE = 10 →
    s.chip.tw.rejoin = 0 →
    Completes (.twinFenceRelease) s (fun m => 
      let m := m.setF TWN_LINES.FENCE_IN 0
      (({ m with tw := { m.tw with rejoin := 5 } } : Chip).claimMask (homeMask m.side)).late)) ∧
  (∀ (s : State), s.chip.tw.takeover = true →
    Completes (.mirrorReplayDone) s (fun m => (({ m with tw := { m.tw with takeover := false } } : Chip).takeoverEnd).late)) ∧
  (∀ (s : State) (k : Clus), (s.chip.fresh.reconAround fun x => x.setBit TWN_LINES.SEEN k true).fbit TWN_LINES.CLAIM k = false →
    Completes (.claimSeenAssert k) s (fun m => (m.reconAround fun m => m.setBit TWN_LINES.SEEN k true).late)) ∧
  (∀ (s : State) (k : Clus) (n : Chip), (s.chip.fresh.reconAround fun x => x.setBit TWN_LINES.SEEN k true) = n →
    n.fbit TWN_LINES.CLAIM k = true →
    bitOf n.tw.waitClaims k = true →
    bitOf n.tw.again k = true →
    Completes (.claimSeenAssert k) s (fun _ =>
      let m := { n with tw := { n.tw with
        waitClaims := maskSet n.tw.waitClaims k false, again := maskSet n.tw.again k false
        retryClaims := maskSet n.tw.retryClaims k false } }
      ((clusterDies k).foldl (fun (m : Chip) d => m.turn d) m.powerPoll.limitView).late)) ∧
  (∀ (s : State) (k : Clus), s.chip.claims k = false →
    Completes (.claimSeenDeassert k) s (fun m => (m.reconAround fun m => m.setBit TWN_LINES.SEEN k false).late)) ∧
  (∀ (s : State) (k : Clus), s.chip.claims k = true →
    Completes (.claimSeenDeassert k) s (fun m => 
      let m := m.reconAround fun m => m.setBit TWN_LINES.SEEN k false
      let m := { m with tw := { m.tw with waitClaims := maskSet m.tw.waitClaims k true, again := maskSet m.tw.again k true } }
      (((m.setF TWN_FAULT.CLAIMLOST 1).emit 27 0x6908).limitView).late)) ∧
  (∀ (s : State) (k : Clus), bitOf s.chip.tw.waitClaims k = true →
    s.chip.claims k = false →
    bitOf s.chip.tw.again k = true →
    Completes (.claimRefuseTimeout k) s (fun m => 
      let m := (((m.dropClaim k).setF TWN_FAULT.CLAIMREFUSED 1).emit 27 0x6907).powerPoll
      ((clusterDies k).foldl (fun (m : Chip) d => if 1 ≤ m.f FCH_DIE.STATE d ∧ m.f FCH_DIE.STATE d ≤ 5 then m.failDie d 1 else m) m).late)) ∧
  (∀ (s : State), s.chip.f TWN_STAT.STATE = 5 →
    s.chip.side = 0 →
    Completes (.claimRetryTimer) s (fun m => (m.claimMask m.tw.retryClaims).late)) ∧
  (∀ (s : State), s.chip.f TWN_STAT.STATE = 5 →
    s.chip.side = 0 →
    s.chip.tw.waitClaims ≠ 0 →
    Completes (.takeoverClaimTimeout) s (fun m => 
      let m := (List.range 12).foldl (fun (m : Chip) k => if bitOf (homeMask 0) k then m else m.dropClaim k) m
      let m := { m with tw := { m.tw with takeover := false, waitClaims := 0, retryClaims := 0 } }
      ((m.twnState 9).powerPoll).late))

/-- What happens in the vault and the non-volatile array completes: GCM messages, key bus transfers, key loads and clears, the alarms, and the
pulses of programs and erases each have the effect named here. The whole next state is given, so each clause says its frame too. The rules
of the rows: R295, R298, R301, R302, R304, R306, R314, R318, R319, R320, R321, R346. -/
def Obligations.VaultAndArrayEventsComplete : Prop :=
  (∀ (s : State) (lane : Grp) (l w : GcmMsg), earlier w.deadline ((s.chip.lane lane).running.getD l).deadline = true →
    s.chip.slackBytes w.deadline < (((s.chip.lane lane).running.getD l).len - ((s.chip.lane lane).running.getD l).done) + w.len →
    (s.chip.lane lane).susp.length < 2 →
    Completes (.gcmSuspend lane l w) s (fun m => (m.setLane lane { running := some w, susp := (m.lane lane).running.getD l :: (m.lane lane).susp }).incF CPH_SUSPCNT.COUNT)) ∧
  (∀ (s : State) (lane : Grp) (w : GcmMsg), (s.chip.lane lane).running = some w →
    (s.chip.lane lane).susp = [] →
    s.chip.kv.waiting = [] →
    gcmAccepts w.use w.slot = true →
    (s.chip.kslot w.slot).state ≠ 0 →
    Completes (.gcmMessageDone lane w true) s (fun m => (m.addWide CPH_GCMBYTES_LO.BYTES CPH_GCMBYTES_HI.BYTES w.len).setLane lane GcmLane.blank)) ∧
  (∀ (s : State) (lane : Grp) (w l : GcmMsg) (rest : List GcmMsg), (s.chip.lane lane).running = some w →
    (s.chip.lane lane).susp = l :: rest →
    gcmAccepts w.use w.slot = true →
    (s.chip.kslot w.slot).state ≠ 0 →
    Completes (.gcmMessageDone lane w false) s (fun m => ((m.addWide CPH_GCMBYTES_LO.BYTES CPH_GCMBYTES_HI.BYTES w.len).tagFail w.use w.slot).setLane lane { running := some l, susp := rest })) ∧
  (∀ (s : State) (i : KeySlotNo), (s.chip.kslot i).state ≠ 0 →
    Completes (.keyBusTransfer i false) s (fun m => { m with kv := { m.kv with cache := (i.val :: m.kv.cache.filter (· ≠ i.val)).take 1024 } })) ∧
  (∀ (s : State) (i : KeySlotNo), s.chip.kv.busErr = none →
    Completes (.keyBusTransfer i true) s (fun m => 
      let m := (m.incF KVT_BUSERR.COUNT).emit 0 0x6303
      { m with kv := { m.kv with busErr := some m.isl.dtc } })) ∧
  (∀ (s : State) (i : KeySlotNo), (s.chip.kslot i).state = 2 →
    s.chip.nsBusy (s.chip.kslot i).nsid = false →
    s.chip.ns? (s.chip.kslot i).nsid = none →
    Completes (.keySlotClear i) s (fun m => 
      let dead (r : KeyRec) : KeyRec := if r.slot = i.val ∧ r.kind = 1 then { r with dead := true } else r
      let m := ({ m with kv := { m.kv with cache := m.kv.cache.filter (· ≠ i.val) } } : Chip).setKslot i KeySlot.blank
      ({ m with nv := { m.nv with keys := m.nv.keys.map dead } } : Chip).settle)) ∧
  (∀ (s : State) (i : KeySlotNo) (r : KeyRec), s.chip.nv.keys.find? (fun k => decide (k.slot = i.val ∧ k.kind ≠ 2) && !k.dead) = some r →
    s.chip.dwkLoaded = true →
    i.val ∈ s.chip.kv.toLoad →
    r.kind = 0 ∨ r.kind = 3 →
    s.chip.keyReads r = true →
    r.dwk = s.chip.nv.dwkGen →
    Completes (.keyUnwrap i true) s (fun m => 
      let m := { m with kv := { m.kv with toLoad := m.kv.toLoad.filter (· ≠ i.val) } }
      (m.loadKey i { KeySlot.blank with
        kind := if r.kind = 3 then 1 else 0, tenant := if r.kind = 3 then 0 else r.tenant, keygen := r.keygen, nsid := r.nsid
        key := r.key }).loadsEnd)) ∧
  (∀ (s : State) (i : Isl), s.chip.islState i = 2 →
    Completes (.voltageGlitch i) s (fun m => m.alarm 0)) ∧
  (∀ (s : State) (i : Isl), Completes (.clockMonitorFault i) s (fun m => m.alarm 1)) ∧
  (∀ (s : State), Completes (.shieldBreach) s (fun m => m.alarm 2)) ∧
  (∀ (s : State), Completes (.lockstepMismatch) s (fun m => m.alarm 3)) ∧
  (∀ (s : State), Completes (.keyStoreErase) s (fun m => 
      let ds := (m.nv.keys.filter (·.dead)).map KeyRec.sector
      let ks := (List.range 32).filter fun k => decide (k ∈ ds)
      let m := ks.foldl (fun (m : Chip) k => (m.array (.erase 192 k)).array (.erase 448 k)) m
      let live := m.nv.keys.filter fun k => !k.dead
      let m := ({ m with nv := { m.nv with keys := [] } } : Chip)
      live.foldl (fun (m : Chip) r =>
        if r.sector ∉ ks then { m with nv := { m.nv with keys := m.nv.keys ++ [r] } }
        else
          let r := { r with unit := 1 + 4 * (m.nv.keys.filter fun k => decide (k.sector = r.sector)).length }
          ({ m with nv := { m.nv with keys := m.nv.keys ++ [r] } } : Chip).storeKey r) m)) ∧
  (∀ (s : State), s.chip.f NVA_STAT.SEQ ≠ 0 →
    s.chip.f NVA_STAT.BUSY ≠ 1 →
    Completes (.nvaSequenceTimeout) s (fun m => m.nvaEnd 3)) ∧
  (∀ (s : State) (o : NvaOp), s.chip.nv.op = some o →
    o.op = 1 →
    o.started = false →
    (tfind s.chip.nv.units (s.chip.nv.unit o.addr)).isSome = false →
    Completes (.program) s (fun m => m.setOp { o with started := true, pulse := decide (m.f NVA_STAT.BROWNOUT = 0) })) ∧
  (∀ (s : State) (o : NvaOp), s.chip.nv.op = some o →
    o.op = 2 →
    o.started = false →
    s.chip.nv.worn (s.chip.nv.phys (o.addr / 65536)) = false →
    Completes (.erase) s (fun m => (m.countErase (m.nv.phys (o.addr / 65536))).setOp { o with started := true, pulse := decide ((m.countErase (m.nv.phys (o.addr / 65536))).f NVA_STAT.BROWNOUT = 0) })) ∧
  (∀ (s : State) (o : NvaOp), s.chip.nv.op = some o →
    o.op = 3 →
    o.started = false →
    Completes (.blankcheck) s (fun m => (m.setF NVA_STAT.BLANK (b1 (m.nv.units.all fun e => decide (e.1 / 2048 ≠ m.nv.phys (o.addr / 65536))))).nvaEnd 1)) ∧
  (∀ (s : State), s.chip.f NVA_STAT.BROWNOUT ≠ 1 →
    Completes (.nvaBrownout) s (fun m => ((m.setF NVA_STAT.BROWNOUT 1).incF NVA_BOSTAT.COUNT).emit 1 0x6401)) ∧
  (∀ (s : State), s.chip.nv.op = none →
    s.chip.evr.held = [] →
    s.chip.nv.eraseAll = false →
    s.chip.nv.queue = [] →
    Completes (.nvaBrownoutRecover) s (fun m => { m.setF NVA_STAT.BROWNOUT 0 with nv := { m.nv with queue := [] }, evr := { m.evr with held := [] } })) ∧
  (∀ (s : State) (o : NvaOp), s.chip.nv.op = some o →
    o.started = true →
    s.chip.evr.held = [] →
    s.chip.nv.eraseAll = false →
    s.chip.nv.queue = [] →
    Completes (.nvaBrownoutRecover) s (fun m => ({ m.setF NVA_STAT.BROWNOUT 0 with nv := { m.nv with queue := [] }, evr := { m.evr with held := [] } } : Chip).setOp { o with pulse := true })) ∧
  (∀ (s : State) (o : NvaOp), s.chip.nv.op = some o →
    o.pulse = true →
    o.op = 1 →
    Completes (.nvaPulseDone true) s (fun m => (({ m with nv := { m.nv with units := tput m.nv.units (m.nv.unit o.addr) o.data } } : Chip).nvaEnd 1).late)) ∧
  (∀ (s : State) (o : NvaOp), s.chip.nv.op = some o →
    o.pulse = true →
    o.op ≠ 1 →
    Completes (.nvaPulseDone true) s (fun m => (({ m with nv := { m.nv with units := m.nv.units.filter fun e => decide (e.1 / 2048 ≠ m.nv.phys (o.addr / 65536)) } } : Chip).nvaEnd 1).late))

/-- What happens in the pools, arbiters, memories, recorder, sensors and ageing monitors completes: each event has the effect named here. The
whole next state is given, so each clause says its frame too. The rules of the rows: R4, R39, R52, R355, R359, R360, R361, R363, R368,
R370, R375, R379, R380, R383, R385, R387, R388, R392, R402, R404, R492, R496, R500, R503, R504, R506, R507, R515, R518, R531. -/
def Obligations.PoolMemoryAndSensorEventsComplete : Prop :=
  (∀ (s : State) (rq : Fin 64) (sizes : List Nat) (work dl : Nat) (cls : Fin 8) (popped : Option (BitVec 64)) (r : PoolRec), s.chip.img.tables.poolOf rq = some r →
    sizes ≠ [] →
    sizes.length ≤ 8 →
    (s.chip.workRank work).any (r.rank ≤ ·) = false →
    sizes.all (fun n => ((s.chip.pool r.pool).charge r.classmask n).isSome) = true →
    Completes (.poolAllocRequest rq sizes work dl cls popped) s (fun m => 
      let q : PoolReq :=
        { id := m.bp.nextReq, rq := rq, sizes := sizes, deadline := dl % 2 ^ 32, cls := cls, created := m.isl.dtc, work := work }
      let m := { m with bp := { m.bp with nextReq := m.bp.nextReq + 1 } }
      let m := m.setPool r.pool { m.pool r.pool with wait := insertReq q (m.pool r.pool).wait }
      (m.grantPopped r.pool popped).late)) ∧
  (∀ (s : State) (rq : Fin 64) (sizes : List Nat) (work dl : Nat) (cls : Fin 8) (popped : Option (BitVec 64)) (r : PoolRec), s.chip.img.tables.poolOf rq = some r →
    sizes ≠ [] →
    sizes.length ≤ 8 →
    (s.chip.workRank work).any (r.rank ≤ ·) = true →
    Completes (.poolAllocRequest rq sizes work dl cls popped) s (fun m => ((m.incF BPM_ERRCNT.RANK).emit 11 0x6605).late)) ∧
  (∀ (s : State) (p : Fin 64), Completes (.poolGrant p none) s (fun m => (m.grantPool p).late)) ∧
  (∀ (s : State) (p : Fin 64) (w : BitVec 64), linkOk p w.toNat = false →
    ((s.chip.fresh.grantPool p).pool p).wait ≠ (s.chip.fresh.pool p).wait →
    Completes (.poolGrant p (some w)) s (fun m => (((m.incF BPM_ERRCNT.LIST).emit 11 0x6603).setF BPM_POOLSTAT.REBUILD 1 p).late)) ∧
  (∀ (s : State) (id p : Nat) (q : PoolReq), s.chip.bp.pools.findSome? (fun e => (e.2.wait.find? (·.id = id)).map fun q => (e.1, q)) = some (p, q) →
    q.rq = 36 →
    65536 ≤ q.work →
    Completes (.poolAllocWatchdog id) s (fun m => 
      let m := (m.setPool p { m.pool p with wait := (m.pool p).wait.filter (·.id ≠ id) }).incF BPM_WDOGCNT.COUNT
      let m := if m.f BPM_WDOGLOG.VALID = 1 then m
        else ((m.setF BPM_WDOGLOG.VALID 1).setF BPM_WDOGLOG.POOL p).setF BPM_WDOGLOG.REQ 36
      let m := m.emit 11 0x6601 0 ((m.cmd? q.work).map fun c => m.cmdTag q.work c)
      (((m.waitsLost 0 (q.work - 2 ^ 40)).waitsLost 1 (q.work - 2 ^ 40)).grantPool p).late)) ∧
  (∀ (s : State) (id p : Nat) (q : PoolReq), s.chip.bp.pools.findSome? (fun e => (e.2.wait.find? (·.id = id)).map fun q => (e.1, q)) = some (p, q) →
    q.rq ≠ 36 →
    65536 ≤ q.work →
    Completes (.poolAllocWatchdog id) s (fun m => 
      let m := (m.setPool p { m.pool p with wait := (m.pool p).wait.filter (·.id ≠ id) }).incF BPM_WDOGCNT.COUNT
      let m := if m.f BPM_WDOGLOG.VALID = 1 then m
        else ((m.setF BPM_WDOGLOG.VALID 1).setF BPM_WDOGLOG.POOL p).setF BPM_WDOGLOG.REQ q.rq
      let m := m.emit 11 0x6601 0 ((m.cmd? q.work).map fun c => m.cmdTag q.work c)
      (({ m with bp := { m.bp with retry := m.bp.retry ++ [q] } } : Chip).grantPool p).late)) ∧
  (∀ (s : State) (id p : Nat) (q : PoolReq), s.chip.bp.pools.findSome? (fun e => (e.2.wait.find? (·.id = id)).map fun q => (e.1, q)) = some (p, q) →
    q.work < 65536 →
    Completes (.poolAllocWatchdog id) s (fun m => 
      let m := (m.setPool p { m.pool p with wait := (m.pool p).wait.filter (·.id ≠ id) }).incF BPM_WDOGCNT.COUNT
      let m := if m.f BPM_WDOGLOG.VALID = 1 then m
        else ((m.setF BPM_WDOGLOG.VALID 1).setF BPM_WDOGLOG.POOL p).setF BPM_WDOGLOG.REQ q.rq
      let m := m.emit 11 0x6601 0 ((m.cmd? q.work).map fun c => m.cmdTag q.work c)
      ((m.endCmd q.work (some stInterrupted)).grantPool p).late)) ∧
  (∀ (s : State) (id : Nat) (q : PoolReq), s.chip.bp.retry.find? (·.id = id) = some q →
    Completes (.deviceWorkRetry (.pool id)) s (fun m => (({ m with bp := { m.bp with retry := m.bp.retry.filter (·.id ≠ id) } } : Chip).poolRequest q.rq q.sizes q.work q.deadline q.cls none).settle)) ∧
  (∀ (s : State) (slot : SlotId) (u : DUnit), (s.chip.md.retry.find? fun u => decide (u.slot = some slot.val)) = some u →
    Completes (.deviceWorkRetry (.unit slot)) s (fun m => (({ m with md := { m.md with retry := m.md.retry.filter (·.id ≠ u.id) } } : Chip).newUnit u).settle)) ∧
  (∀ (s : State) (i : Isl) (tag : Tag), (i.val, tag.toNat) ∈ s.chip.isl.retry →
    Completes (.deviceWorkRetry (.beat i tag)) s (fun m => ({ m with isl := { m.isl with retry := m.isl.retry.erase (i.val, tag.toNat) } } : Chip).unitReceive i tag.toNat)) ∧
  (∀ (s : State) (rq : Fin 64) (buf : Nat) (b : Buf), tfind s.chip.bp.bufs buf = some b →
    rq.val ∈ b.owners →
    1 < b.count →
    Completes (.bufferRelease rq buf) s (fun m => (({ m with bp := { m.bp with bufs := tput m.bp.bufs buf { b with count := b.count - 1 } } } : Chip).grantPool b.pool).late)) ∧
  (∀ (s : State) (rq : Fin 64) (buf : Nat) (b : Buf), tfind s.chip.bp.bufs buf = some b →
    rq.val ∈ b.owners →
    b.count = 1 →
    Completes (.bufferRelease rq buf) s (fun m => ((m.freeBuf buf).grantPool b.pool).late)) ∧
  (∀ (s : State) (rq : Fin 64) (buf : Nat) (b : Buf), tfind s.chip.bp.bufs buf = some b →
    b.count ≠ 0xFFFF →
    rq.val ∈ b.owners ∨ b.owners.length < 6 →
    Completes (.bufferAddOwner rq buf) s (fun m => 
      let owners := if rq.val ∈ b.owners then b.owners else b.owners ++ [rq.val]
      { m with bp := { m.bp with bufs := tput m.bp.bufs buf { b with count := b.count + 1, owners := owners } } })) ∧
  (∀ (s : State) (p : Fin 64) (popped : Option (BitVec 64)), s.chip.f BPM_POOLSTAT.REBUILD p = 1 →
    Completes (.freeListRebuildDone p popped) s (fun m => ((m.setF BPM_POOLSTAT.REBUILD 0 p).grantPopped p popped).late)) ∧
  (∀ (s : State) (i : Fin 12) (reqs : List Nat), s.chip.islServes (arbIsland i) = true →
    s.chip.arbRequests i reqs ≠ [] →
    s.chip.f ARB_STAT.PARKED i = 0 →
    s.chip.f ARB_STAT.BUSY i = 0 →
    Completes (.arbiterDraw i reqs false) s (fun m => 
      let rs := m.arbRequests i reqs
      let m := m.arbCopy i
      let d := (m.arb i).draw rs
      ((m.setArb i { d.2 with winner := none }).incF ARB_DRAWS.COUNT i).arbGrant i (d.1.getD 0))) ∧
  (∀ (s : State) (i : Fin 12) (reqs : List Nat) (w : Nat), s.chip.f ARB_STAT.BUSY i = 1 →
    (s.chip.arb i).winner = some w →
    w ∈ s.chip.arbRequests i reqs →
    Completes (.arbiterTransferEnd i reqs) s (fun m => (m.setArb i { m.arb i with winner := none }).arbGrant i w)) ∧
  (∀ (s : State) (i : Fin 12) (reqs : List Nat), s.chip.f ARB_STAT.BUSY i = 1 →
    (s.chip.arb i).winner = none →
    s.chip.arbRequests i reqs = [] →
    Completes (.arbiterTransferEnd i reqs) s (fun m => (m.setArb i { m.arb i with winner := none }).showArb i (m.f ARB_STAT.OWNER i) false (decide (tget 0 (m.arb i).active (m.f ARB_STAT.OWNER i) ≠ 0)))) ∧
  (∀ (s : State) (addr len : Nat) (write : Bool) (tenant : Option Ten) (owner : GOwner), s.chip.f DRC_STAT.STATE (dramChan addr) = 2 →
    s.chip.f DRC_CTL.QUIESCE (dramChan addr) = 0 →
    tfind s.chip.dr.runs (dramChan addr) = none →
    (s.chip.subd (2 * dramChan addr + dramSub addr)).held = [] →
    (s.chip.subd (2 * dramChan addr + dramSub addr)).writes.length < 64 →
    (s.chip.subd (2 * dramChan addr + dramSub addr)).reads.length < 32 →
    Completes (.dramAccessArrive addr len write tenant owner) s (fun m => 
      let ch := dramChan addr
      let k := 2 * ch + dramSub addr
      let a : DramAcc :=
        { id := m.dr.next, addr := addr, len := min (max len 1) (256 - addr % 256), write := write, at_ := m.isl.dtc
          tenant := tenant.map (·.val), owner := owner }
      let m := { m with dr := { m.dr with next := m.dr.next + 1 } }
      ((m.setSubd k { m.subd k with held := [a] }).setSubd k { m.subd k with held := [] }).dramEnter ch k a)) ∧
  (∀ (s : State) (addr len : Nat) (write : Bool) (tenant : Option Ten) (owner : GOwner), s.chip.f DRC_STAT.STATE (dramChan addr) = 2 →
    s.chip.dramGrants (dramChan addr) = false →
    Completes (.dramAccessArrive addr len write tenant owner) s (fun m => 
      let ch := dramChan addr
      let k := 2 * ch + dramSub addr
      let a : DramAcc :=
        { id := m.dr.next, addr := addr, len := min (max len 1) (256 - addr % 256), write := write, at_ := m.isl.dtc
          tenant := tenant.map (·.val), owner := owner }
      let m := { m with dr := { m.dr with next := m.dr.next + 1 } }
      (m.setSubd k { m.subd k with held := (m.subd k).held ++ [a] }).dramAdmit ch k ((m.subd k).held.length + 1))) ∧
  (∀ (s : State) (ch : DramCh) (sub : SubLink) (index : Fin 64) (id : Nat) (c : DramCmd), s.chip.f DRC_STAT.STATE ch = 2 →
    tfind s.chip.dr.runs ch = none →
    (s.chip.subd (2 * ch + sub)).retry[index.val]? = some (id, c) →
    (s.chip.subd (2 * ch + sub)).failing ≠ some id →
    Completes (.dramAlert ch sub index true 0) s (fun m => 
      let k := 2 * ch.val + sub.val
      let m := m.incF DRC_PARITY.ALERTS ch
      let m := m.setSubd k { m.subd k with failing := some id, fails := 1 }
      let m := if m.f DRC_PARLOG.VALID ch = 1 then m
        else (((m.setF DRC_PARLOG.VALID 1 ch).setF DRC_PARLOG.ATTEMPT 1 ch).setF DRC_PARLOG.SUBCH sub ch).setF DRC_PARLOG.INDEX index ch
      ((m.setSubd k { m.subd k with rows := [], replay := some index.val }).setF DRC_STAT.STATE 4 ch).settle)) ∧
  (∀ (s : State) (ch : DramCh) (sub : SubLink) (index : Fin 64) (id : Nat) (c : DramCmd), s.chip.f DRC_STAT.STATE ch = 2 →
    tfind s.chip.dr.runs ch = none →
    (s.chip.subd (2 * ch + sub)).retry[index.val]? = some (id, c) →
    (s.chip.subd (2 * ch + sub)).failing = some id →
    (s.chip.subd (2 * ch + sub)).fails = 2 →
    Completes (.dramAlert ch sub index true 0) s (fun m => 
      let k := 2 * ch.val + sub.val
      let m := m.incF DRC_PARITY.ALERTS ch
      let m := m.setSubd k { m.subd k with failing := some id, fails := 3 }
      let m := if m.f DRC_PARLOG.VALID ch = 1 then m
        else (((m.setF DRC_PARLOG.VALID 1 ch).setF DRC_PARLOG.ATTEMPT 3 ch).setF DRC_PARLOG.SUBCH sub ch).setF DRC_PARLOG.INDEX index ch
      (m.chanFailed ch).settle)) ∧
  (∀ (s : State) (ch : DramCh) (sub : SubLink) (index : Fin 64) (id : Nat) (c : DramCmd), s.chip.f DRC_STAT.STATE ch = 2 →
    tfind s.chip.dr.runs ch = none →
    (s.chip.subd (2 * ch + sub)).retry[index.val]? = some (id, c) →
    (s.chip.subd (2 * ch + sub)).failing ≠ some id →
    Completes (.dramAlert ch sub index false 0) s (fun m => 
      let k := 2 * ch.val + sub.val
      let m := m.incF DRC_PARITY.ALERTS ch
      ((m.setSubd k { m.subd k with failing := some id, fails := 1 }).chanFailed ch).settle)) ∧
  (∀ (s : State) (ch : DramCh) (sub : SubLink) (errs : List MemErr) (a : DramAcc), s.chip.f DRC_STAT.STATE ch = 2 →
    (let x := s.chip.setSubd (2 * ch.val + sub.val) (s.chip.dramDrain ch (s.chip.subd (2 * ch.val + sub.val))); x.dramNext ch (x.subd (2 * ch.val + sub.val))) = some a →
    a.write = true →
    a.partialBursts = 0 →
    Completes (.dramAccessDone ch sub errs) s (fun m => 
      let k := 2 * ch.val + sub.val
      let m := m.setSubd k (m.dramDrain ch (m.subd k))
      let m := (m.dramCmds (m.subd k) a).foldl (fun (m : Chip) c => m.dramIssue ch sub a.tenant c) m
      if m.f DRC_STAT.STATE ch = 5 then m
      else
        let x := m.subd k
        let m := m.setSubd k (m.dramDrain ch
          { x with reads := x.reads.filter (fun b => decide (b.id ≠ a.id)), writes := x.writes.filter (fun b => decide (b.id ≠ a.id)) })
        ((m.addWide DRC_WRBYTES_LO.BYTES DRC_WRBYTES_HI.BYTES a.len ch).dramAdmit ch k 96).settle)) ∧
  (∀ (s : State) (ch : DramCh) (sub : SubLink), s.chip.f DRC_STAT.STATE ch = 2 →
    Completes (.refreshInterval ch sub) s (fun m => ((m.setDebt ch sub (m.debt ch sub + 4)).refPlace ch sub 20).refPull ch sub 4)) ∧
  (∀ (s : State) (ch : DramCh) (double : Bool), s.chip.f DRC_STAT.STATE ch = 2 →
    Completes (.mr4Poll ch 0 double) s (fun m => m.setF DRC_REFSTAT.DOUBLE_A (b1 double) ch)) ∧
  (∀ (s : State) (ch : DramCh) (double : Bool), s.chip.f DRC_STAT.STATE ch = 2 →
    Completes (.mr4Poll ch 1 double) s (fun m => m.setF DRC_REFSTAT.DOUBLE_B (b1 double) ch)) ∧
  (∀ (s : State) (ch : DramCh) (drift : Nat), s.chip.f DRC_STAT.STATE ch = 2 →
    1 < drift →
    Completes (.dqsOscillatorPoll ch drift) s (fun m => { m with dr := { m.dr with dqs := tset 0 m.dr.dqs ch.val (tget 0 m.dr.dqs ch.val + drift) } })) ∧
  (∀ (s : State) (ch : DramCh) (drift : Nat), s.chip.f DRC_STAT.STATE ch = 2 →
    drift ≤ 1 →
    Completes (.dqsOscillatorPoll ch drift) s (fun m => m)) ∧
  (∀ (s : State) (ch : DramCh) (present ranks2 gb32 : Bool) (rd wr : Fin 64), s.chip.st.dramLeft = 0 →
    tfind s.chip.dr.runs ch = some 1 →
    s.chip.f DRC_TRAINCFG.MIN_EYE ch ≤ rd →
    s.chip.f DRC_TRAINCFG.MIN_EYE ch ≤ wr →
    Completes (.dramTrainDone ch present ranks2 gb32 rd wr) s (fun m => 
      let m := ({ m with dr := { m.dr with runs := tdel m.dr.runs ch } } : Chip).setF DRC_STAT.STATE 2 ch
      let m := ((m.setF DRC_TRAIN.REASON 1 ch).setF DRC_TRAIN.STEP 8 ch).setF DRC_CTL.TRAIN 0 ch
      let m := { m with dr := { m.dr with dqs := tset 0 m.dr.dqs ch.val 0 } }
      ((m.setF DRC_EYE.RD (min rd.val 63) ch).setF DRC_EYE.WR (min wr.val 63) ch).late)) ∧
  (∀ (s : State) (errs : List MemErr), s.chip.f SDP_SCRUB_STAT.BUSY = 1 →
    Completes (.memoryScrubDone errs) s (fun m => 
      let m := m.scrubRead errs
      ((((m.setF SDP_SCRUB_STAT.RESULT 1).setF SDP_SCRUB_STAT.BUSY 0).setF SDP_SCRUB_CTL.GO 0).emit 0 0x6806).settle)) ∧
  (∀ (s : State) (i : Isl) (e : Ev) (rest : List Ev), tget [] s.chip.evr.queues i = e :: rest →
    Completes (.eventRaise i) s (fun m => 
      let m : Chip := { m with evr := { m.evr with queues := tset [] m.evr.queues i rest } }
      (m.recordEv e).noticeEv e)) ∧
  (∀ (s : State) (code : Fin 65536), Completes (.tokenRefill code) s (fun m => { m with evr := { m.evr with spent := tset 0 m.evr.spent code (min (tget 0 m.evr.spent code) (m.evrTables.bucket code).1 - 1) } })) ∧
  (∀ (s : State) (xs : List Int), s.chip.therm.trip ≠ 0 →
    Completes (.diodeSample xs) s (fun m => ((((((m.takeReadings xs).crossCheck).junction).throttle).thermLine).tripCheck).agePoll.settle)) ∧
  (∀ (s : State) (us : Nat), s.chip.f THM_STAT.LEVEL ≠ 0 →
    Completes (.throttleBucketRefill us) s (fun m => ({ m with th := { m.th with bucket := min ((m.capRate * 1000 : Nat) : Int) (m.th.bucket + (m.capRate * us : Nat)) } } : Chip).settle)) ∧
  (∀ (s : State) (mean : Int) (i : Nat), s.chip.th.cal = some i →
    (4 * toSigned 10 (s.chip.f THM_CALREF.REF) - mean).natAbs ≤ 127 →
    Completes (.calibrationDone true mean) s (fun m => (((m.setF THM_SENS.OFFSET (ofSigned 8 (4 * toSigned 10 (m.f THM_CALREF.REF) - mean)) i).array .record).unrelClear i).calEnd 1)) ∧
  (∀ (s : State) (i : Isl) (r : IslandRec), s.chip.islandRec i = some r →
    i.val ≠ 0 →
    s.chip.islServes i = true →
    16 * r.fmin < (s.chip.pointOf i).2 →
    Completes (.canaryGuardFail i) s (fun m => ((m.setPoint i (m.pointOf i).1 (slower r (m.pointOf i).2)).emit 0 0x6E03).ageNow i)) ∧
  (∀ (s : State), Completes (.ageMeasureTimer) s (fun m => ({ m with ag := { m.ag with due := true } } : Chip).agePoll)) ∧
  (∀ (s : State) (i : Isl) (canary : List (Fin 64)) (ro0 ro1 : BitVec 16) (written : Bool), s.chip.ag.cur = some i.val →
    (s.chip.ageIsl i).tjN ≠ 0 →
    Completes (.islandMeasureDone i canary ro0 ro1 written) s (fun m => 
      let m := { m with ag := { m.ag with cur := none } }
      let x := m.ageIsl i
      let tj := ofSigned 16 (meanOf x.tjSum x.tjN)
      let canary := (List.range 8).map fun k => ((canary[k]?).map (·.val)).getD 63
      let x := { x with canary := canary, ro0 := ro0.toNat, ro1 := ro1.toNat, tjSum := 0, tjN := 0 }
      let m := m.setAge i { x with m0 := some (x.m0.getD x.margin) }
      let m := if written then m.ageWrite x.m0.isNone (m.ageRecord i tj) else m.emit 0 0x6E06
      (m.rePlan i).ageNext 64)) ∧
  (∀ (s : State) (i : Isl), i.val ∈ s.chip.ag.again →
    Completes (.remeasureTimer i) s (fun m => ({ m with ag := { m.ag with again := m.ag.again.filter fun k => decide (k ≠ i.val) } } : Chip).ageOne i)) ∧
  (∀ (s : State), Completes (.powerOnHour) s (fun m => m.powerOnHour.agePoll)) ∧
  (∀ (s : State) (bad : Fin 8), s.chip.f PTB_BIST.GO = 1 →
    bad.val &&& s.chip.f PTB_BIST.MASK = 0 →
    Completes (.ondemandSelftestDone bad) s (fun m => (((m.setF PTB_BIST.GO 0).setF PTB_BIST.RESULT 1).emit 0 0x6F03 1).late))
end

