-- ==== Sys2Proof/Laws/Run.lean ====
section
/-! SUPPORT. The form every meaning has: what `run` answers, and how a command is shown to complete with an effect. -/

namespace Sys2Proof.Machine

variable {c : Instr} {s : State} {f e : Chip → Chip}

/-- A meaning that changes the chip by `f` completes with `f`. -/
theorem completes_of_run (h : exec c s = run s f) : Completes c s f := h

/-- A meaning that changes the chip as `e` does, on the chip it starts from, completes with `e`. -/
theorem Completes.congr (h : Completes c s f) (he : f s.chip.fresh = e s.chip.fresh) : Completes c s e := by
  unfold Completes at *
  rw [h, he]

/-- The same from the meaning itself. -/
theorem completes_of (h : exec c s = run s f) (he : f s.chip.fresh = e s.chip.fresh) : Completes c s e :=
  (completes_of_run h).congr he

theorem Chip.fresh_f (m : Chip) (g : Fld) (n : Nat) : m.fresh.f g n = m.f g n := rfl
theorem Chip.fresh_out (m : Chip) : m.fresh.out = [] := rfl
theorem Chip.fresh_reply (m : Chip) : m.fresh.reply = [] := rfl

/-- After a meaning the side-band outputs are at their levels. -/
theorem Chip.drivePins_ok (m : Chip) : m.drivePins.pinsOk := rfl

end Sys2Proof.Machine
end

