-- ==== Sys2Proof/Laws/State.lean ====
section
/-! SUPPORT. What the named updates of the chip leave alone, one lemma per update and component, so that no later proof unfolds an
update of the record. -/

namespace Sys2Proof.Machine

/-! ## Register fields -/

@[simp] theorem Chip.setF_shadow (m : Chip) (f : Fld) (v n : Nat) : (m.setF f v n).shadow = m.shadow := rfl
@[simp] theorem Chip.setF_i3cPtr (m : Chip) (f : Fld) (v n : Nat) : (m.setF f v n).i3cPtr = m.i3cPtr := rfl
@[simp] theorem Chip.setF_evr (m : Chip) (f : Fld) (v n : Nat) : (m.setF f v n).evr = m.evr := rfl
@[simp] theorem Chip.setF_isl (m : Chip) (f : Fld) (v n : Nat) : (m.setF f v n).isl = m.isl := rfl
@[simp] theorem Chip.setF_img (m : Chip) (f : Fld) (v n : Nat) : (m.setF f v n).img = m.img := rfl
@[simp] theorem Chip.setF_q (m : Chip) (f : Fld) (v n : Nat) : (m.setF f v n).q = m.q := rfl
@[simp] theorem Chip.setF_zn (m : Chip) (f : Fld) (v n : Nat) : (m.setF f v n).zn = m.zn := rfl
@[simp] theorem Chip.setF_md (m : Chip) (f : Fld) (v n : Nat) : (m.setF f v n).md = m.md := rfl
@[simp] theorem Chip.setF_bp (m : Chip) (f : Fld) (v n : Nat) : (m.setF f v n).bp = m.bp := rfl
@[simp] theorem Chip.setF_tw (m : Chip) (f : Fld) (v n : Nat) : (m.setF f v n).tw = m.tw := rfl
@[simp] theorem Chip.setF_kv (m : Chip) (f : Fld) (v n : Nat) : (m.setF f v n).kv = m.kv := rfl
@[simp] theorem Chip.setF_eng (m : Chip) (f : Fld) (v n : Nat) : (m.setF f v n).eng = m.eng := rfl
@[simp] theorem Chip.setF_nv (m : Chip) (f : Fld) (v n : Nat) : (m.setF f v n).nv = m.nv := rfl
@[simp] theorem Chip.setF_tr (m : Chip) (f : Fld) (v n : Nat) : (m.setF f v n).tr = m.tr := rfl
@[simp] theorem Chip.setF_th (m : Chip) (f : Fld) (v n : Nat) : (m.setF f v n).th = m.th := rfl
@[simp] theorem Chip.setF_psq (m : Chip) (f : Fld) (v n : Nat) : (m.setF f v n).psq = m.psq := rfl
@[simp] theorem Chip.setF_plp (m : Chip) (f : Fld) (v n : Nat) : (m.setF f v n).plp = m.plp := rfl
@[simp] theorem Chip.setF_st (m : Chip) (f : Fld) (v n : Nat) : (m.setF f v n).st = m.st := rfl
@[simp] theorem Chip.setF_sd (m : Chip) (f : Fld) (v n : Nat) : (m.setF f v n).sd = m.sd := rfl
@[simp] theorem Chip.setF_dr (m : Chip) (f : Fld) (v n : Nat) : (m.setF f v n).dr = m.dr := rfl
@[simp] theorem Chip.setF_pt (m : Chip) (f : Fld) (v n : Nat) : (m.setF f v n).pt = m.pt := rfl
@[simp] theorem Chip.setF_ag (m : Chip) (f : Fld) (v n : Nat) : (m.setF f v n).ag = m.ag := rfl
@[simp] theorem Chip.setF_freeCtr (m : Chip) (f : Fld) (v n : Nat) : (m.setF f v n).freeCtr = m.freeCtr := rfl
@[simp] theorem Chip.setF_pins (m : Chip) (f : Fld) (v n : Nat) : (m.setF f v n).pins = m.pins := rfl
@[simp] theorem Chip.setF_reply (m : Chip) (f : Fld) (v n : Nat) : (m.setF f v n).reply = m.reply := rfl
@[simp] theorem Chip.setF_out (m : Chip) (f : Fld) (v n : Nat) : (m.setF f v n).out = m.out := rfl

@[simp] theorem Chip.addF_shadow (m : Chip) (f : Fld) (k n : Nat) : (m.addF f k n).shadow = m.shadow := by simp only [Chip.addF, Chip.setF_shadow]
@[simp] theorem Chip.addF_i3cPtr (m : Chip) (f : Fld) (k n : Nat) : (m.addF f k n).i3cPtr = m.i3cPtr := by simp only [Chip.addF, Chip.setF_i3cPtr]
@[simp] theorem Chip.addF_evr (m : Chip) (f : Fld) (k n : Nat) : (m.addF f k n).evr = m.evr := by simp only [Chip.addF, Chip.setF_evr]
@[simp] theorem Chip.addF_isl (m : Chip) (f : Fld) (k n : Nat) : (m.addF f k n).isl = m.isl := by simp only [Chip.addF, Chip.setF_isl]
@[simp] theorem Chip.addF_img (m : Chip) (f : Fld) (k n : Nat) : (m.addF f k n).img = m.img := by simp only [Chip.addF, Chip.setF_img]
@[simp] theorem Chip.addF_q (m : Chip) (f : Fld) (k n : Nat) : (m.addF f k n).q = m.q := by simp only [Chip.addF, Chip.setF_q]
@[simp] theorem Chip.addF_zn (m : Chip) (f : Fld) (k n : Nat) : (m.addF f k n).zn = m.zn := by simp only [Chip.addF, Chip.setF_zn]
@[simp] theorem Chip.addF_md (m : Chip) (f : Fld) (k n : Nat) : (m.addF f k n).md = m.md := by simp only [Chip.addF, Chip.setF_md]
@[simp] theorem Chip.addF_bp (m : Chip) (f : Fld) (k n : Nat) : (m.addF f k n).bp = m.bp := by simp only [Chip.addF, Chip.setF_bp]
@[simp] theorem Chip.addF_tw (m : Chip) (f : Fld) (k n : Nat) : (m.addF f k n).tw = m.tw := by simp only [Chip.addF, Chip.setF_tw]
@[simp] theorem Chip.addF_kv (m : Chip) (f : Fld) (k n : Nat) : (m.addF f k n).kv = m.kv := by simp only [Chip.addF, Chip.setF_kv]
@[simp] theorem Chip.addF_eng (m : Chip) (f : Fld) (k n : Nat) : (m.addF f k n).eng = m.eng := by simp only [Chip.addF, Chip.setF_eng]
@[simp] theorem Chip.addF_nv (m : Chip) (f : Fld) (k n : Nat) : (m.addF f k n).nv = m.nv := by simp only [Chip.addF, Chip.setF_nv]
@[simp] theorem Chip.addF_tr (m : Chip) (f : Fld) (k n : Nat) : (m.addF f k n).tr = m.tr := by simp only [Chip.addF, Chip.setF_tr]
@[simp] theorem Chip.addF_th (m : Chip) (f : Fld) (k n : Nat) : (m.addF f k n).th = m.th := by simp only [Chip.addF, Chip.setF_th]
@[simp] theorem Chip.addF_psq (m : Chip) (f : Fld) (k n : Nat) : (m.addF f k n).psq = m.psq := by simp only [Chip.addF, Chip.setF_psq]
@[simp] theorem Chip.addF_plp (m : Chip) (f : Fld) (k n : Nat) : (m.addF f k n).plp = m.plp := by simp only [Chip.addF, Chip.setF_plp]
@[simp] theorem Chip.addF_st (m : Chip) (f : Fld) (k n : Nat) : (m.addF f k n).st = m.st := by simp only [Chip.addF, Chip.setF_st]
@[simp] theorem Chip.addF_sd (m : Chip) (f : Fld) (k n : Nat) : (m.addF f k n).sd = m.sd := by simp only [Chip.addF, Chip.setF_sd]
@[simp] theorem Chip.addF_dr (m : Chip) (f : Fld) (k n : Nat) : (m.addF f k n).dr = m.dr := by simp only [Chip.addF, Chip.setF_dr]
@[simp] theorem Chip.addF_pt (m : Chip) (f : Fld) (k n : Nat) : (m.addF f k n).pt = m.pt := by simp only [Chip.addF, Chip.setF_pt]
@[simp] theorem Chip.addF_ag (m : Chip) (f : Fld) (k n : Nat) : (m.addF f k n).ag = m.ag := by simp only [Chip.addF, Chip.setF_ag]
@[simp] theorem Chip.addF_freeCtr (m : Chip) (f : Fld) (k n : Nat) : (m.addF f k n).freeCtr = m.freeCtr := by simp only [Chip.addF, Chip.setF_freeCtr]
@[simp] theorem Chip.addF_pins (m : Chip) (f : Fld) (k n : Nat) : (m.addF f k n).pins = m.pins := by simp only [Chip.addF, Chip.setF_pins]
@[simp] theorem Chip.addF_reply (m : Chip) (f : Fld) (k n : Nat) : (m.addF f k n).reply = m.reply := by simp only [Chip.addF, Chip.setF_reply]
@[simp] theorem Chip.addF_out (m : Chip) (f : Fld) (k n : Nat) : (m.addF f k n).out = m.out := by simp only [Chip.addF, Chip.setF_out]

@[simp] theorem Chip.incF_shadow (m : Chip) (f : Fld) (n : Nat) : (m.incF f n).shadow = m.shadow := by simp only [Chip.incF, Chip.addF_shadow]
@[simp] theorem Chip.incF_i3cPtr (m : Chip) (f : Fld) (n : Nat) : (m.incF f n).i3cPtr = m.i3cPtr := by simp only [Chip.incF, Chip.addF_i3cPtr]
@[simp] theorem Chip.incF_evr (m : Chip) (f : Fld) (n : Nat) : (m.incF f n).evr = m.evr := by simp only [Chip.incF, Chip.addF_evr]
@[simp] theorem Chip.incF_isl (m : Chip) (f : Fld) (n : Nat) : (m.incF f n).isl = m.isl := by simp only [Chip.incF, Chip.addF_isl]
@[simp] theorem Chip.incF_img (m : Chip) (f : Fld) (n : Nat) : (m.incF f n).img = m.img := by simp only [Chip.incF, Chip.addF_img]
@[simp] theorem Chip.incF_q (m : Chip) (f : Fld) (n : Nat) : (m.incF f n).q = m.q := by simp only [Chip.incF, Chip.addF_q]
@[simp] theorem Chip.incF_zn (m : Chip) (f : Fld) (n : Nat) : (m.incF f n).zn = m.zn := by simp only [Chip.incF, Chip.addF_zn]
@[simp] theorem Chip.incF_md (m : Chip) (f : Fld) (n : Nat) : (m.incF f n).md = m.md := by simp only [Chip.incF, Chip.addF_md]
@[simp] theorem Chip.incF_bp (m : Chip) (f : Fld) (n : Nat) : (m.incF f n).bp = m.bp := by simp only [Chip.incF, Chip.addF_bp]
@[simp] theorem Chip.incF_tw (m : Chip) (f : Fld) (n : Nat) : (m.incF f n).tw = m.tw := by simp only [Chip.incF, Chip.addF_tw]
@[simp] theorem Chip.incF_kv (m : Chip) (f : Fld) (n : Nat) : (m.incF f n).kv = m.kv := by simp only [Chip.incF, Chip.addF_kv]
@[simp] theorem Chip.incF_eng (m : Chip) (f : Fld) (n : Nat) : (m.incF f n).eng = m.eng := by simp only [Chip.incF, Chip.addF_eng]
@[simp] theorem Chip.incF_nv (m : Chip) (f : Fld) (n : Nat) : (m.incF f n).nv = m.nv := by simp only [Chip.incF, Chip.addF_nv]
@[simp] theorem Chip.incF_tr (m : Chip) (f : Fld) (n : Nat) : (m.incF f n).tr = m.tr := by simp only [Chip.incF, Chip.addF_tr]
@[simp] theorem Chip.incF_th (m : Chip) (f : Fld) (n : Nat) : (m.incF f n).th = m.th := by simp only [Chip.incF, Chip.addF_th]
@[simp] theorem Chip.incF_psq (m : Chip) (f : Fld) (n : Nat) : (m.incF f n).psq = m.psq := by simp only [Chip.incF, Chip.addF_psq]
@[simp] theorem Chip.incF_plp (m : Chip) (f : Fld) (n : Nat) : (m.incF f n).plp = m.plp := by simp only [Chip.incF, Chip.addF_plp]
@[simp] theorem Chip.incF_st (m : Chip) (f : Fld) (n : Nat) : (m.incF f n).st = m.st := by simp only [Chip.incF, Chip.addF_st]
@[simp] theorem Chip.incF_sd (m : Chip) (f : Fld) (n : Nat) : (m.incF f n).sd = m.sd := by simp only [Chip.incF, Chip.addF_sd]
@[simp] theorem Chip.incF_dr (m : Chip) (f : Fld) (n : Nat) : (m.incF f n).dr = m.dr := by simp only [Chip.incF, Chip.addF_dr]
@[simp] theorem Chip.incF_pt (m : Chip) (f : Fld) (n : Nat) : (m.incF f n).pt = m.pt := by simp only [Chip.incF, Chip.addF_pt]
@[simp] theorem Chip.incF_ag (m : Chip) (f : Fld) (n : Nat) : (m.incF f n).ag = m.ag := by simp only [Chip.incF, Chip.addF_ag]
@[simp] theorem Chip.incF_freeCtr (m : Chip) (f : Fld) (n : Nat) : (m.incF f n).freeCtr = m.freeCtr := by simp only [Chip.incF, Chip.addF_freeCtr]
@[simp] theorem Chip.incF_pins (m : Chip) (f : Fld) (n : Nat) : (m.incF f n).pins = m.pins := by simp only [Chip.incF, Chip.addF_pins]
@[simp] theorem Chip.incF_reply (m : Chip) (f : Fld) (n : Nat) : (m.incF f n).reply = m.reply := by simp only [Chip.incF, Chip.addF_reply]
@[simp] theorem Chip.incF_out (m : Chip) (f : Fld) (n : Nat) : (m.incF f n).out = m.out := by simp only [Chip.incF, Chip.addF_out]

@[simp] theorem Chip.setBit_shadow (m : Chip) (f : Fld) (i : Nat) (v : Bool) (n : Nat) : (m.setBit f i v n).shadow = m.shadow := by simp only [Chip.setBit, Chip.setF_shadow]
@[simp] theorem Chip.setBit_i3cPtr (m : Chip) (f : Fld) (i : Nat) (v : Bool) (n : Nat) : (m.setBit f i v n).i3cPtr = m.i3cPtr := by simp only [Chip.setBit, Chip.setF_i3cPtr]
@[simp] theorem Chip.setBit_evr (m : Chip) (f : Fld) (i : Nat) (v : Bool) (n : Nat) : (m.setBit f i v n).evr = m.evr := by simp only [Chip.setBit, Chip.setF_evr]
@[simp] theorem Chip.setBit_isl (m : Chip) (f : Fld) (i : Nat) (v : Bool) (n : Nat) : (m.setBit f i v n).isl = m.isl := by simp only [Chip.setBit, Chip.setF_isl]
@[simp] theorem Chip.setBit_img (m : Chip) (f : Fld) (i : Nat) (v : Bool) (n : Nat) : (m.setBit f i v n).img = m.img := by simp only [Chip.setBit, Chip.setF_img]
@[simp] theorem Chip.setBit_q (m : Chip) (f : Fld) (i : Nat) (v : Bool) (n : Nat) : (m.setBit f i v n).q = m.q := by simp only [Chip.setBit, Chip.setF_q]
@[simp] theorem Chip.setBit_zn (m : Chip) (f : Fld) (i : Nat) (v : Bool) (n : Nat) : (m.setBit f i v n).zn = m.zn := by simp only [Chip.setBit, Chip.setF_zn]
@[simp] theorem Chip.setBit_md (m : Chip) (f : Fld) (i : Nat) (v : Bool) (n : Nat) : (m.setBit f i v n).md = m.md := by simp only [Chip.setBit, Chip.setF_md]
@[simp] theorem Chip.setBit_bp (m : Chip) (f : Fld) (i : Nat) (v : Bool) (n : Nat) : (m.setBit f i v n).bp = m.bp := by simp only [Chip.setBit, Chip.setF_bp]
@[simp] theorem Chip.setBit_tw (m : Chip) (f : Fld) (i : Nat) (v : Bool) (n : Nat) : (m.setBit f i v n).tw = m.tw := by simp only [Chip.setBit, Chip.setF_tw]
@[simp] theorem Chip.setBit_kv (m : Chip) (f : Fld) (i : Nat) (v : Bool) (n : Nat) : (m.setBit f i v n).kv = m.kv := by simp only [Chip.setBit, Chip.setF_kv]
@[simp] theorem Chip.setBit_eng (m : Chip) (f : Fld) (i : Nat) (v : Bool) (n : Nat) : (m.setBit f i v n).eng = m.eng := by simp only [Chip.setBit, Chip.setF_eng]
@[simp] theorem Chip.setBit_nv (m : Chip) (f : Fld) (i : Nat) (v : Bool) (n : Nat) : (m.setBit f i v n).nv = m.nv := by simp only [Chip.setBit, Chip.setF_nv]
@[simp] theorem Chip.setBit_tr (m : Chip) (f : Fld) (i : Nat) (v : Bool) (n : Nat) : (m.setBit f i v n).tr = m.tr := by simp only [Chip.setBit, Chip.setF_tr]
@[simp] theorem Chip.setBit_th (m : Chip) (f : Fld) (i : Nat) (v : Bool) (n : Nat) : (m.setBit f i v n).th = m.th := by simp only [Chip.setBit, Chip.setF_th]
@[simp] theorem Chip.setBit_psq (m : Chip) (f : Fld) (i : Nat) (v : Bool) (n : Nat) : (m.setBit f i v n).psq = m.psq := by simp only [Chip.setBit, Chip.setF_psq]
@[simp] theorem Chip.setBit_plp (m : Chip) (f : Fld) (i : Nat) (v : Bool) (n : Nat) : (m.setBit f i v n).plp = m.plp := by simp only [Chip.setBit, Chip.setF_plp]
@[simp] theorem Chip.setBit_st (m : Chip) (f : Fld) (i : Nat) (v : Bool) (n : Nat) : (m.setBit f i v n).st = m.st := by simp only [Chip.setBit, Chip.setF_st]
@[simp] theorem Chip.setBit_sd (m : Chip) (f : Fld) (i : Nat) (v : Bool) (n : Nat) : (m.setBit f i v n).sd = m.sd := by simp only [Chip.setBit, Chip.setF_sd]
@[simp] theorem Chip.setBit_dr (m : Chip) (f : Fld) (i : Nat) (v : Bool) (n : Nat) : (m.setBit f i v n).dr = m.dr := by simp only [Chip.setBit, Chip.setF_dr]
@[simp] theorem Chip.setBit_pt (m : Chip) (f : Fld) (i : Nat) (v : Bool) (n : Nat) : (m.setBit f i v n).pt = m.pt := by simp only [Chip.setBit, Chip.setF_pt]
@[simp] theorem Chip.setBit_ag (m : Chip) (f : Fld) (i : Nat) (v : Bool) (n : Nat) : (m.setBit f i v n).ag = m.ag := by simp only [Chip.setBit, Chip.setF_ag]
@[simp] theorem Chip.setBit_freeCtr (m : Chip) (f : Fld) (i : Nat) (v : Bool) (n : Nat) : (m.setBit f i v n).freeCtr = m.freeCtr := by simp only [Chip.setBit, Chip.setF_freeCtr]
@[simp] theorem Chip.setBit_pins (m : Chip) (f : Fld) (i : Nat) (v : Bool) (n : Nat) : (m.setBit f i v n).pins = m.pins := by simp only [Chip.setBit, Chip.setF_pins]
@[simp] theorem Chip.setBit_reply (m : Chip) (f : Fld) (i : Nat) (v : Bool) (n : Nat) : (m.setBit f i v n).reply = m.reply := by simp only [Chip.setBit, Chip.setF_reply]
@[simp] theorem Chip.setBit_out (m : Chip) (f : Fld) (i : Nat) (v : Bool) (n : Nat) : (m.setBit f i v n).out = m.out := by simp only [Chip.setBit, Chip.setF_out]

@[simp] theorem Chip.addWide_shadow (m : Chip) (lo hi : Fld) (k n : Nat) : (m.addWide lo hi k n).shadow = m.shadow := by simp only [Chip.addWide, Chip.setF_shadow]
@[simp] theorem Chip.addWide_i3cPtr (m : Chip) (lo hi : Fld) (k n : Nat) : (m.addWide lo hi k n).i3cPtr = m.i3cPtr := by simp only [Chip.addWide, Chip.setF_i3cPtr]
@[simp] theorem Chip.addWide_evr (m : Chip) (lo hi : Fld) (k n : Nat) : (m.addWide lo hi k n).evr = m.evr := by simp only [Chip.addWide, Chip.setF_evr]
@[simp] theorem Chip.addWide_isl (m : Chip) (lo hi : Fld) (k n : Nat) : (m.addWide lo hi k n).isl = m.isl := by simp only [Chip.addWide, Chip.setF_isl]
@[simp] theorem Chip.addWide_img (m : Chip) (lo hi : Fld) (k n : Nat) : (m.addWide lo hi k n).img = m.img := by simp only [Chip.addWide, Chip.setF_img]
@[simp] theorem Chip.addWide_q (m : Chip) (lo hi : Fld) (k n : Nat) : (m.addWide lo hi k n).q = m.q := by simp only [Chip.addWide, Chip.setF_q]
@[simp] theorem Chip.addWide_zn (m : Chip) (lo hi : Fld) (k n : Nat) : (m.addWide lo hi k n).zn = m.zn := by simp only [Chip.addWide, Chip.setF_zn]
@[simp] theorem Chip.addWide_md (m : Chip) (lo hi : Fld) (k n : Nat) : (m.addWide lo hi k n).md = m.md := by simp only [Chip.addWide, Chip.setF_md]
@[simp] theorem Chip.addWide_bp (m : Chip) (lo hi : Fld) (k n : Nat) : (m.addWide lo hi k n).bp = m.bp := by simp only [Chip.addWide, Chip.setF_bp]
@[simp] theorem Chip.addWide_tw (m : Chip) (lo hi : Fld) (k n : Nat) : (m.addWide lo hi k n).tw = m.tw := by simp only [Chip.addWide, Chip.setF_tw]
@[simp] theorem Chip.addWide_kv (m : Chip) (lo hi : Fld) (k n : Nat) : (m.addWide lo hi k n).kv = m.kv := by simp only [Chip.addWide, Chip.setF_kv]
@[simp] theorem Chip.addWide_eng (m : Chip) (lo hi : Fld) (k n : Nat) : (m.addWide lo hi k n).eng = m.eng := by simp only [Chip.addWide, Chip.setF_eng]
@[simp] theorem Chip.addWide_nv (m : Chip) (lo hi : Fld) (k n : Nat) : (m.addWide lo hi k n).nv = m.nv := by simp only [Chip.addWide, Chip.setF_nv]
@[simp] theorem Chip.addWide_tr (m : Chip) (lo hi : Fld) (k n : Nat) : (m.addWide lo hi k n).tr = m.tr := by simp only [Chip.addWide, Chip.setF_tr]
@[simp] theorem Chip.addWide_th (m : Chip) (lo hi : Fld) (k n : Nat) : (m.addWide lo hi k n).th = m.th := by simp only [Chip.addWide, Chip.setF_th]
@[simp] theorem Chip.addWide_psq (m : Chip) (lo hi : Fld) (k n : Nat) : (m.addWide lo hi k n).psq = m.psq := by simp only [Chip.addWide, Chip.setF_psq]
@[simp] theorem Chip.addWide_plp (m : Chip) (lo hi : Fld) (k n : Nat) : (m.addWide lo hi k n).plp = m.plp := by simp only [Chip.addWide, Chip.setF_plp]
@[simp] theorem Chip.addWide_st (m : Chip) (lo hi : Fld) (k n : Nat) : (m.addWide lo hi k n).st = m.st := by simp only [Chip.addWide, Chip.setF_st]
@[simp] theorem Chip.addWide_sd (m : Chip) (lo hi : Fld) (k n : Nat) : (m.addWide lo hi k n).sd = m.sd := by simp only [Chip.addWide, Chip.setF_sd]
@[simp] theorem Chip.addWide_dr (m : Chip) (lo hi : Fld) (k n : Nat) : (m.addWide lo hi k n).dr = m.dr := by simp only [Chip.addWide, Chip.setF_dr]
@[simp] theorem Chip.addWide_pt (m : Chip) (lo hi : Fld) (k n : Nat) : (m.addWide lo hi k n).pt = m.pt := by simp only [Chip.addWide, Chip.setF_pt]
@[simp] theorem Chip.addWide_ag (m : Chip) (lo hi : Fld) (k n : Nat) : (m.addWide lo hi k n).ag = m.ag := by simp only [Chip.addWide, Chip.setF_ag]
@[simp] theorem Chip.addWide_freeCtr (m : Chip) (lo hi : Fld) (k n : Nat) : (m.addWide lo hi k n).freeCtr = m.freeCtr := by simp only [Chip.addWide, Chip.setF_freeCtr]
@[simp] theorem Chip.addWide_pins (m : Chip) (lo hi : Fld) (k n : Nat) : (m.addWide lo hi k n).pins = m.pins := by simp only [Chip.addWide, Chip.setF_pins]
@[simp] theorem Chip.addWide_reply (m : Chip) (lo hi : Fld) (k n : Nat) : (m.addWide lo hi k n).reply = m.reply := by simp only [Chip.addWide, Chip.setF_reply]
@[simp] theorem Chip.addWide_out (m : Chip) (lo hi : Fld) (k n : Nat) : (m.addWide lo hi k n).out = m.out := by simp only [Chip.addWide, Chip.setF_out]

/-! ## Outputs and free values -/

@[simp] theorem Chip.send_regs (m : Chip) (o : Out) : (m.send o).regs = m.regs := rfl
@[simp] theorem Chip.send_shadow (m : Chip) (o : Out) : (m.send o).shadow = m.shadow := rfl
@[simp] theorem Chip.send_i3cPtr (m : Chip) (o : Out) : (m.send o).i3cPtr = m.i3cPtr := rfl
@[simp] theorem Chip.send_evr (m : Chip) (o : Out) : (m.send o).evr = m.evr := rfl
@[simp] theorem Chip.send_isl (m : Chip) (o : Out) : (m.send o).isl = m.isl := rfl
@[simp] theorem Chip.send_img (m : Chip) (o : Out) : (m.send o).img = m.img := rfl
@[simp] theorem Chip.send_q (m : Chip) (o : Out) : (m.send o).q = m.q := rfl
@[simp] theorem Chip.send_zn (m : Chip) (o : Out) : (m.send o).zn = m.zn := rfl
@[simp] theorem Chip.send_md (m : Chip) (o : Out) : (m.send o).md = m.md := rfl
@[simp] theorem Chip.send_bp (m : Chip) (o : Out) : (m.send o).bp = m.bp := rfl
@[simp] theorem Chip.send_tw (m : Chip) (o : Out) : (m.send o).tw = m.tw := rfl
@[simp] theorem Chip.send_kv (m : Chip) (o : Out) : (m.send o).kv = m.kv := rfl
@[simp] theorem Chip.send_eng (m : Chip) (o : Out) : (m.send o).eng = m.eng := rfl
@[simp] theorem Chip.send_nv (m : Chip) (o : Out) : (m.send o).nv = m.nv := rfl
@[simp] theorem Chip.send_tr (m : Chip) (o : Out) : (m.send o).tr = m.tr := rfl
@[simp] theorem Chip.send_th (m : Chip) (o : Out) : (m.send o).th = m.th := rfl
@[simp] theorem Chip.send_psq (m : Chip) (o : Out) : (m.send o).psq = m.psq := rfl
@[simp] theorem Chip.send_plp (m : Chip) (o : Out) : (m.send o).plp = m.plp := rfl
@[simp] theorem Chip.send_st (m : Chip) (o : Out) : (m.send o).st = m.st := rfl
@[simp] theorem Chip.send_sd (m : Chip) (o : Out) : (m.send o).sd = m.sd := rfl
@[simp] theorem Chip.send_dr (m : Chip) (o : Out) : (m.send o).dr = m.dr := rfl
@[simp] theorem Chip.send_pt (m : Chip) (o : Out) : (m.send o).pt = m.pt := rfl
@[simp] theorem Chip.send_ag (m : Chip) (o : Out) : (m.send o).ag = m.ag := rfl
@[simp] theorem Chip.send_freeCtr (m : Chip) (o : Out) : (m.send o).freeCtr = m.freeCtr := rfl
@[simp] theorem Chip.send_pins (m : Chip) (o : Out) : (m.send o).pins = m.pins := rfl
@[simp] theorem Chip.send_reply (m : Chip) (o : Out) : (m.send o).reply = m.reply := rfl

@[simp] theorem Chip.draw_regs (m : Chip) (w : Nat) : ((m.draw w).2).regs = m.regs := rfl
@[simp] theorem Chip.draw_shadow (m : Chip) (w : Nat) : ((m.draw w).2).shadow = m.shadow := rfl
@[simp] theorem Chip.draw_i3cPtr (m : Chip) (w : Nat) : ((m.draw w).2).i3cPtr = m.i3cPtr := rfl
@[simp] theorem Chip.draw_evr (m : Chip) (w : Nat) : ((m.draw w).2).evr = m.evr := rfl
@[simp] theorem Chip.draw_isl (m : Chip) (w : Nat) : ((m.draw w).2).isl = m.isl := rfl
@[simp] theorem Chip.draw_img (m : Chip) (w : Nat) : ((m.draw w).2).img = m.img := rfl
@[simp] theorem Chip.draw_q (m : Chip) (w : Nat) : ((m.draw w).2).q = m.q := rfl
@[simp] theorem Chip.draw_zn (m : Chip) (w : Nat) : ((m.draw w).2).zn = m.zn := rfl
@[simp] theorem Chip.draw_md (m : Chip) (w : Nat) : ((m.draw w).2).md = m.md := rfl
@[simp] theorem Chip.draw_bp (m : Chip) (w : Nat) : ((m.draw w).2).bp = m.bp := rfl
@[simp] theorem Chip.draw_tw (m : Chip) (w : Nat) : ((m.draw w).2).tw = m.tw := rfl
@[simp] theorem Chip.draw_kv (m : Chip) (w : Nat) : ((m.draw w).2).kv = m.kv := rfl
@[simp] theorem Chip.draw_eng (m : Chip) (w : Nat) : ((m.draw w).2).eng = m.eng := rfl
@[simp] theorem Chip.draw_nv (m : Chip) (w : Nat) : ((m.draw w).2).nv = m.nv := rfl
@[simp] theorem Chip.draw_tr (m : Chip) (w : Nat) : ((m.draw w).2).tr = m.tr := rfl
@[simp] theorem Chip.draw_th (m : Chip) (w : Nat) : ((m.draw w).2).th = m.th := rfl
@[simp] theorem Chip.draw_psq (m : Chip) (w : Nat) : ((m.draw w).2).psq = m.psq := rfl
@[simp] theorem Chip.draw_plp (m : Chip) (w : Nat) : ((m.draw w).2).plp = m.plp := rfl
@[simp] theorem Chip.draw_st (m : Chip) (w : Nat) : ((m.draw w).2).st = m.st := rfl
@[simp] theorem Chip.draw_sd (m : Chip) (w : Nat) : ((m.draw w).2).sd = m.sd := rfl
@[simp] theorem Chip.draw_dr (m : Chip) (w : Nat) : ((m.draw w).2).dr = m.dr := rfl
@[simp] theorem Chip.draw_pt (m : Chip) (w : Nat) : ((m.draw w).2).pt = m.pt := rfl
@[simp] theorem Chip.draw_ag (m : Chip) (w : Nat) : ((m.draw w).2).ag = m.ag := rfl
@[simp] theorem Chip.draw_pins (m : Chip) (w : Nat) : ((m.draw w).2).pins = m.pins := rfl
@[simp] theorem Chip.draw_reply (m : Chip) (w : Nat) : ((m.draw w).2).reply = m.reply := rfl
@[simp] theorem Chip.draw_out (m : Chip) (w : Nat) : ((m.draw w).2).out = m.out := rfl

@[simp] theorem Chip.fresh_regs (m : Chip) : (m.fresh).regs = m.regs := rfl
@[simp] theorem Chip.fresh_shadow (m : Chip) : (m.fresh).shadow = m.shadow := rfl
@[simp] theorem Chip.fresh_i3cPtr (m : Chip) : (m.fresh).i3cPtr = m.i3cPtr := rfl
@[simp] theorem Chip.fresh_evr (m : Chip) : (m.fresh).evr = m.evr := rfl
@[simp] theorem Chip.fresh_isl (m : Chip) : (m.fresh).isl = m.isl := rfl
@[simp] theorem Chip.fresh_img (m : Chip) : (m.fresh).img = m.img := rfl
@[simp] theorem Chip.fresh_q (m : Chip) : (m.fresh).q = m.q := rfl
@[simp] theorem Chip.fresh_zn (m : Chip) : (m.fresh).zn = m.zn := rfl
@[simp] theorem Chip.fresh_md (m : Chip) : (m.fresh).md = m.md := rfl
@[simp] theorem Chip.fresh_bp (m : Chip) : (m.fresh).bp = m.bp := rfl
@[simp] theorem Chip.fresh_tw (m : Chip) : (m.fresh).tw = m.tw := rfl
@[simp] theorem Chip.fresh_kv (m : Chip) : (m.fresh).kv = m.kv := rfl
@[simp] theorem Chip.fresh_eng (m : Chip) : (m.fresh).eng = m.eng := rfl
@[simp] theorem Chip.fresh_nv (m : Chip) : (m.fresh).nv = m.nv := rfl
@[simp] theorem Chip.fresh_tr (m : Chip) : (m.fresh).tr = m.tr := rfl
@[simp] theorem Chip.fresh_th (m : Chip) : (m.fresh).th = m.th := rfl
@[simp] theorem Chip.fresh_psq (m : Chip) : (m.fresh).psq = m.psq := rfl
@[simp] theorem Chip.fresh_plp (m : Chip) : (m.fresh).plp = m.plp := rfl
@[simp] theorem Chip.fresh_st (m : Chip) : (m.fresh).st = m.st := rfl
@[simp] theorem Chip.fresh_sd (m : Chip) : (m.fresh).sd = m.sd := rfl
@[simp] theorem Chip.fresh_dr (m : Chip) : (m.fresh).dr = m.dr := rfl
@[simp] theorem Chip.fresh_pt (m : Chip) : (m.fresh).pt = m.pt := rfl
@[simp] theorem Chip.fresh_ag (m : Chip) : (m.fresh).ag = m.ag := rfl
@[simp] theorem Chip.fresh_freeCtr (m : Chip) : (m.fresh).freeCtr = m.freeCtr := rfl
@[simp] theorem Chip.fresh_pins (m : Chip) : (m.fresh).pins = m.pins := rfl

@[simp] theorem Chip.sendFlits_regs (m : Chip) : (m.sendFlits).regs = m.regs := rfl
@[simp] theorem Chip.sendFlits_shadow (m : Chip) : (m.sendFlits).shadow = m.shadow := rfl
@[simp] theorem Chip.sendFlits_i3cPtr (m : Chip) : (m.sendFlits).i3cPtr = m.i3cPtr := rfl
@[simp] theorem Chip.sendFlits_evr (m : Chip) : (m.sendFlits).evr = m.evr := rfl
@[simp] theorem Chip.sendFlits_isl (m : Chip) : (m.sendFlits).isl = m.isl := rfl
@[simp] theorem Chip.sendFlits_img (m : Chip) : (m.sendFlits).img = m.img := rfl
@[simp] theorem Chip.sendFlits_q (m : Chip) : (m.sendFlits).q = m.q := rfl
@[simp] theorem Chip.sendFlits_zn (m : Chip) : (m.sendFlits).zn = m.zn := rfl
@[simp] theorem Chip.sendFlits_md (m : Chip) : (m.sendFlits).md = m.md := rfl
@[simp] theorem Chip.sendFlits_bp (m : Chip) : (m.sendFlits).bp = m.bp := rfl
@[simp] theorem Chip.sendFlits_tw (m : Chip) : (m.sendFlits).tw = m.tw := rfl
@[simp] theorem Chip.sendFlits_kv (m : Chip) : (m.sendFlits).kv = m.kv := rfl
@[simp] theorem Chip.sendFlits_eng (m : Chip) : (m.sendFlits).eng = m.eng := rfl
@[simp] theorem Chip.sendFlits_nv (m : Chip) : (m.sendFlits).nv = m.nv := rfl
@[simp] theorem Chip.sendFlits_tr (m : Chip) : (m.sendFlits).tr = m.tr := rfl
@[simp] theorem Chip.sendFlits_th (m : Chip) : (m.sendFlits).th = m.th := rfl
@[simp] theorem Chip.sendFlits_psq (m : Chip) : (m.sendFlits).psq = m.psq := rfl
@[simp] theorem Chip.sendFlits_plp (m : Chip) : (m.sendFlits).plp = m.plp := rfl
@[simp] theorem Chip.sendFlits_st (m : Chip) : (m.sendFlits).st = m.st := rfl
@[simp] theorem Chip.sendFlits_sd (m : Chip) : (m.sendFlits).sd = m.sd := rfl
@[simp] theorem Chip.sendFlits_dr (m : Chip) : (m.sendFlits).dr = m.dr := rfl
@[simp] theorem Chip.sendFlits_pt (m : Chip) : (m.sendFlits).pt = m.pt := rfl
@[simp] theorem Chip.sendFlits_ag (m : Chip) : (m.sendFlits).ag = m.ag := rfl
@[simp] theorem Chip.sendFlits_freeCtr (m : Chip) : (m.sendFlits).freeCtr = m.freeCtr := rfl
@[simp] theorem Chip.sendFlits_pins (m : Chip) : (m.sendFlits).pins = m.pins := rfl
@[simp] theorem Chip.sendFlits_reply (m : Chip) : (m.sendFlits).reply = m.reply := rfl

@[simp] theorem Chip.drivePins_regs (m : Chip) : (m.drivePins).regs = m.regs := rfl
@[simp] theorem Chip.drivePins_shadow (m : Chip) : (m.drivePins).shadow = m.shadow := rfl
@[simp] theorem Chip.drivePins_i3cPtr (m : Chip) : (m.drivePins).i3cPtr = m.i3cPtr := rfl
@[simp] theorem Chip.drivePins_evr (m : Chip) : (m.drivePins).evr = m.evr := rfl
@[simp] theorem Chip.drivePins_isl (m : Chip) : (m.drivePins).isl = m.isl := rfl
@[simp] theorem Chip.drivePins_img (m : Chip) : (m.drivePins).img = m.img := rfl
@[simp] theorem Chip.drivePins_q (m : Chip) : (m.drivePins).q = m.q := rfl
@[simp] theorem Chip.drivePins_zn (m : Chip) : (m.drivePins).zn = m.zn := rfl
@[simp] theorem Chip.drivePins_md (m : Chip) : (m.drivePins).md = m.md := rfl
@[simp] theorem Chip.drivePins_bp (m : Chip) : (m.drivePins).bp = m.bp := rfl
@[simp] theorem Chip.drivePins_tw (m : Chip) : (m.drivePins).tw = m.tw := rfl
@[simp] theorem Chip.drivePins_kv (m : Chip) : (m.drivePins).kv = m.kv := rfl
@[simp] theorem Chip.drivePins_eng (m : Chip) : (m.drivePins).eng = m.eng := rfl
@[simp] theorem Chip.drivePins_nv (m : Chip) : (m.drivePins).nv = m.nv := rfl
@[simp] theorem Chip.drivePins_tr (m : Chip) : (m.drivePins).tr = m.tr := rfl
@[simp] theorem Chip.drivePins_th (m : Chip) : (m.drivePins).th = m.th := rfl
@[simp] theorem Chip.drivePins_psq (m : Chip) : (m.drivePins).psq = m.psq := rfl
@[simp] theorem Chip.drivePins_plp (m : Chip) : (m.drivePins).plp = m.plp := rfl
@[simp] theorem Chip.drivePins_st (m : Chip) : (m.drivePins).st = m.st := rfl
@[simp] theorem Chip.drivePins_sd (m : Chip) : (m.drivePins).sd = m.sd := rfl
@[simp] theorem Chip.drivePins_dr (m : Chip) : (m.drivePins).dr = m.dr := rfl
@[simp] theorem Chip.drivePins_pt (m : Chip) : (m.drivePins).pt = m.pt := rfl
@[simp] theorem Chip.drivePins_ag (m : Chip) : (m.drivePins).ag = m.ag := rfl
@[simp] theorem Chip.drivePins_freeCtr (m : Chip) : (m.drivePins).freeCtr = m.freeCtr := rfl
@[simp] theorem Chip.drivePins_reply (m : Chip) : (m.drivePins).reply = m.reply := rfl

/-! ## Events -/

@[simp] theorem Chip.faultLine_shadow (m : Chip) (code : Nat) : (m.faultLine code).shadow = m.shadow := by
  unfold Chip.faultLine; dsimp only; split <;> simp only [Chip.setF_shadow, Chip.incF_shadow, Chip.setBit_shadow]
@[simp] theorem Chip.faultLine_i3cPtr (m : Chip) (code : Nat) : (m.faultLine code).i3cPtr = m.i3cPtr := by
  unfold Chip.faultLine; dsimp only; split <;> simp only [Chip.setF_i3cPtr, Chip.incF_i3cPtr, Chip.setBit_i3cPtr]
@[simp] theorem Chip.faultLine_evr (m : Chip) (code : Nat) : (m.faultLine code).evr = m.evr := by
  unfold Chip.faultLine; dsimp only; split <;> simp only [Chip.setF_evr, Chip.incF_evr, Chip.setBit_evr]
@[simp] theorem Chip.faultLine_isl (m : Chip) (code : Nat) : (m.faultLine code).isl = m.isl := by
  unfold Chip.faultLine; dsimp only; split <;> simp only [Chip.setF_isl, Chip.incF_isl, Chip.setBit_isl]
@[simp] theorem Chip.faultLine_img (m : Chip) (code : Nat) : (m.faultLine code).img = m.img := by
  unfold Chip.faultLine; dsimp only; split <;> simp only [Chip.setF_img, Chip.incF_img, Chip.setBit_img]
@[simp] theorem Chip.faultLine_q (m : Chip) (code : Nat) : (m.faultLine code).q = m.q := by
  unfold Chip.faultLine; dsimp only; split <;> simp only [Chip.setF_q, Chip.incF_q, Chip.setBit_q]
@[simp] theorem Chip.faultLine_zn (m : Chip) (code : Nat) : (m.faultLine code).zn = m.zn := by
  unfold Chip.faultLine; dsimp only; split <;> simp only [Chip.setF_zn, Chip.incF_zn, Chip.setBit_zn]
@[simp] theorem Chip.faultLine_md (m : Chip) (code : Nat) : (m.faultLine code).md = m.md := by
  unfold Chip.faultLine; dsimp only; split <;> simp only [Chip.setF_md, Chip.incF_md, Chip.setBit_md]
@[simp] theorem Chip.faultLine_bp (m : Chip) (code : Nat) : (m.faultLine code).bp = m.bp := by
  unfold Chip.faultLine; dsimp only; split <;> simp only [Chip.setF_bp, Chip.incF_bp, Chip.setBit_bp]
@[simp] theorem Chip.faultLine_tw (m : Chip) (code : Nat) : (m.faultLine code).tw = m.tw := by
  unfold Chip.faultLine; dsimp only; split <;> simp only [Chip.setF_tw, Chip.incF_tw, Chip.setBit_tw]
@[simp] theorem Chip.faultLine_kv (m : Chip) (code : Nat) : (m.faultLine code).kv = m.kv := by
  unfold Chip.faultLine; dsimp only; split <;> simp only [Chip.setF_kv, Chip.incF_kv, Chip.setBit_kv]
@[simp] theorem Chip.faultLine_eng (m : Chip) (code : Nat) : (m.faultLine code).eng = m.eng := by
  unfold Chip.faultLine; dsimp only; split <;> simp only [Chip.setF_eng, Chip.incF_eng, Chip.setBit_eng]
@[simp] theorem Chip.faultLine_nv (m : Chip) (code : Nat) : (m.faultLine code).nv = m.nv := by
  unfold Chip.faultLine; dsimp only; split <;> simp only [Chip.setF_nv, Chip.incF_nv, Chip.setBit_nv]
@[simp] theorem Chip.faultLine_tr (m : Chip) (code : Nat) : (m.faultLine code).tr = m.tr := by
  unfold Chip.faultLine; dsimp only; split <;> simp only [Chip.setF_tr, Chip.incF_tr, Chip.setBit_tr]
@[simp] theorem Chip.faultLine_th (m : Chip) (code : Nat) : (m.faultLine code).th = m.th := by
  unfold Chip.faultLine; dsimp only; split <;> simp only [Chip.setF_th, Chip.incF_th, Chip.setBit_th]
@[simp] theorem Chip.faultLine_psq (m : Chip) (code : Nat) : (m.faultLine code).psq = m.psq := by
  unfold Chip.faultLine; dsimp only; split <;> simp only [Chip.setF_psq, Chip.incF_psq, Chip.setBit_psq]
@[simp] theorem Chip.faultLine_plp (m : Chip) (code : Nat) : (m.faultLine code).plp = m.plp := by
  unfold Chip.faultLine; dsimp only; split <;> simp only [Chip.setF_plp, Chip.incF_plp, Chip.setBit_plp]
@[simp] theorem Chip.faultLine_st (m : Chip) (code : Nat) : (m.faultLine code).st = m.st := by
  unfold Chip.faultLine; dsimp only; split <;> simp only [Chip.setF_st, Chip.incF_st, Chip.setBit_st]
@[simp] theorem Chip.faultLine_sd (m : Chip) (code : Nat) : (m.faultLine code).sd = m.sd := by
  unfold Chip.faultLine; dsimp only; split <;> simp only [Chip.setF_sd, Chip.incF_sd, Chip.setBit_sd]
@[simp] theorem Chip.faultLine_dr (m : Chip) (code : Nat) : (m.faultLine code).dr = m.dr := by
  unfold Chip.faultLine; dsimp only; split <;> simp only [Chip.setF_dr, Chip.incF_dr, Chip.setBit_dr]
@[simp] theorem Chip.faultLine_pt (m : Chip) (code : Nat) : (m.faultLine code).pt = m.pt := by
  unfold Chip.faultLine; dsimp only; split <;> simp only [Chip.setF_pt, Chip.incF_pt, Chip.setBit_pt]
@[simp] theorem Chip.faultLine_ag (m : Chip) (code : Nat) : (m.faultLine code).ag = m.ag := by
  unfold Chip.faultLine; dsimp only; split <;> simp only [Chip.setF_ag, Chip.incF_ag, Chip.setBit_ag]
@[simp] theorem Chip.faultLine_freeCtr (m : Chip) (code : Nat) : (m.faultLine code).freeCtr = m.freeCtr := by
  unfold Chip.faultLine; dsimp only; split <;> simp only [Chip.setF_freeCtr, Chip.incF_freeCtr, Chip.setBit_freeCtr]
@[simp] theorem Chip.faultLine_pins (m : Chip) (code : Nat) : (m.faultLine code).pins = m.pins := by
  unfold Chip.faultLine; dsimp only; split <;> simp only [Chip.setF_pins, Chip.incF_pins, Chip.setBit_pins]
@[simp] theorem Chip.faultLine_reply (m : Chip) (code : Nat) : (m.faultLine code).reply = m.reply := by
  unfold Chip.faultLine; dsimp only; split <;> simp only [Chip.setF_reply, Chip.incF_reply, Chip.setBit_reply]
@[simp] theorem Chip.faultLine_out (m : Chip) (code : Nat) : (m.faultLine code).out = m.out := by
  unfold Chip.faultLine; dsimp only; split <;> simp only [Chip.setF_out, Chip.incF_out, Chip.setBit_out]

@[simp] theorem Chip.enqueueEv_shadow (m : Chip) (i : Nat) (e : Ev) : (m.enqueueEv i e).shadow = m.shadow := by
  unfold Chip.enqueueEv; dsimp only; split <;> simp only [Chip.incF_shadow]
@[simp] theorem Chip.enqueueEv_i3cPtr (m : Chip) (i : Nat) (e : Ev) : (m.enqueueEv i e).i3cPtr = m.i3cPtr := by
  unfold Chip.enqueueEv; dsimp only; split <;> simp only [Chip.incF_i3cPtr]
@[simp] theorem Chip.enqueueEv_isl (m : Chip) (i : Nat) (e : Ev) : (m.enqueueEv i e).isl = m.isl := by
  unfold Chip.enqueueEv; dsimp only; split <;> simp only [Chip.incF_isl]
@[simp] theorem Chip.enqueueEv_img (m : Chip) (i : Nat) (e : Ev) : (m.enqueueEv i e).img = m.img := by
  unfold Chip.enqueueEv; dsimp only; split <;> simp only [Chip.incF_img]
@[simp] theorem Chip.enqueueEv_q (m : Chip) (i : Nat) (e : Ev) : (m.enqueueEv i e).q = m.q := by
  unfold Chip.enqueueEv; dsimp only; split <;> simp only [Chip.incF_q]
@[simp] theorem Chip.enqueueEv_zn (m : Chip) (i : Nat) (e : Ev) : (m.enqueueEv i e).zn = m.zn := by
  unfold Chip.enqueueEv; dsimp only; split <;> simp only [Chip.incF_zn]
@[simp] theorem Chip.enqueueEv_md (m : Chip) (i : Nat) (e : Ev) : (m.enqueueEv i e).md = m.md := by
  unfold Chip.enqueueEv; dsimp only; split <;> simp only [Chip.incF_md]
@[simp] theorem Chip.enqueueEv_bp (m : Chip) (i : Nat) (e : Ev) : (m.enqueueEv i e).bp = m.bp := by
  unfold Chip.enqueueEv; dsimp only; split <;> simp only [Chip.incF_bp]
@[simp] theorem Chip.enqueueEv_tw (m : Chip) (i : Nat) (e : Ev) : (m.enqueueEv i e).tw = m.tw := by
  unfold Chip.enqueueEv; dsimp only; split <;> simp only [Chip.incF_tw]
@[simp] theorem Chip.enqueueEv_kv (m : Chip) (i : Nat) (e : Ev) : (m.enqueueEv i e).kv = m.kv := by
  unfold Chip.enqueueEv; dsimp only; split <;> simp only [Chip.incF_kv]
@[simp] theorem Chip.enqueueEv_eng (m : Chip) (i : Nat) (e : Ev) : (m.enqueueEv i e).eng = m.eng := by
  unfold Chip.enqueueEv; dsimp only; split <;> simp only [Chip.incF_eng]
@[simp] theorem Chip.enqueueEv_nv (m : Chip) (i : Nat) (e : Ev) : (m.enqueueEv i e).nv = m.nv := by
  unfold Chip.enqueueEv; dsimp only; split <;> simp only [Chip.incF_nv]
@[simp] theorem Chip.enqueueEv_tr (m : Chip) (i : Nat) (e : Ev) : (m.enqueueEv i e).tr = m.tr := by
  unfold Chip.enqueueEv; dsimp only; split <;> simp only [Chip.incF_tr]
@[simp] theorem Chip.enqueueEv_th (m : Chip) (i : Nat) (e : Ev) : (m.enqueueEv i e).th = m.th := by
  unfold Chip.enqueueEv; dsimp only; split <;> simp only [Chip.incF_th]
@[simp] theorem Chip.enqueueEv_psq (m : Chip) (i : Nat) (e : Ev) : (m.enqueueEv i e).psq = m.psq := by
  unfold Chip.enqueueEv; dsimp only; split <;> simp only [Chip.incF_psq]
@[simp] theorem Chip.enqueueEv_plp (m : Chip) (i : Nat) (e : Ev) : (m.enqueueEv i e).plp = m.plp := by
  unfold Chip.enqueueEv; dsimp only; split <;> simp only [Chip.incF_plp]
@[simp] theorem Chip.enqueueEv_st (m : Chip) (i : Nat) (e : Ev) : (m.enqueueEv i e).st = m.st := by
  unfold Chip.enqueueEv; dsimp only; split <;> simp only [Chip.incF_st]
@[simp] theorem Chip.enqueueEv_sd (m : Chip) (i : Nat) (e : Ev) : (m.enqueueEv i e).sd = m.sd := by
  unfold Chip.enqueueEv; dsimp only; split <;> simp only [Chip.incF_sd]
@[simp] theorem Chip.enqueueEv_dr (m : Chip) (i : Nat) (e : Ev) : (m.enqueueEv i e).dr = m.dr := by
  unfold Chip.enqueueEv; dsimp only; split <;> simp only [Chip.incF_dr]
@[simp] theorem Chip.enqueueEv_pt (m : Chip) (i : Nat) (e : Ev) : (m.enqueueEv i e).pt = m.pt := by
  unfold Chip.enqueueEv; dsimp only; split <;> simp only [Chip.incF_pt]
@[simp] theorem Chip.enqueueEv_ag (m : Chip) (i : Nat) (e : Ev) : (m.enqueueEv i e).ag = m.ag := by
  unfold Chip.enqueueEv; dsimp only; split <;> simp only [Chip.incF_ag]
@[simp] theorem Chip.enqueueEv_freeCtr (m : Chip) (i : Nat) (e : Ev) : (m.enqueueEv i e).freeCtr = m.freeCtr := by
  unfold Chip.enqueueEv; dsimp only; split <;> simp only [Chip.incF_freeCtr]
@[simp] theorem Chip.enqueueEv_pins (m : Chip) (i : Nat) (e : Ev) : (m.enqueueEv i e).pins = m.pins := by
  unfold Chip.enqueueEv; dsimp only; split <;> simp only [Chip.incF_pins]
@[simp] theorem Chip.enqueueEv_reply (m : Chip) (i : Nat) (e : Ev) : (m.enqueueEv i e).reply = m.reply := by
  unfold Chip.enqueueEv; dsimp only; split <;> simp only [Chip.incF_reply]
@[simp] theorem Chip.enqueueEv_out (m : Chip) (i : Nat) (e : Ev) : (m.enqueueEv i e).out = m.out := by
  unfold Chip.enqueueEv; dsimp only; split <;> simp only [Chip.incF_out]

@[simp] theorem Chip.emitAs_shadow (m : Chip) (fault : Bool) (i code value : Nat) (tag : Option Nat) : (m.emitAs fault i code value tag).shadow = m.shadow := by
  unfold Chip.emitAs; dsimp only; split <;> simp only [Chip.enqueueEv_shadow, Chip.faultLine_shadow]
@[simp] theorem Chip.emitAs_i3cPtr (m : Chip) (fault : Bool) (i code value : Nat) (tag : Option Nat) : (m.emitAs fault i code value tag).i3cPtr = m.i3cPtr := by
  unfold Chip.emitAs; dsimp only; split <;> simp only [Chip.enqueueEv_i3cPtr, Chip.faultLine_i3cPtr]
@[simp] theorem Chip.emitAs_isl (m : Chip) (fault : Bool) (i code value : Nat) (tag : Option Nat) : (m.emitAs fault i code value tag).isl = m.isl := by
  unfold Chip.emitAs; dsimp only; split <;> simp only [Chip.enqueueEv_isl, Chip.faultLine_isl]
@[simp] theorem Chip.emitAs_img (m : Chip) (fault : Bool) (i code value : Nat) (tag : Option Nat) : (m.emitAs fault i code value tag).img = m.img := by
  unfold Chip.emitAs; dsimp only; split <;> simp only [Chip.enqueueEv_img, Chip.faultLine_img]
@[simp] theorem Chip.emitAs_q (m : Chip) (fault : Bool) (i code value : Nat) (tag : Option Nat) : (m.emitAs fault i code value tag).q = m.q := by
  unfold Chip.emitAs; dsimp only; split <;> simp only [Chip.enqueueEv_q, Chip.faultLine_q]
@[simp] theorem Chip.emitAs_zn (m : Chip) (fault : Bool) (i code value : Nat) (tag : Option Nat) : (m.emitAs fault i code value tag).zn = m.zn := by
  unfold Chip.emitAs; dsimp only; split <;> simp only [Chip.enqueueEv_zn, Chip.faultLine_zn]
@[simp] theorem Chip.emitAs_md (m : Chip) (fault : Bool) (i code value : Nat) (tag : Option Nat) : (m.emitAs fault i code value tag).md = m.md := by
  unfold Chip.emitAs; dsimp only; split <;> simp only [Chip.enqueueEv_md, Chip.faultLine_md]
@[simp] theorem Chip.emitAs_bp (m : Chip) (fault : Bool) (i code value : Nat) (tag : Option Nat) : (m.emitAs fault i code value tag).bp = m.bp := by
  unfold Chip.emitAs; dsimp only; split <;> simp only [Chip.enqueueEv_bp, Chip.faultLine_bp]
@[simp] theorem Chip.emitAs_tw (m : Chip) (fault : Bool) (i code value : Nat) (tag : Option Nat) : (m.emitAs fault i code value tag).tw = m.tw := by
  unfold Chip.emitAs; dsimp only; split <;> simp only [Chip.enqueueEv_tw, Chip.faultLine_tw]
@[simp] theorem Chip.emitAs_kv (m : Chip) (fault : Bool) (i code value : Nat) (tag : Option Nat) : (m.emitAs fault i code value tag).kv = m.kv := by
  unfold Chip.emitAs; dsimp only; split <;> simp only [Chip.enqueueEv_kv, Chip.faultLine_kv]
@[simp] theorem Chip.emitAs_eng (m : Chip) (fault : Bool) (i code value : Nat) (tag : Option Nat) : (m.emitAs fault i code value tag).eng = m.eng := by
  unfold Chip.emitAs; dsimp only; split <;> simp only [Chip.enqueueEv_eng, Chip.faultLine_eng]
@[simp] theorem Chip.emitAs_nv (m : Chip) (fault : Bool) (i code value : Nat) (tag : Option Nat) : (m.emitAs fault i code value tag).nv = m.nv := by
  unfold Chip.emitAs; dsimp only; split <;> simp only [Chip.enqueueEv_nv, Chip.faultLine_nv]
@[simp] theorem Chip.emitAs_tr (m : Chip) (fault : Bool) (i code value : Nat) (tag : Option Nat) : (m.emitAs fault i code value tag).tr = m.tr := by
  unfold Chip.emitAs; dsimp only; split <;> simp only [Chip.enqueueEv_tr, Chip.faultLine_tr]
@[simp] theorem Chip.emitAs_th (m : Chip) (fault : Bool) (i code value : Nat) (tag : Option Nat) : (m.emitAs fault i code value tag).th = m.th := by
  unfold Chip.emitAs; dsimp only; split <;> simp only [Chip.enqueueEv_th, Chip.faultLine_th]
@[simp] theorem Chip.emitAs_psq (m : Chip) (fault : Bool) (i code value : Nat) (tag : Option Nat) : (m.emitAs fault i code value tag).psq = m.psq := by
  unfold Chip.emitAs; dsimp only; split <;> simp only [Chip.enqueueEv_psq, Chip.faultLine_psq]
@[simp] theorem Chip.emitAs_plp (m : Chip) (fault : Bool) (i code value : Nat) (tag : Option Nat) : (m.emitAs fault i code value tag).plp = m.plp := by
  unfold Chip.emitAs; dsimp only; split <;> simp only [Chip.enqueueEv_plp, Chip.faultLine_plp]
@[simp] theorem Chip.emitAs_st (m : Chip) (fault : Bool) (i code value : Nat) (tag : Option Nat) : (m.emitAs fault i code value tag).st = m.st := by
  unfold Chip.emitAs; dsimp only; split <;> simp only [Chip.enqueueEv_st, Chip.faultLine_st]
@[simp] theorem Chip.emitAs_sd (m : Chip) (fault : Bool) (i code value : Nat) (tag : Option Nat) : (m.emitAs fault i code value tag).sd = m.sd := by
  unfold Chip.emitAs; dsimp only; split <;> simp only [Chip.enqueueEv_sd, Chip.faultLine_sd]
@[simp] theorem Chip.emitAs_dr (m : Chip) (fault : Bool) (i code value : Nat) (tag : Option Nat) : (m.emitAs fault i code value tag).dr = m.dr := by
  unfold Chip.emitAs; dsimp only; split <;> simp only [Chip.enqueueEv_dr, Chip.faultLine_dr]
@[simp] theorem Chip.emitAs_pt (m : Chip) (fault : Bool) (i code value : Nat) (tag : Option Nat) : (m.emitAs fault i code value tag).pt = m.pt := by
  unfold Chip.emitAs; dsimp only; split <;> simp only [Chip.enqueueEv_pt, Chip.faultLine_pt]
@[simp] theorem Chip.emitAs_ag (m : Chip) (fault : Bool) (i code value : Nat) (tag : Option Nat) : (m.emitAs fault i code value tag).ag = m.ag := by
  unfold Chip.emitAs; dsimp only; split <;> simp only [Chip.enqueueEv_ag, Chip.faultLine_ag]
@[simp] theorem Chip.emitAs_freeCtr (m : Chip) (fault : Bool) (i code value : Nat) (tag : Option Nat) : (m.emitAs fault i code value tag).freeCtr = m.freeCtr := by
  unfold Chip.emitAs; dsimp only; split <;> simp only [Chip.enqueueEv_freeCtr, Chip.faultLine_freeCtr]
@[simp] theorem Chip.emitAs_pins (m : Chip) (fault : Bool) (i code value : Nat) (tag : Option Nat) : (m.emitAs fault i code value tag).pins = m.pins := by
  unfold Chip.emitAs; dsimp only; split <;> simp only [Chip.enqueueEv_pins, Chip.faultLine_pins]
@[simp] theorem Chip.emitAs_reply (m : Chip) (fault : Bool) (i code value : Nat) (tag : Option Nat) : (m.emitAs fault i code value tag).reply = m.reply := by
  unfold Chip.emitAs; dsimp only; split <;> simp only [Chip.enqueueEv_reply, Chip.faultLine_reply]
@[simp] theorem Chip.emitAs_out (m : Chip) (fault : Bool) (i code value : Nat) (tag : Option Nat) : (m.emitAs fault i code value tag).out = m.out := by
  unfold Chip.emitAs; dsimp only; split <;> simp only [Chip.enqueueEv_out, Chip.faultLine_out]

@[simp] theorem Chip.emit_shadow (m : Chip) (i code value : Nat) (tag : Option Nat) : (m.emit i code value tag).shadow = m.shadow := by simp only [Chip.emit, Chip.emitAs_shadow]
@[simp] theorem Chip.emit_i3cPtr (m : Chip) (i code value : Nat) (tag : Option Nat) : (m.emit i code value tag).i3cPtr = m.i3cPtr := by simp only [Chip.emit, Chip.emitAs_i3cPtr]
@[simp] theorem Chip.emit_isl (m : Chip) (i code value : Nat) (tag : Option Nat) : (m.emit i code value tag).isl = m.isl := by simp only [Chip.emit, Chip.emitAs_isl]
@[simp] theorem Chip.emit_img (m : Chip) (i code value : Nat) (tag : Option Nat) : (m.emit i code value tag).img = m.img := by simp only [Chip.emit, Chip.emitAs_img]
@[simp] theorem Chip.emit_q (m : Chip) (i code value : Nat) (tag : Option Nat) : (m.emit i code value tag).q = m.q := by simp only [Chip.emit, Chip.emitAs_q]
@[simp] theorem Chip.emit_zn (m : Chip) (i code value : Nat) (tag : Option Nat) : (m.emit i code value tag).zn = m.zn := by simp only [Chip.emit, Chip.emitAs_zn]
@[simp] theorem Chip.emit_md (m : Chip) (i code value : Nat) (tag : Option Nat) : (m.emit i code value tag).md = m.md := by simp only [Chip.emit, Chip.emitAs_md]
@[simp] theorem Chip.emit_bp (m : Chip) (i code value : Nat) (tag : Option Nat) : (m.emit i code value tag).bp = m.bp := by simp only [Chip.emit, Chip.emitAs_bp]
@[simp] theorem Chip.emit_tw (m : Chip) (i code value : Nat) (tag : Option Nat) : (m.emit i code value tag).tw = m.tw := by simp only [Chip.emit, Chip.emitAs_tw]
@[simp] theorem Chip.emit_kv (m : Chip) (i code value : Nat) (tag : Option Nat) : (m.emit i code value tag).kv = m.kv := by simp only [Chip.emit, Chip.emitAs_kv]
@[simp] theorem Chip.emit_eng (m : Chip) (i code value : Nat) (tag : Option Nat) : (m.emit i code value tag).eng = m.eng := by simp only [Chip.emit, Chip.emitAs_eng]
@[simp] theorem Chip.emit_nv (m : Chip) (i code value : Nat) (tag : Option Nat) : (m.emit i code value tag).nv = m.nv := by simp only [Chip.emit, Chip.emitAs_nv]
@[simp] theorem Chip.emit_tr (m : Chip) (i code value : Nat) (tag : Option Nat) : (m.emit i code value tag).tr = m.tr := by simp only [Chip.emit, Chip.emitAs_tr]
@[simp] theorem Chip.emit_th (m : Chip) (i code value : Nat) (tag : Option Nat) : (m.emit i code value tag).th = m.th := by simp only [Chip.emit, Chip.emitAs_th]
@[simp] theorem Chip.emit_psq (m : Chip) (i code value : Nat) (tag : Option Nat) : (m.emit i code value tag).psq = m.psq := by simp only [Chip.emit, Chip.emitAs_psq]
@[simp] theorem Chip.emit_plp (m : Chip) (i code value : Nat) (tag : Option Nat) : (m.emit i code value tag).plp = m.plp := by simp only [Chip.emit, Chip.emitAs_plp]
@[simp] theorem Chip.emit_st (m : Chip) (i code value : Nat) (tag : Option Nat) : (m.emit i code value tag).st = m.st := by simp only [Chip.emit, Chip.emitAs_st]
@[simp] theorem Chip.emit_sd (m : Chip) (i code value : Nat) (tag : Option Nat) : (m.emit i code value tag).sd = m.sd := by simp only [Chip.emit, Chip.emitAs_sd]
@[simp] theorem Chip.emit_dr (m : Chip) (i code value : Nat) (tag : Option Nat) : (m.emit i code value tag).dr = m.dr := by simp only [Chip.emit, Chip.emitAs_dr]
@[simp] theorem Chip.emit_pt (m : Chip) (i code value : Nat) (tag : Option Nat) : (m.emit i code value tag).pt = m.pt := by simp only [Chip.emit, Chip.emitAs_pt]
@[simp] theorem Chip.emit_ag (m : Chip) (i code value : Nat) (tag : Option Nat) : (m.emit i code value tag).ag = m.ag := by simp only [Chip.emit, Chip.emitAs_ag]
@[simp] theorem Chip.emit_freeCtr (m : Chip) (i code value : Nat) (tag : Option Nat) : (m.emit i code value tag).freeCtr = m.freeCtr := by simp only [Chip.emit, Chip.emitAs_freeCtr]
@[simp] theorem Chip.emit_pins (m : Chip) (i code value : Nat) (tag : Option Nat) : (m.emit i code value tag).pins = m.pins := by simp only [Chip.emit, Chip.emitAs_pins]
@[simp] theorem Chip.emit_reply (m : Chip) (i code value : Nat) (tag : Option Nat) : (m.emit i code value tag).reply = m.reply := by simp only [Chip.emit, Chip.emitAs_reply]
@[simp] theorem Chip.emit_out (m : Chip) (i code value : Nat) (tag : Option Nat) : (m.emit i code value tag).out = m.out := by simp only [Chip.emit, Chip.emitAs_out]

@[simp] theorem Chip.cfgEvent_shadow (m : Chip) (off : Nat) : (m.cfgEvent off).shadow = m.shadow := by simp only [Chip.cfgEvent, Chip.emit_shadow]
@[simp] theorem Chip.cfgEvent_i3cPtr (m : Chip) (off : Nat) : (m.cfgEvent off).i3cPtr = m.i3cPtr := by simp only [Chip.cfgEvent, Chip.emit_i3cPtr]
@[simp] theorem Chip.cfgEvent_isl (m : Chip) (off : Nat) : (m.cfgEvent off).isl = m.isl := by simp only [Chip.cfgEvent, Chip.emit_isl]
@[simp] theorem Chip.cfgEvent_img (m : Chip) (off : Nat) : (m.cfgEvent off).img = m.img := by simp only [Chip.cfgEvent, Chip.emit_img]
@[simp] theorem Chip.cfgEvent_q (m : Chip) (off : Nat) : (m.cfgEvent off).q = m.q := by simp only [Chip.cfgEvent, Chip.emit_q]
@[simp] theorem Chip.cfgEvent_zn (m : Chip) (off : Nat) : (m.cfgEvent off).zn = m.zn := by simp only [Chip.cfgEvent, Chip.emit_zn]
@[simp] theorem Chip.cfgEvent_md (m : Chip) (off : Nat) : (m.cfgEvent off).md = m.md := by simp only [Chip.cfgEvent, Chip.emit_md]
@[simp] theorem Chip.cfgEvent_bp (m : Chip) (off : Nat) : (m.cfgEvent off).bp = m.bp := by simp only [Chip.cfgEvent, Chip.emit_bp]
@[simp] theorem Chip.cfgEvent_tw (m : Chip) (off : Nat) : (m.cfgEvent off).tw = m.tw := by simp only [Chip.cfgEvent, Chip.emit_tw]
@[simp] theorem Chip.cfgEvent_kv (m : Chip) (off : Nat) : (m.cfgEvent off).kv = m.kv := by simp only [Chip.cfgEvent, Chip.emit_kv]
@[simp] theorem Chip.cfgEvent_eng (m : Chip) (off : Nat) : (m.cfgEvent off).eng = m.eng := by simp only [Chip.cfgEvent, Chip.emit_eng]
@[simp] theorem Chip.cfgEvent_nv (m : Chip) (off : Nat) : (m.cfgEvent off).nv = m.nv := by simp only [Chip.cfgEvent, Chip.emit_nv]
@[simp] theorem Chip.cfgEvent_tr (m : Chip) (off : Nat) : (m.cfgEvent off).tr = m.tr := by simp only [Chip.cfgEvent, Chip.emit_tr]
@[simp] theorem Chip.cfgEvent_th (m : Chip) (off : Nat) : (m.cfgEvent off).th = m.th := by simp only [Chip.cfgEvent, Chip.emit_th]
@[simp] theorem Chip.cfgEvent_psq (m : Chip) (off : Nat) : (m.cfgEvent off).psq = m.psq := by simp only [Chip.cfgEvent, Chip.emit_psq]
@[simp] theorem Chip.cfgEvent_plp (m : Chip) (off : Nat) : (m.cfgEvent off).plp = m.plp := by simp only [Chip.cfgEvent, Chip.emit_plp]
@[simp] theorem Chip.cfgEvent_st (m : Chip) (off : Nat) : (m.cfgEvent off).st = m.st := by simp only [Chip.cfgEvent, Chip.emit_st]
@[simp] theorem Chip.cfgEvent_sd (m : Chip) (off : Nat) : (m.cfgEvent off).sd = m.sd := by simp only [Chip.cfgEvent, Chip.emit_sd]
@[simp] theorem Chip.cfgEvent_dr (m : Chip) (off : Nat) : (m.cfgEvent off).dr = m.dr := by simp only [Chip.cfgEvent, Chip.emit_dr]
@[simp] theorem Chip.cfgEvent_pt (m : Chip) (off : Nat) : (m.cfgEvent off).pt = m.pt := by simp only [Chip.cfgEvent, Chip.emit_pt]
@[simp] theorem Chip.cfgEvent_ag (m : Chip) (off : Nat) : (m.cfgEvent off).ag = m.ag := by simp only [Chip.cfgEvent, Chip.emit_ag]
@[simp] theorem Chip.cfgEvent_freeCtr (m : Chip) (off : Nat) : (m.cfgEvent off).freeCtr = m.freeCtr := by simp only [Chip.cfgEvent, Chip.emit_freeCtr]
@[simp] theorem Chip.cfgEvent_pins (m : Chip) (off : Nat) : (m.cfgEvent off).pins = m.pins := by simp only [Chip.cfgEvent, Chip.emit_pins]
@[simp] theorem Chip.cfgEvent_reply (m : Chip) (off : Nat) : (m.cfgEvent off).reply = m.reply := by simp only [Chip.cfgEvent, Chip.emit_reply]
@[simp] theorem Chip.cfgEvent_out (m : Chip) (off : Nat) : (m.cfgEvent off).out = m.out := by simp only [Chip.cfgEvent, Chip.emit_out]

/-! ## Tables -/

@[simp] theorem Chip.setQc_regs (m : Chip) (i : Nat) (v : QCtx) : (m.setQc i v).regs = m.regs := rfl
@[simp] theorem Chip.setQc_shadow (m : Chip) (i : Nat) (v : QCtx) : (m.setQc i v).shadow = m.shadow := rfl
@[simp] theorem Chip.setQc_i3cPtr (m : Chip) (i : Nat) (v : QCtx) : (m.setQc i v).i3cPtr = m.i3cPtr := rfl
@[simp] theorem Chip.setQc_evr (m : Chip) (i : Nat) (v : QCtx) : (m.setQc i v).evr = m.evr := rfl
@[simp] theorem Chip.setQc_isl (m : Chip) (i : Nat) (v : QCtx) : (m.setQc i v).isl = m.isl := rfl
@[simp] theorem Chip.setQc_img (m : Chip) (i : Nat) (v : QCtx) : (m.setQc i v).img = m.img := rfl
@[simp] theorem Chip.setQc_zn (m : Chip) (i : Nat) (v : QCtx) : (m.setQc i v).zn = m.zn := rfl
@[simp] theorem Chip.setQc_md (m : Chip) (i : Nat) (v : QCtx) : (m.setQc i v).md = m.md := rfl
@[simp] theorem Chip.setQc_bp (m : Chip) (i : Nat) (v : QCtx) : (m.setQc i v).bp = m.bp := rfl
@[simp] theorem Chip.setQc_tw (m : Chip) (i : Nat) (v : QCtx) : (m.setQc i v).tw = m.tw := rfl
@[simp] theorem Chip.setQc_kv (m : Chip) (i : Nat) (v : QCtx) : (m.setQc i v).kv = m.kv := rfl
@[simp] theorem Chip.setQc_eng (m : Chip) (i : Nat) (v : QCtx) : (m.setQc i v).eng = m.eng := rfl
@[simp] theorem Chip.setQc_nv (m : Chip) (i : Nat) (v : QCtx) : (m.setQc i v).nv = m.nv := rfl
@[simp] theorem Chip.setQc_tr (m : Chip) (i : Nat) (v : QCtx) : (m.setQc i v).tr = m.tr := rfl
@[simp] theorem Chip.setQc_th (m : Chip) (i : Nat) (v : QCtx) : (m.setQc i v).th = m.th := rfl
@[simp] theorem Chip.setQc_psq (m : Chip) (i : Nat) (v : QCtx) : (m.setQc i v).psq = m.psq := rfl
@[simp] theorem Chip.setQc_plp (m : Chip) (i : Nat) (v : QCtx) : (m.setQc i v).plp = m.plp := rfl
@[simp] theorem Chip.setQc_st (m : Chip) (i : Nat) (v : QCtx) : (m.setQc i v).st = m.st := rfl
@[simp] theorem Chip.setQc_sd (m : Chip) (i : Nat) (v : QCtx) : (m.setQc i v).sd = m.sd := rfl
@[simp] theorem Chip.setQc_dr (m : Chip) (i : Nat) (v : QCtx) : (m.setQc i v).dr = m.dr := rfl
@[simp] theorem Chip.setQc_pt (m : Chip) (i : Nat) (v : QCtx) : (m.setQc i v).pt = m.pt := rfl
@[simp] theorem Chip.setQc_ag (m : Chip) (i : Nat) (v : QCtx) : (m.setQc i v).ag = m.ag := rfl
@[simp] theorem Chip.setQc_freeCtr (m : Chip) (i : Nat) (v : QCtx) : (m.setQc i v).freeCtr = m.freeCtr := rfl
@[simp] theorem Chip.setQc_pins (m : Chip) (i : Nat) (v : QCtx) : (m.setQc i v).pins = m.pins := rfl
@[simp] theorem Chip.setQc_reply (m : Chip) (i : Nat) (v : QCtx) : (m.setQc i v).reply = m.reply := rfl
@[simp] theorem Chip.setQc_out (m : Chip) (i : Nat) (v : QCtx) : (m.setQc i v).out = m.out := rfl

@[simp] theorem Chip.putCmd_regs (m : Chip) (s : Nat) (c : Cmd) : (m.putCmd s c).regs = m.regs := rfl
@[simp] theorem Chip.putCmd_shadow (m : Chip) (s : Nat) (c : Cmd) : (m.putCmd s c).shadow = m.shadow := rfl
@[simp] theorem Chip.putCmd_i3cPtr (m : Chip) (s : Nat) (c : Cmd) : (m.putCmd s c).i3cPtr = m.i3cPtr := rfl
@[simp] theorem Chip.putCmd_evr (m : Chip) (s : Nat) (c : Cmd) : (m.putCmd s c).evr = m.evr := rfl
@[simp] theorem Chip.putCmd_isl (m : Chip) (s : Nat) (c : Cmd) : (m.putCmd s c).isl = m.isl := rfl
@[simp] theorem Chip.putCmd_img (m : Chip) (s : Nat) (c : Cmd) : (m.putCmd s c).img = m.img := rfl
@[simp] theorem Chip.putCmd_zn (m : Chip) (s : Nat) (c : Cmd) : (m.putCmd s c).zn = m.zn := rfl
@[simp] theorem Chip.putCmd_md (m : Chip) (s : Nat) (c : Cmd) : (m.putCmd s c).md = m.md := rfl
@[simp] theorem Chip.putCmd_bp (m : Chip) (s : Nat) (c : Cmd) : (m.putCmd s c).bp = m.bp := rfl
@[simp] theorem Chip.putCmd_tw (m : Chip) (s : Nat) (c : Cmd) : (m.putCmd s c).tw = m.tw := rfl
@[simp] theorem Chip.putCmd_kv (m : Chip) (s : Nat) (c : Cmd) : (m.putCmd s c).kv = m.kv := rfl
@[simp] theorem Chip.putCmd_eng (m : Chip) (s : Nat) (c : Cmd) : (m.putCmd s c).eng = m.eng := rfl
@[simp] theorem Chip.putCmd_nv (m : Chip) (s : Nat) (c : Cmd) : (m.putCmd s c).nv = m.nv := rfl
@[simp] theorem Chip.putCmd_tr (m : Chip) (s : Nat) (c : Cmd) : (m.putCmd s c).tr = m.tr := rfl
@[simp] theorem Chip.putCmd_th (m : Chip) (s : Nat) (c : Cmd) : (m.putCmd s c).th = m.th := rfl
@[simp] theorem Chip.putCmd_psq (m : Chip) (s : Nat) (c : Cmd) : (m.putCmd s c).psq = m.psq := rfl
@[simp] theorem Chip.putCmd_plp (m : Chip) (s : Nat) (c : Cmd) : (m.putCmd s c).plp = m.plp := rfl
@[simp] theorem Chip.putCmd_st (m : Chip) (s : Nat) (c : Cmd) : (m.putCmd s c).st = m.st := rfl
@[simp] theorem Chip.putCmd_sd (m : Chip) (s : Nat) (c : Cmd) : (m.putCmd s c).sd = m.sd := rfl
@[simp] theorem Chip.putCmd_dr (m : Chip) (s : Nat) (c : Cmd) : (m.putCmd s c).dr = m.dr := rfl
@[simp] theorem Chip.putCmd_pt (m : Chip) (s : Nat) (c : Cmd) : (m.putCmd s c).pt = m.pt := rfl
@[simp] theorem Chip.putCmd_ag (m : Chip) (s : Nat) (c : Cmd) : (m.putCmd s c).ag = m.ag := rfl
@[simp] theorem Chip.putCmd_freeCtr (m : Chip) (s : Nat) (c : Cmd) : (m.putCmd s c).freeCtr = m.freeCtr := rfl
@[simp] theorem Chip.putCmd_pins (m : Chip) (s : Nat) (c : Cmd) : (m.putCmd s c).pins = m.pins := rfl
@[simp] theorem Chip.putCmd_reply (m : Chip) (s : Nat) (c : Cmd) : (m.putCmd s c).reply = m.reply := rfl
@[simp] theorem Chip.putCmd_out (m : Chip) (s : Nat) (c : Cmd) : (m.putCmd s c).out = m.out := rfl

@[simp] theorem Chip.setFn_regs (m : Chip) (f : Nat) (v : FnSt) : (m.setFn f v).regs = m.regs := rfl
@[simp] theorem Chip.setFn_shadow (m : Chip) (f : Nat) (v : FnSt) : (m.setFn f v).shadow = m.shadow := rfl
@[simp] theorem Chip.setFn_i3cPtr (m : Chip) (f : Nat) (v : FnSt) : (m.setFn f v).i3cPtr = m.i3cPtr := rfl
@[simp] theorem Chip.setFn_evr (m : Chip) (f : Nat) (v : FnSt) : (m.setFn f v).evr = m.evr := rfl
@[simp] theorem Chip.setFn_isl (m : Chip) (f : Nat) (v : FnSt) : (m.setFn f v).isl = m.isl := rfl
@[simp] theorem Chip.setFn_img (m : Chip) (f : Nat) (v : FnSt) : (m.setFn f v).img = m.img := rfl
@[simp] theorem Chip.setFn_zn (m : Chip) (f : Nat) (v : FnSt) : (m.setFn f v).zn = m.zn := rfl
@[simp] theorem Chip.setFn_md (m : Chip) (f : Nat) (v : FnSt) : (m.setFn f v).md = m.md := rfl
@[simp] theorem Chip.setFn_bp (m : Chip) (f : Nat) (v : FnSt) : (m.setFn f v).bp = m.bp := rfl
@[simp] theorem Chip.setFn_tw (m : Chip) (f : Nat) (v : FnSt) : (m.setFn f v).tw = m.tw := rfl
@[simp] theorem Chip.setFn_kv (m : Chip) (f : Nat) (v : FnSt) : (m.setFn f v).kv = m.kv := rfl
@[simp] theorem Chip.setFn_eng (m : Chip) (f : Nat) (v : FnSt) : (m.setFn f v).eng = m.eng := rfl
@[simp] theorem Chip.setFn_nv (m : Chip) (f : Nat) (v : FnSt) : (m.setFn f v).nv = m.nv := rfl
@[simp] theorem Chip.setFn_tr (m : Chip) (f : Nat) (v : FnSt) : (m.setFn f v).tr = m.tr := rfl
@[simp] theorem Chip.setFn_th (m : Chip) (f : Nat) (v : FnSt) : (m.setFn f v).th = m.th := rfl
@[simp] theorem Chip.setFn_psq (m : Chip) (f : Nat) (v : FnSt) : (m.setFn f v).psq = m.psq := rfl
@[simp] theorem Chip.setFn_plp (m : Chip) (f : Nat) (v : FnSt) : (m.setFn f v).plp = m.plp := rfl
@[simp] theorem Chip.setFn_st (m : Chip) (f : Nat) (v : FnSt) : (m.setFn f v).st = m.st := rfl
@[simp] theorem Chip.setFn_sd (m : Chip) (f : Nat) (v : FnSt) : (m.setFn f v).sd = m.sd := rfl
@[simp] theorem Chip.setFn_dr (m : Chip) (f : Nat) (v : FnSt) : (m.setFn f v).dr = m.dr := rfl
@[simp] theorem Chip.setFn_pt (m : Chip) (f : Nat) (v : FnSt) : (m.setFn f v).pt = m.pt := rfl
@[simp] theorem Chip.setFn_ag (m : Chip) (f : Nat) (v : FnSt) : (m.setFn f v).ag = m.ag := rfl
@[simp] theorem Chip.setFn_freeCtr (m : Chip) (f : Nat) (v : FnSt) : (m.setFn f v).freeCtr = m.freeCtr := rfl
@[simp] theorem Chip.setFn_pins (m : Chip) (f : Nat) (v : FnSt) : (m.setFn f v).pins = m.pins := rfl
@[simp] theorem Chip.setFn_reply (m : Chip) (f : Nat) (v : FnSt) : (m.setFn f v).reply = m.reply := rfl
@[simp] theorem Chip.setFn_out (m : Chip) (f : Nat) (v : FnSt) : (m.setFn f v).out = m.out := rfl

@[simp] theorem Chip.setPort_regs (m : Chip) (q : Nat) (v : PortSt) : (m.setPort q v).regs = m.regs := rfl
@[simp] theorem Chip.setPort_shadow (m : Chip) (q : Nat) (v : PortSt) : (m.setPort q v).shadow = m.shadow := rfl
@[simp] theorem Chip.setPort_i3cPtr (m : Chip) (q : Nat) (v : PortSt) : (m.setPort q v).i3cPtr = m.i3cPtr := rfl
@[simp] theorem Chip.setPort_evr (m : Chip) (q : Nat) (v : PortSt) : (m.setPort q v).evr = m.evr := rfl
@[simp] theorem Chip.setPort_isl (m : Chip) (q : Nat) (v : PortSt) : (m.setPort q v).isl = m.isl := rfl
@[simp] theorem Chip.setPort_img (m : Chip) (q : Nat) (v : PortSt) : (m.setPort q v).img = m.img := rfl
@[simp] theorem Chip.setPort_zn (m : Chip) (q : Nat) (v : PortSt) : (m.setPort q v).zn = m.zn := rfl
@[simp] theorem Chip.setPort_md (m : Chip) (q : Nat) (v : PortSt) : (m.setPort q v).md = m.md := rfl
@[simp] theorem Chip.setPort_bp (m : Chip) (q : Nat) (v : PortSt) : (m.setPort q v).bp = m.bp := rfl
@[simp] theorem Chip.setPort_tw (m : Chip) (q : Nat) (v : PortSt) : (m.setPort q v).tw = m.tw := rfl
@[simp] theorem Chip.setPort_kv (m : Chip) (q : Nat) (v : PortSt) : (m.setPort q v).kv = m.kv := rfl
@[simp] theorem Chip.setPort_eng (m : Chip) (q : Nat) (v : PortSt) : (m.setPort q v).eng = m.eng := rfl
@[simp] theorem Chip.setPort_nv (m : Chip) (q : Nat) (v : PortSt) : (m.setPort q v).nv = m.nv := rfl
@[simp] theorem Chip.setPort_tr (m : Chip) (q : Nat) (v : PortSt) : (m.setPort q v).tr = m.tr := rfl
@[simp] theorem Chip.setPort_th (m : Chip) (q : Nat) (v : PortSt) : (m.setPort q v).th = m.th := rfl
@[simp] theorem Chip.setPort_psq (m : Chip) (q : Nat) (v : PortSt) : (m.setPort q v).psq = m.psq := rfl
@[simp] theorem Chip.setPort_plp (m : Chip) (q : Nat) (v : PortSt) : (m.setPort q v).plp = m.plp := rfl
@[simp] theorem Chip.setPort_st (m : Chip) (q : Nat) (v : PortSt) : (m.setPort q v).st = m.st := rfl
@[simp] theorem Chip.setPort_sd (m : Chip) (q : Nat) (v : PortSt) : (m.setPort q v).sd = m.sd := rfl
@[simp] theorem Chip.setPort_dr (m : Chip) (q : Nat) (v : PortSt) : (m.setPort q v).dr = m.dr := rfl
@[simp] theorem Chip.setPort_pt (m : Chip) (q : Nat) (v : PortSt) : (m.setPort q v).pt = m.pt := rfl
@[simp] theorem Chip.setPort_ag (m : Chip) (q : Nat) (v : PortSt) : (m.setPort q v).ag = m.ag := rfl
@[simp] theorem Chip.setPort_freeCtr (m : Chip) (q : Nat) (v : PortSt) : (m.setPort q v).freeCtr = m.freeCtr := rfl
@[simp] theorem Chip.setPort_pins (m : Chip) (q : Nat) (v : PortSt) : (m.setPort q v).pins = m.pins := rfl
@[simp] theorem Chip.setPort_reply (m : Chip) (q : Nat) (v : PortSt) : (m.setPort q v).reply = m.reply := rfl
@[simp] theorem Chip.setPort_out (m : Chip) (q : Nat) (v : PortSt) : (m.setPort q v).out = m.out := rfl

@[simp] theorem Chip.setZone_regs (m : Chip) (z : Nat) (v : Zone) : (m.setZone z v).regs = m.regs := rfl
@[simp] theorem Chip.setZone_shadow (m : Chip) (z : Nat) (v : Zone) : (m.setZone z v).shadow = m.shadow := rfl
@[simp] theorem Chip.setZone_i3cPtr (m : Chip) (z : Nat) (v : Zone) : (m.setZone z v).i3cPtr = m.i3cPtr := rfl
@[simp] theorem Chip.setZone_evr (m : Chip) (z : Nat) (v : Zone) : (m.setZone z v).evr = m.evr := rfl
@[simp] theorem Chip.setZone_isl (m : Chip) (z : Nat) (v : Zone) : (m.setZone z v).isl = m.isl := rfl
@[simp] theorem Chip.setZone_img (m : Chip) (z : Nat) (v : Zone) : (m.setZone z v).img = m.img := rfl
@[simp] theorem Chip.setZone_q (m : Chip) (z : Nat) (v : Zone) : (m.setZone z v).q = m.q := rfl
@[simp] theorem Chip.setZone_md (m : Chip) (z : Nat) (v : Zone) : (m.setZone z v).md = m.md := rfl
@[simp] theorem Chip.setZone_bp (m : Chip) (z : Nat) (v : Zone) : (m.setZone z v).bp = m.bp := rfl
@[simp] theorem Chip.setZone_tw (m : Chip) (z : Nat) (v : Zone) : (m.setZone z v).tw = m.tw := rfl
@[simp] theorem Chip.setZone_kv (m : Chip) (z : Nat) (v : Zone) : (m.setZone z v).kv = m.kv := rfl
@[simp] theorem Chip.setZone_eng (m : Chip) (z : Nat) (v : Zone) : (m.setZone z v).eng = m.eng := rfl
@[simp] theorem Chip.setZone_nv (m : Chip) (z : Nat) (v : Zone) : (m.setZone z v).nv = m.nv := rfl
@[simp] theorem Chip.setZone_tr (m : Chip) (z : Nat) (v : Zone) : (m.setZone z v).tr = m.tr := rfl
@[simp] theorem Chip.setZone_th (m : Chip) (z : Nat) (v : Zone) : (m.setZone z v).th = m.th := rfl
@[simp] theorem Chip.setZone_psq (m : Chip) (z : Nat) (v : Zone) : (m.setZone z v).psq = m.psq := rfl
@[simp] theorem Chip.setZone_plp (m : Chip) (z : Nat) (v : Zone) : (m.setZone z v).plp = m.plp := rfl
@[simp] theorem Chip.setZone_st (m : Chip) (z : Nat) (v : Zone) : (m.setZone z v).st = m.st := rfl
@[simp] theorem Chip.setZone_sd (m : Chip) (z : Nat) (v : Zone) : (m.setZone z v).sd = m.sd := rfl
@[simp] theorem Chip.setZone_dr (m : Chip) (z : Nat) (v : Zone) : (m.setZone z v).dr = m.dr := rfl
@[simp] theorem Chip.setZone_pt (m : Chip) (z : Nat) (v : Zone) : (m.setZone z v).pt = m.pt := rfl
@[simp] theorem Chip.setZone_ag (m : Chip) (z : Nat) (v : Zone) : (m.setZone z v).ag = m.ag := rfl
@[simp] theorem Chip.setZone_freeCtr (m : Chip) (z : Nat) (v : Zone) : (m.setZone z v).freeCtr = m.freeCtr := rfl
@[simp] theorem Chip.setZone_pins (m : Chip) (z : Nat) (v : Zone) : (m.setZone z v).pins = m.pins := rfl
@[simp] theorem Chip.setZone_reply (m : Chip) (z : Nat) (v : Zone) : (m.setZone z v).reply = m.reply := rfl
@[simp] theorem Chip.setZone_out (m : Chip) (z : Nat) (v : Zone) : (m.setZone z v).out = m.out := rfl

@[simp] theorem Chip.setRow_regs (m : Chip) (z r : Nat) (v : RowSt) : (m.setRow z r v).regs = m.regs := rfl
@[simp] theorem Chip.setRow_shadow (m : Chip) (z r : Nat) (v : RowSt) : (m.setRow z r v).shadow = m.shadow := rfl
@[simp] theorem Chip.setRow_i3cPtr (m : Chip) (z r : Nat) (v : RowSt) : (m.setRow z r v).i3cPtr = m.i3cPtr := rfl
@[simp] theorem Chip.setRow_evr (m : Chip) (z r : Nat) (v : RowSt) : (m.setRow z r v).evr = m.evr := rfl
@[simp] theorem Chip.setRow_isl (m : Chip) (z r : Nat) (v : RowSt) : (m.setRow z r v).isl = m.isl := rfl
@[simp] theorem Chip.setRow_img (m : Chip) (z r : Nat) (v : RowSt) : (m.setRow z r v).img = m.img := rfl
@[simp] theorem Chip.setRow_q (m : Chip) (z r : Nat) (v : RowSt) : (m.setRow z r v).q = m.q := rfl
@[simp] theorem Chip.setRow_md (m : Chip) (z r : Nat) (v : RowSt) : (m.setRow z r v).md = m.md := rfl
@[simp] theorem Chip.setRow_bp (m : Chip) (z r : Nat) (v : RowSt) : (m.setRow z r v).bp = m.bp := rfl
@[simp] theorem Chip.setRow_tw (m : Chip) (z r : Nat) (v : RowSt) : (m.setRow z r v).tw = m.tw := rfl
@[simp] theorem Chip.setRow_kv (m : Chip) (z r : Nat) (v : RowSt) : (m.setRow z r v).kv = m.kv := rfl
@[simp] theorem Chip.setRow_eng (m : Chip) (z r : Nat) (v : RowSt) : (m.setRow z r v).eng = m.eng := rfl
@[simp] theorem Chip.setRow_nv (m : Chip) (z r : Nat) (v : RowSt) : (m.setRow z r v).nv = m.nv := rfl
@[simp] theorem Chip.setRow_tr (m : Chip) (z r : Nat) (v : RowSt) : (m.setRow z r v).tr = m.tr := rfl
@[simp] theorem Chip.setRow_th (m : Chip) (z r : Nat) (v : RowSt) : (m.setRow z r v).th = m.th := rfl
@[simp] theorem Chip.setRow_psq (m : Chip) (z r : Nat) (v : RowSt) : (m.setRow z r v).psq = m.psq := rfl
@[simp] theorem Chip.setRow_plp (m : Chip) (z r : Nat) (v : RowSt) : (m.setRow z r v).plp = m.plp := rfl
@[simp] theorem Chip.setRow_st (m : Chip) (z r : Nat) (v : RowSt) : (m.setRow z r v).st = m.st := rfl
@[simp] theorem Chip.setRow_sd (m : Chip) (z r : Nat) (v : RowSt) : (m.setRow z r v).sd = m.sd := rfl
@[simp] theorem Chip.setRow_dr (m : Chip) (z r : Nat) (v : RowSt) : (m.setRow z r v).dr = m.dr := rfl
@[simp] theorem Chip.setRow_pt (m : Chip) (z r : Nat) (v : RowSt) : (m.setRow z r v).pt = m.pt := rfl
@[simp] theorem Chip.setRow_ag (m : Chip) (z r : Nat) (v : RowSt) : (m.setRow z r v).ag = m.ag := rfl
@[simp] theorem Chip.setRow_freeCtr (m : Chip) (z r : Nat) (v : RowSt) : (m.setRow z r v).freeCtr = m.freeCtr := rfl
@[simp] theorem Chip.setRow_pins (m : Chip) (z r : Nat) (v : RowSt) : (m.setRow z r v).pins = m.pins := rfl
@[simp] theorem Chip.setRow_reply (m : Chip) (z r : Nat) (v : RowSt) : (m.setRow z r v).reply = m.reply := rfl
@[simp] theorem Chip.setRow_out (m : Chip) (z r : Nat) (v : RowSt) : (m.setRow z r v).out = m.out := rfl

@[simp] theorem Chip.setDie_regs (m : Chip) (d : Nat) (v : DieSt) : (m.setDie d v).regs = m.regs := rfl
@[simp] theorem Chip.setDie_shadow (m : Chip) (d : Nat) (v : DieSt) : (m.setDie d v).shadow = m.shadow := rfl
@[simp] theorem Chip.setDie_i3cPtr (m : Chip) (d : Nat) (v : DieSt) : (m.setDie d v).i3cPtr = m.i3cPtr := rfl
@[simp] theorem Chip.setDie_evr (m : Chip) (d : Nat) (v : DieSt) : (m.setDie d v).evr = m.evr := rfl
@[simp] theorem Chip.setDie_isl (m : Chip) (d : Nat) (v : DieSt) : (m.setDie d v).isl = m.isl := rfl
@[simp] theorem Chip.setDie_img (m : Chip) (d : Nat) (v : DieSt) : (m.setDie d v).img = m.img := rfl
@[simp] theorem Chip.setDie_q (m : Chip) (d : Nat) (v : DieSt) : (m.setDie d v).q = m.q := rfl
@[simp] theorem Chip.setDie_zn (m : Chip) (d : Nat) (v : DieSt) : (m.setDie d v).zn = m.zn := rfl
@[simp] theorem Chip.setDie_bp (m : Chip) (d : Nat) (v : DieSt) : (m.setDie d v).bp = m.bp := rfl
@[simp] theorem Chip.setDie_tw (m : Chip) (d : Nat) (v : DieSt) : (m.setDie d v).tw = m.tw := rfl
@[simp] theorem Chip.setDie_kv (m : Chip) (d : Nat) (v : DieSt) : (m.setDie d v).kv = m.kv := rfl
@[simp] theorem Chip.setDie_eng (m : Chip) (d : Nat) (v : DieSt) : (m.setDie d v).eng = m.eng := rfl
@[simp] theorem Chip.setDie_nv (m : Chip) (d : Nat) (v : DieSt) : (m.setDie d v).nv = m.nv := rfl
@[simp] theorem Chip.setDie_tr (m : Chip) (d : Nat) (v : DieSt) : (m.setDie d v).tr = m.tr := rfl
@[simp] theorem Chip.setDie_th (m : Chip) (d : Nat) (v : DieSt) : (m.setDie d v).th = m.th := rfl
@[simp] theorem Chip.setDie_psq (m : Chip) (d : Nat) (v : DieSt) : (m.setDie d v).psq = m.psq := rfl
@[simp] theorem Chip.setDie_plp (m : Chip) (d : Nat) (v : DieSt) : (m.setDie d v).plp = m.plp := rfl
@[simp] theorem Chip.setDie_st (m : Chip) (d : Nat) (v : DieSt) : (m.setDie d v).st = m.st := rfl
@[simp] theorem Chip.setDie_sd (m : Chip) (d : Nat) (v : DieSt) : (m.setDie d v).sd = m.sd := rfl
@[simp] theorem Chip.setDie_dr (m : Chip) (d : Nat) (v : DieSt) : (m.setDie d v).dr = m.dr := rfl
@[simp] theorem Chip.setDie_pt (m : Chip) (d : Nat) (v : DieSt) : (m.setDie d v).pt = m.pt := rfl
@[simp] theorem Chip.setDie_ag (m : Chip) (d : Nat) (v : DieSt) : (m.setDie d v).ag = m.ag := rfl
@[simp] theorem Chip.setDie_freeCtr (m : Chip) (d : Nat) (v : DieSt) : (m.setDie d v).freeCtr = m.freeCtr := rfl
@[simp] theorem Chip.setDie_pins (m : Chip) (d : Nat) (v : DieSt) : (m.setDie d v).pins = m.pins := rfl
@[simp] theorem Chip.setDie_reply (m : Chip) (d : Nat) (v : DieSt) : (m.setDie d v).reply = m.reply := rfl
@[simp] theorem Chip.setDie_out (m : Chip) (d : Nat) (v : DieSt) : (m.setDie d v).out = m.out := rfl

@[simp] theorem Chip.setTen_regs (m : Chip) (t : Nat) (v : TenSt) : (m.setTen t v).regs = m.regs := rfl
@[simp] theorem Chip.setTen_shadow (m : Chip) (t : Nat) (v : TenSt) : (m.setTen t v).shadow = m.shadow := rfl
@[simp] theorem Chip.setTen_i3cPtr (m : Chip) (t : Nat) (v : TenSt) : (m.setTen t v).i3cPtr = m.i3cPtr := rfl
@[simp] theorem Chip.setTen_evr (m : Chip) (t : Nat) (v : TenSt) : (m.setTen t v).evr = m.evr := rfl
@[simp] theorem Chip.setTen_isl (m : Chip) (t : Nat) (v : TenSt) : (m.setTen t v).isl = m.isl := rfl
@[simp] theorem Chip.setTen_img (m : Chip) (t : Nat) (v : TenSt) : (m.setTen t v).img = m.img := rfl
@[simp] theorem Chip.setTen_q (m : Chip) (t : Nat) (v : TenSt) : (m.setTen t v).q = m.q := rfl
@[simp] theorem Chip.setTen_zn (m : Chip) (t : Nat) (v : TenSt) : (m.setTen t v).zn = m.zn := rfl
@[simp] theorem Chip.setTen_bp (m : Chip) (t : Nat) (v : TenSt) : (m.setTen t v).bp = m.bp := rfl
@[simp] theorem Chip.setTen_tw (m : Chip) (t : Nat) (v : TenSt) : (m.setTen t v).tw = m.tw := rfl
@[simp] theorem Chip.setTen_kv (m : Chip) (t : Nat) (v : TenSt) : (m.setTen t v).kv = m.kv := rfl
@[simp] theorem Chip.setTen_eng (m : Chip) (t : Nat) (v : TenSt) : (m.setTen t v).eng = m.eng := rfl
@[simp] theorem Chip.setTen_nv (m : Chip) (t : Nat) (v : TenSt) : (m.setTen t v).nv = m.nv := rfl
@[simp] theorem Chip.setTen_tr (m : Chip) (t : Nat) (v : TenSt) : (m.setTen t v).tr = m.tr := rfl
@[simp] theorem Chip.setTen_th (m : Chip) (t : Nat) (v : TenSt) : (m.setTen t v).th = m.th := rfl
@[simp] theorem Chip.setTen_psq (m : Chip) (t : Nat) (v : TenSt) : (m.setTen t v).psq = m.psq := rfl
@[simp] theorem Chip.setTen_plp (m : Chip) (t : Nat) (v : TenSt) : (m.setTen t v).plp = m.plp := rfl
@[simp] theorem Chip.setTen_st (m : Chip) (t : Nat) (v : TenSt) : (m.setTen t v).st = m.st := rfl
@[simp] theorem Chip.setTen_sd (m : Chip) (t : Nat) (v : TenSt) : (m.setTen t v).sd = m.sd := rfl
@[simp] theorem Chip.setTen_dr (m : Chip) (t : Nat) (v : TenSt) : (m.setTen t v).dr = m.dr := rfl
@[simp] theorem Chip.setTen_pt (m : Chip) (t : Nat) (v : TenSt) : (m.setTen t v).pt = m.pt := rfl
@[simp] theorem Chip.setTen_ag (m : Chip) (t : Nat) (v : TenSt) : (m.setTen t v).ag = m.ag := rfl
@[simp] theorem Chip.setTen_freeCtr (m : Chip) (t : Nat) (v : TenSt) : (m.setTen t v).freeCtr = m.freeCtr := rfl
@[simp] theorem Chip.setTen_pins (m : Chip) (t : Nat) (v : TenSt) : (m.setTen t v).pins = m.pins := rfl
@[simp] theorem Chip.setTen_reply (m : Chip) (t : Nat) (v : TenSt) : (m.setTen t v).reply = m.reply := rfl
@[simp] theorem Chip.setTen_out (m : Chip) (t : Nat) (v : TenSt) : (m.setTen t v).out = m.out := rfl

@[simp] theorem Chip.setTrain_regs (m : Chip) (ch : Nat) (v : TrainSt) : (m.setTrain ch v).regs = m.regs := rfl
@[simp] theorem Chip.setTrain_shadow (m : Chip) (ch : Nat) (v : TrainSt) : (m.setTrain ch v).shadow = m.shadow := rfl
@[simp] theorem Chip.setTrain_i3cPtr (m : Chip) (ch : Nat) (v : TrainSt) : (m.setTrain ch v).i3cPtr = m.i3cPtr := rfl
@[simp] theorem Chip.setTrain_evr (m : Chip) (ch : Nat) (v : TrainSt) : (m.setTrain ch v).evr = m.evr := rfl
@[simp] theorem Chip.setTrain_isl (m : Chip) (ch : Nat) (v : TrainSt) : (m.setTrain ch v).isl = m.isl := rfl
@[simp] theorem Chip.setTrain_img (m : Chip) (ch : Nat) (v : TrainSt) : (m.setTrain ch v).img = m.img := rfl
@[simp] theorem Chip.setTrain_q (m : Chip) (ch : Nat) (v : TrainSt) : (m.setTrain ch v).q = m.q := rfl
@[simp] theorem Chip.setTrain_zn (m : Chip) (ch : Nat) (v : TrainSt) : (m.setTrain ch v).zn = m.zn := rfl
@[simp] theorem Chip.setTrain_bp (m : Chip) (ch : Nat) (v : TrainSt) : (m.setTrain ch v).bp = m.bp := rfl
@[simp] theorem Chip.setTrain_tw (m : Chip) (ch : Nat) (v : TrainSt) : (m.setTrain ch v).tw = m.tw := rfl
@[simp] theorem Chip.setTrain_kv (m : Chip) (ch : Nat) (v : TrainSt) : (m.setTrain ch v).kv = m.kv := rfl
@[simp] theorem Chip.setTrain_eng (m : Chip) (ch : Nat) (v : TrainSt) : (m.setTrain ch v).eng = m.eng := rfl
@[simp] theorem Chip.setTrain_nv (m : Chip) (ch : Nat) (v : TrainSt) : (m.setTrain ch v).nv = m.nv := rfl
@[simp] theorem Chip.setTrain_tr (m : Chip) (ch : Nat) (v : TrainSt) : (m.setTrain ch v).tr = m.tr := rfl
@[simp] theorem Chip.setTrain_th (m : Chip) (ch : Nat) (v : TrainSt) : (m.setTrain ch v).th = m.th := rfl
@[simp] theorem Chip.setTrain_psq (m : Chip) (ch : Nat) (v : TrainSt) : (m.setTrain ch v).psq = m.psq := rfl
@[simp] theorem Chip.setTrain_plp (m : Chip) (ch : Nat) (v : TrainSt) : (m.setTrain ch v).plp = m.plp := rfl
@[simp] theorem Chip.setTrain_st (m : Chip) (ch : Nat) (v : TrainSt) : (m.setTrain ch v).st = m.st := rfl
@[simp] theorem Chip.setTrain_sd (m : Chip) (ch : Nat) (v : TrainSt) : (m.setTrain ch v).sd = m.sd := rfl
@[simp] theorem Chip.setTrain_dr (m : Chip) (ch : Nat) (v : TrainSt) : (m.setTrain ch v).dr = m.dr := rfl
@[simp] theorem Chip.setTrain_pt (m : Chip) (ch : Nat) (v : TrainSt) : (m.setTrain ch v).pt = m.pt := rfl
@[simp] theorem Chip.setTrain_ag (m : Chip) (ch : Nat) (v : TrainSt) : (m.setTrain ch v).ag = m.ag := rfl
@[simp] theorem Chip.setTrain_freeCtr (m : Chip) (ch : Nat) (v : TrainSt) : (m.setTrain ch v).freeCtr = m.freeCtr := rfl
@[simp] theorem Chip.setTrain_pins (m : Chip) (ch : Nat) (v : TrainSt) : (m.setTrain ch v).pins = m.pins := rfl
@[simp] theorem Chip.setTrain_reply (m : Chip) (ch : Nat) (v : TrainSt) : (m.setTrain ch v).reply = m.reply := rfl
@[simp] theorem Chip.setTrain_out (m : Chip) (ch : Nat) (v : TrainSt) : (m.setTrain ch v).out = m.out := rfl

@[simp] theorem Chip.setPool_regs (m : Chip) (p : Nat) (v : PoolSt) : (m.setPool p v).regs = m.regs := rfl
@[simp] theorem Chip.setPool_shadow (m : Chip) (p : Nat) (v : PoolSt) : (m.setPool p v).shadow = m.shadow := rfl
@[simp] theorem Chip.setPool_i3cPtr (m : Chip) (p : Nat) (v : PoolSt) : (m.setPool p v).i3cPtr = m.i3cPtr := rfl
@[simp] theorem Chip.setPool_evr (m : Chip) (p : Nat) (v : PoolSt) : (m.setPool p v).evr = m.evr := rfl
@[simp] theorem Chip.setPool_isl (m : Chip) (p : Nat) (v : PoolSt) : (m.setPool p v).isl = m.isl := rfl
@[simp] theorem Chip.setPool_img (m : Chip) (p : Nat) (v : PoolSt) : (m.setPool p v).img = m.img := rfl
@[simp] theorem Chip.setPool_q (m : Chip) (p : Nat) (v : PoolSt) : (m.setPool p v).q = m.q := rfl
@[simp] theorem Chip.setPool_zn (m : Chip) (p : Nat) (v : PoolSt) : (m.setPool p v).zn = m.zn := rfl
@[simp] theorem Chip.setPool_md (m : Chip) (p : Nat) (v : PoolSt) : (m.setPool p v).md = m.md := rfl
@[simp] theorem Chip.setPool_tw (m : Chip) (p : Nat) (v : PoolSt) : (m.setPool p v).tw = m.tw := rfl
@[simp] theorem Chip.setPool_kv (m : Chip) (p : Nat) (v : PoolSt) : (m.setPool p v).kv = m.kv := rfl
@[simp] theorem Chip.setPool_eng (m : Chip) (p : Nat) (v : PoolSt) : (m.setPool p v).eng = m.eng := rfl
@[simp] theorem Chip.setPool_nv (m : Chip) (p : Nat) (v : PoolSt) : (m.setPool p v).nv = m.nv := rfl
@[simp] theorem Chip.setPool_tr (m : Chip) (p : Nat) (v : PoolSt) : (m.setPool p v).tr = m.tr := rfl
@[simp] theorem Chip.setPool_th (m : Chip) (p : Nat) (v : PoolSt) : (m.setPool p v).th = m.th := rfl
@[simp] theorem Chip.setPool_psq (m : Chip) (p : Nat) (v : PoolSt) : (m.setPool p v).psq = m.psq := rfl
@[simp] theorem Chip.setPool_plp (m : Chip) (p : Nat) (v : PoolSt) : (m.setPool p v).plp = m.plp := rfl
@[simp] theorem Chip.setPool_st (m : Chip) (p : Nat) (v : PoolSt) : (m.setPool p v).st = m.st := rfl
@[simp] theorem Chip.setPool_sd (m : Chip) (p : Nat) (v : PoolSt) : (m.setPool p v).sd = m.sd := rfl
@[simp] theorem Chip.setPool_dr (m : Chip) (p : Nat) (v : PoolSt) : (m.setPool p v).dr = m.dr := rfl
@[simp] theorem Chip.setPool_pt (m : Chip) (p : Nat) (v : PoolSt) : (m.setPool p v).pt = m.pt := rfl
@[simp] theorem Chip.setPool_ag (m : Chip) (p : Nat) (v : PoolSt) : (m.setPool p v).ag = m.ag := rfl
@[simp] theorem Chip.setPool_freeCtr (m : Chip) (p : Nat) (v : PoolSt) : (m.setPool p v).freeCtr = m.freeCtr := rfl
@[simp] theorem Chip.setPool_pins (m : Chip) (p : Nat) (v : PoolSt) : (m.setPool p v).pins = m.pins := rfl
@[simp] theorem Chip.setPool_reply (m : Chip) (p : Nat) (v : PoolSt) : (m.setPool p v).reply = m.reply := rfl
@[simp] theorem Chip.setPool_out (m : Chip) (p : Nat) (v : PoolSt) : (m.setPool p v).out = m.out := rfl

@[simp] theorem Chip.setSub_regs (m : Chip) (i : Nat) (v : SubSt) : (m.setSub i v).regs = m.regs := rfl
@[simp] theorem Chip.setSub_shadow (m : Chip) (i : Nat) (v : SubSt) : (m.setSub i v).shadow = m.shadow := rfl
@[simp] theorem Chip.setSub_i3cPtr (m : Chip) (i : Nat) (v : SubSt) : (m.setSub i v).i3cPtr = m.i3cPtr := rfl
@[simp] theorem Chip.setSub_evr (m : Chip) (i : Nat) (v : SubSt) : (m.setSub i v).evr = m.evr := rfl
@[simp] theorem Chip.setSub_isl (m : Chip) (i : Nat) (v : SubSt) : (m.setSub i v).isl = m.isl := rfl
@[simp] theorem Chip.setSub_img (m : Chip) (i : Nat) (v : SubSt) : (m.setSub i v).img = m.img := rfl
@[simp] theorem Chip.setSub_q (m : Chip) (i : Nat) (v : SubSt) : (m.setSub i v).q = m.q := rfl
@[simp] theorem Chip.setSub_zn (m : Chip) (i : Nat) (v : SubSt) : (m.setSub i v).zn = m.zn := rfl
@[simp] theorem Chip.setSub_md (m : Chip) (i : Nat) (v : SubSt) : (m.setSub i v).md = m.md := rfl
@[simp] theorem Chip.setSub_bp (m : Chip) (i : Nat) (v : SubSt) : (m.setSub i v).bp = m.bp := rfl
@[simp] theorem Chip.setSub_kv (m : Chip) (i : Nat) (v : SubSt) : (m.setSub i v).kv = m.kv := rfl
@[simp] theorem Chip.setSub_eng (m : Chip) (i : Nat) (v : SubSt) : (m.setSub i v).eng = m.eng := rfl
@[simp] theorem Chip.setSub_nv (m : Chip) (i : Nat) (v : SubSt) : (m.setSub i v).nv = m.nv := rfl
@[simp] theorem Chip.setSub_tr (m : Chip) (i : Nat) (v : SubSt) : (m.setSub i v).tr = m.tr := rfl
@[simp] theorem Chip.setSub_th (m : Chip) (i : Nat) (v : SubSt) : (m.setSub i v).th = m.th := rfl
@[simp] theorem Chip.setSub_psq (m : Chip) (i : Nat) (v : SubSt) : (m.setSub i v).psq = m.psq := rfl
@[simp] theorem Chip.setSub_plp (m : Chip) (i : Nat) (v : SubSt) : (m.setSub i v).plp = m.plp := rfl
@[simp] theorem Chip.setSub_st (m : Chip) (i : Nat) (v : SubSt) : (m.setSub i v).st = m.st := rfl
@[simp] theorem Chip.setSub_sd (m : Chip) (i : Nat) (v : SubSt) : (m.setSub i v).sd = m.sd := rfl
@[simp] theorem Chip.setSub_dr (m : Chip) (i : Nat) (v : SubSt) : (m.setSub i v).dr = m.dr := rfl
@[simp] theorem Chip.setSub_pt (m : Chip) (i : Nat) (v : SubSt) : (m.setSub i v).pt = m.pt := rfl
@[simp] theorem Chip.setSub_ag (m : Chip) (i : Nat) (v : SubSt) : (m.setSub i v).ag = m.ag := rfl
@[simp] theorem Chip.setSub_freeCtr (m : Chip) (i : Nat) (v : SubSt) : (m.setSub i v).freeCtr = m.freeCtr := rfl
@[simp] theorem Chip.setSub_pins (m : Chip) (i : Nat) (v : SubSt) : (m.setSub i v).pins = m.pins := rfl
@[simp] theorem Chip.setSub_reply (m : Chip) (i : Nat) (v : SubSt) : (m.setSub i v).reply = m.reply := rfl
@[simp] theorem Chip.setSub_out (m : Chip) (i : Nat) (v : SubSt) : (m.setSub i v).out = m.out := rfl

@[simp] theorem Chip.setArb_regs (m : Chip) (i : Nat) (v : ArbSt) : (m.setArb i v).regs = m.regs := rfl
@[simp] theorem Chip.setArb_shadow (m : Chip) (i : Nat) (v : ArbSt) : (m.setArb i v).shadow = m.shadow := rfl
@[simp] theorem Chip.setArb_i3cPtr (m : Chip) (i : Nat) (v : ArbSt) : (m.setArb i v).i3cPtr = m.i3cPtr := rfl
@[simp] theorem Chip.setArb_evr (m : Chip) (i : Nat) (v : ArbSt) : (m.setArb i v).evr = m.evr := rfl
@[simp] theorem Chip.setArb_isl (m : Chip) (i : Nat) (v : ArbSt) : (m.setArb i v).isl = m.isl := rfl
@[simp] theorem Chip.setArb_img (m : Chip) (i : Nat) (v : ArbSt) : (m.setArb i v).img = m.img := rfl
@[simp] theorem Chip.setArb_q (m : Chip) (i : Nat) (v : ArbSt) : (m.setArb i v).q = m.q := rfl
@[simp] theorem Chip.setArb_zn (m : Chip) (i : Nat) (v : ArbSt) : (m.setArb i v).zn = m.zn := rfl
@[simp] theorem Chip.setArb_md (m : Chip) (i : Nat) (v : ArbSt) : (m.setArb i v).md = m.md := rfl
@[simp] theorem Chip.setArb_tw (m : Chip) (i : Nat) (v : ArbSt) : (m.setArb i v).tw = m.tw := rfl
@[simp] theorem Chip.setArb_kv (m : Chip) (i : Nat) (v : ArbSt) : (m.setArb i v).kv = m.kv := rfl
@[simp] theorem Chip.setArb_eng (m : Chip) (i : Nat) (v : ArbSt) : (m.setArb i v).eng = m.eng := rfl
@[simp] theorem Chip.setArb_nv (m : Chip) (i : Nat) (v : ArbSt) : (m.setArb i v).nv = m.nv := rfl
@[simp] theorem Chip.setArb_tr (m : Chip) (i : Nat) (v : ArbSt) : (m.setArb i v).tr = m.tr := rfl
@[simp] theorem Chip.setArb_th (m : Chip) (i : Nat) (v : ArbSt) : (m.setArb i v).th = m.th := rfl
@[simp] theorem Chip.setArb_psq (m : Chip) (i : Nat) (v : ArbSt) : (m.setArb i v).psq = m.psq := rfl
@[simp] theorem Chip.setArb_plp (m : Chip) (i : Nat) (v : ArbSt) : (m.setArb i v).plp = m.plp := rfl
@[simp] theorem Chip.setArb_st (m : Chip) (i : Nat) (v : ArbSt) : (m.setArb i v).st = m.st := rfl
@[simp] theorem Chip.setArb_sd (m : Chip) (i : Nat) (v : ArbSt) : (m.setArb i v).sd = m.sd := rfl
@[simp] theorem Chip.setArb_dr (m : Chip) (i : Nat) (v : ArbSt) : (m.setArb i v).dr = m.dr := rfl
@[simp] theorem Chip.setArb_pt (m : Chip) (i : Nat) (v : ArbSt) : (m.setArb i v).pt = m.pt := rfl
@[simp] theorem Chip.setArb_ag (m : Chip) (i : Nat) (v : ArbSt) : (m.setArb i v).ag = m.ag := rfl
@[simp] theorem Chip.setArb_freeCtr (m : Chip) (i : Nat) (v : ArbSt) : (m.setArb i v).freeCtr = m.freeCtr := rfl
@[simp] theorem Chip.setArb_pins (m : Chip) (i : Nat) (v : ArbSt) : (m.setArb i v).pins = m.pins := rfl
@[simp] theorem Chip.setArb_reply (m : Chip) (i : Nat) (v : ArbSt) : (m.setArb i v).reply = m.reply := rfl
@[simp] theorem Chip.setArb_out (m : Chip) (i : Nat) (v : ArbSt) : (m.setArb i v).out = m.out := rfl

@[simp] theorem Chip.setSubd_regs (m : Chip) (k : Nat) (v : SubDram) : (m.setSubd k v).regs = m.regs := rfl
@[simp] theorem Chip.setSubd_shadow (m : Chip) (k : Nat) (v : SubDram) : (m.setSubd k v).shadow = m.shadow := rfl
@[simp] theorem Chip.setSubd_i3cPtr (m : Chip) (k : Nat) (v : SubDram) : (m.setSubd k v).i3cPtr = m.i3cPtr := rfl
@[simp] theorem Chip.setSubd_evr (m : Chip) (k : Nat) (v : SubDram) : (m.setSubd k v).evr = m.evr := rfl
@[simp] theorem Chip.setSubd_isl (m : Chip) (k : Nat) (v : SubDram) : (m.setSubd k v).isl = m.isl := rfl
@[simp] theorem Chip.setSubd_img (m : Chip) (k : Nat) (v : SubDram) : (m.setSubd k v).img = m.img := rfl
@[simp] theorem Chip.setSubd_q (m : Chip) (k : Nat) (v : SubDram) : (m.setSubd k v).q = m.q := rfl
@[simp] theorem Chip.setSubd_zn (m : Chip) (k : Nat) (v : SubDram) : (m.setSubd k v).zn = m.zn := rfl
@[simp] theorem Chip.setSubd_md (m : Chip) (k : Nat) (v : SubDram) : (m.setSubd k v).md = m.md := rfl
@[simp] theorem Chip.setSubd_bp (m : Chip) (k : Nat) (v : SubDram) : (m.setSubd k v).bp = m.bp := rfl
@[simp] theorem Chip.setSubd_tw (m : Chip) (k : Nat) (v : SubDram) : (m.setSubd k v).tw = m.tw := rfl
@[simp] theorem Chip.setSubd_kv (m : Chip) (k : Nat) (v : SubDram) : (m.setSubd k v).kv = m.kv := rfl
@[simp] theorem Chip.setSubd_eng (m : Chip) (k : Nat) (v : SubDram) : (m.setSubd k v).eng = m.eng := rfl
@[simp] theorem Chip.setSubd_nv (m : Chip) (k : Nat) (v : SubDram) : (m.setSubd k v).nv = m.nv := rfl
@[simp] theorem Chip.setSubd_tr (m : Chip) (k : Nat) (v : SubDram) : (m.setSubd k v).tr = m.tr := rfl
@[simp] theorem Chip.setSubd_th (m : Chip) (k : Nat) (v : SubDram) : (m.setSubd k v).th = m.th := rfl
@[simp] theorem Chip.setSubd_psq (m : Chip) (k : Nat) (v : SubDram) : (m.setSubd k v).psq = m.psq := rfl
@[simp] theorem Chip.setSubd_plp (m : Chip) (k : Nat) (v : SubDram) : (m.setSubd k v).plp = m.plp := rfl
@[simp] theorem Chip.setSubd_st (m : Chip) (k : Nat) (v : SubDram) : (m.setSubd k v).st = m.st := rfl
@[simp] theorem Chip.setSubd_sd (m : Chip) (k : Nat) (v : SubDram) : (m.setSubd k v).sd = m.sd := rfl
@[simp] theorem Chip.setSubd_pt (m : Chip) (k : Nat) (v : SubDram) : (m.setSubd k v).pt = m.pt := rfl
@[simp] theorem Chip.setSubd_ag (m : Chip) (k : Nat) (v : SubDram) : (m.setSubd k v).ag = m.ag := rfl
@[simp] theorem Chip.setSubd_freeCtr (m : Chip) (k : Nat) (v : SubDram) : (m.setSubd k v).freeCtr = m.freeCtr := rfl
@[simp] theorem Chip.setSubd_pins (m : Chip) (k : Nat) (v : SubDram) : (m.setSubd k v).pins = m.pins := rfl
@[simp] theorem Chip.setSubd_reply (m : Chip) (k : Nat) (v : SubDram) : (m.setSubd k v).reply = m.reply := rfl
@[simp] theorem Chip.setSubd_out (m : Chip) (k : Nat) (v : SubDram) : (m.setSubd k v).out = m.out := rfl

@[simp] theorem Chip.setAge_regs (m : Chip) (i : Nat) (v : AgeIsl) : (m.setAge i v).regs = m.regs := rfl
@[simp] theorem Chip.setAge_shadow (m : Chip) (i : Nat) (v : AgeIsl) : (m.setAge i v).shadow = m.shadow := rfl
@[simp] theorem Chip.setAge_i3cPtr (m : Chip) (i : Nat) (v : AgeIsl) : (m.setAge i v).i3cPtr = m.i3cPtr := rfl
@[simp] theorem Chip.setAge_evr (m : Chip) (i : Nat) (v : AgeIsl) : (m.setAge i v).evr = m.evr := rfl
@[simp] theorem Chip.setAge_isl (m : Chip) (i : Nat) (v : AgeIsl) : (m.setAge i v).isl = m.isl := rfl
@[simp] theorem Chip.setAge_img (m : Chip) (i : Nat) (v : AgeIsl) : (m.setAge i v).img = m.img := rfl
@[simp] theorem Chip.setAge_q (m : Chip) (i : Nat) (v : AgeIsl) : (m.setAge i v).q = m.q := rfl
@[simp] theorem Chip.setAge_zn (m : Chip) (i : Nat) (v : AgeIsl) : (m.setAge i v).zn = m.zn := rfl
@[simp] theorem Chip.setAge_md (m : Chip) (i : Nat) (v : AgeIsl) : (m.setAge i v).md = m.md := rfl
@[simp] theorem Chip.setAge_bp (m : Chip) (i : Nat) (v : AgeIsl) : (m.setAge i v).bp = m.bp := rfl
@[simp] theorem Chip.setAge_tw (m : Chip) (i : Nat) (v : AgeIsl) : (m.setAge i v).tw = m.tw := rfl
@[simp] theorem Chip.setAge_kv (m : Chip) (i : Nat) (v : AgeIsl) : (m.setAge i v).kv = m.kv := rfl
@[simp] theorem Chip.setAge_eng (m : Chip) (i : Nat) (v : AgeIsl) : (m.setAge i v).eng = m.eng := rfl
@[simp] theorem Chip.setAge_nv (m : Chip) (i : Nat) (v : AgeIsl) : (m.setAge i v).nv = m.nv := rfl
@[simp] theorem Chip.setAge_tr (m : Chip) (i : Nat) (v : AgeIsl) : (m.setAge i v).tr = m.tr := rfl
@[simp] theorem Chip.setAge_th (m : Chip) (i : Nat) (v : AgeIsl) : (m.setAge i v).th = m.th := rfl
@[simp] theorem Chip.setAge_psq (m : Chip) (i : Nat) (v : AgeIsl) : (m.setAge i v).psq = m.psq := rfl
@[simp] theorem Chip.setAge_plp (m : Chip) (i : Nat) (v : AgeIsl) : (m.setAge i v).plp = m.plp := rfl
@[simp] theorem Chip.setAge_st (m : Chip) (i : Nat) (v : AgeIsl) : (m.setAge i v).st = m.st := rfl
@[simp] theorem Chip.setAge_sd (m : Chip) (i : Nat) (v : AgeIsl) : (m.setAge i v).sd = m.sd := rfl
@[simp] theorem Chip.setAge_dr (m : Chip) (i : Nat) (v : AgeIsl) : (m.setAge i v).dr = m.dr := rfl
@[simp] theorem Chip.setAge_pt (m : Chip) (i : Nat) (v : AgeIsl) : (m.setAge i v).pt = m.pt := rfl
@[simp] theorem Chip.setAge_freeCtr (m : Chip) (i : Nat) (v : AgeIsl) : (m.setAge i v).freeCtr = m.freeCtr := rfl
@[simp] theorem Chip.setAge_pins (m : Chip) (i : Nat) (v : AgeIsl) : (m.setAge i v).pins = m.pins := rfl
@[simp] theorem Chip.setAge_reply (m : Chip) (i : Nat) (v : AgeIsl) : (m.setAge i v).reply = m.reply := rfl
@[simp] theorem Chip.setAge_out (m : Chip) (i : Nat) (v : AgeIsl) : (m.setAge i v).out = m.out := rfl

@[simp] theorem Chip.setMove_regs (m : Chip) (v : Move) : (m.setMove v).regs = m.regs := rfl
@[simp] theorem Chip.setMove_shadow (m : Chip) (v : Move) : (m.setMove v).shadow = m.shadow := rfl
@[simp] theorem Chip.setMove_i3cPtr (m : Chip) (v : Move) : (m.setMove v).i3cPtr = m.i3cPtr := rfl
@[simp] theorem Chip.setMove_evr (m : Chip) (v : Move) : (m.setMove v).evr = m.evr := rfl
@[simp] theorem Chip.setMove_isl (m : Chip) (v : Move) : (m.setMove v).isl = m.isl := rfl
@[simp] theorem Chip.setMove_img (m : Chip) (v : Move) : (m.setMove v).img = m.img := rfl
@[simp] theorem Chip.setMove_q (m : Chip) (v : Move) : (m.setMove v).q = m.q := rfl
@[simp] theorem Chip.setMove_md (m : Chip) (v : Move) : (m.setMove v).md = m.md := rfl
@[simp] theorem Chip.setMove_bp (m : Chip) (v : Move) : (m.setMove v).bp = m.bp := rfl
@[simp] theorem Chip.setMove_tw (m : Chip) (v : Move) : (m.setMove v).tw = m.tw := rfl
@[simp] theorem Chip.setMove_kv (m : Chip) (v : Move) : (m.setMove v).kv = m.kv := rfl
@[simp] theorem Chip.setMove_eng (m : Chip) (v : Move) : (m.setMove v).eng = m.eng := rfl
@[simp] theorem Chip.setMove_nv (m : Chip) (v : Move) : (m.setMove v).nv = m.nv := rfl
@[simp] theorem Chip.setMove_tr (m : Chip) (v : Move) : (m.setMove v).tr = m.tr := rfl
@[simp] theorem Chip.setMove_th (m : Chip) (v : Move) : (m.setMove v).th = m.th := rfl
@[simp] theorem Chip.setMove_psq (m : Chip) (v : Move) : (m.setMove v).psq = m.psq := rfl
@[simp] theorem Chip.setMove_plp (m : Chip) (v : Move) : (m.setMove v).plp = m.plp := rfl
@[simp] theorem Chip.setMove_st (m : Chip) (v : Move) : (m.setMove v).st = m.st := rfl
@[simp] theorem Chip.setMove_sd (m : Chip) (v : Move) : (m.setMove v).sd = m.sd := rfl
@[simp] theorem Chip.setMove_dr (m : Chip) (v : Move) : (m.setMove v).dr = m.dr := rfl
@[simp] theorem Chip.setMove_pt (m : Chip) (v : Move) : (m.setMove v).pt = m.pt := rfl
@[simp] theorem Chip.setMove_ag (m : Chip) (v : Move) : (m.setMove v).ag = m.ag := rfl
@[simp] theorem Chip.setMove_freeCtr (m : Chip) (v : Move) : (m.setMove v).freeCtr = m.freeCtr := rfl
@[simp] theorem Chip.setMove_pins (m : Chip) (v : Move) : (m.setMove v).pins = m.pins := rfl
@[simp] theorem Chip.setMove_reply (m : Chip) (v : Move) : (m.setMove v).reply = m.reply := rfl
@[simp] theorem Chip.setMove_out (m : Chip) (v : Move) : (m.setMove v).out = m.out := rfl

@[simp] theorem Chip.setMerge_regs (m : Chip) (g : Option Merge) : (m.setMerge g).regs = m.regs := rfl
@[simp] theorem Chip.setMerge_shadow (m : Chip) (g : Option Merge) : (m.setMerge g).shadow = m.shadow := rfl
@[simp] theorem Chip.setMerge_i3cPtr (m : Chip) (g : Option Merge) : (m.setMerge g).i3cPtr = m.i3cPtr := rfl
@[simp] theorem Chip.setMerge_evr (m : Chip) (g : Option Merge) : (m.setMerge g).evr = m.evr := rfl
@[simp] theorem Chip.setMerge_isl (m : Chip) (g : Option Merge) : (m.setMerge g).isl = m.isl := rfl
@[simp] theorem Chip.setMerge_img (m : Chip) (g : Option Merge) : (m.setMerge g).img = m.img := rfl
@[simp] theorem Chip.setMerge_q (m : Chip) (g : Option Merge) : (m.setMerge g).q = m.q := rfl
@[simp] theorem Chip.setMerge_md (m : Chip) (g : Option Merge) : (m.setMerge g).md = m.md := rfl
@[simp] theorem Chip.setMerge_bp (m : Chip) (g : Option Merge) : (m.setMerge g).bp = m.bp := rfl
@[simp] theorem Chip.setMerge_tw (m : Chip) (g : Option Merge) : (m.setMerge g).tw = m.tw := rfl
@[simp] theorem Chip.setMerge_kv (m : Chip) (g : Option Merge) : (m.setMerge g).kv = m.kv := rfl
@[simp] theorem Chip.setMerge_eng (m : Chip) (g : Option Merge) : (m.setMerge g).eng = m.eng := rfl
@[simp] theorem Chip.setMerge_nv (m : Chip) (g : Option Merge) : (m.setMerge g).nv = m.nv := rfl
@[simp] theorem Chip.setMerge_tr (m : Chip) (g : Option Merge) : (m.setMerge g).tr = m.tr := rfl
@[simp] theorem Chip.setMerge_th (m : Chip) (g : Option Merge) : (m.setMerge g).th = m.th := rfl
@[simp] theorem Chip.setMerge_psq (m : Chip) (g : Option Merge) : (m.setMerge g).psq = m.psq := rfl
@[simp] theorem Chip.setMerge_plp (m : Chip) (g : Option Merge) : (m.setMerge g).plp = m.plp := rfl
@[simp] theorem Chip.setMerge_st (m : Chip) (g : Option Merge) : (m.setMerge g).st = m.st := rfl
@[simp] theorem Chip.setMerge_sd (m : Chip) (g : Option Merge) : (m.setMerge g).sd = m.sd := rfl
@[simp] theorem Chip.setMerge_dr (m : Chip) (g : Option Merge) : (m.setMerge g).dr = m.dr := rfl
@[simp] theorem Chip.setMerge_pt (m : Chip) (g : Option Merge) : (m.setMerge g).pt = m.pt := rfl
@[simp] theorem Chip.setMerge_ag (m : Chip) (g : Option Merge) : (m.setMerge g).ag = m.ag := rfl
@[simp] theorem Chip.setMerge_freeCtr (m : Chip) (g : Option Merge) : (m.setMerge g).freeCtr = m.freeCtr := rfl
@[simp] theorem Chip.setMerge_pins (m : Chip) (g : Option Merge) : (m.setMerge g).pins = m.pins := rfl
@[simp] theorem Chip.setMerge_reply (m : Chip) (g : Option Merge) : (m.setMerge g).reply = m.reply := rfl
@[simp] theorem Chip.setMerge_out (m : Chip) (g : Option Merge) : (m.setMerge g).out = m.out := rfl

@[simp] theorem Chip.setKslot_regs (m : Chip) (i : Nat) (v : KeySlot) : (m.setKslot i v).regs = m.regs := rfl
@[simp] theorem Chip.setKslot_shadow (m : Chip) (i : Nat) (v : KeySlot) : (m.setKslot i v).shadow = m.shadow := rfl
@[simp] theorem Chip.setKslot_i3cPtr (m : Chip) (i : Nat) (v : KeySlot) : (m.setKslot i v).i3cPtr = m.i3cPtr := rfl
@[simp] theorem Chip.setKslot_evr (m : Chip) (i : Nat) (v : KeySlot) : (m.setKslot i v).evr = m.evr := rfl
@[simp] theorem Chip.setKslot_isl (m : Chip) (i : Nat) (v : KeySlot) : (m.setKslot i v).isl = m.isl := rfl
@[simp] theorem Chip.setKslot_img (m : Chip) (i : Nat) (v : KeySlot) : (m.setKslot i v).img = m.img := rfl
@[simp] theorem Chip.setKslot_q (m : Chip) (i : Nat) (v : KeySlot) : (m.setKslot i v).q = m.q := rfl
@[simp] theorem Chip.setKslot_zn (m : Chip) (i : Nat) (v : KeySlot) : (m.setKslot i v).zn = m.zn := rfl
@[simp] theorem Chip.setKslot_md (m : Chip) (i : Nat) (v : KeySlot) : (m.setKslot i v).md = m.md := rfl
@[simp] theorem Chip.setKslot_bp (m : Chip) (i : Nat) (v : KeySlot) : (m.setKslot i v).bp = m.bp := rfl
@[simp] theorem Chip.setKslot_tw (m : Chip) (i : Nat) (v : KeySlot) : (m.setKslot i v).tw = m.tw := rfl
@[simp] theorem Chip.setKslot_eng (m : Chip) (i : Nat) (v : KeySlot) : (m.setKslot i v).eng = m.eng := rfl
@[simp] theorem Chip.setKslot_nv (m : Chip) (i : Nat) (v : KeySlot) : (m.setKslot i v).nv = m.nv := rfl
@[simp] theorem Chip.setKslot_tr (m : Chip) (i : Nat) (v : KeySlot) : (m.setKslot i v).tr = m.tr := rfl
@[simp] theorem Chip.setKslot_th (m : Chip) (i : Nat) (v : KeySlot) : (m.setKslot i v).th = m.th := rfl
@[simp] theorem Chip.setKslot_psq (m : Chip) (i : Nat) (v : KeySlot) : (m.setKslot i v).psq = m.psq := rfl
@[simp] theorem Chip.setKslot_plp (m : Chip) (i : Nat) (v : KeySlot) : (m.setKslot i v).plp = m.plp := rfl
@[simp] theorem Chip.setKslot_st (m : Chip) (i : Nat) (v : KeySlot) : (m.setKslot i v).st = m.st := rfl
@[simp] theorem Chip.setKslot_sd (m : Chip) (i : Nat) (v : KeySlot) : (m.setKslot i v).sd = m.sd := rfl
@[simp] theorem Chip.setKslot_dr (m : Chip) (i : Nat) (v : KeySlot) : (m.setKslot i v).dr = m.dr := rfl
@[simp] theorem Chip.setKslot_pt (m : Chip) (i : Nat) (v : KeySlot) : (m.setKslot i v).pt = m.pt := rfl
@[simp] theorem Chip.setKslot_ag (m : Chip) (i : Nat) (v : KeySlot) : (m.setKslot i v).ag = m.ag := rfl
@[simp] theorem Chip.setKslot_freeCtr (m : Chip) (i : Nat) (v : KeySlot) : (m.setKslot i v).freeCtr = m.freeCtr := rfl
@[simp] theorem Chip.setKslot_pins (m : Chip) (i : Nat) (v : KeySlot) : (m.setKslot i v).pins = m.pins := rfl
@[simp] theorem Chip.setKslot_reply (m : Chip) (i : Nat) (v : KeySlot) : (m.setKslot i v).reply = m.reply := rfl
@[simp] theorem Chip.setKslot_out (m : Chip) (i : Nat) (v : KeySlot) : (m.setKslot i v).out = m.out := rfl

@[simp] theorem Chip.setRail_regs (m : Chip) (i : Nat) (v : RailSt) : (m.setRail i v).regs = m.regs := rfl
@[simp] theorem Chip.setRail_shadow (m : Chip) (i : Nat) (v : RailSt) : (m.setRail i v).shadow = m.shadow := rfl
@[simp] theorem Chip.setRail_i3cPtr (m : Chip) (i : Nat) (v : RailSt) : (m.setRail i v).i3cPtr = m.i3cPtr := rfl
@[simp] theorem Chip.setRail_evr (m : Chip) (i : Nat) (v : RailSt) : (m.setRail i v).evr = m.evr := rfl
@[simp] theorem Chip.setRail_isl (m : Chip) (i : Nat) (v : RailSt) : (m.setRail i v).isl = m.isl := rfl
@[simp] theorem Chip.setRail_img (m : Chip) (i : Nat) (v : RailSt) : (m.setRail i v).img = m.img := rfl
@[simp] theorem Chip.setRail_q (m : Chip) (i : Nat) (v : RailSt) : (m.setRail i v).q = m.q := rfl
@[simp] theorem Chip.setRail_zn (m : Chip) (i : Nat) (v : RailSt) : (m.setRail i v).zn = m.zn := rfl
@[simp] theorem Chip.setRail_md (m : Chip) (i : Nat) (v : RailSt) : (m.setRail i v).md = m.md := rfl
@[simp] theorem Chip.setRail_bp (m : Chip) (i : Nat) (v : RailSt) : (m.setRail i v).bp = m.bp := rfl
@[simp] theorem Chip.setRail_tw (m : Chip) (i : Nat) (v : RailSt) : (m.setRail i v).tw = m.tw := rfl
@[simp] theorem Chip.setRail_kv (m : Chip) (i : Nat) (v : RailSt) : (m.setRail i v).kv = m.kv := rfl
@[simp] theorem Chip.setRail_eng (m : Chip) (i : Nat) (v : RailSt) : (m.setRail i v).eng = m.eng := rfl
@[simp] theorem Chip.setRail_nv (m : Chip) (i : Nat) (v : RailSt) : (m.setRail i v).nv = m.nv := rfl
@[simp] theorem Chip.setRail_tr (m : Chip) (i : Nat) (v : RailSt) : (m.setRail i v).tr = m.tr := rfl
@[simp] theorem Chip.setRail_th (m : Chip) (i : Nat) (v : RailSt) : (m.setRail i v).th = m.th := rfl
@[simp] theorem Chip.setRail_plp (m : Chip) (i : Nat) (v : RailSt) : (m.setRail i v).plp = m.plp := rfl
@[simp] theorem Chip.setRail_st (m : Chip) (i : Nat) (v : RailSt) : (m.setRail i v).st = m.st := rfl
@[simp] theorem Chip.setRail_sd (m : Chip) (i : Nat) (v : RailSt) : (m.setRail i v).sd = m.sd := rfl
@[simp] theorem Chip.setRail_dr (m : Chip) (i : Nat) (v : RailSt) : (m.setRail i v).dr = m.dr := rfl
@[simp] theorem Chip.setRail_pt (m : Chip) (i : Nat) (v : RailSt) : (m.setRail i v).pt = m.pt := rfl
@[simp] theorem Chip.setRail_ag (m : Chip) (i : Nat) (v : RailSt) : (m.setRail i v).ag = m.ag := rfl
@[simp] theorem Chip.setRail_freeCtr (m : Chip) (i : Nat) (v : RailSt) : (m.setRail i v).freeCtr = m.freeCtr := rfl
@[simp] theorem Chip.setRail_pins (m : Chip) (i : Nat) (v : RailSt) : (m.setRail i v).pins = m.pins := rfl
@[simp] theorem Chip.setRail_reply (m : Chip) (i : Nat) (v : RailSt) : (m.setRail i v).reply = m.reply := rfl
@[simp] theorem Chip.setRail_out (m : Chip) (i : Nat) (v : RailSt) : (m.setRail i v).out = m.out := rfl

/-- A change of a slot's command changes the queue state alone. -/
theorem Chip.modCmd_eq (m : Chip) (s : Nat) (g : Cmd → Cmd) :
    m.modCmd s g = match m.cmd? s with
      | some c => m.putCmd s { g c with progress := m.isl.dtc }
      | none => m := rfl

@[simp] theorem Chip.modCmd_regs (m : Chip) (s : Nat) (g : Cmd → Cmd) : (m.modCmd s g).regs = m.regs := by
  rw [Chip.modCmd_eq]; split <;> rfl
@[simp] theorem Chip.modCmd_shadow (m : Chip) (s : Nat) (g : Cmd → Cmd) : (m.modCmd s g).shadow = m.shadow := by
  rw [Chip.modCmd_eq]; split <;> rfl
@[simp] theorem Chip.modCmd_i3cPtr (m : Chip) (s : Nat) (g : Cmd → Cmd) : (m.modCmd s g).i3cPtr = m.i3cPtr := by
  rw [Chip.modCmd_eq]; split <;> rfl
@[simp] theorem Chip.modCmd_evr (m : Chip) (s : Nat) (g : Cmd → Cmd) : (m.modCmd s g).evr = m.evr := by
  rw [Chip.modCmd_eq]; split <;> rfl
@[simp] theorem Chip.modCmd_isl (m : Chip) (s : Nat) (g : Cmd → Cmd) : (m.modCmd s g).isl = m.isl := by
  rw [Chip.modCmd_eq]; split <;> rfl
@[simp] theorem Chip.modCmd_img (m : Chip) (s : Nat) (g : Cmd → Cmd) : (m.modCmd s g).img = m.img := by
  rw [Chip.modCmd_eq]; split <;> rfl
@[simp] theorem Chip.modCmd_zn (m : Chip) (s : Nat) (g : Cmd → Cmd) : (m.modCmd s g).zn = m.zn := by
  rw [Chip.modCmd_eq]; split <;> rfl
@[simp] theorem Chip.modCmd_md (m : Chip) (s : Nat) (g : Cmd → Cmd) : (m.modCmd s g).md = m.md := by
  rw [Chip.modCmd_eq]; split <;> rfl
@[simp] theorem Chip.modCmd_bp (m : Chip) (s : Nat) (g : Cmd → Cmd) : (m.modCmd s g).bp = m.bp := by
  rw [Chip.modCmd_eq]; split <;> rfl
@[simp] theorem Chip.modCmd_tw (m : Chip) (s : Nat) (g : Cmd → Cmd) : (m.modCmd s g).tw = m.tw := by
  rw [Chip.modCmd_eq]; split <;> rfl
@[simp] theorem Chip.modCmd_kv (m : Chip) (s : Nat) (g : Cmd → Cmd) : (m.modCmd s g).kv = m.kv := by
  rw [Chip.modCmd_eq]; split <;> rfl
@[simp] theorem Chip.modCmd_eng (m : Chip) (s : Nat) (g : Cmd → Cmd) : (m.modCmd s g).eng = m.eng := by
  rw [Chip.modCmd_eq]; split <;> rfl
@[simp] theorem Chip.modCmd_nv (m : Chip) (s : Nat) (g : Cmd → Cmd) : (m.modCmd s g).nv = m.nv := by
  rw [Chip.modCmd_eq]; split <;> rfl
@[simp] theorem Chip.modCmd_tr (m : Chip) (s : Nat) (g : Cmd → Cmd) : (m.modCmd s g).tr = m.tr := by
  rw [Chip.modCmd_eq]; split <;> rfl
@[simp] theorem Chip.modCmd_th (m : Chip) (s : Nat) (g : Cmd → Cmd) : (m.modCmd s g).th = m.th := by
  rw [Chip.modCmd_eq]; split <;> rfl
@[simp] theorem Chip.modCmd_psq (m : Chip) (s : Nat) (g : Cmd → Cmd) : (m.modCmd s g).psq = m.psq := by
  rw [Chip.modCmd_eq]; split <;> rfl
@[simp] theorem Chip.modCmd_plp (m : Chip) (s : Nat) (g : Cmd → Cmd) : (m.modCmd s g).plp = m.plp := by
  rw [Chip.modCmd_eq]; split <;> rfl
@[simp] theorem Chip.modCmd_st (m : Chip) (s : Nat) (g : Cmd → Cmd) : (m.modCmd s g).st = m.st := by
  rw [Chip.modCmd_eq]; split <;> rfl
@[simp] theorem Chip.modCmd_sd (m : Chip) (s : Nat) (g : Cmd → Cmd) : (m.modCmd s g).sd = m.sd := by
  rw [Chip.modCmd_eq]; split <;> rfl
@[simp] theorem Chip.modCmd_dr (m : Chip) (s : Nat) (g : Cmd → Cmd) : (m.modCmd s g).dr = m.dr := by
  rw [Chip.modCmd_eq]; split <;> rfl
@[simp] theorem Chip.modCmd_pt (m : Chip) (s : Nat) (g : Cmd → Cmd) : (m.modCmd s g).pt = m.pt := by
  rw [Chip.modCmd_eq]; split <;> rfl
@[simp] theorem Chip.modCmd_ag (m : Chip) (s : Nat) (g : Cmd → Cmd) : (m.modCmd s g).ag = m.ag := by
  rw [Chip.modCmd_eq]; split <;> rfl
@[simp] theorem Chip.modCmd_freeCtr (m : Chip) (s : Nat) (g : Cmd → Cmd) : (m.modCmd s g).freeCtr = m.freeCtr := by
  rw [Chip.modCmd_eq]; split <;> rfl
@[simp] theorem Chip.modCmd_pins (m : Chip) (s : Nat) (g : Cmd → Cmd) : (m.modCmd s g).pins = m.pins := by
  rw [Chip.modCmd_eq]; split <;> rfl
@[simp] theorem Chip.modCmd_reply (m : Chip) (s : Nat) (g : Cmd → Cmd) : (m.modCmd s g).reply = m.reply := by
  rw [Chip.modCmd_eq]; split <;> rfl
@[simp] theorem Chip.modCmd_out (m : Chip) (s : Nat) (g : Cmd → Cmd) : (m.modCmd s g).out = m.out := by
  rw [Chip.modCmd_eq]; split <;> rfl

end Sys2Proof.Machine
end

