-- ==== Sys2Proof/Laws/Commands.lean ====
section
/-! SUPPORT. What the shared frames of admin and I/O commands do when a slot holds such a command. -/

namespace Sys2Proof.Machine

variable {m : Chip} {s op : Nat} {c : Cmd}

/-- An accepted admin command of the opcode is carried out. -/
theorem Chip.adminCmd_at (h : m.adminAt s op c) (g : Cmd → Chip → Chip) : m.adminCmd s op g = g c m := by
  obtain ⟨h1, h2, h3, h4⟩ := h
  simp [Chip.adminCmd, h1, h2, h3, h4]

/-- Before its data, an admin command that takes data and passes its checks asks for it. -/
theorem Chip.adminData_ask (h : m.adminAt s op c) {pre : Cmd → Option (Chip → Chip)} (hp : pre c = none) (len : Nat) (g : Cmd → Chip → Chip) :
    m.adminData s op len pre g =
      (m.modCmd s fun c => { c with phase := .running, want := len, dataOpen := true }).fetchData s len := by
  obtain ⟨h1, h2, h3, h4⟩ := h
  simp [Chip.adminData, h1, h2, h3, h4, hp]

/-- With its data, an admin command is carried out. -/
theorem Chip.adminData_at (h : m.dataAt s op c) (len : Nat) (pre : Cmd → Option (Chip → Chip)) (g : Cmd → Chip → Chip) :
    m.adminData s op len pre g = g c m := by
  obtain ⟨h1, h2, h3, h4, h5, h6⟩ := h
  simp [Chip.adminData, h1, h2, h3, h4, h5, h6]

/-- A command whose pointers are all known acts with them. -/
theorem Chip.withPtrs_in (h : m.cmd? s = some c) {len : Nat} {d : Cmd} (hp : m.ptrsIn s len c d) (g : Cmd → Chip → Chip) :
    m.withPtrs s len g = g d (m.ptrsAsked s len c) := by
  obtain ⟨h1, h2⟩ := hp
  unfold Chip.ptrsAsked at *
  unfold Chip.withPtrs
  by_cases hc : c.ptrs = [] ∧ c.list.isNone = true
  · simp only [if_pos hc, h] at h1 ⊢
    simp [h1, h2]
  · simp only [if_neg hc, h] at h1 ⊢
    simp [Option.some.inj h1, h2]

/-- A command with a list or segment still to read waits for it. -/
theorem Chip.withPtrs_waits (h : m.cmd? s = some c) {len : Nat} {d : Cmd} (h1 : (m.ptrsAsked s len c).cmd? s = some d)
    (h2 : d.list.isSome = true) (g : Cmd → Chip → Chip) : m.withPtrs s len g = m.ptrsAsked s len c := by
  unfold Chip.ptrsAsked at *
  unfold Chip.withPtrs
  by_cases hc : c.ptrs = [] ∧ c.list.isNone = true
  · simp only [if_pos hc, h] at h1 ⊢
    simp [h1, h2]
  · simp only [if_neg hc, h] at h1 ⊢
    simp [Option.some.inj h1, h2]

/-- An accepted feature command of the feature is carried out. -/
theorem Chip.feature_at (h : m.adminAt s op c) {fid : Nat} (hf : bits (dw c.entry 10) 7 0 = fid) (g : Cmd → Chip → Chip) :
    m.feature s op fid g = g c m := by
  simp [Chip.feature, Chip.adminCmd_at h, hf]

/-- An accepted I/O command of the opcode is carried out for its namespace. -/
theorem Chip.ioCmd_at {n : Ns} (h : m.ioAt s op c n) (g : Cmd → Ns → Chip → Chip) : m.ioCmd s op g = g c n m := by
  obtain ⟨h1, h2, h3, h4, h5, h6, h7, h8⟩ := h
  cases hz : c.zone <;> simp_all [Chip.ioCmd] <;> intro a b <;> simp_all

/-- The doorbells of queue `y` lie at 0x1000 + 8y and 4 above (R112). -/
theorem Chip.bar0At_doorbell (m : Chip) (f : Nat) {y : Nat} (h : y ≤ m.img.tables.qcount f) :
    m.bar0At f (0x1000 + 8 * y) = .doorbell y false ∧ m.bar0At f (0x1000 + 8 * y + 4) = .doorbell y true := by
  constructor
  · have a : (0x1000 + 8 * y - 0x1000) / 8 = y := by omega
    have b : (0x1000 + 8 * y - 0x1000) % 8 = 0 := by omega
    simp only [Chip.bar0At, bar0Place]
    rw [if_neg (show ¬ 0x1000 + 8 * y < 0x1000 by omega), if_pos (show 0x1000 + 8 * y < doorbellEnd (m.img.tables.qcount f) by unfold doorbellEnd; omega), a, b]
    rfl
  · have a : (0x1000 + 8 * y + 4 - 0x1000) / 8 = y := by omega
    have b : (0x1000 + 8 * y + 4 - 0x1000) % 8 = 4 := by omega
    simp only [Chip.bar0At, bar0Place]
    rw [if_neg (show ¬ 0x1000 + 8 * y + 4 < 0x1000 by omega), if_pos (show 0x1000 + 8 * y + 4 < doorbellEnd (m.img.tables.qcount f) by unfold doorbellEnd; omega), a, b]
    rfl

/-- The plain bytes a write stores depend on the namespaces alone. -/
theorem Chip.storedPlain_congr {x m : Chip} (h : x.zn = m.zn) (c : Cmd) : x.storedPlain c = m.storedPlain c := by
  unfold Chip.storedPlain Chip.elasticCmd Chip.ns?
  rw [h]

/-- Whether a write's data is all stored depends on the namespaces alone. -/
theorem Chip.allStored_congr {x m : Chip} (h : x.zn = m.zn) (c : Cmd) : x.allStored c = m.allStored c := by
  unfold Chip.allStored Chip.elasticCmd Chip.ns?
  rw [h]

end Sys2Proof.Machine
end

