-- ==== Sys2Proof/Laws/Table.lean ====
section
/-! SUPPORT. Tables, memories and register fields: what is read after a write, and that a write keeps a table's canonical form. -/

namespace Sys2Proof.Machine

variable {α : Type}

/-- A key that has an entry holds it. -/
theorem tget_of_tfind (d : α) {t : Table α} {k : Nat} {v : α} (h : tfind t k = some v) : tget d t k = v := by
  induction t with
  | nil => simp [tfind] at h
  | cons e t ih =>
    simp only [tfind, tget] at h ⊢
    split at h <;> simp_all

theorem tget_tput_same (d : α) (t : Table α) (k : Nat) (v : α) : tget d (tput t k v) k = v := by
  fun_induction tput t k v <;> grind [tget]

theorem tget_tput_ne (d : α) (t : Table α) {k j : Nat} (h : j ≠ k) (v : α) : tget d (tput t k v) j = tget d t j := by
  fun_induction tput t k v <;> grind [tget]

theorem tget_tdel_same (d : α) (t : Table α) (k : Nat) : tget d (tdel t k) k = d := by
  fun_induction tdel t k <;> grind [tget]

theorem tget_tdel_ne (d : α) (t : Table α) {k j : Nat} (h : j ≠ k) : tget d (tdel t k) j = tget d t j := by
  fun_induction tdel t k <;> grind [tget]

variable [DecidableEq α]

/-- What a table gives where it was just written. -/
theorem tget_tset_same (d : α) (t : Table α) (k : Nat) (v : α) : tget d (tset d t k v) k = v := by
  unfold tset
  split
  · rename_i h; rw [tget_tdel_same, h]
  · exact tget_tput_same d t k v

/-- A write to a table leaves every other entry. -/
theorem tget_tset_ne (d d' : α) (t : Table α) {k j : Nat} (h : j ≠ k) (v : α) : tget d (tset d' t k v) j = tget d t j := by
  unfold tset
  split
  · exact tget_tdel_ne d t h
  · exact tget_tput_ne d t h v

/-- A field reads what was written to it, cut to its width. -/
theorem Chip.f_setF_same (m : Chip) (g : Fld) (v n : Nat) : (m.setF g v n).f g n = v % g.span := tget_tset_same ..

/-- A write to a field leaves the fields of other places. -/
theorem Chip.f_setF_ne (m : Chip) (g h : Fld) (v n k : Nat) (hk : h.key k ≠ g.key n) : (m.setF g v n).f h k = m.f h k :=
  tget_tset_ne _ _ _ hk _

/-- Raising an event changes no register below the event and fault blocks. -/
theorem Chip.f_emit_below (m : Chip) (i code value : Nat) (tag : Option Nat) (g : Fld) (n : Nat) (h : g.key n < 0x260000 * 32) :
    (m.emit i code value tag).f g n = m.f g n := by
  have set (x : Chip) (k : Fld) (v j : Nat) (hk : 0x260000 * 32 ≤ k.key j) : (x.setF k v j).f g n = x.f g n :=
    Chip.f_setF_ne _ _ _ _ _ _ (by omega)
  have line : (m.faultLine code).f g n = m.f g n := by
    have bits : ((m.setBit FLT_PEND.GROUP (groupOf code) true).incF FLT_GCNT.COUNT (groupOf code)).f g n = m.f g n := by
      simp only [Chip.incF, Chip.addF, Chip.setBit]
      rw [set _ _ _ _ (by simp only [Fld.key, Fld.off, FLT_GCNT.COUNT]; omega), set _ _ _ _ (by decide)]
    simp only [Chip.faultLine]
    split
    · exact bits
    · rw [set _ _ _ _ (by decide), set _ _ _ _ (by decide), set _ _ _ _ (by decide), set _ _ _ _ (by decide)]
      exact bits
  have queue (x : Chip) (e : Ev) : (x.enqueueEv i e).f g n = x.f g n := by
    simp only [Chip.enqueueEv]
    split
    · rfl
    · simp only [Chip.incF, Chip.addF]
      exact set _ _ _ _ (by decide)
  simp only [Chip.emit, Chip.emitAs]
  rw [queue]
  split
  · exact line
  · rfl

/-- A byte of memory reads as written. -/
theorem memGet_memSet_same (m : List Host.Cell) (a : Nat) (b : Byte) : memGet (memSet m a b) a = b := tget_tset_same ..

/-- A write of a byte leaves every other byte. -/
theorem memGet_memSet_ne (m : List Host.Cell) {a c : Nat} (h : c ≠ a) (b : Byte) : memGet (memSet m a b) c = memGet m c :=
  tget_tset_ne _ _ _ h _

/-! ## The canonical form -/

omit [DecidableEq α] in
/-- A first key below the others keeps them rising. -/
theorem rise_cons {t : Table α} {e : Nat × α} :
    ((e :: t).Pairwise fun a b => a.1 < b.1) ↔ (∀ x, x ∈ t → e.1 < x.1) ∧ t.Pairwise fun a b => a.1 < b.1 := List.pairwise_cons

omit [DecidableEq α] in
/-- Keys that rise step by step rise over any distance. -/
theorem keysRise_iff (t : Table α) : keysRise t = true ↔ t.Pairwise fun a b => a.1 < b.1 := by
  fun_induction keysRise t with
  | case1 | case2 => simp
  | case3 k _ k' v t ih =>
    rw [Bool.and_eq_true, ih, decide_eq_true_eq, rise_cons (t := _ :: _), List.forall_mem_cons]
    exact ⟨fun ⟨up, r⟩ => ⟨⟨up, fun x hx => Nat.lt_trans up ((rise_cons.mp r).1 x hx)⟩, r⟩, fun ⟨⟨up, _⟩, r⟩ => ⟨up, r⟩⟩

/-- The canonical form: keys rise and no entry is the default. -/
theorem tableOk_iff (d : α) (t : Table α) :
    Table.ok d t = true ↔ (t.Pairwise fun a b => a.1 < b.1) ∧ ∀ e ∈ t, e.2 ≠ d := by
  simp [Table.ok, keysRise_iff]

/-- A filtered table is canonical if the table is. -/
theorem tableOk_filter (d : α) (t : Table α) (p : Nat × α → Bool) (h : Table.ok d t = true) : Table.ok d (t.filter p) = true := by
  rw [tableOk_iff] at *
  exact ⟨h.1.filter p, fun e he => h.2 e ((List.mem_filter.mp he).1)⟩

omit [DecidableEq α] in
theorem mem_tput {t : Table α} {k : Nat} {v : α} {e : Nat × α} (h : e ∈ tput t k v) : e = (k, v) ∨ e ∈ t := by
  fun_induction tput t k v <;> grind

omit [DecidableEq α] in
theorem mem_tdel {t : Table α} {k : Nat} {e : Nat × α} (h : e ∈ tdel t k) : e ∈ t := by
  fun_induction tdel t k <;> grind

omit [DecidableEq α] in
/-- Putting an entry keeps the keys rising. -/
theorem rise_tput {t : Table α} (k : Nat) (v : α) (r : t.Pairwise fun a b => a.1 < b.1) :
    (tput t k v).Pairwise fun a b => a.1 < b.1 := by
  fun_induction tput t k v with
  | case1 => simp
  | case2 k' w t k v lo =>
    rw [rise_cons, List.forall_mem_cons]
    exact ⟨⟨lo, fun x hx => Nat.lt_trans lo ((rise_cons.mp r).1 x hx)⟩, r⟩
  | case3 => exact rise_cons.mpr ⟨fun x hx => (rise_cons.mp r).1 x hx, (rise_cons.mp r).2⟩
  | case4 k' w t k v lo ne ih =>
    have ⟨up, r'⟩ := rise_cons.mp r
    refine rise_cons.mpr ⟨fun x hx => (mem_tput hx).elim (fun new => ?_) (up x), ih r'⟩
    rw [new]
    exact Nat.lt_of_le_of_ne (Nat.le_of_not_lt lo) (Ne.symm ne)

omit [DecidableEq α] in
/-- Taking an entry out keeps the keys rising. -/
theorem rise_tdel {t : Table α} (k : Nat) (r : t.Pairwise fun a b => a.1 < b.1) : (tdel t k).Pairwise fun a b => a.1 < b.1 := by
  fun_induction tdel t k with
  | case1 => exact r
  | case2 _ _ _ ih => exact ih (rise_cons.mp r).2
  | case3 _ _ _ _ _ ih => exact rise_cons.mpr ⟨fun x hx => (rise_cons.mp r).1 x (mem_tdel hx), ih (rise_cons.mp r).2⟩

/-- A write keeps a table canonical. -/
theorem tableOk_tset (d : α) (t : Table α) (k : Nat) (v : α) (h : Table.ok d t = true) : Table.ok d (tset d t k v) = true := by
  rw [tableOk_iff] at *
  unfold tset
  split
  · exact ⟨rise_tdel k h.1, fun e he => h.2 e (mem_tdel he)⟩
  · exact ⟨rise_tput k v h.1, fun e he => by grind [mem_tput he, h.2 e]⟩

/-- A write of one byte keeps a memory canonical. -/
theorem memWf_memSet (m : List Host.Cell) (a : Nat) (b : Byte) (h : memWf m = true) : memWf (memSet m a b) = true :=
  tableOk_tset (α := Byte) 0 m a b h

/-- Forgetting bytes keeps a memory canonical. -/
theorem memWf_memClear (m : List Host.Cell) (a b : Nat) (h : memWf m = true) : memWf (memClear m a b) = true :=
  tableOk_filter (α := Byte) 0 m _ h

theorem mem_cellsOf {bs : List Byte} {a : Nat} {e : Host.Cell} (h : e ∈ cellsOf a bs) :
    a ≤ e.1 ∧ e.1 < a + bs.length ∧ e.2 ≠ 0 := by
  fun_induction cellsOf a bs <;> grind

theorem cellsOf_rise (bs : List Byte) (a : Nat) : (cellsOf a bs).Pairwise fun x y => x.1 < y.1 := by
  fun_induction cellsOf a bs with
  | case1 => simp
  | case2 _ _ ih => assumption
  | case3 a _ bs _ ih => exact rise_cons.mpr ⟨fun x hx => (mem_cellsOf hx).1, ih⟩

/-- A write of bytes keeps a memory canonical. -/
theorem memWf_memSetBytes (m : List Host.Cell) (a : Nat) (bs : List Byte) (h : memWf m = true) :
    memWf (memSetBytes m a bs) = true := by
  unfold memWf at *
  rw [tableOk_iff] at *
  unfold memSetBytes
  refine ⟨?_, ?_⟩
  · rw [List.pairwise_append, List.pairwise_append]
    refine ⟨⟨h.1.filter _, cellsOf_rise bs a, ?_⟩, h.1.filter _, ?_⟩
    · intro x hx y hy
      have h1 := (List.mem_filter.mp hx).2
      have h2 := (mem_cellsOf hy).1
      simp only [decide_eq_true_eq] at h1; omega
    · intro x hx y hy
      have h3 := (List.mem_filter.mp hy).2
      simp only [decide_eq_true_eq] at h3
      rcases List.mem_append.mp hx with hx | hx
      · have h1 := (List.mem_filter.mp hx).2
        simp only [decide_eq_true_eq] at h1; omega
      · have := (mem_cellsOf hx).2.1; omega
  · intro e he
    rcases List.mem_append.mp he with he | he
    · rcases List.mem_append.mp he with he | he
      · exact h.2 e ((List.mem_filter.mp he).1)
      · exact (mem_cellsOf he).2.2
    · exact h.2 e ((List.mem_filter.mp he).1)

theorem memGet_append (m m' : List Host.Cell) (a : Nat) (h : ∀ e ∈ m, e.1 ≠ a) : memGet (m ++ m') a = memGet m' a := by
  unfold memGet
  fun_induction tget (0 : Byte) m a <;> simp_all [tget]

theorem memGet_append_left (m m' : List Host.Cell) (a : Nat) (h : ∀ e ∈ m', e.1 ≠ a) : memGet (m ++ m') a = memGet m a := by
  have empty := memGet_append m' [] a h
  unfold memGet at *
  fun_induction tget (0 : Byte) m a <;> simp_all [tget]

theorem memGet_filter (m : List Host.Cell) (p : Host.Cell → Bool) (a : Nat) (h : ∀ b, p (a, b) = true) :
    memGet (m.filter p) a = memGet m a := by
  unfold memGet
  fun_induction tget (0 : Byte) m a <;> grind [tget]

/-- A write of bytes leaves every byte outside them. -/
theorem memGet_memSetBytes_ne (m : List Host.Cell) (a : Nat) (bs : List Byte) (c : Nat) (h : c < a ∨ a + bs.length ≤ c) :
    memGet (memSetBytes m a bs) c = memGet m c := by
  unfold memSetBytes
  rcases h with h | h
  · rw [memGet_append_left, memGet_append_left, memGet_filter]
    · intro b; simpa using h
    · intro e he; have := (mem_cellsOf he).1; omega
    · intro e he; have := (List.mem_filter.mp he).2; simp only [decide_eq_true_eq] at this; omega
  · rw [memGet_append, memGet_filter]
    · intro b; simpa using h
    · intro e he
      rcases List.mem_append.mp he with he | he
      · have := (List.mem_filter.mp he).2; simp only [decide_eq_true_eq] at this; omega
      · have := (mem_cellsOf he).2.1; omega

theorem memGet_cellsOf (bs : List Byte) (a i : Nat) (h : i < bs.length) : memGet (cellsOf a bs) (a + i) = bs[i] := by
  induction bs generalizing a i with
  | nil => simp at h
  | cons b bs ih =>
    unfold cellsOf
    cases i with
    | zero =>
      split
      · rename_i hb
        have : memGet (cellsOf (a + 1) bs ++ []) (a + 0) = memGet [] (a + 0) :=
          memGet_append _ _ _ fun e he => by have := (mem_cellsOf he).1; omega
        rw [List.append_nil] at this
        rw [this]; exact hb.symm
      · simp [memGet, tget]
    | succ i =>
      have h' : i < bs.length := by simpa using h
      have e : a + (i + 1) = a + 1 + i := by omega
      split
      · rw [e, ih _ _ h']; rfl
      · have h3 : a ≠ a + 1 + i := by omega
        have := ih (a + 1) i h'
        unfold memGet at *
        simp only [tget, e, h3, if_false]
        exact this

/-- The bytes written read back. -/
theorem memGet_memSetBytes_in (m : List Host.Cell) (a : Nat) (bs : List Byte) (i : Nat) (h : i < bs.length) :
    memGet (memSetBytes m a bs) (a + i) = bs[i] := by
  unfold memSetBytes
  rw [memGet_append_left, memGet_append, memGet_cellsOf _ _ _ h]
  · intro e he; have := (List.mem_filter.mp he).2; simp only [decide_eq_true_eq] at this; omega
  · intro e he; have := (List.mem_filter.mp he).2; simp only [decide_eq_true_eq] at this; omega

end Sys2Proof.Machine
end

