-- ==== Sys2Proof/Laws/Link.lean ====
section
/-! SUPPORT. What comes of a frame of the twin link that verifies and is in order. -/

namespace Sys2Proof.Machine

variable {m : Chip} {r : RxFrame} {i : Instr}

/-- With no perturbation armed no frame is dropped. -/
theorem Chip.dropped_unarmed (h : m.f PTB_CTL.ARMED = 0) (s : Nat) (u : Bool) : m.dropped s u = (false, m) := by
  simp [Chip.dropped, Chip.ptbOn, h]

/-- A sub-link's state after it is set. -/
theorem Chip.sub_setSub (m : Chip) (s : Nat) (v : SubSt) : (m.setSub s v).sub s = v := tget_tset_same ..

/-- The frame expected next, with none that waits before it, has its effect: it is acknowledged where that is held, and waits where it is not. -/
theorem Chip.frameTake_first (hx : r.xseq = 0) (hw : (m.sub r.sub.val).waits = []) :
    m.frameTake i r =
      if (m.frameEffect i).2 then (m.frameEffect i).1.sendAck r.sub.val false
      else (m.frameEffect i).1.setSub r.sub.val { (m.frameEffect i).1.sub r.sub.val with waits := [i] } := by
  have ha : m.acceptedOnce 0 = false := by simp [Chip.acceptedOnce]
  simp [Chip.frameTake, ha, hx, hw]

theorem Chip.waits_expectNext (m : Chip) (s : Nat) : ((m.expectNext s).sub s).waits = (m.sub s).waits := by
  rw [Chip.expectNext, Chip.sub_setSub]

/-! What each reliable frame does, and whether its effect is held (R411, R414). -/

theorem Chip.frameEffect_hello (body : List Byte) :
    m.frameEffect (.hello r body) = (m.helloIn r.sub.val body, true) := rfl
theorem Chip.frameEffect_spdmFrame (msg : Fin 65536) (index : Fin 65536) (last : Bool) (msgLen : BitVec 32) (fragLen : Fin 65536) (body : List Byte) (found : Option TwinEvidence) :
    m.frameEffect (.spdmFrame r msg index last msgLen fragLen body found) = (m.spdmFrameIn r.sub.val msg.val index.val last msgLen.toNat fragLen.val body found, true) := rfl
theorem Chip.frameEffect_mirror (row : Fin 1024) (offset : BitVec 32) (body : List Byte) :
    m.frameEffect (.mirror r row offset body) = m.mirIn ((frameZone r).getD 0) row.val offset.toNat (m.arriveBy r.slack) body := rfl
theorem Chip.frameEffect_commit (cwp : BitVec 32) (rwp : BitVec 32) (pfp : BitVec 32) (flags : Fin 65536) (body : List Byte) :
    m.frameEffect (.commit r cwp rwp pfp flags body) = m.commitIn ((frameZone r).getD 0) cwp.toNat rwp.toNat pfp.toNat flags.val (m.arriveBy r.slack) body := rfl
theorem Chip.frameEffect_release (row : Fin 1024) (reason : Fin 256) (pwp : BitVec 32) (from_ : BitVec 32) :
    m.frameEffect (.release r row reason pwp from_) = (m.releaseIn ((frameZone r).getD 0) row.val reason.val pwp.toNat from_.toNat, true) := rfl
theorem Chip.frameEffect_delta (f : RxFrame) (body : List Byte) :
    m.frameEffect (.delta f body) = (m.deltaRecords body.length body, true) := rfl
theorem Chip.frameEffect_parity (row : Fin 1024) (member : Fin 18) (y : Bool) (offset : BitVec 32) (body : List Byte) :
    m.frameEffect (.parity r row member y offset body) = m.parityIn ((frameZone r).getD 0) row.val member.val offset.toNat (m.arriveBy r.slack) body := rfl
theorem Chip.frameEffect_fwdreqRead (q : FwdOp) :
    m.frameEffect (.fwdreqRead r q) = (m.fwdOpIn r 1 q, true) := rfl
theorem Chip.frameEffect_fwdreqProgram (q : FwdOp) :
    m.frameEffect (.fwdreqProgram r q) = (m.fwdOpIn r 2 q, true) := rfl
theorem Chip.frameEffect_fwdreqErase (q : FwdOp) :
    m.frameEffect (.fwdreqErase r q) = (m.fwdOpIn r 3 q, true) := rfl
theorem Chip.frameEffect_fwddata (f : RxFrame) (req : BitVec 32) (offset : BitVec 32) (body : List Byte) :
    m.frameEffect (.fwddata f req offset body) = (m.fwdData req.toNat offset.toNat body, true) := rfl
theorem Chip.frameEffect_fwddone (f : RxFrame) (req : BitVec 32) (status : Fin 256) (bits_ : Fin 65536) (busyUs : BitVec 32) :
    m.frameEffect (.fwddone f req status bits_ busyUs) = (m.fwdAnswer req.toNat (min status.val 5) bits_.val busyUs.toNat, true) := rfl
theorem Chip.frameEffect_fwdcmd (fn : Fn) (queue : BitVec 32) (slot : SlotId) (tenant : Ten) (cls : Grp) (flags : Fin 256) (level : Fin 256) (entry : List Byte) :
    m.frameEffect (.fwdcmd r fn queue slot tenant cls flags level entry) = ((m.fwdCmdIn r fn.val queue.toNat slot.val tenant.val cls.val flags.val level.val entry).map fun n => (n, true)).getD (m, false) := rfl
theorem Chip.frameEffect_fwdcpl (f : RxFrame) (slot : SlotId) (status : Fin 65536) (dw0 : BitVec 32) :
    m.frameEffect (.fwdcpl f slot status dw0) = (m.fwdCpl slot.val status.val dw0.toNat, true) := rfl
theorem Chip.frameEffect_marker (f : RxFrame) (marker : Fin 65536) (snap : Bool) (ack : Bool) :
    m.frameEffect (.marker f marker snap ack) = (m.markerIn marker.val snap ack, true) := rfl
theorem Chip.frameEffect_ctrlSanitizeRelay (f : RxFrame) (blocks : Bool) :
    m.frameEffect (.ctrlSanitizeRelay f blocks) = ((m.sanFence none blocks).sanSteps blocks, true) := rfl
theorem Chip.frameEffect_ctrlResendRow (row : Fin 1024) :
    m.frameEffect (.ctrlResendRow r row) = (m.resendRow ((frameZone r).getD 0) row.val, true) := rfl
theorem Chip.frameEffect_ctrlHandover (f : RxFrame) :
    m.frameEffect (.ctrlHandover f) = (m.handoverIn, true) := rfl
theorem Chip.frameEffect_ctrlStateTransfer (body : List Byte) :
    m.frameEffect (.ctrlStateTransfer r body) = (m.stateIn ((frameZone r).getD 0) body, true) := rfl
theorem Chip.frameEffect_reservedFrame (f : RxFrame) :
    m.frameEffect (.reservedFrame f) = (m.emit 27 0x690C, true) := rfl

/-- A frame in order is accepted. -/
theorem Chip.rxReliable_inOrder (h : m.inOrder r) (clear : Bool) :
    m.rxReliable i r clear = (m.expectNext r.sub.val).frameTake i r := by
  obtain ⟨⟨h1, h2, h3, h4, h5, h6⟩, h7, h8, h9⟩ := h
  have hk : m.rxKeyed r clear = (m, true) := by
    simp [Chip.rxKeyed, h3, h4, ← h5, h6]
  simp [Chip.rxReliable, Chip.dropped_unarmed h2, hk, h1, h7]

/-- A frame in order whose effect is held is acknowledged. -/
theorem Chip.rxReliable_held (h : m.inOrder r) {clear : Bool} {t : Chip} (he : (m.expectNext r.sub.val).frameEffect i = (t, true)) :
    m.rxReliable i r clear = t.sendAck r.sub.val false := by
  rw [Chip.rxReliable_inOrder h, Chip.frameTake_first h.2.2.1 ((m.waits_expectNext _).trans h.2.2.2), he]
  rfl

/-- One whose effect cannot be held yet waits. -/
theorem Chip.rxReliable_waits (h : m.inOrder r) {clear : Bool} {t : Chip} (he : (m.expectNext r.sub.val).frameEffect i = (t, false)) :
    m.rxReliable i r clear = t.setSub r.sub.val { t.sub r.sub.val with waits := [i] } := by
  rw [Chip.rxReliable_inOrder h, Chip.frameTake_first h.2.2.1 ((m.waits_expectNext _).trans h.2.2.2), he]
  rfl

/-- The same in the handshake, before keys. -/
theorem Chip.rxReliable_clear (h : m.inClear r) {t : Chip} (he : (m.expectNext r.sub.val).frameEffect i = (t, true)) :
    m.rxReliable i r true = t.sendAck r.sub.val false := by
  obtain ⟨h1, h2, h3, h4, h6, h7, h8, h9⟩ := h
  have hk : m.rxKeyed r true = (m, true) := by simp [Chip.rxKeyed, h3, h4, h6]
  have e : m.rxReliable i r true = (m.expectNext r.sub.val).frameTake i r := by
    simp [Chip.rxReliable, Chip.dropped_unarmed h2, hk, h1, h7]
  rw [e, Chip.frameTake_first h8 ((m.waits_expectNext _).trans h9), he]
  rfl

/-- An unsequenced frame that verifies has its effect. -/
theorem Chip.rxUnseq_verified (h : m.verified r) (g : Chip → Chip) : m.rxUnseq r g = g m := by
  obtain ⟨h1, h2, h3, h4, h5, h6⟩ := h
  have hk : m.rxKeyed r false = (m, true) := by simp [Chip.rxKeyed, h3, h4, ← h5, h6]
  simp [Chip.rxUnseq, Chip.dropped_unarmed h2, hk, h1]

end Sys2Proof.Machine
end

