-- ==== Sys2Proof/Laws/Owner.lean ====
section
/-! SUPPORT. How the check of an owner command ends (R341). -/

namespace Sys2Proof.Machine

variable {m : Chip} {c : OwnerCheck} {op : Nat}

/-- The check of a command of the operation a row names ends. -/
theorem Chip.ownerCmd_is (g : Nat → Bool) (b : List Byte) (h : m.ownerPasses c op) (hg : g op = true) :
    m.ownerCmd g b = m.ownerCheck c := by
  obtain ⟨h0, _, _, _, _, h5⟩ := h
  simp [Chip.ownerCmd, h0, h5, hg]

theorem Chip.f_ownerIdle (m : Chip) : m.ownerIdle.f TRS_FAILCNT.CONSEC = m.f TRS_FAILCNT.CONSEC := by
  unfold Chip.ownerIdle
  rw [Chip.f_setF_ne _ _ _ _ _ _ (by decide), Chip.f_setF_ne _ _ _ _ _ _ (by decide)]
  rfl

/-- Up to the operation the array of ENVA stays as it was. -/
theorem Chip.nv_shown (m : Chip) (op : Nat) : (m.ownerIdle.ownerShown op).nv = m.nv := by
  unfold Chip.ownerShown Chip.askUnloaded
  simp only []
  split <;> rfl

/-- Up to the operation the level stays as it was. -/
theorem Chip.level_shown (m : Chip) (op : Nat) : (m.ownerIdle.ownerShown op).level = m.level := by
  unfold Chip.level
  rw [Chip.nv_shown]

/-- The keys' state stays until the operation. -/
theorem Chip.state_shown {m : Chip} {op v : Nat} (h : m.f KVT_STAT.STATE = v) : (m.ownerIdle.ownerShown op).f KVT_STAT.STATE = v := by
  have e : (m.ownerIdle.setF TRS_FAILCNT.CONSEC 0).f KVT_STAT.STATE = m.f KVT_STAT.STATE := by
    unfold Chip.ownerIdle
    rw [Chip.f_setF_ne _ _ _ _ _ _ (by decide), Chip.f_setF_ne _ _ _ _ _ _ (by decide), Chip.f_setF_ne _ _ _ _ _ _ (by decide)]
    rfl
  rw [← h, ← e]
  unfold Chip.ownerShown
  simp only []
  split <;> rfl

/-- Passed and signed, the operation is done and its result given. -/
theorem Chip.ownerCheck_ok (h : m.ownerPasses c op) (hs : m.ownerSigned c) (ho : 1 ≤ op ∧ op ≤ 7) :
    m.ownerCheck c =
      (let r := (m.ownerIdle.ownerShown op).ownerDo c.bytes op c.alarmed
       r.1.ownerEnd op (if r.2 then 1 else 6)) := by
  obtain ⟨_, h1, h2, h3, h4, h5⟩ := h
  obtain ⟨h6, h7⟩ := hs
  unfold Chip.ownerCheck
  simp only []
  rw [h5, if_neg (m.f_ownerIdle.symm ▸ h1), if_neg (not_not_intro h2), if_neg (not_not_intro h3), if_neg (by rw [h4]; decide), if_neg (by simp [ho]),
    if_neg]
  rintro (e | e)
  · exact h6 e
  · rw [Bool.not_eq_true'] at e
    exact Bool.noConfusion (h7.symm.trans e)

/-- Passed but not signed, it ends as a bad signature. -/
theorem Chip.ownerCheck_unsigned (h : m.ownerPasses c op) (hs : ¬ m.ownerSigned c) (ho : 1 ≤ op ∧ op ≤ 7) :
    m.ownerCheck c = m.ownerIdle.badSig op := by
  obtain ⟨_, h1, h2, h3, h4, h5⟩ := h
  unfold Chip.ownerCheck
  simp only []
  rw [h5, if_neg (m.f_ownerIdle.symm ▸ h1), if_neg (not_not_intro h2), if_neg (not_not_intro h3), if_neg (by rw [h4]; decide), if_neg (by simp [ho]), if_pos]
  by_cases h6 : m.ownerSigner c.bytes = []
  · exact Or.inl h6
  · refine Or.inr ?_
    rw [Bool.not_eq_true', ← Bool.not_eq_true]
    exact fun h7 => hs ⟨h6, h7⟩

/-- An operation that no code names ends with result 7. -/
theorem Chip.ownerCheck_bad (h : m.ownerPasses c op) (ho : op = 0 ∨ 7 < op) : m.ownerCheck c = m.ownerIdle.ownerEnd op 7 := by
  obtain ⟨_, h1, h2, h3, h4, h5⟩ := h
  unfold Chip.ownerCheck
  simp only []
  rw [h5, if_neg (m.f_ownerIdle.symm ▸ h1), if_neg (not_not_intro h2), if_neg (not_not_intro h3), if_neg (by rw [h4]; decide),
    if_pos (by rcases ho with h | h <;> simp [h])]

end Sys2Proof.Machine
end

