-- ==== Sys2Proof/Laws/Window.lean ====
section
/-! SUPPORT. Accesses that the control window lets through: a write reaches its block, a read its register. -/

namespace Sys2Proof.Machine

variable {m : Chip} {rq : Rq} {off : Nat}

/-- An access that is let through reaches its register. -/
theorem Chip.access_open (h : m.open_ rq off) (hf : (fieldsAt off).isEmpty = false) (data : Option Nat) :
    m.access rq off data = m.reach rq off data := by
  obtain ⟨h1, h2, h3⟩ := h
  simp [Chip.access, Chip.pass, Chip.islServes, h1, h2, h3, hf]

/-- A full write that is let through stores by the rules of its block. -/
theorem Chip.cwPut_open {g : Fld} {n : Nat} (h : m.open_ rq (g.off n)) (hf : (fieldsAt (g.off n)).isEmpty = false) (w : Nat) :
    m.cwPut rq g w n = m.writeReg (g.off n) w := by
  simp [Chip.cwPut, Chip.access_open h hf, Chip.reach]

/-- In Calm no access does anything (R42). -/
theorem Chip.access_calm (h : m.f PWR_STAT.STATE = 5) (data : Option Nat) : m.access rq off data = m := by
  simp [Chip.access, h]

/-! ## A write goes to its block -/

theorem Chip.writeReg_ISL (h : m.blockActs (off / 0x10000) = true) (hb : off / 0x10000 = 0x1) (w : Nat) :
    m.writeReg off w = m.cwISL off w := by
  simp [Chip.writeReg, hb ▸ h, hb]

theorem Chip.writeReg_IMG (h : m.blockActs (off / 0x10000) = true) (hb : off / 0x10000 = 0x2) (w : Nat) :
    m.writeReg off w = m.cwIMG off w := by
  simp [Chip.writeReg, hb ▸ h, hb]

theorem Chip.writeReg_HPT (h : m.blockActs (off / 0x10000) = true) (hb : off / 0x10000 = 0x3) (w : Nat) :
    m.writeReg off w = m.cwHPT off w := by
  simp [Chip.writeReg, hb ▸ h, hb]

theorem Chip.writeReg_DLS (h : m.blockActs (off / 0x10000) = true) (hb : off / 0x10000 = 0xa) (w : Nat) :
    m.writeReg off w = m.cwDLS off w := by
  simp [Chip.writeReg, hb ▸ h, hb]

theorem Chip.writeReg_TNT (h : m.blockActs (off / 0x10000) = true) (hb : off / 0x10000 = 0xb) (w : Nat) :
    m.writeReg off w = m.cwTNT off w := by
  simp [Chip.writeReg, hb ▸ h, hb]

theorem Chip.writeReg_LDP (h : m.blockActs (off / 0x10000) = true) (hb : off / 0x10000 = 0x16) (w : Nat) :
    m.writeReg off w = m.cwLDP off w := by
  simp [Chip.writeReg, hb ▸ h, hb]

theorem Chip.writeReg_NVA (h : m.blockActs (off / 0x10000) = true) (hb : off / 0x10000 = 0x1b) (w : Nat) :
    m.writeReg off w = m.cwNVA off w := by
  simp [Chip.writeReg, hb ▸ h, hb]

theorem Chip.writeReg_TRS (h : m.blockActs (off / 0x10000) = true) (hb : off / 0x10000 = 0x1c) (w : Nat) :
    m.writeReg off w = m.cwTRS off w := by
  simp [Chip.writeReg, hb ▸ h, hb]

theorem Chip.writeReg_BPM (h : m.blockActs (off / 0x10000) = true) (hb : off / 0x10000 = 0x1d) (w : Nat) :
    m.writeReg off w = m.cwBPM off w := by
  simp [Chip.writeReg, hb ▸ h, hb]

theorem Chip.writeReg_DRC (h : m.blockActs (off / 0x10000) = true) (hb : off / 0x10000 = 0x1e) (w : Nat) :
    m.writeReg off w = m.cwDRC off w := by
  simp [Chip.writeReg, hb ▸ h, hb]

theorem Chip.writeReg_SDP (h : m.blockActs (off / 0x10000) = true) (hb : off / 0x10000 = 0x1f) (w : Nat) :
    m.writeReg off w = m.cwSDP off w := by
  simp [Chip.writeReg, hb ▸ h, hb]

theorem Chip.writeReg_TWN (h : m.blockActs (off / 0x10000) = true) (hb : off / 0x10000 = 0x20) (w : Nat) :
    m.writeReg off w = m.cwTWN off w := by
  simp [Chip.writeReg, hb ▸ h, hb]

theorem Chip.writeReg_PSQ (h : m.blockActs (off / 0x10000) = true) (hb : off / 0x10000 = 0x21) (w : Nat) :
    m.writeReg off w = m.cwPSQ off w := by
  simp [Chip.writeReg, hb ▸ h, hb]

theorem Chip.writeReg_PLP (h : m.blockActs (off / 0x10000) = true) (hb : off / 0x10000 = 0x22) (w : Nat) :
    m.writeReg off w = m.cwPLP off w := by
  simp [Chip.writeReg, hb ▸ h, hb]

theorem Chip.writeReg_PWR (h : m.blockActs (off / 0x10000) = true) (hb : off / 0x10000 = 0x23) (w : Nat) :
    m.writeReg off w = m.cwPWR off w := by
  simp [Chip.writeReg, hb ▸ h, hb]

theorem Chip.writeReg_THM (h : m.blockActs (off / 0x10000) = true) (hb : off / 0x10000 = 0x24) (w : Nat) :
    m.writeReg off w = m.cwTHM off w := by
  simp [Chip.writeReg, hb ▸ h, hb]

theorem Chip.writeReg_AGE (h : m.blockActs (off / 0x10000) = true) (hb : off / 0x10000 = 0x25) (w : Nat) :
    m.writeReg off w = m.cwAGE off w := by
  simp [Chip.writeReg, hb ▸ h, hb]

theorem Chip.writeReg_EVR (h : m.blockActs (off / 0x10000) = true) (hb : off / 0x10000 = 0x26) (w : Nat) :
    m.writeReg off w = m.cwEVR off w := by
  simp [Chip.writeReg, hb ▸ h, hb]

theorem Chip.writeReg_ARB (h : m.blockActs (off / 0x10000) = true) (hb : off / 0x10000 = 0x27) (w : Nat) :
    m.writeReg off w = m.cwARB off w := by
  simp [Chip.writeReg, hb ▸ h, hb]

theorem Chip.writeReg_PTB (h : m.blockActs (off / 0x10000) = true) (hb : off / 0x10000 = 0x28) (w : Nat) :
    m.writeReg off w = m.cwPTB off w := by
  simp [Chip.writeReg, hb ▸ h, hb]

theorem Chip.writeReg_FCH (h : m.blockActs (off / 0x10000) = true) (hl : 0x10 ≤ off / 0x10000) (hh : off / 0x10000 ≤ 0x15) (w : Nat) :
    m.writeReg off w = m.cwFCH off w := by
  have h1 : off / 0x10000 ≠ 1 := by omega
  have h2 : off / 0x10000 ≠ 2 := by omega
  have h3 : off / 0x10000 ≠ 3 := by omega
  have h8 : off / 0x10000 ≠ 8 := by omega
  have h9 : off / 0x10000 ≠ 9 := by omega
  have ha : off / 0x10000 ≠ 10 := by omega
  have hb : off / 0x10000 ≠ 11 := by omega
  simp [Chip.writeReg, h, hl, hh, h1, h2, h3, h8, h9, ha, hb]

/-! ## The fields of a written register -/

/-- A field that software writes freely, or not at all, as one step of a write. -/
theorem Chip.storeField_plain {g : Fld} {w n : Nat} (h : g.acc = .rw ∧ g.takes (bits w g.hi g.lo) = true ∨ g.acc = .w1s ∨ g.acc = .ro) :
    m.storeField off w g n = (if g.acc = .rw then m.setF g (bits w g.hi g.lo) n else m, false) := by
  rcases h with ⟨h, h'⟩ | h | h <;> simp [Chip.storeField, Chip.asked, h]
  simp [h']

theorem Chip.storeFields_plain (l : List (Fld × Nat)) (w : Nat)
    (h : ∀ e ∈ l, e.1.acc = .rw ∧ e.1.takes (bits w e.1.hi e.1.lo) = true ∨ e.1.acc = .w1s ∨ e.1.acc = .ro) (m : Chip) :
    l.foldl (fun (a : Chip × Bool) e =>
        let (m, b) := a.1.storeField off w e.1 e.2
        (m, a.2 || b)) (m, false) =
      (l.foldl (fun (m : Chip) e => if e.1.acc = .rw then m.setF e.1 (bits w e.1.hi e.1.lo) e.2 else m) m, false) := by
  induction l generalizing m with
  | nil => rfl
  | cons e l ih =>
    obtain ⟨he, hl⟩ := List.forall_mem_cons.mp h
    simp only [List.foldl, Chip.storeField_plain he, Bool.false_or, ih hl]

/-- A write all of whose values are permitted stores each of them. -/
theorem Chip.storeReg_plain (fs : List Fld) (n : Nat) (hf : fieldsAt off = fs.map fun g => (g, n)) (w : Nat)
    (h : ∀ g ∈ fs, g.acc = .rw ∧ g.takes (bits w g.hi g.lo) = true ∨ g.acc = .w1s ∨ g.acc = .ro) :
    m.storeReg off w = fs.foldl (fun (m : Chip) g => if g.acc = .rw then m.setF g (bits w g.hi g.lo) n else m) m := by
  unfold Chip.storeReg
  rw [hf, Chip.storeFields_plain _ w (by simpa using h)]
  simp [List.foldl_map]

/-- A write of fields leaves the image store. -/
theorem Chip.storeReg_img (m : Chip) (off w : Nat) : (m.storeReg off w).img = m.img := by
  have key : ∀ (l : List (Fld × Nat)) (a : Chip × Bool), (l.foldl (fun (a : Chip × Bool) e =>
      let (m, b) := a.1.storeField off w e.1 e.2
      (m, a.2 || b)) a).1.img = a.1.img := fun l a =>
    List.foldlRecOn l _ (motive := fun (x : Chip × Bool) => x.1.img = a.1.img) rfl fun x kept e _ => by
      rw [← kept]
      simp only [Chip.storeField]
      split <;> (try split) <;> simp
  unfold Chip.storeReg
  have := key (fieldsAt off) (m, false)
  split
  rename_i m' bad heq
  rw [heq] at this
  split <;> simpa using this

/-- A read of a register at this offset waits for nothing and is no register with a reading of its own. -/
def plainRead (off : Nat) : Prop :=
  (fieldsAt off).isEmpty = false ∧ off ≠ NVA_RDATA.WORD.off 0 ∧ off ≠ PTB_COREPC.PC.off 0 ∧ off ≠ PSQ_STAT.SYNC_HIGH.off 0 ∧
    QCX_W.WORD.index? off = none ∧ ZNE_ZCX_W.WORD.index? off = none ∧ DLS_DCX_W.WORD.index? off = none ∧ TNT_W.WORD.index? off = none ∧
    TNT_LDG_W.WORD.index? off = none ∧ LDP_BLK_W.WORD.index? off = none
deriving Decidable

theorem pairLo_plain (p : RegPair) : plainRead (pairLo p) ∧ pairLo p ∈ pairLos ∧ pairLo p - 4 ∉ pairLos := by
  cases p with
  | drcRd ch => revert ch; decide +kernel
  | drcWr ch => revert ch; decide +kernel
  | _ => decide +kernel

theorem pairHi_plain (p : RegPair) : plainRead (pairLo p + 4) ∧ pairLo p + 4 - 4 ∈ pairLos := by
  cases p with
  | drcRd ch => revert ch; decide +kernel
  | drcWr ch => revert ch; decide +kernel
  | _ => decide +kernel

/-- A read that is let through, of a plain register, answers at once. -/
theorem Chip.access_plainRead (h : m.open_ rq off) (hp : plainRead off) :
    m.access rq off none = (m.readWord rq off).2.giveWord (m.readWord rq off).1 := by
  obtain ⟨a, b, _, _, q, z, d, t, l, k⟩ := hp
  rw [Chip.access_open h a]
  simp [Chip.reach, Chip.readWaits, q, z, d, t, l, k, b]

/-- A field the running image marks writable takes what is written (R61). -/
theorem Chip.asked_open {g : Fld} (h : g.acc = .rwl) (ho : bits (m.rwlOpen off) g.hi g.lo = g.span - 1) (w n : Nat) :
    m.asked off w g n = some (bits w g.hi g.lo) := by
  have h1 : g.span - 1 ≠ 0 := by
    have : 2 ^ 1 ≤ 2 ^ (g.hi - g.lo + 1) := Nat.pow_le_pow_right (by omega) (by omega)
    unfold Fld.span; omega
  have h2 : bits w g.hi g.lo &&& (g.span - 1) = bits w g.hi g.lo := by
    unfold Fld.span
    rw [Nat.and_two_pow_sub_one_eq_mod]
    unfold bits
    exact Nat.mod_mod _ _
  simp only [Chip.asked, h, ho, h2, h1, if_false, Nat.sub_self, Nat.and_zero, Nat.or_zero]

end Sys2Proof.Machine
end

