-- ==== Sys2Proof/Machine/Balls.lean ====
section
/-! DEFINITION. Balls and on-die supplies (R538, R547, R552 to R555): the ball map, the side-band names, the voltage of a VPT code, and
the chip enable a flash channel shows the steering switch. -/

namespace Sys2Proof.Machine

/-- The supplies of R551. -/
inductive Supply where
  | core | serA | serH | flash | ddr | aon | io | nv | vss
deriving DecidableEq, Repr

/-- The side-band signals (R555), with their index where there are several; `dnu`: do not connect. -/
inductive SideBall where
  | enRail (i : Nat) | pg (i : Nat) | vs (i : Nat)
  | seqIn | seqOut | seqSync | seqFlt
  | claim (i : Nat) | claimSeen (i : Nat) | perst (i : Nat)
  | pfailA | pfailB | twinHb | twinFence | twinPres | role | fault | therm | trip | porst | warmrst
  | i3cScl | i3cSda | xtalIn | xtalOut | refclkP | refclkN
  | tck | tms | tdi | tdo | trst
  | dnu (i : Nat)
deriving DecidableEq, Repr

/-- The balls of a flash channel (R553). -/
inductive FlashBall where
  | dq (i : Nat) | dqsT | dqsC | reT | reC | we | ale | cle | ceEn | ces (i : Nat)
deriving DecidableEq, Repr

/-- The balls of a DRAM channel (R554); `sub`: 0 A, 1 B. -/
inductive DramBall where
  | dq (i : Nat) | dqsT (i : Nat) | dqsC (i : Nat) | dca (sub i : Nat) | dpar (sub : Nat) | dcs (sub i : Nat)
  | dckT (sub : Nat) | dckC (sub : Nat) | alert | drst
deriving DecidableEq, Repr

/-- What a ball carries (R552). -/
inductive Ball where
  | supply (v : Supply)
  | htxP (lane : Nat) | htxN (lane : Nat) | hrxP (lane : Nat) | hrxN (lane : Nat)
  | ttxP (lane : Nat) | ttxN (lane : Nat) | trxP (lane : Nat) | trxN (lane : Nat)
  | flash (channel : Nat) (b : FlashBall)
  | wp (cluster : Nat)
  | dram (channel : Nat) (b : DramBall)
  | side (b : SideBall)
deriving DecidableEq, Repr

/-- Ball at place `col` of row `r` of a flash tile (R553). -/
def flashBall (c r col : Nat) : Ball :=
  match r, col with
  | 2, 0 => .flash c .dqsT | 2, 1 => .flash c .dqsC | 2, 2 => .flash c .reT | 2, 3 => .flash c .reC
  | 3, 0 => .flash c .we | 3, 1 => .flash c .ale | 3, 2 => .flash c .cle | 3, 3 => .flash c .ceEn
  | 4, 3 => .supply .vss
  | 4, k => .flash c (.ces k)
  | r, k => .flash c (.dq (4 * r + k))

/-- Position `p` of the half-block of a DRAM channel's subchannel (R554). -/
def dramBall (d s p : Nat) : Ball :=
  if p < 40 then .dram d (.dq (40 * s + p))
  else if p < 60 then
    let i := 10 * s + (p - 40) / 2
    .dram d (if p % 2 = 0 then .dqsT i else .dqsC i)
  else if p < 67 then .dram d (.dca s (p - 60))
  else if p = 67 then .dram d (.dpar s)
  else if p < 70 then .dram d (.dcs s (p - 68))
  else if p = 70 then .dram d (.dckT s)
  else if p = 71 then .dram d (.dckC s)
  else if p = 72 then .dram d (if s = 0 then .alert else .drst)
  else if p < 79 then .supply .ddr
  else .supply .vss

/-- The single side-band signals from index 84 on, in order. -/
def sideTail : List SideBall :=
  [.pfailA, .pfailB, .twinHb, .twinFence, .twinPres, .role, .fault, .therm, .trip, .porst, .warmrst,
   .i3cScl, .i3cSda, .xtalIn, .xtalOut, .refclkP, .refclkN, .tck, .tms, .tdi, .tdo, .trst]

/-- Side-band index `n` (R555). -/
def sideBall (n : Nat) : Ball :=
  if n < 16 then .side (.enRail n)
  else if n < 32 then .side (.pg (n - 16))
  else if n < 48 then .side (.vs (n - 32))
  else if n < 52 then .side ([SideBall.seqIn, .seqOut, .seqSync, .seqFlt].getD (n - 48) .seqIn)
  else if n < 64 then .side (.claim (n - 52))
  else if n < 76 then .side (.claimSeen (n - 64))
  else if n < 84 then .side (.perst (n - 76))
  else if n < 106 then .side (sideTail.getD (n - 84) .role)
  else if n < 112 then .side (.dnu (n - 106))
  else if n < 118 then .supply .io
  else if n < 124 then .supply .aon
  else if n < 128 then .supply .nv
  else .supply .vss

/-- The ball of a flash band: side 0 left, 1 right; `r` and `c` count from its first ball. -/
def bandBall (side r c : Nat) : Ball :=
  let j := 5 * (r / 5) + c / 4
  if j < 48 then flashBall (48 * side + j) (r % 5) (c % 4)
  else
    let k := 4 * (r % 5) + c % 4
    if j = 48 ∧ k < 6 then .wp (6 * side + k) else .supply .vss

/-- The ball of row `row` and column `col`, each from 1 to 68 (R552). -/
def ballAt (row col : Nat) : Ball :=
  if row ≤ 8 then
    if 3 ≤ col ∧ col ≤ 66 then
      let l := 64 * ((row - 1) / 4) + (col - 3)
      match (row - 1) % 4 with
      | 0 => .htxP l
      | 1 => .htxN l
      | 2 => .hrxP l
      | _ => .hrxN l
    else .supply .serH
  else if row ≤ 58 then
    if col ≤ 20 then bandBall 0 (row - 9) (col - 1)
    else if 49 ≤ col then bandBall 1 (row - 9) (col - 49)
    else if row ≤ 56 then
      let x := col - 21
      dramBall (2 * ((row - 9) / 12) + x / 14) (x % 14 / 7) (7 * ((row - 9) % 12) + x % 7)
    else .supply .vss
  else if row ≤ 60 then sideBall (68 * (row - 59) + (col - 1))
  else if row ≤ 63 then (if col ≤ 60 then .supply .core else .supply .vss)
  else if row ≤ 65 then (if col ≤ 48 then .supply .serA else .supply .vss)
  else if row = 66 then (if col ≤ 48 then .supply .flash else .supply .vss)
  else if 3 ≤ col ∧ col ≤ 66 then
    let t := (col - 3) / 2
    match row, col % 2 with
    | 67, 1 => .ttxP t
    | 67, _ => .ttxN t
    | _, 1 => .trxP t
    | _, _ => .trxN t
  else .supply .vss

/-- The voltage an island's regulator sets for its VPT code, in mV (R538). -/
def islandMillivolts (vpt : Nat) : Nat := 700 + 10 * vpt

/-- The voltage an island's regulator is set to. -/
def Chip.islandMv (m : Chip) (i : Nat) : Nat := islandMillivolts (m.f ISL_CLKCFG.VPT i)

/-- The chip enable a claimed channel shows the switch (R547): FCc_CES of the die that holds its bus, `none` while FCc_CE_EN_n is
deasserted. -/
def Chip.chipEnable (m : Chip) (ch : Nat) : Option Nat := (tfind m.md.bus ch).map dieCe

end Sys2Proof.Machine
end

