-- ==== Sys2Proof/Tests/Slice0.lean ====
section
/-! SUPPORT. Tests of the model's well-formedness checks and of a few effects the spec states in numbers, and for every statement
with hypotheses a state and operands that meet them. -/

set_option Elab.async false

namespace Sys2Proof.Tests

open Sys2Proof.Machine

/-! ## Small states -/

/-- Every island is ON. -/
def on : Chip := (List.range 28).foldl (fun m i => m.setF ISL_STAT.STATE 2 i) Chip.reset

/-- An entry with some of its dwords given. -/
def entry (l : List (Nat × Nat)) : List Byte :=
  (List.range 16).flatMap fun i => leBytes 4 (((l.find? fun e => decide (e.1 = i)).map (·.2)).getD 0)

/-- An accepted admin command, and an accepted I/O command for a zone. -/
def adm (l : List (Nat × Nat)) : Cmd := { Cmd.blank with admin := true, phase := .accepted, entry := entry l }
def io (l : List (Nat × Nat)) (z : Option Nat) : Cmd := { Cmd.blank with phase := .accepted, entry := entry l, zone := z, nlb := 1, want := 4096 }

/-- Running tables with a physical function, a virtual one, four queue pairs, a tenant, a pool, and a rail. -/
def tb : Image := { Image.blank with
  lanes := [⟨0, 0, 0, 4, 6, 0, 0⟩]
  funcs := [⟨0, 0, 0, 0, 0, 20, 26, 5, 1, 0⟩, ⟨1, 1, 0, 0, 0, 20, 0, 5, 1, 0⟩]
  qalloc := [⟨0, 4, 0⟩]
  tenants := [⟨0, 0, 0, 8, 1024, 0, 100, 100, 0, 0, 0⟩]
  ledger := [⟨0, 512, 512⟩]
  geo := { Image.blank.geo with activeLimit := 100, openLimit := 100 }
  flash := { Image.blank.flash with ceCount := 7, userBlocks := 100, rsvBlocks := 10 } }

/-- Both sub-links of a pair are up under keys. -/
def keyed : Chip :=
  let m := { on with img := { on.img with tables := { Image.blank with twin := { Image.blank.twin with sublinks := 3 } } }, tw := { on.tw with peerSubs := 3 } }
  let x := { SubSt.blank with up := true, keyNum := 1, rxKey := 1, helloOk := true, attested := true }
  (m.setSub 0 x).setSub 1 x

/-- A sequential, a conventional and an elastic namespace of one zone each. -/
def ns1 : Ns :=
  { nsid := 1, tenant := 0, conv := false, elastic := false, lbaLog := 12, level := 0, keySlot := 0, keygen := 0, ana := 1, zones := [0], attached := [0] }
def ns2 : Ns := { ns1 with nsid := 2, conv := true, zones := [1] }
def ns3 : Ns := { ns1 with nsid := 3, elastic := true, level := 3, zones := [2] }

/-- The state most commands are shown on. -/
def base : Chip :=
  let m := { on with img := { on.img with tables := tb }, zn := { on.zn with ns := [ns1, ns2, ns3] } }
  ((m.setZone 0 { Zone.blank with state := zsio }).setZone 1 { Zone.blank with type := 2, state := zsio }).setZone 2
    { Zone.blank with type := 1, state := zsio }

theorem ok_of (x : Except Status Ns) (n : Ns) (h : (match x with | .ok a => decide (a = n) | .error _ => false) = true) : x = .ok n := by
  cases x <;> simp_all

/-- A namespace to be created, of one zone: the chip, the command with its data, and the namespace. -/
def mkNs : Chip × Cmd × Ns :=
  let c : Cmd := { adm [(0, 13), (10, 0), (11, 16777216 * 2)] with phase := .running, want := 27, data := (leBytes 8 1048576 ++ List.replicate 18 0 ++ [1]) }
  let m : Chip := ({ base with img := { base.img with tables := { tb with geo := { tb.geo with zones := 8 } } } } : Chip).putCmd 0 c
  (m, c, match m.createNs c with | .ok n => n | .error _ => ns1)

/-- A raw block of 512 zeros, stored at LBA offset 127 of its granule. -/
def zeroBlock : List Byte := blockHeader true false 1 512 512 0 127 ++ List.replicate 744 0

theorem crc64_zeros (n : Nat) : crc64 (List.replicate n 0) = 0 := by
  induction n with
  | zero => rfl
  | succ n ih => rw [List.replicate_succ, crc64, List.foldl_cons, show crc64Byte 0 0 = 0 by decide]; exact ih

theorem test_zeroBlock_opens : openBlock zeroBlock = .good (List.replicate 512 0) := by
  have h1 : slice zeroBlock 24 (fieldAt zeroBlock 8 4) = List.replicate 512 0 := by decide +kernel
  have h2 : fieldAt zeroBlock 12 8 = 0 := by decide +kernel
  have h3 : bitOf (fieldAt zeroBlock 1 1) 0 = true := by decide +kernel
  rw [openBlock, if_neg (by decide +kernel), if_neg (by decide +kernel)]
  simp only [h1, h2, h3, if_true, crc64_zeros]
/-- A tag with a check that matches. -/
def goodTag : Tag := BitVec.ofNat 192 (tagSeal (1 * 2 ^ 32))

theorem logUnits_many (m : Chip) (n : Nat) (h : m.zn.logBlks = [(0, ⟨false, true, List.replicate n (0, 1048576)⟩)]) (k : Nat) (hk : k < n) :
    k < m.logUnitsOf 1 := by
  simpa [Chip.logUnitsOf, h]

/-- A unit of a die, and a chip on which a die runs it. -/
def unit0 (k : UKind) : DUnit :=
  { id := 0, die := 0, kind := k, purpose := .scrub, tenant := 0, internal := true, cls := 4, deadline := 0, created := 0, block := 0, row := 0, page := 0,
    slc := false, passes := 0, susp := 0, busy := 0, ladder := [], bad := [], soft := false, again := false, held := false, late := false, inj := false,
    slot := none, epoch := 0, seq := 0, off := 0, cw := 0, ncw := 0 }
def dieRuns (k : UKind) : Chip := base.setDie 0 { DieSt.blank with running := some (unit0 k) }

/-! ## An owner command -/

theorem leNat_leBytes (n x : Nat) : leNat (leBytes n x) = x % 256 ^ n := by
  induction n generalizing x with
  | zero => simp [leNat, leBytes, Nat.mod_one]
  | succ n ih =>
    rw [leBytes, leNat, ih, BitVec.toNat_ofNat, Nat.pow_succ' (n := n) (m := 256), Nat.mod_mul]

/-- A command block of an operation, its fields from 0x90 on given. -/
def box (op : Nat) (fields : List Byte) (key : Byte := 1) : List Byte :=
  [0x4F, 0x57, 0x4E, 0x43] ++ leBytes 2 op ++ [0, 0] ++ leBytes 8 Config.uid.toNat ++ List.replicate 32 0 ++ List.replicate 96 key ++
    ((fields ++ List.replicate 112 0).take 112)

/-- An owner command being checked passes every check but the signature's. -/
theorem box_passes (m : Chip) (op : Nat) (fields : List Byte) (alarmed : Bool) (key : Byte)
    (h : m.tr.check = some ⟨box op fields key, true, alarmed⟩) (hc : m.f TRS_FAILCNT.CONSEC ≠ 8) (ho : op < 65536) :
    m.ownerPasses ⟨box op fields key, true, alarmed⟩ op :=
  ⟨h, hc, rfl, (leNat_leBytes 8 _).trans (Nat.mod_eq_of_lt Config.uid.isLt), rfl, (leNat_leBytes 2 _).trans (Nat.mod_eq_of_lt ho)⟩

/-! ## Frames from the twin -/

/-- A reliable frame expected next on sub-link 0 of `keyed`, for zone 0, and a frame in the clear. -/
def frame : RxFrame := ⟨0, 1, 0, 1, true, 0, some 0⟩
def clear0 : RxFrame := ⟨1, 1, 0, 0, true, 0, none⟩

/-- A chip with tables, under keys, that claims every cluster. -/
def twin : Chip :=
  let x := { SubSt.blank with up := true, keyNum := 1, rxKey := 1, helloOk := true, attested := true }
  ((({ base with img := { base.img with tables := { tb with twin := { tb.twin with sublinks := 3 } } } } : Chip).setSub 0 x).setF TWN_LINES.CLAIM 4095).setF
    TWN_LINES.SEEN 4095

/-- Every slot kept for the twin's commands is taken. -/
def full : Chip := { twin with q := { twin.q with slots := (List.range 2048).map fun k => (63488 + k, Cmd.blank) } }

theorem tfind_map (l : List Nat) (x : Nat) (h : x ∈ l) : (tfind (l.map fun k => (63488 + k, Cmd.blank)) (63488 + x)).isSome = true := by
  induction l with
  | nil => cases h
  | cons a t ih =>
    simp only [List.map_cons, tfind]
    split
    · rfl
    · rename_i ne
      rcases List.mem_cons.mp h with rfl | h
      · exact absurd rfl ne
      · exact ih h

theorem full_none : (⟨full, []⟩ : State).chip.deviceSlot = none := by
  simp only [Chip.deviceSlot, List.find?_eq_none, List.mem_map]
  rintro _ ⟨x, hx, rfl⟩
  have := tfind_map _ x hx
  simp [Chip.cmd?, full, Option.isNone_iff_eq_none, Option.ne_none_iff_isSome.mpr this]

theorem some_of {α : Type} (x : Option α) (h : x.isSome = true) : x = some (x.get h) := by rw [Option.some_get]
theorem pair_of {α β : Type} (x : α × β) (b : β) (h : x.2 = b) : x = (x.1, b) := by rw [← h]
theorem pair_some {α β : Type} (x : α × Option β) (h : x.2.isSome = true) : x = (x.1, some (x.2.get h)) := by rw [Option.some_get]

/-- The physical function's link is up, and so a host sees it. -/
def seen : Chip := (base.setF HPT_PCFG.VALID 1 0).setF HPT_PSTAT.STATE 2 0

/-- A read of die 0 of channel 0 holds data ready. -/
def busy : Chip :=
  { base.setDie 0 { DieSt.blank with running := some (unit0 .read) } with isl := { base.isl with dtc := 10000000 } }

/-- The payload of 512 zeros by R275 to R281: one literal, one match of 511 bytes at distance 1, and the end symbol. -/
def zeroPayload : List Byte :=
  [1] ++ List.replicate 127 0 ++ [1, 0, 0, 0, 0, 0, 0, 0x20, 0, 0, 0, 0, 0, 0, 0, 2] ++ [0x7C, 0x0F, 0x01]

/-! ## Well-formedness: each check refuses an ill-formed term -/

theorem test_wf_refuses_empty_accesses : Instr.wf (.cwWrite .bar2 0 []) = false ∧ Instr.wf (.rcFieldRead .bar2 0 0) = false ∧
    Instr.wf (.cwWrite .bar2 0 [some 1]) = true := by decide
theorem test_wf_refuses_a_skew_of_aon : Instr.wf (.dtcBroadcast [(0, 3)]) = false ∧ Instr.wf (.dtcBroadcast [(27, 3)]) = true := by decide
theorem test_wf_refuses_links : Instr.wf (.portTrainDone 0 7 4 (.l0 true)) = false ∧ Instr.wf (.portTrainDone 0 6 3 (.l0 true)) = false ∧
    Instr.wf (.portTrainDone 0 6 16 (.l0 true)) = true := by decide
theorem test_wf_refuses_requests : Instr.wf (.bar0UnmappedAccess 0 ⟨2, none⟩) = false ∧ Instr.wf (.malformedTlp 0 ⟨.ecrc, true, [1]⟩) = false ∧
    Instr.wf (.configRequest 0 (.ideSelective 0 0 65536 [])) = false ∧ Instr.wf (.configRequest 0 (.ideSelective 0 0 1 [(0, 1)])) = true := by
  decide +kernel
theorem test_wf_refuses_long_data : Instr.wf (.dataCompletion 0 0 (List.replicate 4097 0) .ok) = false := by decide +kernel
theorem test_wf_refuses_short_entries : Instr.wf (.sqEntryArrival (0, [1]) []) = false ∧ Instr.wf (.fwdcmd frame 0 0 0 0 0 0 0 [1]) = false := by
  decide +kernel
theorem test_wf_refuses_media : Instr.wf (.trainingRunDone 0 (.eyes 65536 0)) = false ∧ Instr.wf (.dieTempPoll 0 (some 128)) = false ∧
    Instr.wf (.dieTempPoll 0 (some 127)) = true := by decide
theorem test_wf_refuses_messages : Instr.wf (.gcmMessageDone 0 ⟨3, 0, 0, 0, 0⟩ true) = false ∧
    Instr.wf (.gcmSuspend 0 ⟨0, 0, 0, 0, 1⟩ ⟨0, 0, 0, 0, 0⟩) = false := by decide
theorem test_wf_refuses_spdm : Instr.wf (.spdmGetCertificate 0 8 0 0) = false ∧ Instr.wf (.spdmGetMeasurements 0 256 false []) = false := by decide
theorem test_wf_refuses_pools : Instr.wf (.poolAllocRequest 0 [] 0 0 0 none) = false ∧ Instr.wf (.arbiterDraw 0 [64] false) = false ∧
    Instr.wf (.arbiterTransferEnd 0 [64]) = false ∧ Instr.wf (.dramAccessArrive 0 0 true none .free) = false := by decide
theorem test_wf_refuses_samples : Instr.wf (.vsSample [0]) = false ∧ Instr.wf (.diodeSample [0]) = false ∧
    Instr.wf (.islandMeasureDone 0 [] 0 0 true) = false := by decide

/-- A frame whose SEQ does not fit its field. -/
def bad : RxFrame := { frame with seq := 2 ^ 64 }

theorem test_wf_refuses_frames :
    [Instr.heartbeat bad 0 0 0 0, .ack bad 0 0 false, .release bad 0 0 0 0, .fwdreqRead bad ⟨0, 0, 0, 0, 0, 0, 0, 0⟩,
      .fwdreqProgram bad ⟨0, 0, 0, 0, 0, 0, 0, 0⟩, .fwdreqErase bad ⟨0, 0, 0, 0, 0, 0, 0, 0⟩, .fwddone bad 0 0 0 0, .fwdcpl bad 0 0 0,
      .marker bad 0 false false, .fence bad 0, .fenceack bad, .ctrlHandover bad, .reservedFrame bad, .ctrlSanitizeRelay bad true,
      .ctrlResendRow bad 0, .hello bad [], .delta bad [], .ctrlStateTransfer bad [], .spdmFrame bad 0 0 true 0 0 [] none, .mirror bad 0 0 [],
      .commit bad 0 0 0 0 [], .parity bad 0 0 false 0 [], .fwddata bad 0 0 []].all (fun c => !c.wf) = true := by decide +kernel
theorem test_wf_refuses_bodies :
    [Instr.hello frame [1], .delta frame [1], .ctrlStateTransfer frame [1], .spdmFrame frame 0 0 true 0 0 [1] none, .mirror frame 0 0 [1],
      .commit frame 0 0 0 0 [1], .parity frame 0 0 false 0 [1], .fwddata frame 0 0 [1]].all (fun c => !c.wf) = true := by decide +kernel

/-! ## The spec's worked examples -/

/-- 00_scope.md, decoding a die number. -/
theorem test_die_number : dieChannel 1234 = 38 ∧ dieCe 1234 = 4 ∧ dieCluster 1234 = 4 ∧ dieSide 1234 = 0 := by decide

/-- 02_islands_and_flow_tags.md, deadlines across the wrap. -/
theorem test_deadline_wraps : earlier 0x20D4 0xE848 = true ∧ slackAt 0xFFFFF000 0x20D4 = 12500 := by decide

/-- 06_zones.md, one 4 KiB read: row 11, column 13, member 8, page 6, P on member 11 and Q on member 12. -/
theorem test_zone_offset : rowOf 49643520 = 11 ∧ columnOf 49643520 = 13 ∧ memberOf 11 13 = 8 ∧ pageOf 49643520 = 6 ∧ parityP 11 = 11 ∧
    parityQ 11 = 12 := by decide

/-- 08_flash_channels.md, the address of one read. -/
theorem test_row_address : onfiRow 1417 731 11 6 = 0x08B6E02D := by decide

/-- 09_stripe_parity.md, a read with two erasures: P′ = 0x99 and Q′ = 0x90 give D_3 = 0x5A and D_13 = 0xC3. -/
theorem test_two_erasures : solveXY 0x99 0x90 3 13 (List.replicate 16 0) = (0x5A, 0xC3) := by decide +kernel

/-- R249, the powers of g. -/
theorem test_powers_of_g : (List.range 16).map gfPow =
    [0x01, 0x02, 0x04, 0x08, 0x10, 0x20, 0x40, 0x80, 0x1D, 0x3A, 0x74, 0xE8, 0xCD, 0x87, 0x13, 0x26] := by decide +kernel

/-- 15_dram.md, decoding a staging address. -/
theorem test_dram_address : dramChan 0x234567A40 = 3 ∧ dramSub 0x234567A40 = 1 ∧ dramBank 0x234567A40 = 3 ∧ dramGroup 0x234567A40 = 3 ∧
    dramBurst 0x234567A40 = 45 ∧ dramRow false 0x234567A40 = 2257 := by decide +kernel

/-- 14_buffer_pools.md, a draw on Stepesha transmit: with LFSR[31:16] at 0xA3C1 after the shift, TXDLT (48) wins. -/
theorem test_draw : (({ ArbSt.blank with lfsr := 0xD1E08000, active := [(47, 160), (48, 12), (49, 80), (50, 4)] }).draw [47, 48, 49, 50]).1 =
    some 48 := by decide +kernel

/-- 25_register_index.md, the register of one die. -/
theorem test_die_register : FCH_DIE.STATE.off 1417 = 0x012C124 := by decide

/-- 23_events_and_faults.md, a burst of LC0 misses: 750 goes to bin 10 and 20,000 to bin 15. -/
theorem test_bins : binOf 750 = 10 ∧ binOf 20000 = 15 := by decide +kernel

/-- 10_compression.md, one write across a granule boundary: 4,096 bytes whose payload has 4,090 are stored raw in 17 units of 256 B, 8,192
bytes whose payload has 3,000 are not. -/
theorem test_stored_raw : (makeBlock 3 120 false (List.replicate 4096 0) (List.replicate 4090 0)).2 = true ∧
    (makeBlock 3 0 true (List.replicate 8192 0) (List.replicate 3000 0)).2 = false := by decide +kernel

/-- R47, R51: a sealed tag passes, and with a reserved kind it fails. -/
theorem test_tag_kinds : tagPasses (tagSeal (1 * 2 ^ 32)) = true ∧ tagPasses (tagSeal (15 * 2 ^ 32)) = false := by decide +kernel

/-- R281: of 512 zeros a search finds one match behind the first byte, and that payload decodes to them (R275 to R278). -/
theorem test_zero_payload : mayEmit 9 (List.replicate 512 0) zeroPayload = true ∧ decodePayload zeroPayload 512 = some (List.replicate 512 0) := by
  decide +kernel

/-- R552 to R555: balls of a flash tile and of the side-band block. -/
theorem test_balls : ballAt 49 20 = .flash 44 (.dq 3) ∧ ballAt 60 23 = .side .fault ∧ ballAt 59 51 = .side .seqSync := by decide +kernel

/-! ## Effects of single commands -/

/-- The field of a register in the next state. -/
def after (c : Instr) (m : Chip) (g : Fld) (n : Nat) : Option Nat :=
  match exec c ⟨m, []⟩ with
  | .next t => some (t.chip.f g n)
  | _ => none

/-- R89: a BAR0 access outside the regions counts on its port. -/
theorem test_unmapped_counts : after (.bar0UnmappedAccess 0 ⟨0x3FFFC, none⟩) seen HPT_ERRCNT.UNMAPPED 0 = some 1 := by decide +kernel

/-- R58: a sixth barrier request is refused with result code 3. -/
theorem test_sixth_barrier : after (.barrierRequest .bar2 true false)
    { on with isl := { on.isl with flight := some ⟨.cw, false, false, 1, 0, 0, 0, false⟩, barQueue := List.replicate 4 ⟨.cw, false, false, 1, 0, 0, 0, false⟩ } }
    ISL_BARSTAT.RESULT 0 = some 3 := by decide +kernel

/-- R37: a read of a register of an island that is off is counted as a hit on it. -/
theorem test_off_island_hit : after (.porterCwAccess .bar2 0x12C124 none) ((on.setF ISL_STAT.STATE 0 17).setF ISL_CTL.AUTOWAKE 0 17)
    ISL_STAT.DOWNHIT 17 = some 1 := by decide +kernel

/-- R84: the port trains to the lower of the two rates. -/
theorem test_port_rate : after (.portTrainDone 0 5 4 (.l0 true))
    (((on.setF HPT_PCFG.VALID 1 0).setF HPT_PSTAT.STATE 1 0).setF HPT_PCFG.MAX_GEN 6 0) HPT_PSTAT.SPEED 0 = some 5 := by decide +kernel

/-! ## What meets the hypotheses of the statements -/

/-- What meets the hypotheses of AnEmptyQueueLetsOneTickPass. -/
theorem test_meets_AnEmptyQueueLetsOneTickPass :
    (∃ s : State, s.pending = [] ∧ s.chip.st.step = 0) ∧
    (∃ s : State, s.pending = [] ∧ s.chip.st.step ≠ 0) := by
  exact ⟨⟨State.reset, by decide +kernel⟩,
    ⟨⟨{ on with st := { on.st with step := 14 } }, []⟩, by decide +kernel⟩⟩

/-- What meets the hypotheses of EveryStepKeepsTheInvariant. -/
theorem test_meets_EveryStepKeepsTheInvariant :
    (∃ s t : State, s.Inv ∧ step s = .next t) := by
  exact ⟨⟨Chip.reset, [.nonceExpiry]⟩, _, ⟨by decide +kernel, by decide +kernel⟩, rfl⟩

/-- What meets the hypotheses of CountersSaturateAtAllOnes. -/
theorem test_meets_CountersSaturateAtAllOnes :
    (∃ (c g : Fld) (n j : Nat), g.key j ≠ c.key n) := by
  exact ⟨HPT_ERRCNT.UNMAPPED, HPT_ERRCNT.UNMAPPED, 0, 1, by decide +kernel⟩

/-- What meets the hypotheses of DeadlinesCompareModulo32Bits. -/
theorem test_meets_DeadlinesCompareModulo32Bits :
    (∃ a b : BitVec 32, 1 ≤ (b - a).toNat ∧ (b - a).toNat ≤ 2 ^ 31 - 1) := by
  exact ⟨1, 2 ^ 31, by decide +kernel⟩

/-- What meets the hypotheses of UnitsWithEqualDeadlinesAreOrdered. -/
theorem test_meets_UnitsWithEqualDeadlinesAreOrdered :
    (∃ a b : DUnit, earlier a.deadline b.deadline = false ∧ earlier b.deadline a.deadline = false ∧ a.cls < b.cls) ∧
    (∃ a b : DUnit, earlier a.deadline b.deadline = false ∧ earlier b.deadline a.deadline = false ∧ a.cls = b.cls ∧ a.kind = .read ∧ b.kind ≠ .read) ∧
    (∃ a b : DUnit, earlier a.deadline b.deadline = false ∧ earlier b.deadline a.deadline = false ∧ a.cls = b.cls ∧ a.kind = .program ∧ b.kind = .erase) ∧
    (∃ a b : DUnit, earlier a.deadline b.deadline = false ∧ earlier b.deadline a.deadline = false ∧ a.cls = b.cls ∧ a.kind = b.kind ∧ a.created < b.created) ∧
    (∃ a b : DUnit, earlier a.deadline b.deadline = false ∧ earlier b.deadline a.deadline = false ∧ a.cls = b.cls ∧ a.kind = b.kind ∧ a.created = b.created ∧ a.internal = false ∧ b.internal = true) := by
  exact ⟨⟨unit0 .erase, { unit0 .read with cls := 7 }, by decide +kernel⟩,
    ⟨unit0 .read, unit0 .program, by decide +kernel⟩,
    ⟨unit0 .program, unit0 .erase, by decide +kernel⟩,
    ⟨unit0 .read, { unit0 .read with created := 1 }, by decide +kernel⟩,
    ⟨{ unit0 .read with internal := false }, unit0 .read, by decide +kernel⟩⟩

/-- What meets the hypotheses of ARowsUnitsLieOnDistinctMembers. -/
theorem test_meets_ARowsUnitsLieOnDistinctMembers :
    (∃ r c c' : Nat, c < 16 ∧ c' < 16 ∧ memberOf r c' = memberOf r c) := by
  exact ⟨1023, 15, 15, by decide +kernel⟩

/-- What meets the hypotheses of AZoneOffsetIsItsPlace. -/
theorem test_meets_AZoneOffsetIsItsPlace :
    (∃ b : Nat, b < 2 ^ 32) := by
  exact ⟨2 ^ 32 - 1, by decide +kernel⟩

/-- What meets the hypotheses of OnfiRowAddressesAreDistinct. -/
theorem test_meets_OnfiRowAddressesAreDistinct :
    (∃ d d' b b' r r' k k' : Nat, d / 4 = d' / 4 ∧ b < 5120 ∧ b' < 5120 ∧ r < 1024 ∧ r' < 1024 ∧ k < 16 ∧ k' < 16 ∧ onfiRow d b r k = onfiRow d' b' r' k') := by
  exact ⟨3071, 3071, 5119, 5119, 1023, 1023, 15, 15, by decide +kernel⟩

/-- What meets the hypotheses of ParityRestoresTwoColumns. -/
theorem test_meets_ParityRestoresTwoColumns :
    (∃ (ds : List Nat) (x y : Nat), ds.length = 16 ∧ (∀ d ∈ ds, d < 256) ∧ x < y ∧ y < 16) := by
  exact ⟨List.replicate 16 255, 0, 15, by decide +kernel⟩

/-- What meets the hypotheses of ParityRestoresOneColumn. -/
theorem test_meets_ParityRestoresOneColumn :
    (∃ (ds : List Nat) (x : Nat), ds.length = 16 ∧ (∀ d ∈ ds, d < 256) ∧ x < 16) := by
  exact ⟨List.replicate 16 255, 15, by decide +kernel⟩

/-- What meets the hypotheses of OneWrongMemberIsLocated. -/
theorem test_meets_OneWrongMemberIsLocated :
    (∃ e x : Nat, 0 < e ∧ e < 256 ∧ x < 16) := by
  exact ⟨255, 15, by decide +kernel⟩

/-- What meets the hypotheses of TheLfsrNeverStops. -/
theorem test_meets_TheLfsrNeverStops :
    (∃ x y : Nat, x < 2 ^ 32 ∧ y < 2 ^ 32 ∧ x ≠ 0 ∧ lfsrNext x = lfsrNext y) := by
  exact ⟨1, 1, by decide +kernel⟩

/-- What meets the hypotheses of OneInvertedBitFailsATag. -/
theorem test_meets_OneInvertedBitFailsATag :
    (∃ t i : Nat, t < 2 ^ 192 ∧ i < 192 ∧ bits t 191 176 = tagCheck t) := by
  exact ⟨tagSeal 1, 191, by decide +kernel⟩

/-- What meets the hypotheses of ACommandTagReadsBack. -/
theorem test_meets_ACommandTagReadsBack :
    (∃ (m : Chip) (slot : Nat) (c : Cmd), c.admin = false ∧ slot < 65536 ∧ c.q < 262144 ∧ c.fn < 4128 ∧ c.tenant < 4096 ∧ c.level ≤ 9 ∧ c.hint ≤ 4 ∧ c.epoch < 16 ∧ c.cls < 8 ∧ c.zone.getD 0 < 262144 ∧ (∀ n, m.ns? (nsidOf c.entry) = some n → n.keySlot < 8448 ∨ n.keySlot = 0x3FFF)) := by
  exact ⟨base, 65535, { io [(0, 2), (1, 1)] (some 262143) with level := 9, hint := 4, epoch := 15, cls := 7, tenant := 4095, fn := 4127, q := 262143 },
      rfl, by decide +kernel, by decide +kernel, by decide, by decide, by decide +kernel, by decide +kernel, by decide, by decide +kernel, by decide +kernel, fun n hn => .inl ((Option.some.inj ((show base.ns? 1 = some ns1 by decide +kernel).symm.trans hn)) ▸ by decide)⟩

/-- What meets the hypotheses of AdminQueuesHaveTheirOwnIndices. -/
theorem test_meets_AdminQueuesHaveTheirOwnIndices :
    (∃ (slot : Nat) (c : Cmd), c.admin = true ∧ slot < 65536 ∧ c.fn < 4128 ∧ c.tenant < 4096 ∧ c.level ≤ 9 ∧ c.hint ≤ 4 ∧ c.epoch < 16 ∧ c.cls < 8 ∧ c.zone.getD 0 < 262144) := by
  exact ⟨65535, { adm [(0, 6)] with fn := 4127 }, by decide +kernel⟩

/-- What meets the hypotheses of OneBarrierFliesAndFourWait. -/
theorem test_meets_OneBarrierFliesAndFourWait :
    (∃ (m : Chip) (b : Barrier), m.isl.flight = some b ∧ m.isl.barQueue.length < 4) ∧
    (∃ m : Chip, m.isl.flight.isSome = true ∧ 4 ≤ m.isl.barQueue.length) ∧
    (∃ m : Chip, m.isl.flight = none ∧ m.isl.barQueue = []) := by
  exact ⟨⟨{ on with isl := { on.isl with flight := some ⟨.cw, false, false, 1, 0, 0, 0, false⟩, barQueue := List.replicate 3 ⟨.cw, false, false, 1, 0, 0, 0, false⟩ } }, ⟨.cw, false, false, 1, 0, 0, 0, false⟩, by decide +kernel⟩,
    ⟨{ on with isl := { on.isl with flight := some ⟨.cw, false, false, 1, 0, 0, 0, false⟩, barQueue := List.replicate 4 ⟨.cw, false, false, 1, 0, 0, 0, false⟩ } }, by decide +kernel⟩,
    ⟨on, by decide +kernel⟩⟩

/-- What meets the hypotheses of ImageCommandsWaitForTheRunningOperation. -/
theorem test_meets_ImageCommandsWaitForTheRunningOperation :
    (∃ (s : State) (rq : Rq), s.chip.f IMG_STAT.BUSY = 1 ∧ s.chip.writable rq (IMG_CMD.GO.off 0) ∧ s.chip.writable rq (IMG_DATA.DATA.off 0)) := by
  exact ⟨⟨on.setF IMG_STAT.BUSY 1, []⟩, .bar2, by decide +kernel⟩

/-- What meets the hypotheses of ThermNFollowsTheJunction. -/
theorem test_meets_ThermNFollowsTheJunction :
    (∃ m : Chip, m.f THM_STAT.THERM_OUT < 2 ∧ 2 * (m.therm.thermN : Int) ≤ m.tj ∧ m.f THM_STAT.THERM_OUT = 0) ∧
    (∃ m : Chip, m.f THM_STAT.THERM_OUT < 2 ∧ 2 * (m.therm.thermN : Int) ≤ m.tj ∧ m.f THM_STAT.THERM_OUT = 1) ∧
    (∃ m : Chip, m.f THM_STAT.THERM_OUT < 2 ∧ m.tj < 2 * (m.therm.thermN : Int) - 2 * (m.therm.hyst : Int)) ∧
    (∃ m : Chip, m.f THM_STAT.THERM_OUT < 2 ∧ m.tj < 2 * (m.therm.thermN : Int) ∧ 2 * (m.therm.thermN : Int) - 2 * (m.therm.hyst : Int) ≤ m.tj) := by
  exact ⟨⟨({ on with img := { on.img with tables := { Image.blank with therm := { Image.blank.therm with thermN := 95, hyst := 3 } } } } : Chip).setF THM_STAT.TJ 190 |>.setF THM_STAT.THERM_OUT 0, by decide +kernel⟩,
    ⟨({ on with img := { on.img with tables := { Image.blank with therm := { Image.blank.therm with thermN := 95, hyst := 3 } } } } : Chip).setF THM_STAT.TJ 190 |>.setF THM_STAT.THERM_OUT 1, by decide +kernel⟩,
    ⟨({ on with img := { on.img with tables := { Image.blank with therm := { Image.blank.therm with thermN := 95, hyst := 3 } } } } : Chip).setF THM_STAT.TJ 183 |>.setF THM_STAT.THERM_OUT 1, by decide +kernel⟩,
    ⟨({ on with img := { on.img with tables := { Image.blank with therm := { Image.blank.therm with thermN := 95, hyst := 3 } } } } : Chip).setF THM_STAT.TJ 184 |>.setF THM_STAT.THERM_OUT 1, by decide +kernel⟩⟩

/-- What meets the hypotheses of BadBufferOwnersAreRefused. -/
theorem test_meets_BadBufferOwnersAreRefused :
    (∃ (s : State) (rq : Fin 64) (buf : Nat) (b : Buf), tfind s.chip.bp.bufs buf = some b ∧ rq.val ∉ b.owners) ∧
    (∃ (s : State) (rq : Fin 64) (buf : Nat) (b : Buf), tfind s.chip.bp.bufs buf = some b ∧ b.count = 0) ∧
    (∃ (s : State) (rq : Fin 64) (buf : Nat) (b : Buf), tfind s.chip.bp.bufs buf = some b ∧ b.count = 0xFFFF) ∧
    (∃ (s : State) (rq : Fin 64) (buf : Nat) (b : Buf), tfind s.chip.bp.bufs buf = some b ∧ rq.val ∉ b.owners ∧ 6 ≤ b.owners.length) := by
  exact ⟨⟨⟨{ on with bp := { on.bp with bufs := [(5, ⟨1, 0, 256, 1, [1], 63, 7⟩)] } }, []⟩, 63, 5, ⟨1, 0, 256, 1, [1], 63, 7⟩, by decide +kernel⟩,
    ⟨⟨{ on with bp := { on.bp with bufs := [(5, ⟨1, 0, 256, 0, [63], 63, 7⟩)] } }, []⟩, 63, 5, ⟨1, 0, 256, 0, [63], 63, 7⟩, by decide +kernel⟩,
    ⟨⟨{ on with bp := { on.bp with bufs := [(5, ⟨1, 0, 256, 0xFFFF, [63], 63, 7⟩)] } }, []⟩, 63, 5, ⟨1, 0, 256, 0xFFFF, [63], 63, 7⟩, by decide +kernel⟩,
    ⟨⟨{ on with bp := { on.bp with bufs := [(5, ⟨1, 0, 256, 1, [1, 2, 3, 4, 5, 6], 63, 7⟩)] } }, []⟩, 63, 5, ⟨1, 0, 256, 1, [1, 2, 3, 4, 5, 6], 63, 7⟩, by decide +kernel⟩⟩

/-- What meets the hypotheses of UnlistedOffsetsReadZero. -/
theorem test_meets_UnlistedOffsetsReadZero :
    (∃ (m : Chip) (rq : Rq) (off : Nat), (fieldsAt off).isEmpty = true ∧ m.f PWR_STAT.STATE ≠ 5 ∧ m.isl.stalled.any (fun a => decide (a.rq = rq)) = false) := by
  exact ⟨on, .bar2, 0x3FFFFFC, by decide +kernel⟩

/-- What meets the hypotheses of PerturbationNeedsItsScope. -/
theorem test_meets_PerturbationNeedsItsScope :
    (∃ (m : Chip) (rq : Rq) (off : Nat), m.writable rq off ∧ (fieldsAt off).isEmpty = false ∧ off / 0x10000 = 0x28 ∧ off = PTB_CORE.HALT.off 0 ∧ bitOf m.scopes 1 = false) ∧
    (∃ (m : Chip) (rq : Rq) (off : Nat), m.writable rq off ∧ (fieldsAt off).isEmpty = false ∧ off / 0x10000 = 0x28 ∧ off ≠ PTB_CORE.HALT.off 0 ∧ off ≠ PTB_BIST.GO.off 0 ∧ bitOf m.scopes 0 = false) ∧
    (∃ (m : Chip) (rq : Rq) (off : Nat), m.writable rq off ∧ (fieldsAt off).isEmpty = false ∧ off / 0x10000 = 0x28 ∧ off = PTB_BIST.GO.off 0 ∧ m.f PTB_BIST.GO = 0) := by
  exact ⟨⟨{ on with nv := { on.nv with level := levelWord 2 } }, .bar2, PTB_CORE.HALT.off 0, by decide +kernel⟩,
    ⟨{ on with nv := { on.nv with level := levelWord 2 } }, .bar2, PTB_CTL.ARM.off 0, by decide +kernel⟩,
    ⟨on, .bar2, PTB_BIST.GO.off 0, by decide +kernel⟩⟩

/-- What meets the hypotheses of FaultEventsRaiseTheirGroup. -/
theorem test_meets_FaultEventsRaiseTheirGroup :
    (∃ (m : Chip) (code g : Nat), faultGroup code = some g ∧ g < 16 ∧ m.f FLT_FIRST.VALID ≠ 1 ∧ bitOf (m.f FLT_MASK.GROUP) g = false) := by
  exact ⟨on, 0x2003, 11, by decide +kernel⟩

/-- What meets the hypotheses of CalmShutsTheWindow. -/
theorem test_meets_CalmShutsTheWindow :
    (∃ s : State, s.chip.f PWR_STAT.STATE = 5) := by
  exact ⟨⟨on.setF PWR_STAT.STATE 5, []⟩, by decide +kernel⟩

/-- What meets the hypotheses of ARawBlockOpensToItsBytes. -/
theorem test_meets_ARawBlockOpensToItsBytes :
    (∃ (level lbaOff : Nat) (orig payload : List Byte), level < 10 ∧ lbaOff < 65536 ∧ orig.length % 512 = 0 ∧ 512 ≤ orig.length ∧ orig.length ≤ 65536 ∧ orig.length ≤ 24 + payload.length) := by
  exact ⟨9, 65535, List.replicate 512 0, List.replicate 488 0, by decide +kernel⟩

/-- What meets the hypotheses of ARequestGetsTheSmallestClass. -/
theorem test_meets_ARequestGetsTheSmallestClass :
    (∃ mask n k : Nat, classFor mask n = some k) ∧
    (∃ mask n : Nat, classFor mask n = none) := by
  exact ⟨⟨32, 4194304, 5, by decide +kernel⟩,
    ⟨63, 4194305, by decide +kernel⟩⟩

/-- What meets the hypotheses of CreditsStayWithinTheirDepth. -/
theorem test_meets_CreditsStayWithinTheirDepth :
    (∃ (share windowMs now : Nat) (c : Credit) (t : Int), 0 ≤ t ∧ c.credit ≤ ldgDepth share windowMs ∧ c.last ≤ now ∧ now < 2 ^ 32) := by
  exact ⟨100, 10, 2 ^ 32 - 1, ⟨0, 0⟩, 5, by decide +kernel⟩

/-- What meets the hypotheses of UnmappedBar0AccessesAreCounted. -/
theorem test_meets_UnmappedBar0AccessesAreCounted :
    (∃ (s : State) (f : Fn) (off : Nat), s.chip.fnSeen f = true ∧ s.chip.reached f = true ∧ s.chip.bar0At f off = .none) := by
  exact ⟨⟨seen, []⟩, 0, 0x3FFFC, by decide +kernel⟩

/-- What meets the hypotheses of AFlitCarriesItsBytes. -/
theorem test_meets_AFlitCarriesItsBytes :
    (∃ (first : Nat) (bs : List Byte), first < 65536 ∧ bs.length ≤ 240) := by
  exact ⟨65535, List.replicate 240 1, by decide +kernel⟩

/-- What meets the hypotheses of ADrawNamesARequester. -/
theorem test_meets_ADrawNamesARequester :
    (∃ (a : ArbSt) (reqs : List Nat), reqs ≠ [] ∧ ∃ r ∈ reqs, tget 0 a.active r ≠ 0) := by
  exact ⟨{ ArbSt.blank with active := [(63, 1)] }, [62, 63], by decide +kernel, 63, by decide, by decide +kernel⟩

/-- What meets the hypotheses of TheBusGoesToADieWithDataReady. -/
theorem test_meets_TheBusGoesToADieWithDataReady :
    (∃ (m : Chip) (ch d : Nat), tfind (m.busNext ch).md.bus ch = some d) ∧
    (∃ (m : Chip) (ch : Nat), tfind (m.busNext ch).md.bus ch = none) := by
  exact ⟨⟨busy, 0, 0, by decide +kernel⟩,
    ⟨on, 95, by decide +kernel⟩⟩

/-- States and operands that meet the hypotheses of each clause of QueueAndFeatureCommandsComplete. -/
theorem test_meets_QueueAndFeatureCommandsComplete :
    (∃ (s : State) (slot : SlotId) (c : Cmd) (i k : Nat), s.chip.adminAt slot 0x01 c ∧ bits (dw c.entry 10) 15 0 ≠ 0 ∧ bits (dw c.entry 10) 15 0 ≤ s.chip.img.tables.qcount c.fn ∧ s.chip.img.tables.qctxOf c.fn (bits (dw c.entry 10) 15 0) = some i ∧ (s.chip.qc i).sqValid = false ∧ bitOf (dw c.entry 11) 0 = true ∧ bits (dw c.entry 11) 31 16 ≠ 0 ∧ bits (dw c.entry 11) 31 16 ≤ s.chip.img.tables.qcount c.fn ∧ s.chip.img.tables.qctxOf c.fn (bits (dw c.entry 11) 31 16) = some k ∧ (s.chip.qc k).cqValid = true) ∧
    (∃ (s : State) (slot : SlotId) (c : Cmd) (i : Nat), s.chip.adminAt slot 0x05 c ∧ bits (dw c.entry 10) 15 0 ≠ 0 ∧ bits (dw c.entry 10) 15 0 ≤ s.chip.img.tables.qcount c.fn ∧ s.chip.img.tables.qctxOf c.fn (bits (dw c.entry 10) 15 0) = some i ∧ (s.chip.qc i).cqValid = false ∧ bitOf (dw c.entry 11) 0 = true) ∧
    (∃ (s : State) (slot : SlotId) (c : Cmd) (i : Nat), s.chip.adminAt slot 0x00 c ∧ s.chip.img.tables.qctxOf c.fn (bits (dw c.entry 10) 15 0) = some i ∧ bits (dw c.entry 10) 15 0 ≠ 0 ∧ (s.chip.qc i).sqValid = true ∧ (s.chip.qc i).sqState ≠ 2) ∧
    (∃ (s : State) (slot : SlotId) (c : Cmd) (i : Nat), s.chip.adminAt slot 0x04 c ∧ s.chip.img.tables.qctxOf c.fn (bits (dw c.entry 10) 15 0) = some i ∧ bits (dw c.entry 10) 15 0 ≠ 0 ∧ (s.chip.qc i).cqValid = true ∧ (s.chip.q.qctx.any (fun e => decide (e.2.sqState ≠ 0 ∧ e.1 < 262144 ∧ e.2.sqCq = i)) = false)) ∧
    (∃ (s : State) (slot : SlotId) (c : Cmd), s.chip.adminAt slot 0x08 c ∧ s.chip.img.tables.qctxOf c.fn (bits (dw c.entry 10) 15 0) = none) ∧
    (∃ (s : State) (slot : SlotId) (c : Cmd) (i t : Nat) (d : Cmd), s.chip.adminAt slot 0x08 c ∧ s.chip.img.tables.qctxOf c.fn (bits (dw c.entry 10) 15 0) = some i ∧ (s.chip.q.slots.find? (fun e => decide (e.1 ≠ slot.val ∧ e.2.q = i ∧ e.2.peer = none ∧ e.2.phase ≠ .reserved ∧ e.2.phase ≠ .committed) && decide (cidOf e.2.entry = bits (dw c.entry 10) 31 16) && !(decide (opcodeOf e.2.entry = 0x02) && s.chip.onDie e.1)) = some (t, d))) ∧
    (∃ (s : State) (slot : SlotId) (c : Cmd), s.chip.adminAt slot 0x0C c ∧ (s.chip.fn c.fn).events = []) ∧
    (∃ (s : State) (slot : SlotId) (c : Cmd) (t i p : Nat) (rest : List (Nat × Nat × Nat)), s.chip.adminAt slot 0x0C c ∧ (s.chip.fn c.fn).events = (t, i, p) :: rest) ∧
    (∃ (s : State) (slot : SlotId) (c : Cmd), s.chip.adminAt slot 0x09 c ∧ bits (dw c.entry 10) 7 0 = 0x07 ∧ s.chip.img.tables.qcount c.fn ≠ 0) ∧
    (∃ (s : State) (slot : SlotId) (c : Cmd), s.chip.adminAt slot 0x0A c ∧ bits (dw c.entry 10) 7 0 = 0x07 ∧ s.chip.img.tables.qcount c.fn ≠ 0) ∧
    (∃ (s : State) (slot : SlotId) (c : Cmd), s.chip.adminAt slot 0x09 c ∧ bits (dw c.entry 10) 7 0 = 0x01) ∧
    (∃ (s : State) (slot : SlotId) (c : Cmd), s.chip.adminAt slot 0x0A c ∧ bits (dw c.entry 10) 7 0 = 0x01) ∧
    (∃ (s : State) (slot : SlotId) (c : Cmd) (n : Ns), s.chip.adminAt slot 0x09 c ∧ bits (dw c.entry 10) 7 0 = 0xC8 ∧ nsidOf c.entry ≠ 0xFFFFFFFF ∧ s.chip.visible? c.fn (nsidOf c.entry) = some n ∧ n.elastic = true ∧ 1 ≤ bits (dw c.entry 11) 3 0 ∧ bits (dw c.entry 11) 3 0 ≤ 9) ∧
    (∃ (s : State) (slot : SlotId) (c : Cmd) (n : Ns), s.chip.adminAt slot 0x0A c ∧ bits (dw c.entry 10) 7 0 = 0xC8 ∧ nsidOf c.entry ≠ 0xFFFFFFFF ∧ s.chip.visible? c.fn (nsidOf c.entry) = some n ∧ n.elastic = true) := by
  exact ⟨⟨⟨(base.setQc 0 { QCtx.blank with cqValid := true }).putCmd 0 (adm [(0, 1), (10, 1 + 3 * 65536), (11, 1 + 1 * 65536)]), []⟩, 0, adm [(0, 1), (10, 1 + 3 * 65536), (11, 1 + 1 * 65536)], 0, 0, by decide +kernel⟩,
    ⟨⟨(base).putCmd 0 (adm [(0, 5), (10, 4 + 3 * 65536), (11, 1)]), []⟩, 0, adm [(0, 5), (10, 4 + 3 * 65536), (11, 1)], 3, by decide +kernel⟩,
    ⟨⟨(base.setQc 0 { QCtx.blank with sqValid := true, sqState := 1 }).putCmd 0 (adm [(0, 0), (10, 1)]), []⟩, 0, adm [(0, 0), (10, 1)], 0, by decide +kernel⟩,
    ⟨⟨(base.setQc 3 { QCtx.blank with cqValid := true }).putCmd 0 (adm [(0, 4), (10, 4)]), []⟩, 0, adm [(0, 4), (10, 4)], 3, by decide +kernel⟩,
    ⟨⟨(base).putCmd 0 (adm [(0, 8), (10, 5)]), []⟩, 0, adm [(0, 8), (10, 5)], by decide +kernel⟩,
    ⟨⟨(base.putCmd 0 (adm [(0, 8), (10, 1 + 7 * 65536)])).putCmd 1 (io [(0, 2 + 7 * 65536)] none), []⟩, 0, adm [(0, 8), (10, 1 + 7 * 65536)], 0, 1, io [(0, 2 + 7 * 65536)] none, by decide +kernel⟩,
    ⟨⟨(base).putCmd 0 (adm [(0, 12)]), []⟩, 0, adm [(0, 12)], by decide +kernel⟩,
    ⟨⟨(base.setFn 0 { FnSt.blank with events := [(1, 2, 3)] }).putCmd 0 (adm [(0, 12)]), []⟩, 0, adm [(0, 12)], 1, 2, 3, [], by decide +kernel⟩,
    ⟨⟨(base).putCmd 0 (adm [(0, 9), (10, 7)]), []⟩, 0, adm [(0, 9), (10, 7)], by decide +kernel⟩,
    ⟨⟨(base).putCmd 0 (adm [(0, 10), (10, 7)]), []⟩, 0, adm [(0, 10), (10, 7)], by decide +kernel⟩,
    ⟨⟨(base).putCmd 0 (adm [(0, 9), (10, 1)]), []⟩, 0, adm [(0, 9), (10, 1)], by decide +kernel⟩,
    ⟨⟨(base).putCmd 0 (adm [(0, 10), (10, 1)]), []⟩, 0, adm [(0, 10), (10, 1)], by decide +kernel⟩,
    ⟨⟨(base).putCmd 0 (adm [(0, 9), (1, 3), (10, 200), (11, 9)]), []⟩, 0, adm [(0, 9), (1, 3), (10, 200), (11, 9)], ns3, by decide +kernel⟩,
    ⟨⟨(base).putCmd 0 (adm [(0, 10), (1, 3), (10, 200)]), []⟩, 0, adm [(0, 10), (1, 3), (10, 200)], ns3, by decide +kernel⟩⟩

/-- States and operands that meet the hypotheses of each clause of NamespaceAndLogCommandsComplete. -/
theorem test_meets_NamespaceAndLogCommandsComplete :
    (∃ (s : State) (slot : SlotId) (c : Cmd) (d : Cmd), s.chip.adminAt slot 0x06 c ∧ bits (dw c.entry 10) 7 0 ∈ [0x00, 0x01, 0x02, 0x05, 0x06, 0x07, 0x12, 0x13] ∧ ((bits (dw c.entry 10) 7 0 = 0x00 ∨ bits (dw c.entry 10) 7 0 = 0x05 ∨ bits (dw c.entry 10) 7 0 = 0x12) → (s.chip.visible? c.fn (nsidOf c.entry)).isSome = true) ∧ s.chip.fresh.ptrsIn slot 4096 c d) ∧
    (∃ (s : State) (slot : SlotId) (c : Cmd) (d : Cmd), s.chip.adminAt slot 0x06 c ∧ bits (dw c.entry 10) 7 0 ∈ [0x01, 0x02, 0x06, 0x07, 0x13] ∧ (s.chip.fresh.ptrsAsked slot 4096 c).cmd? slot = some d ∧ d.list.isSome = true) ∧
    (∃ (s : State) (slot : SlotId) (c : Cmd), s.chip.adminAt slot 0x0D c ∧ bits (dw c.entry 10) 3 0 = 0) ∧
    (∃ (s : State) (slot : SlotId) (c : Cmd) (n : Ns), s.chip.dataAt slot 0x0D c ∧ bits (dw c.entry 10) 3 0 = 0 ∧ s.chip.createNs c = .ok n) ∧
    (∃ (s : State) (slot : SlotId) (c : Cmd), s.chip.adminAt slot 0x0D c ∧ bits (dw c.entry 10) 3 0 = 1 ∧ ((s.chip.zn.ns.filter fun n => decide (n.tenant = s.chip.fnTenant c.fn ∧ (nsidOf c.entry = 0xFFFFFFFF ∨ n.nsid = nsidOf c.entry))) ≠ [])) ∧
    (∃ (s : State) (slot : SlotId) (c : Cmd) (n : Ns), s.chip.dataAt slot 0x15 c ∧ s.chip.visible? c.fn (nsidOf c.entry) = some n ∧ bits (dw c.entry 10) 3 0 = 0 ∧ (∀ id ∈ (List.range (min (fieldAt c.data 0 2) 2047)).map (fun i => fieldAt c.data (2 + 2 * i) 2), ∃ f, s.chip.cntlFn id = some f ∧ s.chip.fnTenant f = n.tenant)) ∧
    (∃ (s : State) (slot : SlotId) (c : Cmd) (n : Ns), s.chip.dataAt slot 0x15 c ∧ s.chip.visible? c.fn (nsidOf c.entry) = some n ∧ bits (dw c.entry 10) 3 0 = 1 ∧ (∀ id ∈ (List.range (min (fieldAt c.data 0 2) 2047)).map (fun i => fieldAt c.data (2 + 2 * i) 2), (s.chip.cntlFn id).isSome = true)) ∧
    (∃ (s : State) (slot : SlotId) (c : Cmd) (n : Ns), s.chip.adminAt slot 0x80 c ∧ s.chip.visible? c.fn (nsidOf c.entry) = some n ∧ bits (dw c.entry 10) 3 0 < 2 ∧ (bits (dw c.entry 10) 11 9 = 1 ∨ bits (dw c.entry 10) 11 9 = 2)) ∧
    (∃ (s : State) (slot : SlotId) (c : Cmd) (d : Cmd), s.chip.adminAt slot 0x02 c ∧ bits (dw c.entry 10) 7 0 = 0xC0 ∧ s.chip.fresh.ptrsIn slot ((65536 * (dw c.entry 11 % 65536) + bits (dw c.entry 10) 31 16 + 1) * 4) c d) ∧
    (∃ (s : State) (slot : SlotId) (c : Cmd) (d : Cmd), s.chip.adminAt slot 0x02 c ∧ bits (dw c.entry 10) 7 0 = 0xC1 ∧ s.chip.fresh.ptrsIn slot ((65536 * (dw c.entry 11 % 65536) + bits (dw c.entry 10) 31 16 + 1) * 4) c d) ∧
    (∃ (s : State) (slot : SlotId) (c : Cmd) (d : Cmd), s.chip.adminAt slot 0x02 c ∧ bits (dw c.entry 10) 7 0 = 0x0C ∧ s.chip.fresh.ptrsIn slot ((65536 * (dw c.entry 11 % 65536) + bits (dw c.entry 10) 31 16 + 1) * 4) c d) ∧
    (∃ (s : State) (slot : SlotId) (c : Cmd) (d : Cmd), s.chip.adminAt slot 0x02 c ∧ bits (dw c.entry 10) 7 0 = 0xBF ∧ s.chip.fresh.ptrsIn slot ((65536 * (dw c.entry 11 % 65536) + bits (dw c.entry 10) 31 16 + 1) * 4) c d) ∧
    (∃ (s : State) (slot : SlotId) (c : Cmd) (d : Cmd), s.chip.adminAt slot 0x02 c ∧ bits (dw c.entry 10) 7 0 = 0x03 ∧ s.chip.fresh.ptrsIn slot ((65536 * (dw c.entry 11 % 65536) + bits (dw c.entry 10) 31 16 + 1) * 4) c d) := by
  exact ⟨⟨⟨base.putCmd 0 { adm [(0, 6), (1, 1), (10, 0)] with ptrs := [(0, 4096)] }, []⟩, 0, { adm [(0, 6), (1, 1), (10, 0)] with ptrs := [(0, 4096)] }, { adm [(0, 6), (1, 1), (10, 0)] with ptrs := [(0, 4096)] }, by decide +kernel⟩,
    ⟨⟨base.putCmd 0 { adm [(0, 6), (1, 1), (10, 1)] with list := some (0, 8) }, []⟩, 0, { adm [(0, 6), (1, 1), (10, 1)] with list := some (0, 8) }, { adm [(0, 6), (1, 1), (10, 1)] with list := some (0, 8) }, by decide +kernel⟩,
    ⟨⟨(base).putCmd 0 (adm [(0, 13)]), []⟩, 0, adm [(0, 13)], by decide +kernel⟩,
    ⟨⟨mkNs.1, []⟩, 0, mkNs.2.1, mkNs.2.2, by decide +kernel, by decide +kernel, ok_of _ _ (by decide +kernel)⟩,
    ⟨⟨(base).putCmd 0 (adm [(0, 13), (1, 0xFFFFFFFF), (10, 1)]), []⟩, 0, adm [(0, 13), (1, 0xFFFFFFFF), (10, 1)], by decide +kernel⟩,
    ⟨⟨(base).putCmd 0 { adm [(0, 21), (1, 1), (10, 0)] with phase := .running, want := 4, data := [1, 0, 0, 0] }, []⟩, 0, { adm [(0, 21), (1, 1), (10, 0)] with phase := .running, want := 4, data := [1, 0, 0, 0] }, ns1, by decide +kernel⟩,
    ⟨⟨(base).putCmd 0 { adm [(0, 21), (1, 1), (10, 1)] with phase := .running, want := 4, data := [1, 0, 0, 0] }, []⟩, 0, { adm [(0, 21), (1, 1), (10, 1)] with phase := .running, want := 4, data := [1, 0, 0, 0] }, ns1, by decide +kernel⟩,
    ⟨⟨(base).putCmd 0 (adm [(0, 128), (1, 1), (10, 1 * 512)]), []⟩, 0, adm [(0, 128), (1, 1), (10, 1 * 512)], ns1, by decide +kernel⟩,
    ⟨⟨base.putCmd 0 { adm [(0, 2), (10, 192)] with ptrs := [(0, 4096)] }, []⟩, 0, { adm [(0, 2), (10, 192)] with ptrs := [(0, 4096)] }, { adm [(0, 2), (10, 192)] with ptrs := [(0, 4096)] }, by decide +kernel⟩,
    ⟨⟨base.putCmd 0 { adm [(0, 2), (10, 193)] with ptrs := [(0, 4096)] }, []⟩, 0, { adm [(0, 2), (10, 193)] with ptrs := [(0, 4096)] }, { adm [(0, 2), (10, 193)] with ptrs := [(0, 4096)] }, by decide +kernel⟩,
    ⟨⟨base.putCmd 0 { adm [(0, 2), (10, 12)] with ptrs := [(0, 4096)] }, []⟩, 0, { adm [(0, 2), (10, 12)] with ptrs := [(0, 4096)] }, { adm [(0, 2), (10, 12)] with ptrs := [(0, 4096)] }, by decide +kernel⟩,
    ⟨⟨base.putCmd 0 { adm [(0, 2), (10, 191)] with ptrs := [(0, 4096)] }, []⟩, 0, { adm [(0, 2), (10, 191)] with ptrs := [(0, 4096)] }, { adm [(0, 2), (10, 191)] with ptrs := [(0, 4096)] }, by decide +kernel⟩,
    ⟨⟨base.putCmd 0 { adm [(0, 2), (10, 3)] with ptrs := [(0, 4096)] }, []⟩, 0, { adm [(0, 2), (10, 3)] with ptrs := [(0, 4096)] }, { adm [(0, 2), (10, 3)] with ptrs := [(0, 4096)] }, by decide +kernel⟩⟩

/-- States and operands that meet the hypotheses of each clause of FirmwareAndSanitizeCommandsComplete. -/
theorem test_meets_FirmwareAndSanitizeCommandsComplete :
    (∃ (s : State) (slot : SlotId) (c : Cmd), s.chip.adminAt slot 0x11 c ∧ c.fn = 0 ∧ dw c.entry 11 * 4 + (dw c.entry 10 + 1) * 4 ≤ 8388608) ∧
    (∃ (s : State) (slot : SlotId) (c : Cmd), s.chip.dataAt slot 0x11 c) ∧
    (∃ (s : State) (slot : SlotId) (c : Cmd), s.chip.adminAt slot 0x10 c ∧ bits (dw c.entry 10) 5 3 = 0 ∧ c.fn = 0 ∧ 1 ≤ bits (dw c.entry 10) 2 0 ∧ bits (dw c.entry 10) 2 0 ≤ 2 ∧ s.chip.bankWorn (fwSector (bits (dw c.entry 10) 2 0 - 1)) 128 = false ∧ bits (dw c.entry 10) 2 0 - 1 ≠ s.chip.nv.banks.1 ∧ s.chip.f NVA_STAT.BROWNOUT = 0) ∧
    (∃ (s : State) (slot : SlotId) (c : Cmd), s.chip.adminAt slot 0x10 c ∧ bits (dw c.entry 10) 5 3 = 1 ∧ c.fn = 0 ∧ 1 ≤ bits (dw c.entry 10) 2 0 ∧ bits (dw c.entry 10) 2 0 ≤ 2 ∧ s.chip.bankWorn (fwSector (bits (dw c.entry 10) 2 0 - 1)) 128 = false ∧ bits (dw c.entry 10) 2 0 - 1 ≠ s.chip.nv.banks.1 ∧ s.chip.f NVA_STAT.BROWNOUT = 0) ∧
    (∃ (s : State) (slot : SlotId) (c : Cmd), s.chip.adminAt slot 0x10 c ∧ bits (dw c.entry 10) 5 3 = 2 ∧ c.fn = 0 ∧ 1 ≤ bits (dw c.entry 10) 2 0 ∧ bits (dw c.entry 10) 2 0 ≤ 2 ∧ s.chip.bankWorn (fwSector (bits (dw c.entry 10) 2 0 - 1)) 128 = false) ∧
    (∃ (s : State) (slot : SlotId) (c : Cmd), s.chip.adminAt slot 0x10 c ∧ bits (dw c.entry 10) 5 3 = 3 ∧ c.fn = 0) ∧
    (∃ (s : State) (slot : SlotId) (c : Cmd), s.chip.adminAt slot 0x84 c ∧ bits (dw c.entry 10) 2 0 = 4 ∧ c.fn = 0) ∧
    (∃ (s : State) (slot : SlotId) (c : Cmd), s.chip.adminAt slot 0x84 c ∧ bits (dw c.entry 10) 2 0 = 2 ∧ c.fn = 0) ∧
    (∃ (s : State) (slot : SlotId) (c : Cmd), s.chip.adminAt slot 0x84 c ∧ bits (dw c.entry 10) 2 0 = 1 ∧ c.fn = 0 ∧ s.chip.f TRS_SANSTAT.STATE = 3) ∧
    (∃ (s : State) (slot : SlotId) (c : Cmd), s.chip.adminAt slot 0x84 c ∧ bits (dw c.entry 10) 2 0 = 3 ∧ c.fn = 0) := by
  exact ⟨⟨⟨(base).putCmd 0 (adm [(0, 17), (10, 1023), (11, 2096128)]), []⟩, 0, adm [(0, 17), (10, 1023), (11, 2096128)], by decide +kernel⟩,
    ⟨⟨(base).putCmd 0 { adm [(0, 17), (10, 0)] with phase := .running, want := 4, data := [1, 2, 3, 4] }, []⟩, 0, { adm [(0, 17), (10, 0)] with phase := .running, want := 4, data := [1, 2, 3, 4] }, by decide +kernel⟩,
    ⟨⟨(base).putCmd 0 (adm [(0, 16), (10, 0 + 2)]), []⟩, 0, adm [(0, 16), (10, 0 + 2)], by decide +kernel⟩,
    ⟨⟨(base).putCmd 0 (adm [(0, 16), (10, 8 + 2)]), []⟩, 0, adm [(0, 16), (10, 8 + 2)], by decide +kernel⟩,
    ⟨⟨(base).putCmd 0 (adm [(0, 16), (10, 16 + 2)]), []⟩, 0, adm [(0, 16), (10, 16 + 2)], by decide +kernel⟩,
    ⟨⟨(base).putCmd 0 (adm [(0, 16), (10, 24)]), []⟩, 0, adm [(0, 16), (10, 24)], by decide +kernel⟩,
    ⟨⟨(base).putCmd 0 (adm [(0, 132), (10, 4)]), []⟩, 0, adm [(0, 132), (10, 4)], by decide +kernel⟩,
    ⟨⟨(base).putCmd 0 (adm [(0, 132), (10, 2)]), []⟩, 0, adm [(0, 132), (10, 2)], by decide +kernel⟩,
    ⟨⟨(base.setF TRS_SANSTAT.STATE 3).putCmd 0 (adm [(0, 132), (10, 1)]), []⟩, 0, adm [(0, 132), (10, 1)], by decide +kernel⟩,
    ⟨⟨(base).putCmd 0 (adm [(0, 132), (10, 3)]), []⟩, 0, adm [(0, 132), (10, 3)], by decide +kernel⟩⟩

/-- States and operands that meet the hypotheses of each clause of IslandImageAndPortWritesComplete. -/
theorem test_meets_IslandImageAndPortWritesComplete :
    (∃ (s : State) (rq : Rq) (v : BitVec 32), s.chip.writable rq (IMG_DATA.DATA.off 0) ∧ s.chip.f IMG_STAT.BUSY ≠ 1) ∧
    (∃ (s : State) (rq : Rq) (i : Isl) (pwrReq autowake : Bool), s.chip.writable rq (ISL_CTL.RST.off i.val) ∧ i.val ≠ 0) ∧
    (∃ (s : State) (rq : Rq) (i : Isl) (pwrReq autowake : Bool), s.chip.writable rq (ISL_CTL.RST.off i.val) ∧ i.val ≠ 0) ∧
    (∃ (s : State) (rq : Rq) (snap twin : Bool), s.chip.writable rq (ISL_BARCTL.GO.off 0)) ∧
    (∃ (s : State) (rq : Rq) (src : Bool), s.chip.writable rq (IMG_CMD.GO.off 0) ∧ s.chip.f IMG_STAT.BUSY ≠ 1) ∧
    (∃ (s : State) (rq : Rq), s.chip.writable rq (IMG_CMD.GO.off 0) ∧ s.chip.f IMG_STAT.BUSY ≠ 1) ∧
    (∃ (s : State) (rq : Rq), s.chip.writable rq (IMG_CMD.GO.off 0) ∧ s.chip.f IMG_STAT.BUSY ≠ 1) ∧
    (∃ (s : State) (rq : Rq), s.chip.writable rq (IMG_CMD.GO.off 0) ∧ s.chip.f IMG_STAT.BUSY ≠ 1) ∧
    (∃ (s : State) (rq : Rq), s.chip.writable rq (IMG_CMD.GO.off 0) ∧ s.chip.f IMG_STAT.BUSY ≠ 1) ∧
    (∃ (s : State) (rq : Rq) (src : Bool), s.chip.writable rq (IMG_CMD.GO.off 0) ∧ s.chip.f IMG_STAT.BUSY ≠ 1) ∧
    (∃ (s : State) (rq : Rq), s.chip.writable rq (IMG_CMD.GO.off 0) ∧ s.chip.f IMG_STAT.BUSY ≠ 1) ∧
    (∃ (s : State) (rq : Rq), s.chip.writable rq (IMG_CMD.GO.off 0) ∧ s.chip.f IMG_STAT.BUSY ≠ 1) ∧
    (∃ (s : State) (rq : Rq) (q : PSlot) (disable : Bool), s.chip.writable rq (HPT_PCTL.DISABLE.off q.val)) ∧
    (∃ (s : State) (rq : Rq) (q : PSlot), s.chip.writable rq (HPT_PCTL.DISABLE.off q.val) ∧ s.chip.portUsed q = true ∧ s.chip.f HPT_PCTL.DISABLE q = 0) ∧
    (∃ (s : State) (rq : Rq) (q : PSlot), s.chip.writable rq (HPT_PCTL.DISABLE.off q.val) ∧ s.chip.portUsed q = true ∧ s.chip.f HPT_PCTL.DISABLE q = 1) ∧
    (∃ (s : State) (rq : Rq) (q : PSlot) (disable : Bool), s.chip.writable rq (HPT_PCTL.DISABLE.off q.val) ∧ s.chip.portUsed q = false) ∧
    (∃ (s : State) (rq : Rq) (ch : Chan) (hold : Bool), s.chip.writable rq (FCH_CTL.HOLD.off ch.val) ∧ s.chip.rwlOpen (FCH_CTL.HOLD.off ch.val) % 2 = 1 ∧ s.chip.f FCH_CTL.HOLD ch = 1 - b1 hold) ∧
    (∃ (s : State) (rq : Rq) (ch : Chan) (hold : Bool), s.chip.writable rq (FCH_CTL.HOLD.off ch.val) ∧ s.chip.rwlOpen (FCH_CTL.HOLD.off ch.val) % 2 = 1 ∧ s.chip.f FCH_CTL.HOLD ch = 1 - b1 hold) ∧
    (∃ (s : State) (rq : Rq) (ch : Chan) (hold : Bool), s.chip.writable rq (FCH_CTL.HOLD.off ch.val) ∧ s.chip.rwlOpen (FCH_CTL.HOLD.off ch.val) % 2 = 1 ∧ s.chip.f FCH_CTL.HOLD ch = 1 - b1 hold) ∧
    (∃ (s : State) (rq : Rq) (ch : Chan) (hold : Bool), s.chip.writable rq (FCH_CTL.HOLD.off ch.val) ∧ s.chip.f FCH_CTL.HOLD ch = b1 hold ∧ s.chip.rwlOpen (FCH_CTL.HOLD.off ch.val) % 2 = 1) ∧
    (∃ (s : State) (rq : Rq) (ch : Chan) (hold : Bool), s.chip.writable rq (FCH_CTL.HOLD.off ch.val) ∧ s.chip.f FCH_CTL.HOLD ch = b1 hold ∧ s.chip.rwlOpen (FCH_CTL.HOLD.off ch.val) % 2 = 1) ∧
    (∃ (s : State) (rq : Rq) (die : Fin 4096), s.chip.writable rq (LDP_DIECMD.GO.off 0) ∧ die.val ≤ 3071 ∧ s.chip.f FCH_DIE.STATE die.val = 2) := by
  exact ⟨⟨⟨on, []⟩, .bar2, 7, by decide +kernel⟩,
    ⟨⟨on, []⟩, .bar2, 27, true, true, by decide +kernel⟩,
    ⟨⟨on, []⟩, .bar2, 10, false, true, by decide +kernel⟩,
    ⟨⟨on, []⟩, .bar2, true, true, by decide +kernel⟩,
    ⟨⟨on, []⟩, .bar2, true, by decide +kernel⟩,
    ⟨⟨on, []⟩, .bar2, by decide +kernel⟩,
    ⟨⟨on, []⟩, .bar2, by decide +kernel⟩,
    ⟨⟨on, []⟩, .bar2, by decide +kernel⟩,
    ⟨⟨on, []⟩, .bar2, by decide +kernel⟩,
    ⟨⟨on, []⟩, .bar2, false, by decide +kernel⟩,
    ⟨⟨on, []⟩, .bar2, by decide +kernel⟩,
    ⟨⟨on, []⟩, .bar2, by decide +kernel⟩,
    ⟨⟨on, []⟩, .bar2, 31, false, by decide +kernel⟩,
    ⟨⟨(on.setF HPT_PCFG.VALID 1 31), []⟩, .bar2, 31, by decide +kernel⟩,
    ⟨⟨((on.setF HPT_PCFG.VALID 1 0).setF HPT_PCTL.DISABLE 1 0), []⟩, .bar2, 0, by decide +kernel⟩,
    ⟨⟨on, []⟩, .bar2, 5, true, by decide +kernel⟩,
    ⟨⟨{ on with img := { on.img with tables := { Image.blank with writable := [(FCH_CTL.HOLD.off 95, 0xFFFFFFFF)] } } }, []⟩, .bar2, 95, true, by decide +kernel⟩,
    ⟨⟨{ on with img := { on.img with tables := { Image.blank with writable := [(FCH_CTL.HOLD.off 95, 0xFFFFFFFF)] } } }, []⟩, .bar2, 95, true, by decide +kernel⟩,
    ⟨⟨{ on with img := { on.img with tables := { Image.blank with writable := [(FCH_CTL.HOLD.off 95, 0xFFFFFFFF)] } } }, []⟩, .bar2, 95, true, by decide +kernel⟩,
    ⟨⟨{ on with img := { on.img with tables := { Image.blank with writable := [(FCH_CTL.HOLD.off 95, 0xFFFFFFFF)] } } }, []⟩, .bar2, 95, false, by decide +kernel⟩,
    ⟨⟨{ on with img := { on.img with tables := { Image.blank with writable := [(FCH_CTL.HOLD.off 95, 0xFFFFFFFF)] } } }, []⟩, .bar2, 95, false, by decide +kernel⟩,
    ⟨⟨(on.setF FCH_DIE.STATE 2 3071), []⟩, .bar2, 3071, by decide +kernel⟩⟩

/-- States and operands that meet the hypotheses of each clause of WindowAccessesComplete. -/
theorem test_meets_WindowAccessesComplete :
    (∃ (s : State) (rq : Rq) (v : BitVec 32), s.chip.writable rq (QCX_IDX.INDEX.off 0) ∧ v.toNat % 2 ^ 19 ≤ 266271) ∧
    (∃ (s : State) (rq : Rq) (v : BitVec 32), s.chip.writable rq (DLS_DCX_IDX.DIE.off 0) ∧ v.toNat % 4096 ≤ 3071) ∧
    (∃ (s : State) (rq : Rq) (v : BitVec 32), s.chip.writable rq (TNT_IDX.TENANT.off 0)) ∧
    (∃ (s : State) (rq : Rq) (v : BitVec 32), s.chip.writable rq (TNT_LDG_IDX.DIE.off 0) ∧ v.toNat % 4096 ≤ 3071) ∧
    (∃ (s : State) (rq : Rq) (v : BitVec 32), s.chip.writable rq (LDP_BLK_IDX.DIE.off 0) ∧ v.toNat % 4096 ≤ 3071 ∧ bits v.toNat 24 12 ≤ 5119) ∧
    (∃ (s : State) (rq : Rq) (v : BitVec 32), s.chip.writable rq (ZNE_ZCX_IDX.ZONE.off 0)) ∧
    (∃ (s : State) (rq : Rq) (off : BitVec 26) (a b c d : Byte), off.toNat % 4 = 0 ∧ s.chip.writable rq off.toNat ∧ (fieldsAt off.toNat).isEmpty = false) ∧
    (∃ (s : State) (rq : Rq) (off : BitVec 26) (a : Byte), s.chip.f PWR_STAT.STATE ≠ 5 ∧ (fieldsAt (off.toNat / 4 * 4)).isEmpty = false) ∧
    (∃ (s : State) (rq : Rq) (off : BitVec 26), off.toNat % 4 = 0 ∧ s.chip.open_ rq off.toNat ∧ (fieldsAt off.toNat).isEmpty = false ∧ s.chip.readWaits off.toNat = none) ∧
    (∃ (s : State) (rq : Rq) (p : RegPair), s.chip.open_ rq (pairLo p)) ∧
    (∃ (s : State) (rq : Rq) (p : RegPair) (v : Nat), s.chip.open_ rq (pairLo p + 4) ∧ s.chip.shadowOf (pairLo p + 4) rq = some v) ∧
    (∃ (s : State) (rq : Rq) (p : RegPair), s.chip.open_ rq (pairLo p + 4) ∧ s.chip.shadowOf (pairLo p + 4) rq = none) ∧
    (∃ (s : State) (rq : Rq) (off : BitVec 26) (w : BitVec 32), s.chip.writable rq (off.toNat / 4 * 4) ∧ (fieldsAt (off.toNat / 4 * 4)).isEmpty = false) ∧
    (∃ (s : State) (rq : Rq) (off : BitVec 26), s.chip.f PWR_STAT.STATE ≠ 5 ∧ s.chip.isl.stalled.any (fun a => decide (a.rq = rq)) = false ∧ (fieldsAt (off.toNat / 4 * 4)).isEmpty = true) ∧
    (∃ (s : State) (rq : Rq) (off : BitVec 26), s.chip.f PWR_STAT.STATE ≠ 5 ∧ s.chip.isl.stalled.any (fun a => decide (a.rq = rq)) = false ∧ (fieldsAt (off.toNat / 4 * 4)).isEmpty = false ∧ s.chip.islState (cwIsland (off.toNat / 4 * 4)) = 0 ∧ s.chip.f ISL_CTL.AUTOWAKE (cwIsland (off.toNat / 4 * 4)) = 0) ∧
    (∃ (s : State), s.chip.f QCX_STAT.READY = 0) ∧
    (∃ (s : State), s.chip.f ZNE_ZCX_STAT.READY = 0) ∧
    (∃ (s : State), s.chip.f TNT_STAT.READY = 0) ∧
    (∃ (s : State), s.chip.f DLS_DCX_STAT.READY = 0 ∧ s.chip.islServes (12 + dieCluster (s.chip.f DLS_DCX_IDX.DIE)) = true ∧ s.chip.drives (s.chip.f DLS_DCX_IDX.DIE) = true) ∧
    (∃ (s : State), s.chip.f TNT_LDG_STAT.READY = 0 ∧ s.chip.drives (s.chip.f TNT_LDG_IDX.DIE) = false) ∧
    (∃ (s : State), s.chip.f TNT_LDG_STAT.READY = 0 ∧ s.chip.drives (s.chip.f TNT_LDG_IDX.DIE) = true) ∧
    (∃ (s : State), s.chip.f LDP_BLK_STAT.READY = 0 ∧ s.chip.f LDP_BLK_IDX.BLOCK < s.chip.flash.userBlocks + s.chip.flash.rsvBlocks) ∧
    (∃ (s : State) (i : Isl), s.chip.islState i = 1) ∧
    (∃ (s : State) (i : Isl), s.chip.islState i = 1) ∧
    (∃ (s : State) (off : BitVec 32), s.chip.f PWR_STAT.STATE ≠ 5) ∧
    (∃ (s : State) (a b c d e f g h : Byte), s.chip.f PWR_STAT.STATE ≠ 5) ∧
    (∃ (s : State) (bytes : List Byte), s.chip.f PWR_STAT.STATE ≠ 5 ∧ bytes.length ≠ 4 ∧ bytes.length ≠ 8) ∧
    (∃ (s : State), s.chip.f PWR_STAT.STATE ≠ 5) ∧
    (∃ (s : State) (n : Nat), s.chip.f PWR_STAT.STATE = 5) := by
  exact ⟨⟨⟨on, []⟩, .bar2, 266271, by decide +kernel⟩,
    ⟨⟨on, []⟩, .bar2, 3071, by decide +kernel⟩,
    ⟨⟨on, []⟩, .bar2, 4095, by decide +kernel⟩,
    ⟨⟨on, []⟩, .bar2, 3071, by decide +kernel⟩,
    ⟨⟨on, []⟩, .bar2, (3071 + 5119 * 4096), by decide +kernel⟩,
    ⟨⟨on, []⟩, .bar2, 262143, by decide +kernel⟩,
    ⟨⟨on, []⟩, .bar2, 0x290000, 0, 0, 0, 0, by decide +kernel⟩,
    ⟨⟨on, []⟩, .bar2, 3, 1, by decide +kernel⟩,
    ⟨⟨on, []⟩, .bar2, 0x10000, by decide +kernel⟩,
    ⟨⟨on, []⟩, .i3c, .islDtc, by decide +kernel⟩,
    ⟨⟨{ on with shadow := [(pairLo .islDtc + 4, .firmware, 5)] }, []⟩, .firmware, .islDtc, 5, by decide +kernel⟩,
    ⟨⟨on, []⟩, .bar2, .drcWr 7, by decide +kernel⟩,
    ⟨⟨on, []⟩, .bar2, 0x10003, 7, by decide +kernel⟩,
    ⟨⟨on, []⟩, .bar2, 0x3FFFFFC, by decide +kernel⟩,
    ⟨⟨((on.setF ISL_STAT.STATE 0 14).setF ISL_CTL.AUTOWAKE 0 14), []⟩, .bar2, 0x110000, by decide +kernel⟩,
    ⟨⟨(on.setF QCX_STAT.READY 0), []⟩, by decide +kernel⟩,
    ⟨⟨(on.setF ZNE_ZCX_STAT.READY 0), []⟩, by decide +kernel⟩,
    ⟨⟨(on.setF TNT_STAT.READY 0), []⟩, by decide +kernel⟩,
    ⟨⟨(((on.setF TWN_LINES.CLAIM 4095).setF TWN_LINES.SEEN 4095).setF DLS_DCX_STAT.READY 0).setF DLS_DCX_IDX.DIE 3071, []⟩, by decide +kernel⟩,
    ⟨⟨(on.setF TNT_LDG_STAT.READY 0), []⟩, by decide +kernel⟩,
    ⟨⟨((on.setF TWN_LINES.CLAIM 4095).setF TWN_LINES.SEEN 4095).setF TNT_LDG_STAT.READY 0, []⟩, by decide +kernel⟩,
    ⟨⟨({ on with img := { on.img with tables := tb } } : Chip).setF LDP_BLK_STAT.READY 0, []⟩, by decide +kernel⟩,
    ⟨⟨(on.setF ISL_STAT.STATE 1 27), []⟩, 27, by decide +kernel⟩,
    ⟨⟨(on.setF ISL_STAT.STATE 1 26), []⟩, 26, by decide +kernel⟩,
    ⟨⟨on, []⟩, 0xFFFFFFFF, by decide +kernel⟩,
    ⟨⟨on, []⟩, 1, 2, 3, 4, 5, 6, 7, 8, by decide +kernel⟩,
    ⟨⟨on, []⟩, [1, 2, 3], by decide +kernel⟩,
    ⟨⟨on, []⟩, by decide +kernel⟩,
    ⟨⟨(on.setF PWR_STAT.STATE 5), []⟩, 4, by decide +kernel⟩⟩

/-- States and operands that meet the hypotheses of each clause of VaultArrayAndMemoryWritesComplete. -/
theorem test_meets_VaultArrayAndMemoryWritesComplete :
    (∃ (s : State) (rq : Rq), s.chip.writable rq (KVT_FORCE.CODE.off 0)) ∧
    (∃ (s : State) (rq : Rq) (v : BitVec 32), s.chip.writable rq (KVT_FORCE.CODE.off 0) ∧ v ≠ 0x0A1A0001#32) ∧
    (∃ (s : State) (rq : Rq), s.chip.writable rq (NVA_KEY.KEY.off 0) ∧ s.chip.f NVA_STAT.BUSY ≠ 1 ∧ s.chip.f NVA_STAT.SEQ = 0) ∧
    (∃ (s : State) (rq : Rq), s.chip.writable rq (NVA_KEY.KEY.off 0) ∧ s.chip.f NVA_STAT.BUSY ≠ 1 ∧ s.chip.f NVA_STAT.SEQ = 1) ∧
    (∃ (s : State) (rq : Rq) (v : BitVec 32), s.chip.writable rq (NVA_CMD.OP.off 0) ∧ s.chip.f NVA_STAT.BUSY ≠ 1 ∧ s.chip.f NVA_STAT.SEQ = 2 ∧ 1 ≤ v.toNat % 16 ∧ v.toNat % 16 ≤ 3) ∧
    (∃ (s : State) (rq : Rq) (v : BitVec 32), s.chip.writable rq (NVA_ADDR.ADDR.off 0) ∧ s.chip.f NVA_STAT.BUSY ≠ 1 ∧ s.chip.f NVA_STAT.SEQ = 3 ∧ s.chip.f NVA_CMD.OP = 1 ∧ v.toNat % 2 ^ 26 % 32 = 0 ∧ hostLo ≤ v.toNat % 2 ^ 26 ∧ s.chip.inXo (v.toNat % 2 ^ 26 / 65536) = false) ∧
    (∃ (s : State) (rq : Rq) (v : BitVec 32), s.chip.writable rq (NVA_ADDR.ADDR.off 0) ∧ s.chip.f NVA_STAT.BUSY ≠ 1 ∧ s.chip.f NVA_STAT.SEQ = 3 ∧ s.chip.f NVA_CMD.OP ≠ 1 ∧ v.toNat % 2 ^ 26 % 65536 = 0 ∧ hostLo ≤ v.toNat % 2 ^ 26 ∧ s.chip.inXo (v.toNat % 2 ^ 26 / 65536) = false) ∧
    (∃ (s : State) (rq : Rq) (v : BitVec 32), s.chip.writable rq (NVA_DATA.WORD.off 0) ∧ s.chip.f NVA_STAT.BUSY ≠ 1 ∧ (s.chip.f NVA_STAT.SEQ = 4 ∨ s.chip.f NVA_STAT.SEQ = 5) ∧ s.chip.f NVA_CMD.OP = 1 ∧ s.chip.nv.words.length < 28) ∧
    (∃ (s : State) (rq : Rq) (v : BitVec 32), s.chip.writable rq (NVA_RADDR.WORD.off 0)) ∧
    (∃ (s : State) (rq : Rq), s.chip.writable rq (TRS_CMD.GO.off 0) ∧ s.chip.f TRS_STAT.ROMREC = 1) ∧
    (∃ (s : State) (rq : Rq) (r : Fin 64) (v : BitVec 32) (p : PoolRec), s.chip.writable rq (BPM_RQCFG.QUOTA.off r.val) ∧ rqHasPool r = true ∧ s.chip.minimaWith r ((s.chip.asked (BPM_RQCFG.QUOTA.off r.val) v.toNat BPM_RQCFG.MIN r).getD (s.chip.f BPM_RQCFG.MIN r)) ≤ 1024 ∧ s.chip.img.tables.poolOf r = some p) ∧
    (∃ (s : State) (rq : Rq) (inst : Fin 12) (wd : Fin 16) (v : BitVec 32), s.chip.writable rq (ARB_TKT.TKT0.off (inst.val * 16 + wd.val)) ∧ inst.val < 11) ∧
    (∃ (s : State) (rq : Rq), s.chip.writable rq (SDP_REMAPCMD.GO.off 0)) ∧
    (∃ (s : State) (rq : Rq) (v : BitVec 32), s.chip.writable rq (SDP_LOG_IDX.MEM.off 0) ∧ bits v.toNat 9 8 ≤ 2) ∧
    (∃ (s : State) (rq : Rq) (mem : Fin 3), s.chip.writable rq (SDP_SCRUB_CTL.GO.off 0)) ∧
    (∃ (s : State) (rq : Rq) (mem : Fin 3), s.chip.writable rq (SDP_SCRUB_CTL.GO.off 0) ∧ s.chip.f SDP_SCRUB_STAT.BUSY = 1) ∧
    (∃ (s : State) (rq : Rq) (ch : DramCh) (quiesce : Bool), s.chip.writable rq (DRC_CTL.QUIESCE.off ch.val) ∧ s.chip.rwlOpen (DRC_CTL.QUIESCE.off ch.val) % 2 = 1 ∧ s.chip.f DRC_CTL.QUIESCE ch = b1 quiesce) ∧
    (∃ (s : State) (rq : Rq) (ch : DramCh) (quiesce : Bool), s.chip.writable rq (DRC_CTL.QUIESCE.off ch.val) ∧ s.chip.rwlOpen (DRC_CTL.QUIESCE.off ch.val) % 2 = 1 ∧ s.chip.f DRC_CTL.QUIESCE ch = b1 quiesce) ∧
    (∃ (s : State) (rq : Rq) (ch : DramCh) (quiesce full : Bool), s.chip.writable rq (DRC_CTL.QUIESCE.off ch.val) ∧ s.chip.rwlOpen (DRC_CTL.QUIESCE.off ch.val) % 2 = 1 ∧ s.chip.f DRC_CTL.QUIESCE ch = b1 quiesce) ∧
    (∃ (s : State) (rq : Rq) (ch : DramCh) (quiesce full : Bool), s.chip.writable rq (DRC_CTL.QUIESCE.off ch.val) ∧ s.chip.rwlOpen (DRC_CTL.QUIESCE.off ch.val) % 2 = 1 ∧ s.chip.f DRC_CTL.QUIESCE ch = 1 - b1 quiesce) ∧
    (∃ (s : State) (rq : Rq), s.chip.open_ rq (NVA_RDATA.WORD.off 0) ∧ s.chip.f NVA_STAT.RDMISS = 0 ∧ s.chip.f NVA_STAT.RDVALID = 1) ∧
    (∃ (s : State), s.chip.isl.stalled.any (fun a => decide (a.island = 40)) = true) := by
  exact ⟨⟨⟨on, []⟩, .bar2, by decide +kernel⟩,
    ⟨⟨on, []⟩, .bar2, 0, by decide +kernel⟩,
    ⟨⟨on, []⟩, .bar2, by decide +kernel⟩,
    ⟨⟨(on.setF NVA_STAT.SEQ 1), []⟩, .bar2, by decide +kernel⟩,
    ⟨⟨(on.setF NVA_STAT.SEQ 2), []⟩, .bar2, 3, by decide +kernel⟩,
    ⟨⟨((on.setF NVA_STAT.SEQ 3).setF NVA_CMD.OP 1), []⟩, .bar2, 66060320, by decide +kernel⟩,
    ⟨⟨((on.setF NVA_STAT.SEQ 3).setF NVA_CMD.OP 2), []⟩, .bar2, 66060288, by decide +kernel⟩,
    ⟨⟨((on.setF NVA_STAT.SEQ 5).setF NVA_CMD.OP 1), []⟩, .bar2, 0xFFFFFFFF, by decide +kernel⟩,
    ⟨⟨on, []⟩, .bar2, 0, by decide +kernel⟩,
    ⟨⟨(on.setF TRS_STAT.ROMREC 1), []⟩, .bar2, by decide +kernel⟩,
    ⟨⟨{ on with img := { on.img with tables := { Image.blank with pools := [⟨0, 0, 0, 2, 0, 64, [], 1, 0⟩] } } }, []⟩, .bar2, 0, 1024, ⟨0, 0, 0, 2, 0, 64, [], 1, 0⟩, by decide +kernel⟩,
    ⟨⟨on, []⟩, .bar2, 10, 15, 0x01010101, by decide +kernel⟩,
    ⟨⟨on, []⟩, .bar2, by decide +kernel⟩,
    ⟨⟨on, []⟩, .bar2, 512, by decide +kernel⟩,
    ⟨⟨on, []⟩, .bar2, 2, by decide +kernel⟩,
    ⟨⟨(on.setF SDP_SCRUB_STAT.BUSY 1), []⟩, .bar2, 0, by decide +kernel⟩,
    ⟨⟨{ on with img := { on.img with tables := { Image.blank with writable := [(DRC_CTL.QUIESCE.off 7, 0xFFFFFFFF)] } } }, []⟩, .bar2, 7, false, by decide +kernel⟩,
    ⟨⟨{ on with img := { on.img with tables := { Image.blank with writable := [(DRC_CTL.QUIESCE.off 7, 0xFFFFFFFF)] } } }, []⟩, .bar2, 7, false, by decide +kernel⟩,
    ⟨⟨{ on with img := { on.img with tables := { Image.blank with writable := [(DRC_CTL.QUIESCE.off 7, 0xFFFFFFFF)] } } }, []⟩, .bar2, 7, false, true, by decide +kernel⟩,
    ⟨⟨{ on with img := { on.img with tables := { Image.blank with writable := [(DRC_CTL.QUIESCE.off 7, 0xFFFFFFFF)] } } }, []⟩, .bar2, 7, true, true, by decide +kernel⟩,
    ⟨⟨(on.setF NVA_STAT.RDVALID 1), []⟩, .bar2, by decide +kernel⟩,
    ⟨⟨{ on with isl := { on.isl with stalled := [⟨40, .bar2, 0x1B0020, none⟩] } }, []⟩, by decide +kernel⟩⟩

/-- States and operands that meet the hypotheses of each clause of PairPowerAndRecorderWritesComplete. -/
theorem test_meets_PairPowerAndRecorderWritesComplete :
    (∃ (s : State) (rq : Rq), s.chip.writable rq (TWN_CTL.FENCE.off 0)) ∧
    (∃ (s : State) (rq : Rq), s.chip.writable rq (TWN_CTL.FENCE.off 0) ∧ (s.chip.f TWN_STAT.STATE = 1 ∨ s.chip.f TWN_STAT.STATE = 2)) ∧
    (∃ (s : State) (rq : Rq), s.chip.writable rq (TWN_CTL.FENCE.off 0) ∧ s.chip.f TWN_STAT.STATE = 6 ∧ s.chip.tw.rejoin = 0 ∧ s.chip.linkKeyed = false) ∧
    (∃ (s : State) (rq : Rq), s.chip.writable rq (TWN_CTL.FENCE.off 0) ∧ s.chip.f TWN_STAT.STATE = 6 ∧ s.chip.tw.rejoin = 0 ∧ s.chip.linkKeyed = true) ∧
    (∃ (s : State) (rq : Rq), s.chip.writable rq (PSQ_CTL.DOWN.off 0) ∧ s.chip.f PSQ_STAT.DIR < 2) ∧
    (∃ (s : State) (rq : Rq) (trimEn lullEn : Bool), s.chip.writable rq (PWR_CTL.TRIM_EN.off 0)) ∧
    (∃ (s : State) (rq : Rq) (trimEn lullEn : Bool), s.chip.writable rq (PWR_CTL.TRIM_EN.off 0)) ∧
    (∃ (s : State) (rq : Rq) (trimEn lullEn : Bool), s.chip.writable rq (PWR_CTL.TRIM_EN.off 0)) ∧
    (∃ (s : State) (rq : Rq) (sensor : Fin 64), s.chip.writable rq (THM_CAL.GO.off 0) ∧ s.chip.th.cal = none ∧ 39 < sensor.val) ∧
    (∃ (s : State) (rq : Rq) (sensor : Fin 64), s.chip.writable rq (THM_CAL.GO.off 0) ∧ s.chip.th.cal = none ∧ sensor.val ≤ 39 ∧ (s.chip.setF THM_CAL.SENSOR sensor.val).diodeOn sensor.val = true ∧ s.chip.f THM_STAT.LEVEL = 0 ∧ s.chip.f THM_STAT.TRIP = 0) ∧
    (∃ (s : State) (rq : Rq), s.chip.writable rq (AGE_CTL.MEASURE.off 0) ∧ s.chip.f AGE_STAT.BUSY ≠ 1) ∧
    (∃ (s : State) (rq : Rq), s.chip.writable rq (EVR_CTL.CLEAR.off 0)) ∧
    (∃ (s : State) (rq : Rq), s.chip.writable rq (EVR_CTL.CLEAR.off 0)) ∧
    (∃ (s : State) (rq : Rq), s.chip.writable rq (PTB_CTL.ARM.off 0) ∧ bitOf s.chip.scopes 0 = true) ∧
    (∃ (s : State) (rq : Rq), s.chip.writable rq (PTB_CTL.ARM.off 0) ∧ bitOf s.chip.scopes 0 = false) ∧
    (∃ (s : State) (rq : Rq), s.chip.writable rq (PTB_CTL.ARM.off 0) ∧ bitOf s.chip.scopes 0 = true) ∧
    (∃ (s : State) (rq : Rq) (v : BitVec 32), s.chip.writable rq (PTB_CORE.HALT.off 0) ∧ bitOf s.chip.scopes 1 = true) ∧
    (∃ (s : State) (rq : Rq) (v : BitVec 32), s.chip.writable rq (PTB_CORE.HALT.off 0) ∧ bitOf s.chip.scopes 1 = false) ∧
    (∃ (s : State) (rq : Rq) (mask : Fin 8), s.chip.writable rq (PTB_BIST.GO.off 0) ∧ s.chip.f PTB_BIST.GO = 0 ∧ s.chip.islState 11 ≠ 0 ∧ s.chip.islState 24 ≠ 0 ∧ s.chip.islState 25 ≠ 0 ∧ s.chip.islState 1 ≠ 0) ∧
    (∃ (s : State) (rq : Rq) (v : BitVec 32), s.chip.writable rq (FLT_MASK.GROUP.off 0)) ∧
    (∃ (s : State) (rq : Rq) (v : BitVec 32), s.chip.writable rq (PLP_CFG.DIRTY_GIB.off 0) ∧ s.chip.rwlOpen (PLP_CFG.DIRTY_GIB.off 0) = 0xFF1F03FF ∧ PLP_CFG.DISC_T.takes (bits v.toNat 9 0) = true ∧ PLP_CFG.DIRTY_GIB.takes (bits v.toNat 20 16) = true ∧ PLP_CFG.BUDGET_MS.takes (bits v.toNat 31 24) = true ∧ plpCfgOk (bits v.toNat 20 16) (bits v.toNat 31 24) = true) := by
  exact ⟨⟨⟨on, []⟩, .bar2, by decide +kernel⟩,
    ⟨⟨(on.setF TWN_STAT.STATE 2), []⟩, .bar2, by decide +kernel⟩,
    ⟨⟨(on.setF TWN_STAT.STATE 6), []⟩, .bar2, by decide +kernel⟩,
    ⟨⟨keyed.setF TWN_STAT.STATE 6, []⟩, .bar2, by decide +kernel⟩,
    ⟨⟨(on.setF PSQ_STAT.DIR 1), []⟩, .bar2, by decide +kernel⟩,
    ⟨⟨on, []⟩, .bar2, true, false, by decide +kernel⟩,
    ⟨⟨on, []⟩, .bar2, true, true, by decide +kernel⟩,
    ⟨⟨on, []⟩, .bar2, false, false, by decide +kernel⟩,
    ⟨⟨on, []⟩, .bar2, 40, by decide +kernel⟩,
    ⟨⟨{ on with img := { on.img with tables := { Image.blank with therm := { Image.blank.therm with mask := 2 ^ 40 - 1 } } } }, []⟩, .bar2, 39, by decide +kernel⟩,
    ⟨⟨on, []⟩, .bar2, by decide +kernel⟩,
    ⟨⟨on, []⟩, .bar2, by decide +kernel⟩,
    ⟨⟨on, []⟩, .bar2, by decide +kernel⟩,
    ⟨⟨on, []⟩, .bar2, by decide +kernel⟩,
    ⟨⟨{ on with nv := { on.nv with level := levelWord 2 } }, []⟩, .bar2, by decide +kernel⟩,
    ⟨⟨on, []⟩, .bar2, by decide +kernel⟩,
    ⟨⟨on, []⟩, .bar2, 0xFFFFFFFF, by decide +kernel⟩,
    ⟨⟨{ on with nv := { on.nv with level := levelWord 2 } }, []⟩, .bar2, 0, by decide +kernel⟩,
    ⟨⟨on, []⟩, .bar2, 7, by decide +kernel⟩,
    ⟨⟨on, []⟩, .bar2, 0, by decide +kernel⟩,
    ⟨⟨{ on with img := { on.img with tables := { Image.blank with writable := [(PLP_CFG.DIRTY_GIB.off 0, 0xFF1F03FF)] } } }, []⟩, .bar2, (100 + 1 * 65536 + 60 * 16777216), by decide +kernel⟩⟩

/-- States and operands that meet the hypotheses of each clause of ReadAndWriteCommandsComplete. -/
theorem test_meets_ReadAndWriteCommandsComplete :
    (∃ (s : State) (slot : SlotId) (c : Cmd) (n : Ns), s.chip.ioAt slot 0x02 c n ∧ (n.ranges (slbaOf c.entry) (nlbOf c.entry)).any (fun r => decide ((s.chip.zone r.1).state = zso)) = false) ∧
    (∃ (s : State) (slot : SlotId) (c : Cmd) (n : Ns) (z : Nat), s.chip.ioAt slot 0x01 c n ∧ c.zone = some z ∧ (s.chip.zone z).type = 2 ∧ (s.chip.cmdZones c).any (fun z => decide ((s.chip.zone z).state = zso)) = false ∧ (s.chip.cmdZones c).any (fun z => decide ((s.chip.zone z).state = zsro)) = false) ∧
    (∃ (s : State) (slot : SlotId) (c : Cmd) (n : Ns) (z : Nat), s.chip.ioAt slot 0x01 c n ∧ c.zone = some z ∧ (s.chip.zone z).type ≠ 2 ∧ (s.chip.zone z).checkWrite false c.off c.nlb n.zoneLbas (if (s.chip.zone z).type = 1 then reserveUnits (c.off * 2 ^ n.lbaLog) (c.nlb * 2 ^ n.lbaLog) else 0) = none ∧ (s.chip.fresh.takeZone z zsio c.hint).2 = none) ∧
    (∃ (s : State) (slot : SlotId) (c : Cmd) (n : Ns) (z : Nat), s.chip.ioAt slot 0x08 c n ∧ c.zone = some z ∧ (s.chip.zone z).type = 2 ∧ (s.chip.cmdZones c).any (fun z => decide ((s.chip.zone z).state = zso)) = false ∧ (s.chip.cmdZones c).any (fun z => decide ((s.chip.zone z).state = zsro)) = false) ∧
    (∃ (s : State) (slot : SlotId) (c : Cmd) (n : Ns) (z : Nat), s.chip.ioAt slot 0x08 c n ∧ c.zone = some z ∧ (s.chip.zone z).type ≠ 2 ∧ (s.chip.zone z).checkWrite false c.off c.nlb n.zoneLbas (if (s.chip.zone z).type = 1 then reserveUnits (c.off * 2 ^ n.lbaLog) (c.nlb * 2 ^ n.lbaLog) else 0) = none ∧ (s.chip.fresh.takeZone z zsio c.hint).2 = none) ∧
    (∃ (s : State) (slot : SlotId) (c : Cmd) (n : Ns) (z : Nat), s.chip.ioAt slot 0x7D c n ∧ c.zone = some z ∧ (s.chip.zone z).type ≠ 2 ∧ (s.chip.zone z).checkWrite true c.off c.nlb n.zoneLbas (if (s.chip.zone z).type = 1 then reserveUnits ((s.chip.zone z).rwp * 2 ^ n.lbaLog) (c.nlb * 2 ^ n.lbaLog) else 0) = none ∧ (s.chip.fresh.takeZone z zsio c.hint).2 = none) ∧
    (∃ (s : State) (slot : SlotId) (c : Cmd) (n : Ns), s.chip.ioAt slot 0x09 c n ∧ c.peer = none) ∧
    (∃ (s : State) (slot : SlotId) (c : Cmd), s.chip.cmd? slot = some c ∧ c.admin = false ∧ opcodeOf c.entry = 0x09 ∧ c.phase = .running ∧ c.fwd = false ∧ c.takesData = false) ∧
    (∃ (s : State) (slot : SlotId) (c : Cmd) (n : Ns), s.chip.ioAt slot 0x09 c n ∧ c.peer.isSome = true) ∧
    (∃ (s : State) (slot : SlotId) (c : Cmd), s.chip.cmd? slot = some c ∧ c.admin = false ∧ c.phase = .accepted ∧ opcodeOf c.entry = 0x00 ∧ s.chip.flushWaits c = false) ∧
    (∃ (s : State) (slot : SlotId) (c : Cmd) (z : Nat), s.chip.cmd? slot = some c ∧ c.zone = some z ∧ c.writing = true ∧ c.staged = true ∧ c.folded = false ∧ c.fwd = false ∧ s.chip.inTurn z c = true ∧ s.chip.paired = false) ∧
    (∃ (s : State) (slot : SlotId) (units : Nat) (c : Cmd) (z : Nat), s.chip.cmd? slot = some c ∧ c.zone = some z ∧ c.writing = true ∧ c.staged = false ∧ s.chip.onXts slot c = true ∧ s.chip.keyLoaded (nsidOf c.entry) = true ∧ s.chip.allStored c = true ∧ ceilDiv (s.chip.storedPlain c).length 256 ≤ c.enc + units) ∧
    (∃ (s : State) (slot : SlotId) (c : Cmd) (z : Nat) (r : Cmd), s.chip.cmd? slot = some c ∧ c.zone = some z ∧ s.chip.canCommit slot z c = true ∧ c.parts.any (fun p => decide (p.lost ≠ [])) = false ∧ s.chip.nextRecord z c = some r ∧ (c.phase = .committed ∨ ((s.chip.fresh.commitRecord slot z r).records z c).length ≤ 1)) ∧
    (∃ (s : State) (slot : SlotId) (c : Cmd) (z : Nat) (r : Cmd), s.chip.cmd? slot = some c ∧ c.zone = some z ∧ s.chip.canCommit slot z c = true ∧ c.parts.any (fun p => decide (p.lost ≠ [])) = false ∧ s.chip.nextRecord z c = some r ∧ c.phase = .running ∧ 1 < ((s.chip.fresh.commitRecord slot z r).records z c).length) ∧
    (∃ (s : State) (slot : SlotId) (c : Cmd) (z : Nat), s.chip.cmd? slot = some c ∧ c.zone = some z ∧ s.chip.canCommit slot z c = true ∧ c.parts.any (fun p => decide (p.lost ≠ [])) = true) ∧
    (∃ (s : State) (slot : SlotId) (payload : List Byte) (c : Cmd) (n : Ns) (e b k : Nat), s.chip.cmd? slot = some c ∧ s.chip.ns? (nsidOf c.entry) = some n ∧ n.elastic = true ∧ c.writing = true ∧ (piecesOf (c.off * 2 ^ n.lbaLog) (c.nlb * 2 ^ n.lbaLog))[c.blocks.length]? = some (b, k) ∧ (slice (c.payload n.lbaLog) (b - c.off * 2 ^ n.lbaLog) k).length = k ∧ s.chip.compressEngine slot c.blocks.length = some e ∧ mayEmit c.level (slice (c.payload n.lbaLog) (b - c.off * 2 ^ n.lbaLog) k) payload = true) ∧
    (∃ (s : State) (slot : SlotId) (part : Nat) (lbaOff : Fin 128) (stored : List Byte) (e : Nat) (j : DecJob), (s.chip.eng.decomp.find? (fun h => decide (h.2.slot = slot.val ∧ h.2.part = part ∧ h.2.lbaOff = lbaOff.val)) = some (e, j)) ∧ j.live = true) ∧
    (∃ (s : State) (slot : SlotId) (part : Nat) (lbaOff : Fin 128) (stored : List Byte) (e : Nat) (j : DecJob), (s.chip.eng.decomp.find? (fun h => decide (h.2.slot = slot.val ∧ h.2.part = part ∧ h.2.lbaOff = lbaOff.val)) = some (e, j)) ∧ j.live = false) := by
  exact ⟨⟨⟨(base).putCmd 0 (io [(0, 2), (1, 1)] none), []⟩, 0, io [(0, 2), (1, 1)] none, ns1, by decide +kernel⟩,
    ⟨⟨(base).putCmd 0 (io [(0, 1), (1, 2)] (some 1)), []⟩, 0, io [(0, 1), (1, 2)] (some 1), ns2, 1, by decide +kernel⟩,
    ⟨⟨(base).putCmd 0 (io [(0, 1), (1, 1)] (some 0)), []⟩, 0, io [(0, 1), (1, 1)] (some 0), ns1, 0, by decide +kernel⟩,
    ⟨⟨(base).putCmd 0 (io [(0, 8), (1, 2)] (some 1)), []⟩, 0, io [(0, 8), (1, 2)] (some 1), ns2, 1, by decide +kernel⟩,
    ⟨⟨(base).putCmd 0 (io [(0, 8), (1, 1)] (some 0)), []⟩, 0, io [(0, 8), (1, 1)] (some 0), ns1, 0, by decide +kernel⟩,
    ⟨⟨(base).putCmd 0 (io [(0, 0x7D), (1, 1)] (some 0)), []⟩, 0, io [(0, 0x7D), (1, 1)] (some 0), ns1, 0, by decide +kernel⟩,
    ⟨⟨(base).putCmd 0 (io [(0, 9), (1, 1)] none), []⟩, 0, io [(0, 9), (1, 1)] none, ns1, by decide +kernel⟩,
    ⟨⟨(base).putCmd 0 ({ io [(0, 9), (1, 1)] none with phase := .running,  }), []⟩, 0, { io [(0, 9), (1, 1)] none with phase := .running,  }, by decide +kernel⟩,
    ⟨⟨base.putCmd 0 ({ io [(0, 9), (1, 1)] none with peer := some 65535 }), []⟩, 0, { io [(0, 9), (1, 1)] none with peer := some 65535 }, ns1, by decide +kernel⟩,
    ⟨⟨(base).putCmd 0 (io [(0, 0), (1, 1)] none), []⟩, 0, io [(0, 0), (1, 1)] none, by decide +kernel⟩,
    ⟨⟨(base).putCmd 0 ({ io [(0, 1), (1, 1)] (some 0) with phase := .running, staged := true }), []⟩, 0, { io [(0, 1), (1, 1)] (some 0) with phase := .running, staged := true }, 0, by decide +kernel⟩,
    ⟨⟨({ base with kv := { base.kv with slots := [(0, { KeySlot.blank with state := 1 })] } } : Chip).putCmd 0 ({ io [(0, 1), (1, 1)] (some 0) with phase := .running, want := 512, data := List.replicate 512 0 }), []⟩, 0, 2, { io [(0, 1), (1, 1)] (some 0) with phase := .running, want := 512, data := List.replicate 512 0 }, 0, by decide +kernel⟩,
    ⟨⟨base.putCmd 0 ({ io [(0, 1), (1, 1)] (some 0) with phase := .running, staged := true, folded := true }), []⟩, 0, { io [(0, 1), (1, 1)] (some 0) with phase := .running, staged := true, folded := true }, 0, { io [(0, 1), (1, 1)] (some 0) with phase := .running, staged := true, folded := true }, by decide +kernel⟩,
    ⟨⟨base.putCmd 0 ({ io [(0, 1), (1, 1)] (some 0) with phase := .running, staged := true, folded := true, nlb := 257 }), []⟩, 0, { io [(0, 1), (1, 1)] (some 0) with phase := .running, staged := true, folded := true, nlb := 257 }, 0, { io [(0, 1), (1, 1)] (some 0) with phase := .running, staged := true, folded := true, nlb := 256 }, by decide +kernel⟩,
    ⟨⟨base.putCmd 0 ({ io [(0, 1), (1, 1)] (some 0) with phase := .running, staged := true, folded := true, parts := [⟨0, 0, 4096, .flash, none, 0, [(0, 4096)], [], [], false, true⟩] }), []⟩, 0, { io [(0, 1), (1, 1)] (some 0) with phase := .running, staged := true, folded := true, parts := [⟨0, 0, 4096, .flash, none, 0, [(0, 4096)], [], [], false, true⟩] }, 0, by decide +kernel⟩,
    ⟨⟨({ base with zn := { base.zn with ns := [{ ns3 with lbaLog := 9 }] }, eng := { base.eng with comp := [(11, 0, 0)] } } : Chip).putCmd 0 ({ io [(0, 1), (1, 3)] (some 2) with phase := .running, data := List.replicate 512 0, nlb := 1 }), []⟩, 0, zeroPayload, { io [(0, 1), (1, 3)] (some 2) with phase := .running, data := List.replicate 512 0, nlb := 1 }, { ns3 with lbaLog := 9 }, 11, 0, 512, by decide +kernel⟩,
    ⟨⟨{ base with eng := { base.eng with decomp := [(23, ⟨0, 0, 127, true⟩)] } }, []⟩, 0, 0, 127, [], 23, ⟨0, 0, 127, true⟩, by decide +kernel⟩,
    ⟨⟨{ base with eng := { base.eng with decomp := [(23, ⟨0, 0, 127, false⟩)] } }, []⟩, 0, 0, 127, [], 23, ⟨0, 0, 127, false⟩, by decide +kernel⟩⟩

/-- States and operands that meet the hypotheses of each clause of ZoneCommandsComplete. -/
theorem test_meets_ZoneCommandsComplete :
    (∃ (s : State) (slot : SlotId) (c : Cmd) (n : Ns) (z : Nat), s.chip.ioAt slot 0x79 c n ∧ zsaOf c.entry = 3 ∧ selectAll c.entry = false ∧ c.zone = some z ∧ s.chip.zoneQuiet z c.seq = true ∧ (s.chip.zone z).state ≠ zso ∧ zoneAction 3 (s.chip.zone z).state = .go ∧ (s.chip.fresh.takeZone z zseo c.hint).2 = none) ∧
    (∃ (s : State) (slot : SlotId) (c : Cmd) (n : Ns), s.chip.ioAt slot 0x79 c n ∧ zsaOf c.entry = 3 ∧ selectAll c.entry = true ∧ (n.zones.filter fun z => selectsState 3 (s.chip.zone z).state).all (s.chip.zoneQuiet · c.seq) = true) ∧
    (∃ (s : State) (slot : SlotId) (c : Cmd) (n : Ns) (z : Nat), s.chip.ioAt slot 0x79 c n ∧ zsaOf c.entry = 1 ∧ selectAll c.entry = false ∧ c.zone = some z ∧ s.chip.zoneQuiet z c.seq = true ∧ (s.chip.zone z).state ≠ zso ∧ zoneAction 1 (s.chip.zone z).state = .go) ∧
    (∃ (s : State) (slot : SlotId) (c : Cmd) (n : Ns), s.chip.ioAt slot 0x79 c n ∧ zsaOf c.entry = 1 ∧ selectAll c.entry = true ∧ (n.zones.filter fun z => selectsState 1 (s.chip.zone z).state).all (s.chip.zoneQuiet · c.seq) = true) ∧
    (∃ (s : State) (slot : SlotId) (c : Cmd) (n : Ns) (z : Nat), s.chip.ioAt slot 0x79 c n ∧ zsaOf c.entry = 2 ∧ selectAll c.entry = false ∧ c.zone = some z ∧ s.chip.zoneQuiet z c.seq = true ∧ (s.chip.zone z).state ≠ zso ∧ zoneAction 2 (s.chip.zone z).state = .go) ∧
    (∃ (s : State) (slot : SlotId) (c : Cmd) (n : Ns), s.chip.ioAt slot 0x79 c n ∧ zsaOf c.entry = 2 ∧ selectAll c.entry = true ∧ (n.zones.filter fun z => selectsState 2 (s.chip.zone z).state).all (s.chip.zoneQuiet · c.seq) = true) ∧
    (∃ (s : State) (slot : SlotId) (c : Cmd) (n : Ns) (z : Nat), s.chip.ioAt slot 0x79 c n ∧ zsaOf c.entry = 4 ∧ selectAll c.entry = false ∧ c.zone = some z ∧ s.chip.zoneQuiet z c.seq = true ∧ (s.chip.zone z).state ≠ zso ∧ zoneAction 4 (s.chip.zone z).state = .go) ∧
    (∃ (s : State) (slot : SlotId) (c : Cmd) (n : Ns), s.chip.ioAt slot 0x79 c n ∧ zsaOf c.entry = 4 ∧ selectAll c.entry = true ∧ (n.zones.filter fun z => selectsState 4 (s.chip.zone z).state).all (s.chip.zoneQuiet · c.seq) = true) ∧
    (∃ (s : State) (slot : SlotId) (c : Cmd) (n : Ns) (z : Nat), s.chip.ioAt slot 0x79 c n ∧ zsaOf c.entry = 5 ∧ selectAll c.entry = false ∧ c.zone = some z ∧ s.chip.zoneQuiet z c.seq = true ∧ zoneAction 5 (s.chip.zone z).state = .go) ∧
    (∃ (s : State) (slot : SlotId) (c : Cmd) (n : Ns), s.chip.ioAt slot 0x79 c n ∧ zsaOf c.entry = 5 ∧ selectAll c.entry = true ∧ (n.zones.filter fun z => selectsState 5 (s.chip.zone z).state).all (s.chip.zoneQuiet · c.seq) = true) ∧
    (∃ (s : State) (slot : SlotId) (c : Cmd) (n : Ns), s.chip.ioAt slot 0x79 c n ∧ zsaOf c.entry = 0x10) ∧
    (∃ (s : State) (slot : SlotId) (c : Cmd) (n : Ns) (d : Cmd), s.chip.ioAt slot 0x7A c n ∧ zraOf c.entry = 0 ∧ s.chip.fresh.ptrsIn slot (s.chip.fresh.report c n (bits (dw c.entry 13) 15 8) 64 (s.chip.fresh.zoneDescriptor n)).length c d) ∧
    (∃ (s : State) (slot : SlotId) (c : Cmd) (n : Ns) (d : Cmd), s.chip.ioAt slot 0x7A c n ∧ zraOf c.entry = 0 ∧ (s.chip.fresh.ptrsAsked slot (s.chip.fresh.report c n (bits (dw c.entry 13) 15 8) 64 (s.chip.fresh.zoneDescriptor n)).length c).cmd? slot = some d ∧ d.list.isSome = true) ∧
    (∃ (s : State) (slot : SlotId) (c : Cmd) (n : Ns), s.chip.ioAt slot 0x7A c n ∧ zraOf c.entry = 1) ∧
    (∃ (s : State) (slot : SlotId) (c : Cmd) (n : Ns) (d : Cmd), s.chip.ioAt slot 0x7A c n ∧ zraOf c.entry = 0xF ∧ s.chip.fresh.ptrsIn slot (s.chip.fresh.report c n (bits (dw c.entry 14) 3 0) 128 fun z => (s.chip.fresh.zoneWords z).flatMap (leBytes 4)).length c d) ∧
    (∃ (s : State) (slot : SlotId) (c : Cmd) (n : Ns) (d : Cmd), s.chip.ioAt slot 0x7A c n ∧ zraOf c.entry = 0xF ∧ (s.chip.fresh.ptrsAsked slot (s.chip.fresh.report c n (bits (dw c.entry 14) 3 0) 128 fun z => (s.chip.fresh.zoneWords z).flatMap (leBytes 4)).length c).cmd? slot = some d ∧ d.list.isSome = true) := by
  exact ⟨⟨⟨(base).putCmd 0 (io [(0, 0x79), (1, 1), (13, 3)] (some 0)), []⟩, 0, io [(0, 0x79), (1, 1), (13, 3)] (some 0), ns1, 0, by decide +kernel⟩,
    ⟨⟨(base).putCmd 0 (io [(0, 0x79), (1, 1), (13, 3 + 256)] none), []⟩, 0, io [(0, 0x79), (1, 1), (13, 3 + 256)] none, ns1, by decide +kernel⟩,
    ⟨⟨(base).putCmd 0 (io [(0, 0x79), (1, 1), (13, 1)] (some 0)), []⟩, 0, io [(0, 0x79), (1, 1), (13, 1)] (some 0), ns1, 0, by decide +kernel⟩,
    ⟨⟨(base).putCmd 0 (io [(0, 0x79), (1, 1), (13, 1 + 256)] none), []⟩, 0, io [(0, 0x79), (1, 1), (13, 1 + 256)] none, ns1, by decide +kernel⟩,
    ⟨⟨(base).putCmd 0 (io [(0, 0x79), (1, 1), (13, 2)] (some 0)), []⟩, 0, io [(0, 0x79), (1, 1), (13, 2)] (some 0), ns1, 0, by decide +kernel⟩,
    ⟨⟨(base).putCmd 0 (io [(0, 0x79), (1, 1), (13, 2 + 256)] none), []⟩, 0, io [(0, 0x79), (1, 1), (13, 2 + 256)] none, ns1, by decide +kernel⟩,
    ⟨⟨(base).putCmd 0 (io [(0, 0x79), (1, 1), (13, 4)] (some 0)), []⟩, 0, io [(0, 0x79), (1, 1), (13, 4)] (some 0), ns1, 0, by decide +kernel⟩,
    ⟨⟨(base).putCmd 0 (io [(0, 0x79), (1, 1), (13, 4 + 256)] none), []⟩, 0, io [(0, 0x79), (1, 1), (13, 4 + 256)] none, ns1, by decide +kernel⟩,
    ⟨⟨(base.setZone 0 { Zone.blank with state := zsro }).putCmd 0 (io [(0, 0x79), (1, 1), (13, 5)] (some 0)), []⟩, 0, io [(0, 0x79), (1, 1), (13, 5)] (some 0), ns1, 0, by decide +kernel⟩,
    ⟨⟨(base).putCmd 0 (io [(0, 0x79), (1, 1), (13, 5 + 256)] none), []⟩, 0, io [(0, 0x79), (1, 1), (13, 5 + 256)] none, ns1, by decide +kernel⟩,
    ⟨⟨(base).putCmd 0 (io [(0, 0x79), (1, 1), (13, 16)] none), []⟩, 0, io [(0, 0x79), (1, 1), (13, 16)] none, ns1, by decide +kernel⟩,
    ⟨⟨base.putCmd 0 { io [(0, 0x7A), (1, 1), (13, 0)] none with ptrs := [(0, 4096)] }, []⟩, 0, { io [(0, 0x7A), (1, 1), (13, 0)] none with ptrs := [(0, 4096)] }, ns1, { io [(0, 0x7A), (1, 1), (13, 0)] none with ptrs := [(0, 4096)] }, by decide +kernel⟩,
    ⟨⟨base.putCmd 0 { io [(0, 0x7A), (1, 1), (13, 0)] none with list := some (0, 8) }, []⟩, 0, { io [(0, 0x7A), (1, 1), (13, 0)] none with list := some (0, 8) }, ns1, { io [(0, 0x7A), (1, 1), (13, 0)] none with list := some (0, 8) }, by decide +kernel⟩,
    ⟨⟨(base).putCmd 0 (io [(0, 0x7A), (1, 1), (13, 1)] none), []⟩, 0, io [(0, 0x7A), (1, 1), (13, 1)] none, ns1, by decide +kernel⟩,
    ⟨⟨base.putCmd 0 { io [(0, 0x7A), (1, 1), (13, 15)] none with ptrs := [(0, 4096)] }, []⟩, 0, { io [(0, 0x7A), (1, 1), (13, 15)] none with ptrs := [(0, 4096)] }, ns1, { io [(0, 0x7A), (1, 1), (13, 15)] none with ptrs := [(0, 4096)] }, by decide +kernel⟩,
    ⟨⟨base.putCmd 0 { io [(0, 0x7A), (1, 1), (13, 15)] none with list := some (0, 8) }, []⟩, 0, { io [(0, 0x7A), (1, 1), (13, 15)] none with list := some (0, 8) }, ns1, { io [(0, 0x7A), (1, 1), (13, 15)] none with list := some (0, 8) }, by decide +kernel⟩⟩

/-- States and operands that meet the hypotheses of each clause of IslandBarrierAndImageEventsComplete. -/
theorem test_meets_IslandBarrierAndImageEventsComplete :
    (∃ (s : State) (i : Isl) (tag : Tag), s.chip.islState i = 2 ∧ s.chip.f PTB_CTL.ARMED = 0 ∧ tagPasses tag.toNat = true ∧ i.val ≠ 26) ∧
    (∃ (s : State) (i : Isl) (tag : Tag), (s.chip.islState i = 1 ∨ s.chip.islState i = 4)) ∧
    (∃ (s : State) (i : Isl) (tag : Tag), s.chip.islState i = 0) ∧
    (∃ (s : State) (i : Isl) (tag : Tag), s.chip.islState i = 2 ∧ s.chip.f PTB_CTL.ARMED = 0 ∧ tagPasses tag.toNat = false) ∧
    (∃ (s : State) (i : Isl), s.chip.islState i = 2 ∧ s.chip.offBy i = some 3) ∧
    (∃ (s : State) (i : Isl), s.chip.islState i = 3 ∧ s.chip.offBy i ≠ none) ∧
    (∃ (s : State) (i : Isl), s.chip.islState i = 3 ∧ s.chip.offBy i = none) ∧
    (∃ (s : State), s.chip.st.step ≠ 0) ∧
    (∃ (s : State) (i : Isl) (d : Int), s.chip.st.step = 0 ∧ s.chip.islServes i = true ∧ d.natAbs ≤ s.chip.f ISL_SKEW.WORST_TICKS ∧ d.natAbs ≤ 2) ∧
    (∃ (s : State) (i : Isl) (d : Int), s.chip.st.step = 0 ∧ s.chip.islServes i = true ∧ s.chip.f ISL_SKEW.WORST_TICKS < d.natAbs ∧ 2 < d.natAbs ∧ d.natAbs ≤ 15) ∧
    (∃ (s : State) (slot : SlotId) (c : Cmd), s.chip.cmd? slot = some c ∧ s.chip.waiting slot c = false ∧ c.phase ≠ .committed) ∧
    (∃ (s : State) (slot : SlotId) (c : Cmd), s.chip.cmd? slot = some c ∧ s.chip.waiting slot c = false ∧ c.phase = .committed) ∧
    (∃ (s : State) (b : Barrier), s.chip.isl.flight = some b ∧ b.twin = true ∧ b.twinAck = false) ∧
    (∃ (s : State) (k : Nat), s.chip.isl.snapMarker = some k) ∧
    (∃ (s : State) (bytes : List Byte) (op len : Nat), s.chip.img.phase = .dma op len) ∧
    (∃ (s : State) (b : List Byte), s.chip.img.phase = .bankWrite b ∧ s.chip.f NVA_STAT.BROWNOUT ≠ 1) ∧
    (∃ (s : State), s.chip.f NVA_STAT.BROWNOUT = 1) ∧
    (∃ (s : State), s.chip.f GEN_EPOCH.DRAINING = 1 ∧ s.chip.epochUsed (s.chip.f GEN_EPOCH.OLD) = false) ∧
    (∃ (s : State) (v : BitVec 32), v.toNat ≠ s.chip.f GEN_LIVEVER.VERSION) ∧
    (∃ (s : State) (v : BitVec 32), v.toNat = s.chip.f GEN_LIVEVER.VERSION) ∧
    (∃ (s : State) (q : PSlot), s.chip.f HPT_PSTAT.STATE q ≠ 2) := by
  exact ⟨⟨⟨on, []⟩, 27, goodTag, by decide +kernel⟩,
    ⟨⟨on.setF ISL_STAT.STATE 1 27, []⟩, 27, 0, by decide +kernel⟩,
    ⟨⟨on.setF ISL_STAT.STATE 0 12, []⟩, 12, 0, by decide +kernel⟩,
    ⟨⟨on, []⟩, 1, 0, by decide +kernel⟩,
    ⟨⟨on.setF PWR_CTL.TRIM_EN 1, []⟩, 26, by decide +kernel⟩,
    ⟨⟨(on.setF PWR_CTL.TRIM_EN 1).setF ISL_STAT.STATE 3 26, []⟩, 26, by decide +kernel⟩,
    ⟨⟨(on.setF PWR_CTL.TRIM_EN 0).setF ISL_STAT.STATE 3 26, []⟩, 26, by decide +kernel⟩,
    ⟨⟨{ on with st := { on.st with step := 14 } }, []⟩, by decide +kernel⟩,
    ⟨⟨on.setF ISL_SKEW.WORST_TICKS 2, []⟩, 27, (-2), by decide +kernel⟩,
    ⟨⟨on, []⟩, 27, (-15), by decide +kernel⟩,
    ⟨⟨base.putCmd 0 (adm [(0, 6)]), []⟩, 0, adm [(0, 6)], by decide +kernel⟩,
    ⟨⟨base.putCmd 0 { adm [(0, 6)] with phase := .committed }, []⟩, 0, { adm [(0, 6)] with phase := .committed }, by decide +kernel⟩,
    ⟨⟨{ on with isl := { on.isl with flight := some ⟨.cw, false, true, 1, 0, 0, 0, false⟩ } }, []⟩, ⟨.cw, false, true, 1, 0, 0, 0, false⟩, by decide +kernel⟩,
    ⟨⟨{ on with isl := { on.isl with snapMarker := some 7 } }, []⟩, 7, by decide +kernel⟩,
    ⟨⟨{ on with img := { on.img with phase := .dma 2 16 } }, []⟩, [1], 2, 16, by decide +kernel⟩,
    ⟨⟨{ on with img := { on.img with phase := .bankWrite [1] } }, []⟩, [1], by decide +kernel⟩,
    ⟨⟨on.setF NVA_STAT.BROWNOUT 1, []⟩, by decide +kernel⟩,
    ⟨⟨on.setF GEN_EPOCH.DRAINING 1, []⟩, by decide +kernel⟩,
    ⟨⟨on, []⟩, 1, by decide +kernel⟩,
    ⟨⟨on, []⟩, 0, by decide +kernel⟩,
    ⟨⟨on, []⟩, 31, by decide +kernel⟩⟩

/-- States and operands that meet the hypotheses of each clause of ZoneBackgroundEventsComplete. -/
theorem test_meets_ZoneBackgroundEventsComplete :
    (∃ (s : State) (z : ZoneId), (s.chip.stagedStripes z).flatMap s.chip.openRows = []) ∧
    (∃ (s : State) (z : ZoneId) (r d b n : Nat), (s.chip.stagedStripes z).flatMap s.chip.openRows = [(z.val, r)] ∧ s.chip.spillable z r = true ∧ 0 < n ∧ s.chip.spillDies.findSome? (fun d => (s.chip.spillPlace d (ceilDiv (min (s.chip.filledBytes z - 4194304 * r) 4194304) 65536)).map fun p => (d, p)) = some (d, b, n)) ∧
    (∃ (s : State), 8 ≤ s.chip.freeLog) ∧
    (∃ (s : State) (c : Nat × LogBlk), s.chip.freeLog < 8 ∧ s.chip.zn.compact = none ∧ (s.chip.zn.logBlks.filter fun e => !e.2.opened && s.chip.ownsStripe (logZone e.1) && decide ((s.chip.zone (logZone e.1)).rows = 1024)) = [c]) ∧
    (∃ (s : State), s.chip.zn.compact.isSome = true) ∧
    (∃ (s : State) (z : ZoneId) (v : Chip) (ms : List Member), (s.chip.zone z).type = 2 ∧ s.chip.ownsZone z = true ∧ 262144 < s.chip.logUnitsOf z ∧ s.chip.zn.merge = none ∧ s.chip.fresh.newStripe (if (s.chip.fresh.zone z).cls = 0 then 2 else (s.chip.fresh.zone z).cls) = (v, some ms)) ∧
    (∃ (s : State) (z : ZoneId) (v : Chip), (s.chip.zone z).type = 2 ∧ s.chip.ownsZone z = true ∧ 262144 < s.chip.logUnitsOf z ∧ s.chip.zn.merge = none ∧ s.chip.fresh.newStripe (if (s.chip.fresh.zone z).cls = 0 then 2 else (s.chip.fresh.zone z).cls) = (v, none)) ∧
    (∃ (s : State) (z : ZoneId), s.chip.logUnitsOf z ≤ 262144) ∧
    (∃ (s : State) (z : ZoneId) (i : Fin 18), (s.chip.zone z).members ≠ [] ∧ ((s.chip.zone z).member i).failed = false ∧ s.chip.ownsStripe z = true) ∧
    (∃ (s : State) (id : Nat) (v : Solve), s.chip.md.solves.find? (fun x => decide (x.id = id)) = some v ∧ v.ready = true ∧ (s.chip.md.solves.filter (·.ready)).all v.before = true) ∧
    (∃ (s : State) (id : Nat) (v : Solve), s.chip.md.solves.find? (fun x => decide (x.id = id)) = some v ∧ v.ready = false) ∧
    (∃ (s : State) (found : List (Nat × Nat × List (Nat × Nat))), (s.chip.f SPE_CTL.VERIFY_EN = 0 ∨ s.chip.f SPE_VFYCFG.HOURS = 0)) ∧
    (∃ (s : State), s.chip.f SPE_CTL.VERIFY_EN ≠ 0 ∧ s.chip.f SPE_VFYCFG.HOURS ≠ 0) := by
  exact ⟨⟨⟨base, []⟩, 0, by decide +kernel⟩,
    ⟨⟨(({ base with zn := { base.zn with spillBlk := [(0, (0, 5))] } } : Chip).setF FCH_DIE.STATE 2 0 |>.setF TWN_LINES.CLAIM 4095 |>.setF TWN_LINES.SEEN 4095).setZone 0 { Zone.blank with cwp := 1 }, []⟩, 0, 0, 0, 0, 5, by decide +kernel⟩,
    ⟨⟨{ base with img := { base.img with tables := { tb with geo := { tb.geo with logBlocks := 8 } } } }, []⟩, by decide +kernel⟩,
    ⟨⟨({ base with zn := { base.zn with logBlks := [(0, ⟨false, false, []⟩)] }, img := { base.img with tables := { tb with geo := { tb.geo with logBlocks := 8 } } } } : Chip).setZone (logZone 0) { Zone.blank with rows := 1024 }, []⟩, (0, ⟨false, false, []⟩), by decide +kernel⟩,
    ⟨⟨{ base with zn := { base.zn with compact := some ⟨0, []⟩ } }, []⟩, by decide +kernel⟩,
    ⟨⟨((List.range 18).foldl (fun (m : Chip) k => m.setF FCH_DIE.STATE 2 (1536 * (k / 9) + 256 * (k % 9 / 2) + 32 * (k % 9 % 2))) ({ base with img := { base.img with tables := { tb with flash := { tb.flash with userBlocks := 1 } } }, zn := { base.zn with logBlks := [(0, ⟨false, true, List.replicate 262145 (0, 1048576)⟩)] } } : Chip)).setF LDP_WEARCFG.PE_LIMIT 1, []⟩, 1, _, _, by decide +kernel, by decide +kernel, logUnits_many _ 262145 rfl _ (by decide), by decide +kernel, pair_some _ (by decide +kernel)⟩,
    ⟨⟨({ base with zn := { base.zn with logBlks := [(0, ⟨false, true, List.replicate 262145 (0, 1048576)⟩)] } } : Chip), []⟩, 1, _, by decide +kernel, by decide +kernel, logUnits_many _ 262145 rfl _ (by decide), by decide +kernel, pair_of _ _ (by decide +kernel)⟩,
    ⟨⟨base, []⟩, 1, by decide +kernel⟩,
    ⟨⟨base.setZone 0 { Zone.blank with members := [⟨false, false, 0, 0⟩] }, []⟩, 0, 0, by decide +kernel⟩,
    ⟨⟨{ base with md := { base.md with solves := [⟨0, 0, 0, 0, 0, 0, 0, false, 0, 0, [], [], .staging⟩] } }, []⟩, 0, ⟨0, 0, 0, 0, 0, 0, 0, false, 0, 0, [], [], .staging⟩, by decide +kernel⟩,
    ⟨⟨{ base with md := { base.md with solves := [⟨0, 0, 0, 0, 0, 0, 1, false, 0, 0, [5], [], .staging⟩] } }, []⟩, 0, ⟨0, 0, 0, 0, 0, 0, 1, false, 0, 0, [5], [], .staging⟩, by decide +kernel⟩,
    ⟨⟨on.setF SPE_CTL.VERIFY_EN 0, []⟩, [], by decide +kernel⟩,
    ⟨⟨(on.setF SPE_CTL.VERIFY_EN 1).setF SPE_VFYCFG.HOURS 24, []⟩, by decide +kernel⟩⟩

/-- States and operands that meet the hypotheses of each clause of PowerStateAndSequencerEventsComplete. -/
theorem test_meets_PowerStateAndSequencerEventsComplete :
    (∃ (s : State), s.chip.plp.flushing = true ∧ s.chip.plp.late = true) ∧
    (∃ (s : State), s.chip.plp.flushing = true ∧ s.chip.plp.late = false) ∧
    (∃ (s : State) (b : Bool), s.chip.f PLP_STAT.FIRST = b1 b) ∧
    (∃ (s : State) (g : Grp), bitOf s.chip.q.perst g = true ∧ s.chip.f PWR_STAT.STATE < 4) ∧
    (∃ (s : State), s.chip.f PWR_STAT.STATE ≠ 4 ∧ s.chip.f PWR_STAT.STATE ≠ 5) ∧
    (∃ (s : State), s.chip.f PWR_CTL.LULL_EN = 1 ∧ s.chip.f PWR_STAT.STATE ≤ 1 ∧ s.chip.st.step = 14 ∧ s.chip.lullIdle = true) ∧
    (∃ (s : State), s.chip.f PWR_STAT.STATE = 2 ∧ s.chip.allOff ((List.range 28).filter lullOff) = true ∧ s.chip.f PWR_STAT.LATCHED = 0) ∧
    (∃ (s : State) (i : Isl), (s.chip.f PWR_STAT.STATE = 2 ∨ s.chip.f PWR_STAT.STATE = 3) ∧ (12 ≤ i.val ∧ i.val ≤ 26)) ∧
    (∃ (s : State) (i : Isl), (s.chip.f PWR_STAT.STATE = 2 ∨ s.chip.f PWR_STAT.STATE = 3) ∧ (12 ≤ i.val ∧ i.val ≤ 26) ∧ s.chip.f ISL_CTL.AUTOWAKE i = 1) ∧
    (∃ (s : State), (s.chip.f PWR_STAT.STATE = 2 ∨ s.chip.f PWR_STAT.STATE = 3)) ∧
    (∃ (s : State), s.chip.f PWR_WAKETMR.SECONDS ≠ 0 ∧ (s.chip.f PWR_STAT.STATE = 2 ∨ s.chip.f PWR_STAT.STATE = 3)) ∧
    (∃ (s : State), s.chip.f PWR_STAT.STATE = 4 ∧ s.chip.allOff ((List.range 27).map (· + 1)) = true ∧ s.chip.f PWR_STAT.LATCHED = 0) ∧
    (∃ (s : State), (s.chip.f PWR_STAT.STATE = 4 ∨ s.chip.f PWR_STAT.STATE = 5) ∧ s.chip.fbit PWR_CALMCFG.WAKEEN 0 = true) ∧
    (∃ (s : State), (s.chip.f PWR_STAT.STATE = 4 ∨ s.chip.f PWR_STAT.STATE = 5) ∧ s.chip.fbit PWR_CALMCFG.WAKEEN 1 = true) ∧
    (∃ (s : State) (g : Grp), (s.chip.f PWR_STAT.STATE = 4 ∨ s.chip.f PWR_STAT.STATE = 5) ∧ s.chip.fbit PWR_CALMCFG.WAKEEN 2 = true) ∧
    (∃ (s : State), (s.chip.f PWR_STAT.STATE = 4 ∨ s.chip.f PWR_STAT.STATE = 5) ∧ s.chip.fbit PWR_CALMCFG.WAKEEN 3 = true) ∧
    (∃ (s : State), (s.chip.f PWR_STAT.STATE = 4 ∨ s.chip.f PWR_STAT.STATE = 5) ∧ s.chip.fbit PWR_CALMCFG.WAKEEN 4 = true ∧ s.chip.f PWR_WAKETMR.SECONDS ≠ 0) ∧
    (∃ (s : State), s.chip.f PWR_STAT.STATE = 6 ∧ s.chip.f PWR_WAKESRC.FROM = 2 ∧ (List.range 28).all (fun i => decide (s.chip.islState i ≠ 1)) = true ∧ s.chip.dr.runs = [] ∧ (List.range 12).any (fun k => s.chip.clusterTrains k) = false ∧ s.chip.f TWN_STAT.STATE ≠ 2) ∧
    (∃ (s : State), s.chip.tw.heldHb = true ∧ s.chip.tw.holdWoke = true) ∧
    (∃ (s : State) (r : Rail), (s.chip.rail r).state = 4) ∧
    (∃ (s : State), s.chip.f PSQ_STAT.FLT_OUT = 0 ∧ s.chip.f PSQ_STAT.DIR < 2) ∧
    (∃ (s : State), s.chip.f PSQ_STAT.DIR = 0) ∧
    (∃ (s : State), s.chip.f PSQ_STAT.DIR = 2 ∧ s.chip.f PSQ_STAT.SYNC_PULL = 0) := by
  exact ⟨⟨⟨{ on with plp := { on.plp with flushing := true, late := true } }, []⟩, by decide +kernel⟩,
    ⟨⟨{ on with plp := { on.plp with flushing := true } }, []⟩, by decide +kernel⟩,
    ⟨⟨on.setF PLP_STAT.FIRST 1, []⟩, true, by decide +kernel⟩,
    ⟨⟨on, []⟩, 7, by decide +kernel⟩,
    ⟨⟨on, []⟩, by decide +kernel⟩,
    ⟨⟨({ on with st := { on.st with step := 14 } } : Chip).setF PWR_CTL.LULL_EN 1 |>.setF TWN_STAT.STATE 8 |>.setF PLP_STAT.STATE 0, []⟩, by decide +kernel⟩,
    ⟨⟨Chip.reset.setF PWR_STAT.STATE 2, []⟩, by decide +kernel⟩,
    ⟨⟨on.setF PWR_STAT.STATE 3, []⟩, 26, by decide +kernel⟩,
    ⟨⟨(on.setF PWR_STAT.STATE 2).setF ISL_CTL.AUTOWAKE 1 12, []⟩, 12, by decide +kernel⟩,
    ⟨⟨on.setF PWR_STAT.STATE 3, []⟩, by decide +kernel⟩,
    ⟨⟨(on.setF PWR_STAT.STATE 3).setF PWR_WAKETMR.SECONDS 1, []⟩, by decide +kernel⟩,
    ⟨⟨Chip.reset.setF PWR_STAT.STATE 4, []⟩, by decide +kernel⟩,
    ⟨⟨(on.setF PWR_STAT.STATE 5).setF PWR_CALMCFG.WAKEEN 31, []⟩, by decide +kernel⟩,
    ⟨⟨(on.setF PWR_STAT.STATE 5).setF PWR_CALMCFG.WAKEEN 31, []⟩, by decide +kernel⟩,
    ⟨⟨(on.setF PWR_STAT.STATE 5).setF PWR_CALMCFG.WAKEEN 31, []⟩, 7, by decide +kernel⟩,
    ⟨⟨(on.setF PWR_STAT.STATE 5).setF PWR_CALMCFG.WAKEEN 31, []⟩, by decide +kernel⟩,
    ⟨⟨(on.setF PWR_STAT.STATE 5).setF PWR_CALMCFG.WAKEEN 31 |>.setF PWR_WAKETMR.SECONDS 1, []⟩, by decide +kernel⟩,
    ⟨⟨(on.setF PWR_STAT.STATE 6).setF PWR_WAKESRC.FROM 2, []⟩, by decide +kernel⟩,
    ⟨⟨{ on with tw := { on.tw with heldHb := true, holdWoke := true } }, []⟩, by decide +kernel⟩,
    ⟨⟨{ on with psq := { on.psq with rails := [(15, { RailSt.blank with state := 4 })] } }, []⟩, 15, by decide +kernel⟩,
    ⟨⟨on.setF PSQ_STAT.DIR 0, []⟩, by decide +kernel⟩,
    ⟨⟨on.setF PSQ_STAT.DIR 0, []⟩, by decide +kernel⟩,
    ⟨⟨(on.setF PSQ_STAT.DIR 2).setF PSQ_STAT.SYNC_PULL 0, []⟩, by decide +kernel⟩⟩

/-- States and operands that meet the hypotheses of each clause of DieAndChannelEventsComplete. -/
theorem test_meets_DieAndChannelEventsComplete :
    (∃ (s : State) (d : Die) (u : DUnit), firstUnit (s.chip.md.disp.filter fun u => decide (u.die = d.val) && !(s.chip.needsSlot u && u.slot.isNone && s.chip.deviceSlot.isNone)) = some u) ∧
    (∃ (s : State) (d : Die) (p : DUnit), (s.chip.die d).running = some p ∧ (s.chip.die d).suspending = true) ∧
    (∃ (s : State) (d : Die) (dataIn : Bool) (u : DUnit), (s.chip.die d).running = some u) ∧
    (∃ (s : State) (d : Die) (u : DUnit), (s.chip.die d).running = some u) ∧
    (∃ (s : State) (c : Clus) (decodes : List (Option Nat)) (u : DUnit), firstUnit (s.chip.md.softQ.filter fun u => decide (dieCluster u.die = c.val)) = some u) ∧
    (∃ (s : State) (d : Die) (temp : Option Int), s.chip.drives d = true ∧ 2 ≤ s.chip.f FCH_DIE.STATE d ∧ s.chip.f FCH_DIE.STATE d ≤ 5) ∧
    (∃ (s : State), s.chip.f LDP_SCRUBCFG.HOURS ≠ 0) ∧
    (∃ (s : State), s.chip.f LDP_WEARCFG.WEAR_GAP ≠ 0) ∧
    (∃ (s : State) (t : Ten) (us : Nat) (r : TenantRec), s.chip.tenRec t = some r ∧ r.quota ≠ 0) ∧
    (∃ (s : State) (i : SlotId) (c : Cmd), s.chip.cmd? i = some c ∧ c.missAt = none ∧ s.chip.expired (some c.tenant) c.deadline = true ∧ c.phase = .running ∧ c.admin = false ∧ c.abortMiss = false) ∧
    (∃ (s : State) (i : SlotId) (c : Cmd), s.chip.cmd? i = some c ∧ c.missAt = none ∧ s.chip.expired (some c.tenant) c.deadline = true ∧ c.phase = .running ∧ c.admin = false ∧ c.abortMiss = true) ∧
    (∃ (s : State) (d : Die) (fail : Bool) (decodes : List (Option Nat)) (busy : Nat) (u : DUnit), (s.chip.die d).running = some u ∧ u.soft = false ∧ u.kind = .read ∧ s.chip.busMine d = true) ∧
    (∃ (s : State) (d : Die) (fail : Bool) (decodes : List (Option Nat)) (busy : Nat) (u : DUnit), (s.chip.die d).running = some u ∧ u.soft = false ∧ u.kind = .read ∧ s.chip.busMine d = false) ∧
    (∃ (s : State) (d : Die) (fail : Bool) (decodes : List (Option Nat)) (busy : Nat) (u : DUnit), (s.chip.die d).running = some u ∧ u.soft = false ∧ u.kind = .erase) ∧
    (∃ (s : State) (d : Die) (decodes : List (Option Nat)) (busy : Nat) (u : DUnit), (s.chip.die d).running = some u ∧ u.soft = false ∧ u.kind = .program ∧ (if u.slc then 1 else 4 / s.chip.flash.cellBits) ≤ u.passes + 1) ∧
    (∃ (s : State) (d : Die) (decodes : List (Option Nat)) (busy : Nat) (u : DUnit), (s.chip.die d).running = some u ∧ u.soft = false ∧ u.kind = .program) ∧
    (∃ (s : State) (d : Die), s.chip.f FCH_DIE.STATE d = 4) ∧
    (∃ (s : State) (ch : Chan) (ce : Nat), (s.chip.train ch).ce = some ce ∧ (s.chip.train ch).started = false ∧ ((ceDies ch ce).all fun d => (s.chip.die d).running.isNone && (s.chip.die d).suspended.isNone) = true) ∧
    (∃ (s : State) (ch : Chan) (ce : Nat), (s.chip.train ch).ce = some ce ∧ (s.chip.train ch).started = false) ∧
    (∃ (s : State) (ch : Chan) (ce rd wr : Nat), (s.chip.train ch).ce = some ce ∧ (s.chip.train ch).started = true) ∧
    (∃ (s : State) (ch : Chan) (ce : Nat), (s.chip.train ch).ce = some ce ∧ (s.chip.train ch).started = true) ∧
    (∃ (s : State) (ch : Chan) (ce : Nat), (s.chip.train ch).ce = some ce ∧ (s.chip.train ch).started = true) ∧
    (∃ (s : State) (ch : Chan) (ce : Nat), (s.chip.train ch).ce = some ce ∧ (s.chip.train ch).started = true) ∧
    (∃ (s : State) (ch : Chan) (ce : Nat), (s.chip.train ch).ce = some ce ∧ (s.chip.train ch).started = true) ∧
    (∃ (s : State) (ch : Chan) (ce : Grp), ce.val ∈ (s.chip.train ch).retry) ∧
    (∃ (s : State) (t : Ten) (d : Die), s.chip.img.tables.share t ≠ 0) ∧
    (∃ (s : State) (d : Die) (u : FlushUnit) (seq b : Nat), tfind s.chip.plp.flight d = some (u, seq) ∧ s.chip.flushBlock d = some b) ∧
    (∃ (s : State) (d : Die) (u : FlushUnit) (seq b : Nat), tfind s.chip.plp.flight d = some (u, seq) ∧ s.chip.flushBlock d = some b) := by
  exact ⟨⟨⟨{ base with md := { base.md with disp := [unit0 .read] } }, []⟩, 0, unit0 .read, by decide +kernel⟩,
    ⟨⟨base.setDie 0 { DieSt.blank with running := some (unit0 .program), suspending := true }, []⟩, 0, unit0 .program, by decide +kernel⟩,
    ⟨⟨dieRuns .read, []⟩, 0, false, unit0 .read, by decide +kernel⟩,
    ⟨⟨dieRuns .read, []⟩, 0, unit0 .read, by decide +kernel⟩,
    ⟨⟨{ base with md := { base.md with softQ := [unit0 .read] } }, []⟩, 0, [], unit0 .read, by decide +kernel⟩,
    ⟨⟨(base.setF TWN_LINES.CLAIM 4095).setF TWN_LINES.SEEN 4095 |>.setF FCH_DIE.STATE 5 3071, []⟩, 3071, some 70, by decide +kernel⟩,
    ⟨⟨on.setF LDP_SCRUBCFG.HOURS 1, []⟩, by decide +kernel⟩,
    ⟨⟨on.setF LDP_WEARCFG.WEAR_GAP 1, []⟩, by decide +kernel⟩,
    ⟨⟨base, []⟩, 0, 1, ⟨0, 0, 0, 8, 1024, 0, 100, 100, 0, 0, 0⟩, by decide +kernel⟩,
    ⟨⟨base.putCmd 0 { io [(0, 2), (1, 1)] none with phase := .running }, []⟩, 0, { io [(0, 2), (1, 1)] none with phase := .running }, by decide +kernel⟩,
    ⟨⟨base.putCmd 0 { io [(0, 2), (1, 1)] none with phase := .running, abortMiss := true }, []⟩, 0, { io [(0, 2), (1, 1)] none with phase := .running, abortMiss := true }, by decide +kernel⟩,
    ⟨⟨dieRuns .read, []⟩, 0, false, [], 0, unit0 .read, by decide +kernel⟩,
    ⟨⟨({ base with md := { base.md with bus := [(0, 5)] } } : Chip).setDie 0 { DieSt.blank with running := some (unit0 .read) } |>.setDie 5 { DieSt.blank with running := some (unit0 .read) }, []⟩, 0, false, [], 0, unit0 .read, by decide +kernel⟩,
    ⟨⟨dieRuns .erase, []⟩, 0, true, [], 0, unit0 .erase, by decide +kernel⟩,
    ⟨⟨base.setDie 0 { DieSt.blank with running := some { unit0 .program with slc := true } }, []⟩, 0, [], 0, { unit0 .program with slc := true }, by decide +kernel⟩,
    ⟨⟨dieRuns .program, []⟩, 0, [], 0, unit0 .program, by decide +kernel⟩,
    ⟨⟨base.setF FCH_DIE.STATE 4 3071, []⟩, 3071, by decide +kernel⟩,
    ⟨⟨{ base with md := { base.md with train := [(95, { TrainSt.blank with ce := some 7 })] } }, []⟩, 95, 7, by decide +kernel⟩,
    ⟨⟨{ base with md := { base.md with train := [(95, { TrainSt.blank with ce := some 7 })] } }, []⟩, 95, 7, by decide +kernel⟩,
    ⟨⟨{ base with md := { base.md with train := [(95, { TrainSt.blank with ce := some 7, started := true })] } }, []⟩, 95, 7, 60, 60, by decide +kernel⟩,
    ⟨⟨{ base with md := { base.md with train := [(95, { TrainSt.blank with ce := some 7, started := true })] } }, []⟩, 95, 7, by decide +kernel⟩,
    ⟨⟨{ base with md := { base.md with train := [(95, { TrainSt.blank with ce := some 7, started := true })] } }, []⟩, 95, 7, by decide +kernel⟩,
    ⟨⟨{ base with md := { base.md with train := [(95, { TrainSt.blank with ce := some 7, started := true })] } }, []⟩, 95, 7, by decide +kernel⟩,
    ⟨⟨{ base with md := { base.md with train := [(95, { TrainSt.blank with ce := some 7, started := true })] } }, []⟩, 95, 7, by decide +kernel⟩,
    ⟨⟨{ base with md := { base.md with train := [(95, { TrainSt.blank with retry := [7] })] } }, []⟩, 95, 7, by decide +kernel⟩,
    ⟨⟨base, []⟩, 0, 3071, by decide +kernel⟩,
    ⟨⟨({ base with plp := { base.plp with flight := [(0, ⟨1, 0, 0, 0, 65472⟩, 7)], flushing := true }, md := { base.md with blocks := [(0, { Blk.blank with state := 4 })] } } : Chip), []⟩, 0, ⟨1, 0, 0, 0, 65472⟩, 7, 0, by decide +kernel⟩,
    ⟨⟨({ base with plp := { base.plp with flight := [(0, ⟨1, 0, 0, 0, 65472⟩, 7)], flushing := true }, md := { base.md with blocks := [(0, { Blk.blank with state := 4 })] } } : Chip), []⟩, 0, ⟨1, 0, 0, 0, 65472⟩, 7, 0, by decide +kernel⟩⟩

/-- States and operands that meet the hypotheses of each clause of PortAndQueueEventsComplete. -/
theorem test_meets_PortAndQueueEventsComplete :
    (∃ (s : State) (q : PSlot) (rate width : Nat) (flit : Bool), s.chip.portUsed q = true ∧ (s.chip.f HPT_PSTAT.STATE q = 1 ∨ s.chip.f HPT_PSTAT.STATE q = 3 ∨ s.chip.f HPT_PSTAT.STATE q = 4)) ∧
    (∃ (s : State) (q : PSlot) (f : Nat), s.chip.portUsed q = true ∧ s.chip.f HPT_PSTAT.STATE q = 2 ∧ s.chip.portPf q = some f ∧ (s.chip.fn f).pcie.aspm = true) ∧
    (∃ (s : State) (q : PSlot), s.chip.portUsed q = true ∧ s.chip.linkUp q = true) ∧
    (∃ (s : State) (q : PSlot), s.chip.portUsed q = true ∧ s.chip.linkUp q = true) ∧
    (∃ (s : State) (q : PSlot), s.chip.portUsed q = true ∧ s.chip.linkUp q = false) ∧
    (∃ (s : State) (q : PSlot), s.chip.portUsed q = true ∧ s.chip.linkUp q = true) ∧
    (∃ (s : State) (f : Fn) (r : FuncRec), s.chip.img.tables.func? f = some r ∧ r.type ≠ 0) ∧
    (∃ (s : State) (f : Fn) (r : FuncRec), s.chip.img.tables.func? f = some r ∧ r.type = 0) ∧
    (∃ (s : State) (f : Fn) (off : Nat), s.chip.fnSeen f = true ∧ s.chip.reached f = true ∧ s.chip.bar0At f off = .none) ∧
    (∃ (s : State) (f : Fn) (off : Nat) (v : BitVec 32), s.chip.fnSeen f = true ∧ s.chip.reached f = true ∧ s.chip.bar0At f off = .none) ∧
    (∃ (s : State) (f : Fn) (off r : Nat), s.chip.fnSeen f = true ∧ s.chip.reached f = true ∧ s.chip.bar0At f off = .register r) ∧
    (∃ (s : State) (f : Fn) (off r : Nat) (v : BitVec 32), s.chip.fnSeen f = true ∧ s.chip.reached f = true ∧ s.chip.bar0At f off = .register r) ∧
    (∃ (s : State) (f : Fn) (off i w : Nat) (v : BitVec 32), s.chip.fnSeen f = true ∧ s.chip.reached f = true ∧ s.chip.bar0At f off = .vector i w) ∧
    (∃ (s : State) (f : Fn) (off w : Nat), s.chip.fnSeen f = true ∧ s.chip.reached f = true ∧ s.chip.bar0At f off = .pending w) ∧
    (∃ (s : State) (f : Fn) (off : Nat) (v : BitVec 32), s.chip.fnSeen f = true ∧ s.chip.reached f = false ∧ s.chip.needsIde f = true) ∧
    (∃ (s : State) (q : PSlot) (why : TlpFault) (req : Bool) (h : List Byte), (why ≠ .ecrc ∨ s.chip.f HPT_PSTAT.FLIT q ≠ 1)) ∧
    (∃ (s : State) (q : PSlot) (req : Bool) (h : List Byte), s.chip.f HPT_PSTAT.FLIT q = 1) ∧
    (∃ (s : State) (f : Fn), s.chip.needsIde f = true) ∧
    (∃ (s : State) (f : Fn), s.chip.needsIde f = true) ∧
    (∃ (s : State) (q : PSlot) (k : Fin 9), s.chip.streamSecure q k = true) ∧
    (∃ (s : State) (q : PSlot) (k : Fin 9) (sub : Fin 6) (ks : Fin 2) (x : IdeStream), s.chip.portUsed q = true ∧ s.chip.ideSession q = true ∧ (tfind (s.chip.port q).streams k).getD IdeStream.blank = x ∧ (sub.val, ks.val) ∈ x.keys ∧ (x.runs.filter fun r => decide (r.1 ≠ sub.val)).length < 5) ∧
    (∃ (s : State) (q : PSlot) (k : Fin 9) (sub : Fin 6) (ks : Fin 2) (x : IdeStream), s.chip.portUsed q = true ∧ s.chip.ideSession q = true ∧ (tfind (s.chip.port q).streams k).getD IdeStream.blank = x ∧ (sub.val, ks.val) ∈ x.keys ∧ ¬ (x.runs.filter fun r => decide (r.1 ≠ sub.val)).length < 5) ∧
    (∃ (s : State) (slot : SlotId) (q : PSlot) (bytes : List Byte) (c : Cmd), s.chip.cmd? slot = some c ∧ c.takesData = true ∧ c.list = none) ∧
    (∃ (s : State) (slot : SlotId) (q : PSlot) (bytes : List Byte) (c : Cmd) (l : Nat × Nat), s.chip.cmd? slot = some c ∧ c.takesData = true ∧ c.list = some l) ∧
    (∃ (s : State) (slot : SlotId) (q : PSlot) (bytes : List Byte) (c : Cmd), s.chip.cmd? slot = some c ∧ c.takesData = true) ∧
    (∃ (s : State) (slot : SlotId) (q : PSlot) (bytes : List Byte) (st : DataStatus), s.chip.cmd? slot = none) ∧
    (∃ (s : State) (slot : SlotId) (c : Cmd), s.chip.cmd? slot = some c ∧ c.takesData = true) ∧
    (∃ (s : State) (slot : SlotId) (c : Cmd), s.chip.cmd? slot = some c ∧ c.takesData = true ∧ (s.chip.fn c.fn).pcie.ctoOff = false) ∧
    (∃ (s : State) (slot : SlotId) (c : Cmd), s.chip.cmd? slot = some c ∧ c.phase = .reserved ∧ (s.chip.fn c.fn).pcie.ctoOff = false) ∧
    (∃ (s : State) (op len : Nat), s.chip.img.phase = .dma op len ∧ (s.chip.fn 0).pcie.ctoOff = false) ∧
    (∃ (s : State) (q : PSlot), s.chip.portUsed q = true ∧ s.chip.f HPT_PSTAT.STATE q = 2) ∧
    (∃ (s : State) (q : PSlot), (s.chip.port q).relinking = true ∧ s.chip.linkUp q = true) ∧
    (∃ (s : State) (f : Fn) (y : Fin 65536) (v : BitVec 16) (i : Nat), s.chip.fnSeen f = true ∧ s.chip.reached f = true ∧ y.val ≤ s.chip.img.tables.qcount f ∧ s.chip.img.tables.qctxOf f y = some i ∧ (s.chip.qc i).sqState = 1 ∧ (s.chip.qc i).sqValid = true ∧ v.toNat ≤ (s.chip.qc i).sqSize) ∧
    (∃ (s : State) (f : Fn) (y : Fin 65536) (v : BitVec 16), s.chip.fnSeen f = false) ∧
    (∃ (s : State) (f : Fn) (y : Fin 65536) (v : BitVec 16) (i : Nat), s.chip.fnSeen f = true ∧ s.chip.reached f = true ∧ y.val ≤ s.chip.img.tables.qcount f ∧ s.chip.img.tables.qctxOf f y = some i ∧ (s.chip.qc i).sqState ≠ 3 ∧ (s.chip.qc i).cqValid = true ∧ v.toNat ≤ (s.chip.qc i).cqSize ∧ ringDist (s.chip.qc i).cqSize (s.chip.qc i).cqHead v.toNat ≤ ringDist (s.chip.qc i).cqSize (s.chip.qc i).cqHead (s.chip.qc i).cqTail) ∧
    (∃ (s : State) (h : Grp), s.chip.fetchStopped = false) ∧
    (∃ (s : State) (slot : SlotId) (entry : List Byte) (c : Cmd), s.chip.cmd? slot = some c ∧ c.phase = .reserved) ∧
    (∃ (s : State) (slot : SlotId) (entry : List Byte), s.chip.cmd? slot = none) := by
  exact ⟨⟨⟨(base.setF HPT_PCFG.VALID 1 0).setF HPT_PSTAT.STATE 1 0, []⟩, 0, 6, 4, true, by decide +kernel⟩,
    ⟨⟨((base.setF HPT_PCFG.VALID 1 0).setF HPT_PSTAT.STATE 2 0).setFn 0 { FnSt.blank with pcie := { FnSt.blank.pcie with aspm := true } }, []⟩, 0, 0, by decide +kernel⟩,
    ⟨⟨((base.setF HPT_PCFG.VALID 1 0).setF HPT_PSTAT.STATE 2 0), []⟩, 0, by decide +kernel⟩,
    ⟨⟨((base.setF HPT_PCFG.VALID 1 0).setF HPT_PSTAT.STATE 2 0), []⟩, 0, by decide +kernel⟩,
    ⟨⟨base.setF HPT_PCFG.VALID 1 0, []⟩, 0, by decide +kernel⟩,
    ⟨⟨((base.setF HPT_PCFG.VALID 1 0).setF HPT_PSTAT.STATE 2 0), []⟩, 0, by decide +kernel⟩,
    ⟨⟨base, []⟩, 1, ⟨1, 1, 0, 0, 0, 20, 0, 5, 1, 0⟩, by decide +kernel⟩,
    ⟨⟨base, []⟩, 0, ⟨0, 0, 0, 0, 0, 20, 26, 5, 1, 0⟩, by decide +kernel⟩,
    ⟨⟨seen, []⟩, 0, 0x3FFFC, by decide +kernel⟩,
    ⟨⟨seen, []⟩, 0, 0x3FFFC, 7, by decide +kernel⟩,
    ⟨⟨seen, []⟩, 0, 0x14, 0x14, by decide +kernel⟩,
    ⟨⟨seen, []⟩, 0, 0x14, 0x14, 1, by decide +kernel⟩,
    ⟨⟨seen, []⟩, 0, 0x2010, 1, 0, 7, by decide +kernel⟩,
    ⟨⟨seen, []⟩, 0, 0x3000, 0, by decide +kernel⟩,
    ⟨⟨({ seen with img := { seen.img with tables := { tb with funcs := [⟨0, 0, 0, 0, 0, 20, 26, 5, 1, 1⟩] } } } : Chip), []⟩, 0, 0, 7, by decide +kernel⟩,
    ⟨⟨on, []⟩, 31, .malformed, true, [1], by decide +kernel⟩,
    ⟨⟨on.setF HPT_PSTAT.FLIT 1 31, []⟩, 31, false, [], by decide +kernel⟩,
    ⟨⟨({ base with img := { base.img with tables := { tb with funcs := [⟨0, 0, 0, 0, 0, 20, 26, 5, 1, 1⟩] } } } : Chip), []⟩, 0, by decide +kernel⟩,
    ⟨⟨({ base with img := { base.img with tables := { tb with funcs := [⟨0, 0, 0, 0, 0, 20, 26, 5, 1, 1⟩] } } } : Chip), []⟩, 0, by decide +kernel⟩,
    ⟨⟨base.setF HPT_IDESTAT.SEL_SECURE 128 31, []⟩, 31, 7, by decide +kernel⟩,
    ⟨⟨((base.setF HPT_PCFG.VALID 1 0).setPeer 0 ⟨3, [⟨1, true, 0⟩]⟩).setPort 0 { base.port 0 with streams := [(8, { IdeStream.blank with keys := [(5, 1)] })] }, []⟩, 0, 8, 5, 1, { IdeStream.blank with keys := [(5, 1)] }, by decide +kernel⟩,
    ⟨⟨((base.setF HPT_PCFG.VALID 1 0).setPeer 0 ⟨3, [⟨1, true, 0⟩]⟩).setPort 0 { base.port 0 with streams := [(8, { IdeStream.blank with keys := [(5, 1)], runs := [(0, 0), (1, 0), (2, 0), (3, 0), (4, 0)] })] }, []⟩, 0, 8, 5, 1, { IdeStream.blank with keys := [(5, 1)], runs := [(0, 0), (1, 0), (2, 0), (3, 0), (4, 0)] }, by decide +kernel⟩,
    ⟨⟨base.putCmd 0 { io [(0, 1), (1, 1)] none with phase := .running, dataOpen := true }, []⟩, 0, 0, [1, 2], { io [(0, 1), (1, 1)] none with phase := .running, dataOpen := true }, by decide +kernel⟩,
    ⟨⟨base.putCmd 0 ({ io [(0, 2), (1, 1)] none with phase := .running, want := 4096, dataOpen := true, list := some (0, 8) }), []⟩, 0, 0, [1, 2], { io [(0, 2), (1, 1)] none with phase := .running, want := 4096, dataOpen := true, list := some (0, 8) }, (0, 8), by decide +kernel⟩,
    ⟨⟨base.putCmd 0 { io [(0, 1), (1, 1)] none with phase := .running, dataOpen := true }, []⟩, 0, 0, [], { io [(0, 1), (1, 1)] none with phase := .running, dataOpen := true }, by decide +kernel⟩,
    ⟨⟨on, []⟩, 65535, 31, [], .ok, by decide +kernel⟩,
    ⟨⟨base.putCmd 0 { io [(0, 1), (1, 1)] none with phase := .running, dataOpen := true }, []⟩, 0, { io [(0, 1), (1, 1)] none with phase := .running, dataOpen := true }, by decide +kernel⟩,
    ⟨⟨base.putCmd 0 { io [(0, 1), (1, 1)] none with phase := .running, dataOpen := true }, []⟩, 0, { io [(0, 1), (1, 1)] none with phase := .running, dataOpen := true }, by decide +kernel⟩,
    ⟨⟨base.putCmd 65535 { Cmd.blank with phase := .reserved }, []⟩, 65535, { Cmd.blank with phase := .reserved }, by decide +kernel⟩,
    ⟨⟨{ on with img := { on.img with phase := .dma 2 16 } }, []⟩, 2, 16, by decide +kernel⟩,
    ⟨⟨(base.setF HPT_PCFG.VALID 1 0).setF HPT_PSTAT.STATE 2 0, []⟩, 0, by decide +kernel⟩,
    ⟨⟨((base.setF HPT_PCFG.VALID 1 0).setF HPT_PSTAT.STATE 2 0).setPort 0 { base.port 0 with relinking := true }, []⟩, 0, by decide +kernel⟩,
    ⟨⟨seen.setQc 0 { QCtx.blank with sqValid := true, sqState := 1, sqSize := 7 }, []⟩, 0, 1, 7, 0, by decide +kernel⟩,
    ⟨⟨base, []⟩, 0, 0, 0, by decide +kernel⟩,
    ⟨⟨seen.setQc 3 { QCtx.blank with cqValid := true, cqSize := 7, cqTail := 5 }, []⟩, 0, 4, 5, 3, by decide +kernel⟩,
    ⟨⟨base.setF TWN_STAT.STATE 2, []⟩, 7, by decide +kernel⟩,
    ⟨⟨base.putCmd 65535 { Cmd.blank with phase := .reserved }, []⟩, 65535, entry [], { Cmd.blank with phase := .reserved }, by decide +kernel⟩,
    ⟨⟨base, []⟩, 65535, [], by decide +kernel⟩⟩

/-- States and operands that meet the hypotheses of each clause of OwnerAndSpdmCommandsComplete. -/
theorem test_meets_OwnerAndSpdmCommandsComplete :
    (∃ (s : State) (b : List Byte) (c : OwnerCheck), s.chip.ownerPasses c 1 ∧ s.chip.nv.owner = []) ∧
    (∃ (s : State) (b : List Byte) (c : OwnerCheck), s.chip.ownerPasses c 1 ∧ s.chip.nv.owner ≠ []) ∧
    (∃ (s : State) (b : List Byte) (c : OwnerCheck), s.chip.ownerPasses c 2 ∧ (slice c.bytes 0x30 96).all (fun x => x = 0) = false) ∧
    (∃ (s : State) (b : List Byte) (c : OwnerCheck), s.chip.ownerPasses c 2 ∧ (slice c.bytes 0x30 96).all (fun x => x = 0) = true ∧ s.chip.level ≠ 0) ∧
    (∃ (s : State) (b : List Byte) (c : OwnerCheck), s.chip.ownerPasses c 3 ∧ s.chip.level < (fieldAt c.bytes 0x90 1) ∧ (fieldAt c.bytes 0x90 1) ≤ 2) ∧
    (∃ (s : State) (b : List Byte) (c : OwnerCheck), s.chip.ownerPasses c 4 ∧ (s.chip.nv.imgKeys[(fieldAt c.bytes 0x90 1)]?).map Prod.fst = some 0) ∧
    (∃ (s : State) (b : List Byte) (c : OwnerCheck), s.chip.ownerPasses c 4 ∧ (s.chip.nv.imgKeys[(fieldAt c.bytes 0x90 1)]?).map Prod.fst = some 2) ∧
    (∃ (s : State) (b : List Byte) (c : OwnerCheck), s.chip.ownerPasses c 5 ∧ (s.chip.nv.imgKeys[(fieldAt c.bytes 0x90 1)]?).isSome = true) ∧
    (∃ (s : State) (b : List Byte) (c : OwnerCheck), s.chip.ownerPasses c 6 ∧ s.chip.f KVT_STAT.STATE = 1 ∧ c.alarmed = false) ∧
    (∃ (s : State) (b : List Byte) (c : OwnerCheck), s.chip.ownerPasses c 6 ∧ s.chip.f KVT_STAT.STATE = 1 ∧ c.alarmed = true) ∧
    (∃ (s : State) (b : List Byte) (c : OwnerCheck), s.chip.ownerPasses c 7 ∧ s.chip.level = 1 ∧ 1 ≤ fieldAt c.bytes 0x94 4 ∧ fieldAt c.bytes 0x94 4 ≤ 86400) ∧
    (∃ (s : State) (b : List Byte) (c : OwnerCheck) (op : Nat), s.chip.ownerPasses c op ∧ (op = 0 ∨ 7 < op)) ∧
    (∃ (s : State), s.chip.scopes ≠ 0 ∧ s.chip.level ≠ 0) ∧
    (∃ (s : State), s.chip.scopes ≠ 0 ∧ s.chip.level ≠ 0) ∧
    (∃ (s : State) (p : Fin 35), 1 ≤ (s.chip.peer p).stage) ∧
    (∃ (s : State) (p : Fin 35), 2 ≤ (s.chip.peer p).stage) ∧
    (∃ (s : State) (p : Fin 35), (s.chip.peer p).stage < 3) ∧
    (∃ (s : State) (p : Fin 35), 3 ≤ (s.chip.peer p).stage) ∧
    (∃ (s : State) (p : Fin 35) (offset len : Nat), 3 ≤ (s.chip.peer p).stage) ∧
    (∃ (s : State) (p : Fin 35) (request : List Byte), 3 ≤ (s.chip.peer p).stage) ∧
    (∃ (s : State) (p : Fin 35) (index : Nat) (request v : List Byte), 3 ≤ (s.chip.peer p).stage ∧ index ≠ 0xFF ∧ s.chip.measurement index = some v) ∧
    (∃ (s : State) (p : Fin 35) (request : List Byte), 3 ≤ (s.chip.peer p).stage) ∧
    (∃ (s : State) (p : Fin 35) (id : Nat) (request : List Byte), 3 ≤ (s.chip.peer p).stage ∧ (s.chip.peer p).sessions.length < sessionLimit p ∧ (s.chip.peer p).sessions.any (fun e => decide (e.id = id)) = false) ∧
    (∃ (s : State) (p : Fin 35) (id : Nat) (request : List Byte), 3 ≤ (s.chip.peer p).stage ∧ sessionLimit p ≤ (s.chip.peer p).sessions.length) ∧
    (∃ (s : State) (p : Fin 35) (id : Nat), (s.chip.peer p).sessions.any (fun e => decide (e.id = id) && !e.established) = true) ∧
    (∃ (s : State) (p : Fin 35) (id : Nat), (s.chip.peer p).has id = true) ∧
    (∃ (s : State) (p : Fin 35) (id : Nat), (s.chip.peer p).has id = true) ∧
    (∃ (s : State) (p : Fin 35) (id : Nat), (s.chip.peer p).has id = false) ∧
    (∃ (s : State) (p : Fin 35) (id : Nat), (s.chip.peer p).has id = true) ∧
    (∃ (s : State) (p : Fin 32) (id : Nat) (q : PSlot) (stream : Fin 9) (sub : Fin 6) (keyset : Fin 2), (s.chip.peer p).has id = true ∧ s.chip.portPf q = some p.val) ∧
    (∃ (s : State) (p : Fin 32) (id : Nat) (q : PSlot) (stream : Fin 9) (sub : Fin 6) (keyset : Fin 2), (s.chip.peer p).has id = true ∧ s.chip.portPf q = some p.val) ∧
    (∃ (s : State) (p : Fin 35) (id : Nat) (km : IdeKm), (s.chip.peer p).has id = true ∧ 32 ≤ p.val) := by
  exact ⟨⟨⟨({ on with tr := { (on).tr with check := some ⟨box 1 [] 1, true, false⟩ } } : Chip), []⟩, box 1 [] 1, ⟨box 1 [] 1, true, false⟩, box_passes _ 1 [] false 1 rfl (by decide +kernel) (by decide), by decide +kernel⟩,
    ⟨⟨({ { on with nv := { on.nv with owner := [1] } } with tr := { ({ on with nv := { on.nv with owner := [1] } }).tr with check := some ⟨box 1 [] 1, true, false⟩ } } : Chip), []⟩, box 1 [] 1, ⟨box 1 [] 1, true, false⟩, box_passes _ 1 [] false 1 rfl (by decide +kernel) (by decide), by decide +kernel⟩,
    ⟨⟨({ { on with nv := { on.nv with owner := [1] } } with tr := { ({ on with nv := { on.nv with owner := [1] } }).tr with check := some ⟨box 2 [] 1, true, false⟩ } } : Chip), []⟩, box 2 [] 1, ⟨box 2 [] 1, true, false⟩, box_passes _ 2 [] false 1 rfl (by decide +kernel) (by decide), by decide +kernel⟩,
    ⟨⟨({ { on with nv := { on.nv with owner := [1], level := levelWord 1 } } with tr := { ({ on with nv := { on.nv with owner := [1], level := levelWord 1 } }).tr with check := some ⟨box 2 [] 0, true, false⟩ } } : Chip), []⟩, box 2 [] 0, ⟨box 2 [] 0, true, false⟩, box_passes _ 2 [] false 0 rfl (by decide +kernel) (by decide), by decide +kernel, by decide +kernel⟩,
    ⟨⟨({ { on with nv := { on.nv with owner := [1] } } with tr := { ({ on with nv := { on.nv with owner := [1] } }).tr with check := some ⟨box 3 [2] 1, true, false⟩ } } : Chip), []⟩, box 3 [2] 1, ⟨box 3 [2] 1, true, false⟩, box_passes _ 3 [2] false 1 rfl (by decide +kernel) (by decide), by decide +kernel, by decide +kernel⟩,
    ⟨⟨({ { on with nv := { on.nv with owner := [1] } } with tr := { ({ on with nv := { on.nv with owner := [1] } }).tr with check := some ⟨box 4 [3] 1, true, false⟩ } } : Chip), []⟩, box 4 [3] 1, ⟨box 4 [3] 1, true, false⟩, box_passes _ 4 [3] false 1 rfl (by decide +kernel) (by decide), by decide +kernel⟩,
    ⟨⟨({ { on with nv := { on.nv with owner := [1], imgKeys := List.replicate 4 (2, []) } } with tr := { ({ on with nv := { on.nv with owner := [1], imgKeys := List.replicate 4 (2, []) } }).tr with check := some ⟨box 4 [3] 1, true, false⟩ } } : Chip), []⟩, box 4 [3] 1, ⟨box 4 [3] 1, true, false⟩, box_passes _ 4 [3] false 1 rfl (by decide +kernel) (by decide), by decide +kernel⟩,
    ⟨⟨({ { on with nv := { on.nv with owner := [1] } } with tr := { ({ on with nv := { on.nv with owner := [1] } }).tr with check := some ⟨box 5 [3] 1, true, false⟩ } } : Chip), []⟩, box 5 [3] 1, ⟨box 5 [3] 1, true, false⟩, box_passes _ 5 [3] false 1 rfl (by decide +kernel) (by decide), by decide +kernel⟩,
    ⟨⟨({ ({ on with nv := { on.nv with owner := [1] } } : Chip).setF KVT_STAT.STATE 1 with tr := { (({ on with nv := { on.nv with owner := [1] } } : Chip).setF KVT_STAT.STATE 1).tr with check := some ⟨box 6 [] 1, true, false⟩ } } : Chip), []⟩, box 6 [] 1, ⟨box 6 [] 1, true, false⟩, box_passes _ 6 [] false 1 rfl (by decide +kernel) (by decide), by decide +kernel, by decide +kernel⟩,
    ⟨⟨({ ({ on with nv := { on.nv with owner := [1] } } : Chip).setF KVT_STAT.STATE 1 with tr := { (({ on with nv := { on.nv with owner := [1] } } : Chip).setF KVT_STAT.STATE 1).tr with check := some ⟨box 6 [] 1, true, true⟩ } } : Chip), []⟩, box 6 [] 1, ⟨box 6 [] 1, true, true⟩, box_passes _ 6 [] true 1 rfl (by decide +kernel) (by decide), by decide +kernel, by decide +kernel⟩,
    ⟨⟨({ { on with nv := { on.nv with owner := [1], level := levelWord 1 } } with tr := { ({ on with nv := { on.nv with owner := [1], level := levelWord 1 } }).tr with check := some ⟨box 7 [3, 0, 0, 0, 1, 0, 0, 0] 1, true, false⟩ } } : Chip), []⟩, box 7 [3, 0, 0, 0, 1, 0, 0, 0] 1, ⟨box 7 [3, 0, 0, 0, 1, 0, 0, 0] 1, true, false⟩, box_passes _ 7 [3, 0, 0, 0, 1, 0, 0, 0] false 1 rfl (by decide +kernel) (by decide), by decide +kernel, by decide +kernel, by decide +kernel⟩,
    ⟨⟨({ { on with nv := { on.nv with owner := [1] } } with tr := { ({ on with nv := { on.nv with owner := [1] } }).tr with check := some ⟨box 9 [] 1, true, false⟩ } } : Chip), []⟩, box 9 [] 1, ⟨box 9 [] 1, true, false⟩, 9, box_passes _ 9 [] false 1 rfl (by decide +kernel) (by decide), by decide +kernel⟩,
    ⟨⟨{ on with nv := { on.nv with level := levelWord 1 }, tr := { on.tr with debug := 3 } }, []⟩, by decide +kernel⟩,
    ⟨⟨{ on with nv := { on.nv with level := levelWord 1 }, tr := { on.tr with debug := 3 } }, []⟩, by decide +kernel⟩,
    ⟨⟨on.setPeer 34 ⟨1, []⟩, []⟩, 34, by decide +kernel⟩,
    ⟨⟨on.setPeer 34 ⟨2, []⟩, []⟩, 34, by decide +kernel⟩,
    ⟨⟨on.setPeer 34 ⟨2, []⟩, []⟩, 34, by decide +kernel⟩,
    ⟨⟨on.setPeer 34 ⟨3, []⟩, []⟩, 34, by decide +kernel⟩,
    ⟨⟨on.setPeer 34 ⟨3, []⟩, []⟩, 34, 0, 100, by decide +kernel⟩,
    ⟨⟨on.setPeer 34 ⟨3, []⟩, []⟩, 34, [], by decide +kernel⟩,
    ⟨⟨on.setPeer 34 ⟨3, []⟩, []⟩, 34, 1, [], Config.romDigest, by decide +kernel, by decide +kernel, rfl⟩,
    ⟨⟨on.setPeer 34 ⟨3, []⟩, []⟩, 34, [], by decide +kernel⟩,
    ⟨⟨on.setPeer 33 ⟨3, []⟩, []⟩, 33, 7, [], by decide +kernel⟩,
    ⟨⟨on.setPeer 33 ⟨3, [⟨1, true, 0⟩]⟩, []⟩, 33, 7, [], by decide +kernel⟩,
    ⟨⟨on.setPeer 33 ⟨3, [⟨7, false, 0⟩]⟩, []⟩, 33, 7, by decide +kernel⟩,
    ⟨⟨on.setPeer 33 ⟨3, [⟨7, true, 0⟩]⟩, []⟩, 33, 7, by decide +kernel⟩,
    ⟨⟨on.setPeer 33 ⟨3, [⟨7, true, 0⟩]⟩, []⟩, 33, 7, by decide +kernel⟩,
    ⟨⟨on.setPeer 34 ⟨3, []⟩, []⟩, 34, 7, by decide +kernel⟩,
    ⟨⟨on.setPeer 33 ⟨3, [⟨7, true, 0⟩]⟩, []⟩, 33, 7, by decide +kernel⟩,
    ⟨⟨({ on with img := { on.img with tables := tb } } : Chip).setPeer 0 ⟨3, [⟨7, true, 0⟩]⟩, []⟩, 0, 7, 0, 8, 5, 1, by decide +kernel⟩,
    ⟨⟨({ on with img := { on.img with tables := tb } } : Chip).setPeer 0 ⟨3, [⟨7, true, 0⟩]⟩, []⟩, 0, 7, 0, 8, 5, 1, by decide +kernel⟩,
    ⟨⟨on.setPeer 33 ⟨3, [⟨7, true, 0⟩]⟩, []⟩, 33, 7, .setGo 0 ⟨0, 0⟩ 0, by decide +kernel⟩⟩

/-- States and operands that meet the hypotheses of each clause of StartResetAndSequencingEventsComplete. -/
theorem test_meets_StartResetAndSequencingEventsComplete :
    (∃ (s : State) (side : Fin 2) (twinPres : Bool) (selfTest : Fin 8) (metaOk : Bool), s.chip.st.step = 0 ∧ s.chip.st.warm = false) ∧
    (∃ (s : State) (selfTest : Fin 8) (metaOk : Bool), 3 ≤ s.chip.st.step ∧ s.chip.plp.flushing = false ∧ s.chip.f PLP_STAT.STATE ≠ 3) ∧
    (∃ (s : State), 3 ≤ s.chip.st.step ∧ s.chip.plp.flushing = false ∧ s.chip.f PLP_STAT.STATE ≠ 3 ∧ s.chip.pulseRuns = false) ∧
    (∃ (s : State), 3 ≤ s.chip.st.step ∧ s.chip.plp.flushing = false ∧ s.chip.f PLP_STAT.STATE ≠ 3) ∧
    (∃ (s : State), 3 ≤ s.chip.st.step ∧ s.chip.plp.flushing = true ∧ s.chip.f PLP_STAT.STATE ≠ 3) ∧
    (∃ (s : State) (f : Fn), s.chip.f GEN_STAT.STRUCT_OK = 1 ∧ s.chip.fnLive f = true ∧ s.chip.linkUp (s.chip.slotOf f) = true) ∧
    (∃ (s : State) (f : Fn) (c : CfgReq), s.chip.f GEN_STAT.STRUCT_OK = 1 ∧ s.chip.fnLive f = false) ∧
    (∃ (s : State) (f : Fn) (c : CfgReq), s.chip.f GEN_STAT.STRUCT_OK = 0 ∧ s.chip.f GEN_STAT.RECOVERY = 0 ∧ s.chip.f TRS_STAT.ROMREC = 0 ∧ s.chip.trained f = true) ∧
    (∃ (s : State) (f : Fn) (n : Fin 4097), s.chip.f GEN_STAT.STRUCT_OK = 1 ∧ s.chip.fnLive f = true ∧ s.chip.linkUp (s.chip.slotOf f) = true ∧ s.chip.portPf (s.chip.slotOf f) = some f.val) ∧
    (∃ (s : State) (f : Fn) (mps mrrs : Fin 8), s.chip.f GEN_STAT.STRUCT_OK = 1 ∧ s.chip.fnLive f = true ∧ s.chip.linkUp (s.chip.slotOf f) = true ∧ mps.val ≤ 2 ∧ mrrs.val ≤ 5) ∧
    (∃ (s : State) (f : Fn) (asq acq : BitVec 64) (asqs acqs : Fin 4096) (wrr : Bool), s.chip.reached f = true ∧ (s.chip.fn f).en = false ∧ (s.chip.fn f).enHeld = false ∧ s.chip.st.step ≠ 14) ∧
    (∃ (s : State) (f : Fn) (asq acq : BitVec 64) (asqs acqs : Fin 4096) (wrr : Bool), s.chip.reached f = true ∧ (s.chip.fn f).en = false ∧ (s.chip.fn f).enHeld = false ∧ s.chip.st.step = 14) ∧
    (∃ (s : State) (f : Fn), (s.chip.fn f).enHeld = true) ∧
    (∃ (s : State) (f : Fn), s.chip.reached f = true ∧ (s.chip.fn f).en = true) ∧
    (∃ (s : State) (f : Fn) (abrupt : Bool), s.chip.reached f = true ∧ (s.chip.fn f).en = true) ∧
    (∃ (s : State) (twinShut : Bool), s.chip.st.step = 14 ∧ s.chip.allShut = true ∧ (s.chip.aloneNow = true ∨ twinShut = true) ∧ s.chip.st.clean = false) ∧
    (∃ (s : State), s.chip.st.step = 14 ∧ (s.chip.kslot 8193).state = 1) ∧
    (∃ (s : State), s.chip.st.step = 14 ∧ (s.chip.kslot 8193).state ≠ 1) ∧
    (∃ (s : State) (i : Isl) (sw : Switch), s.chip.img.switch = some sw ∧ s.chip.islServes i = true) ∧
    (∃ (s : State) (i : Isl) (sw : Switch), s.chip.img.switch = some sw ∧ sw.stamping = true ∧ s.chip.islServes i = true ∧ (i.val < 12 ∨ s.chip.isl.flight = none)) ∧
    (∃ (s : State) (sw : Switch), s.chip.img.switch = some sw) ∧
    (∃ (s : State) (z : ZoneId) (r d b n : Nat), (s.chip.stagedStripes z).flatMap s.chip.openRows = [(z.val, r)] ∧ s.chip.spilling z r = false ∧ (s.chip.row z r).plan = some (d, b, n)) ∧
    (∃ (s : State), s.chip.f PSQ_STAT.SYNC_PULL = 0 ∧ s.chip.f PSQ_STAT.DIR ≠ 3) ∧
    (∃ (s : State) (init : List (Fin 1024)) (code : Fin 1024) (r : RailRec), init.length = 15 ∧ s.chip.psq.seq.rails = [r] ∧ r.rail = 15) ∧
    (∃ (s : State) (r : Rail) (x : RailRec), s.chip.railRec? r = some x ∧ (s.chip.rail r).state = 1 ∧ s.chip.f PSQ_STAT.DIR = 0 ∧ x.pg = true) ∧
    (∃ (s : State) (r : Rail) (x : RailRec), s.chip.railRec? r = some x ∧ (s.chip.rail r).state = 1 ∧ s.chip.f PSQ_STAT.DIR = 0 ∧ x.pg = false ∧ x.vs = false) ∧
    (∃ (s : State) (b : Bool), s.chip.f PWR_STAT.STATE ≤ 1 ∧ s.chip.f PLP_STAT.STATE ≤ 1 ∧ s.chip.f PLP_STAT.LINGER = 0 ∧ s.chip.plp.first = none) ∧
    (∃ (s : State) (t : Nat), s.chip.plp.first = some t) := by
  exact ⟨⟨⟨Chip.reset, []⟩, 0, true, 7, true, by decide +kernel⟩,
    ⟨⟨({ base with st := { base.st with step := 14 } } : Chip), []⟩, 7, true, by decide +kernel⟩,
    ⟨⟨({ base with st := { base.st with step := 14 } } : Chip), []⟩, by decide +kernel⟩,
    ⟨⟨({ base with st := { base.st with step := 14 } } : Chip), []⟩, by decide +kernel⟩,
    ⟨⟨{ base with st := { base.st with step := 14 }, plp := { base.plp with flushing := true } }, []⟩, by decide +kernel⟩,
    ⟨⟨seen.setF GEN_STAT.STRUCT_OK 1, []⟩, 0, by decide +kernel⟩,
    ⟨⟨on.setF GEN_STAT.STRUCT_OK 1, []⟩, 4127, .read, by decide +kernel⟩,
    ⟨⟨seen.setF GEN_STAT.STRUCT_OK 0, []⟩, 4127, .read, by decide +kernel⟩,
    ⟨⟨seen.setF GEN_STAT.STRUCT_OK 1, []⟩, 0, 1, by decide +kernel⟩,
    ⟨⟨seen.setF GEN_STAT.STRUCT_OK 1, []⟩, 0, 2, 5, by decide +kernel⟩,
    ⟨⟨seen, []⟩, 0, 4096, 8192, 31, 31, true, by decide +kernel⟩,
    ⟨⟨{ seen with st := { seen.st with step := 14 } }, []⟩, 0, 4096, 8192, 31, 31, false, by decide +kernel⟩,
    ⟨⟨base.setFn 0 { base.fn 0 with enHeld := true }, []⟩, 0, by decide +kernel⟩,
    ⟨⟨seen.setFn 0 { seen.fn 0 with en := true }, []⟩, 0, by decide +kernel⟩,
    ⟨⟨seen.setFn 0 { seen.fn 0 with en := true }, []⟩, 0, true, by decide +kernel⟩,
    ⟨⟨({ base with st := { base.st with step := 14 } } : Chip), []⟩, true, by decide +kernel⟩,
    ⟨⟨({ base with st := { base.st with step := 14 } } : Chip).setKslot 8193 { KeySlot.blank with state := 1 }, []⟩, by decide +kernel⟩,
    ⟨⟨({ base with st := { base.st with step := 14 } } : Chip), []⟩, by decide +kernel⟩,
    ⟨⟨{ base with img := { base.img with switch := some ⟨Image.blank, 2, 0, true, 0, []⟩ } }, []⟩, 27, ⟨Image.blank, 2, 0, true, 0, []⟩, by decide +kernel⟩,
    ⟨⟨{ base with img := { base.img with switch := some ⟨Image.blank, 2, 0, true, 0, []⟩ } }, []⟩, 27, ⟨Image.blank, 2, 0, true, 0, []⟩, by decide +kernel⟩,
    ⟨⟨{ base with img := { base.img with switch := some ⟨Image.blank, 2, 0, true, 0, []⟩ } }, []⟩, ⟨Image.blank, 2, 0, true, 0, []⟩, by decide +kernel⟩,
    ⟨⟨({ base with zn := { base.zn with rows := [(rowKey 0 0, { RowSt.blank with plan := some (1, 2, 3) })] } } : Chip).setZone 0 { Zone.blank with cwp := 1 }, []⟩, 0, 0, 1, 2, 3, by decide +kernel⟩,
    ⟨⟨(on.setF PSQ_STAT.DIR 0).setF PSQ_STAT.SYNC_PULL 0, []⟩, by decide +kernel⟩,
    ⟨⟨{ on with psq := { on.psq with seq := { on.psq.seq with rails := [⟨15, 1, 3, 10, 900, 100, 10⟩] } } }, []⟩, List.replicate 15 0, 1023, ⟨15, 1, 3, 10, 900, 100, 10⟩, by decide +kernel⟩,
    ⟨⟨({ on with psq := { on.psq with seq := { on.psq.seq with rails := [⟨15, 1, 1, 10, 900, 100, 10⟩] }, rails := [(15, { RailSt.blank with state := 1 })] } } : Chip).setF PSQ_STAT.DIR 0, []⟩, 15, ⟨15, 1, 1, 10, 900, 100, 10⟩, by decide +kernel⟩,
    ⟨⟨({ on with psq := { on.psq with seq := { on.psq.seq with rails := [⟨15, 1, 0, 10, 900, 100, 10⟩] }, rails := [(15, { RailSt.blank with state := 1 })] } } : Chip).setF PSQ_STAT.DIR 0, []⟩, 15, ⟨15, 1, 0, 10, 900, 100, 10⟩, by decide +kernel⟩,
    ⟨⟨on.setF PLP_STAT.STATE 1, []⟩, true, by decide +kernel⟩,
    ⟨⟨{ on with plp := { on.plp with first := some 5 } }, []⟩, 5, by decide +kernel⟩⟩

/-- States and operands that meet the hypotheses of each clause of TwinLinkFramesComplete. -/
theorem test_meets_TwinLinkFramesComplete :
    (∃ (s : State) (b : Barrier), s.chip.isl.flight = some b ∧ b.src = .cw ∧ (s.chip.barMerge b).acks = 0xFFF ∧ (b.twin = false ∨ b.twinAck = true)) ∧
    (∃ (s : State) (b : Barrier), s.chip.isl.flight = some b ∧ b.src = .cw ∧ ((s.chip.barMerge b).acks ≠ 0xFFF ∨ (b.twin = true ∧ b.twinAck = false))) ∧
    (∃ (s : State), s.chip.isl.flight = none) ∧
    (∃ (s : State) (sub : SubLink) (bytes : List Byte) (found : Option TwinEvidence), (s.chip.sub sub).up = true) ∧
    (∃ (s : State) (sub : SubLink) (full : Bool), (s.chip.sub sub).up = false ∧ s.chip.linkEnabled sub = true ∧ s.chip.islServes 27 = true ∧ s.chip.twnIdle = false ∧ (s.chip.sub sub).keyNum = 0) ∧
    (∃ (s : State) (sub : SubLink), (s.chip.sub sub).up = true) ∧
    (∃ (s : State) (r : RxFrame) (body : List Byte), s.chip.inClear r) ∧
    (∃ (s : State) (r : RxFrame) (msg index : Fin 65536) (last : Bool) (msgLen : BitVec 32) (fragLen : Fin 65536) (body : List Byte) (found : Option TwinEvidence), s.chip.inClear r) ∧
    (∃ (s : State) (r : RxFrame) (body : List Byte), s.chip.inOrder r) ∧
    (∃ (s : State) (r : RxFrame) (dtc : BitVec 64) (state devbaro epoch : Fin 256), s.chip.verified r ∧ s.chip.tw.heldHb = false) ∧
    (∃ (s : State) (r : RxFrame) (ackSeq credSeq : BitVec 64) (nak : Bool), s.chip.verified r) ∧
    (∃ (s : State) (r : RxFrame) (row : Fin 1024) (offset : BitVec 32) (body : List Byte) (x : MirRow), s.chip.inOrder r ∧ tfind s.chip.tw.mirror (rowKey ((frameZone r).getD 0) row) = some x) ∧
    (∃ (s : State) (r : RxFrame) (row : Fin 1024) (offset : BitVec 32) (body : List Byte), s.chip.inOrder r ∧ tfind s.chip.tw.mirror (rowKey ((frameZone r).getD 0) row) = none ∧ s.chip.img.tables.poolOf 36 = none) ∧
    (∃ (s : State) (r : RxFrame) (cwp rwp pfp : BitVec 32) (flags : Fin 65536) (body : List Byte) (n : Chip), s.chip.inOrder r ∧ (s.chip.fresh.expectNext r.sub.val).commitIn ((frameZone r).getD 0) cwp.toNat rwp.toNat pfp.toNat flags.val ((s.chip.fresh.expectNext r.sub.val).arriveBy r.slack) body = (n, true)) ∧
    (∃ (s : State) (r : RxFrame) (row : Fin 1024) (pwp from_ : BitVec 32), s.chip.inOrder r) ∧
    (∃ (s : State) (r : RxFrame) (row : Fin 1024) (pwp from_ : BitVec 32), s.chip.inOrder r) ∧
    (∃ (s : State) (r : RxFrame) (body : List Byte), s.chip.inOrder r) ∧
    (∃ (s : State) (r : RxFrame) (row : Fin 1024) (member : Fin 18) (q : Bool) (offset : BitVec 32) (body : List Byte) (x : MirRow), s.chip.inOrder r ∧ tfind s.chip.tw.mirror (rowKey ((frameZone r).getD 0) row) = some x) ∧
    (∃ (s : State) (r : RxFrame) (q : FwdOp), s.chip.inOrder r ∧ q.flags.val < 16 ∧ q.die.val < 3072 ∧ q.block.val < s.chip.flash.userBlocks ∧ q.row.val < 1024 ∧ q.tenant.val < 4096 ∧ s.chip.drives q.die = true ∧ 2 ≤ s.chip.f FCH_DIE.STATE q.die ∧ s.chip.f FCH_DIE.STATE q.die ≤ 5 ∧ (q.page.val < 16 ∧ q.cw.val < 16 ∨ q.page.val = 255 ∧ q.cw.val = 255)) ∧
    (∃ (s : State) (r : RxFrame) (q : FwdOp), s.chip.inOrder r ∧ q.flags.val < 16 ∧ q.die.val < 3072 ∧ q.block.val < s.chip.flash.userBlocks ∧ q.row.val < 1024 ∧ q.tenant.val < 4096 ∧ s.chip.drives q.die = true ∧ 2 ≤ s.chip.f FCH_DIE.STATE q.die ∧ s.chip.f FCH_DIE.STATE q.die ≤ 5) ∧
    (∃ (s : State) (r : RxFrame) (q : FwdOp), s.chip.inOrder r ∧ q.flags.val < 16 ∧ q.die.val < 3072 ∧ q.block.val < s.chip.flash.userBlocks ∧ q.row.val < 1024 ∧ q.tenant.val < 4096 ∧ s.chip.drives q.die = true ∧ 2 ≤ s.chip.f FCH_DIE.STATE q.die ∧ s.chip.f FCH_DIE.STATE q.die ≤ 5) ∧
    (∃ (s : State) (r : RxFrame) (req offset : BitVec 32) (body : List Byte) (sc : Nat × Cmd), s.chip.inOrder r ∧ req.toNat < 65536 ∧ s.chip.q.slots.find? (fun e => decide (e.2.peer = some req.toNat)) = some sc ∧ sc.2.writing = true ∧ sc.2.staged = false) ∧
    (∃ (s : State) (r : RxFrame) (req : BitVec 32) (status : Fin 256) (bits_ : Fin 65536) (busyUs : BitVec 32) (f : Fwd), s.chip.inOrder r ∧ tfind s.chip.tw.fwds req.toNat = some f ∧ f.unit.kind = .program ∧ status = 0) ∧
    (∃ (s : State) (r : RxFrame) (fn : Fn) (queue : BitVec 32) (slot : SlotId) (tenant : Ten) (cls : Grp) (flags level : Fin 256) (entry : List Byte) (c : Chip), s.chip.inOrder r ∧ (s.chip.fresh.expectNext r.sub.val).fwdCmdIn r fn queue.toNat slot tenant cls flags level entry = some c) ∧
    (∃ (s : State) (r : RxFrame) (fn : Fn) (queue : BitVec 32) (slot : SlotId) (tenant : Ten) (cls : Grp) (flags level : Fin 256) (entry : List Byte), s.chip.inOrder r ∧ s.chip.deviceSlot = none) ∧
    (∃ (s : State) (r : RxFrame) (slot : SlotId) (status : Fin 65536) (dw0 : BitVec 32) (c : Cmd), s.chip.inOrder r ∧ s.chip.cmd? slot = some c ∧ c.fwd = true ∧ opcodeOf c.entry ≠ 0x02) ∧
    (∃ (s : State) (r : RxFrame) (marker : Fin 65536) (snap : Bool), s.chip.inOrder r) ∧
    (∃ (s : State) (r : RxFrame) (marker : Fin 65536) (snap : Bool) (b : Barrier), s.chip.inOrder r ∧ s.chip.isl.flight = some b ∧ b.twin = true ∧ b.marker = marker) ∧
    (∃ (s : State) (r : RxFrame) (reason : Fin 256), s.chip.verified r ∧ (s.chip.f TWN_LINES.FENCE_OUT = 0 ∨ s.chip.side = 1)) ∧
    (∃ (s : State) (r : RxFrame), s.chip.verified r) ∧
    (∃ (s : State) (r : RxFrame) (blocks : Bool), s.chip.inOrder r) ∧
    (∃ (s : State) (r : RxFrame) (row : Fin 1024), s.chip.inOrder r ∧ s.chip.ownsZone ((frameZone r).getD 0) = true ∧ 4194304 * row.val < s.chip.filledBytes ((frameZone r).getD 0) ∧ (s.chip.zone ((frameZone r).getD 0)).rows ≤ row.val ∧ (s.chip.row ((frameZone r).getD 0) row).spill = none) ∧
    (∃ (s : State) (r : RxFrame), s.chip.inOrder r) ∧
    (∃ (s : State) (r : RxFrame) (body : List Byte), s.chip.inOrder r ∧ fieldAt body 4 4 = 0) ∧
    (∃ (s : State) (r : RxFrame) (body : List Byte), s.chip.inOrder r ∧ fieldAt body 4 4 ≠ 0) ∧
    (∃ (s : State) (r : RxFrame), s.chip.inOrder r) := by
  exact ⟨⟨⟨{ on with isl := { on.isl with flight := some ⟨.cw, false, true, 1, 0, 0, 0, true⟩ } }, []⟩, ⟨.cw, false, true, 1, 0, 0, 0, true⟩, by decide +kernel⟩,
    ⟨⟨{ on with isl := { on.isl with flight := some ⟨.cw, false, true, 1, 0, 0, 0, false⟩ } }, []⟩, ⟨.cw, false, true, 1, 0, 0, 0, false⟩, by decide +kernel⟩,
    ⟨⟨on, []⟩, by decide +kernel⟩,
    ⟨⟨on.setSub 1 { SubSt.blank with up := true }, []⟩, 1, [], none, by decide +kernel⟩,
    ⟨⟨({ on with img := { on.img with tables := { Image.blank with twin := { Image.blank.twin with sublinks := 3 } } } } : Chip).setF TWN_STAT.STATE 1, []⟩, 1, true, by decide +kernel⟩,
    ⟨⟨on.setSub 0 { SubSt.blank with up := true, keyNum := 1 }, []⟩, 0, by decide +kernel⟩,
    ⟨⟨on.setSub 1 { SubSt.blank with up := true }, []⟩, clear0, [], by decide +kernel⟩,
    ⟨⟨on.setSub 1 { SubSt.blank with up := true }, []⟩, clear0, 0, 0, true, 4, 4, [1, 2, 3, 4, 0, 0, 0, 0], none, by decide +kernel⟩,
    ⟨⟨twin, []⟩, frame, [], by decide +kernel⟩,
    ⟨⟨twin, []⟩, frame, 5, 2, 0, 1, by decide +kernel⟩,
    ⟨⟨twin, []⟩, frame, 3, 4, false, by decide +kernel⟩,
    ⟨⟨{ twin with tw := { twin.tw with mirror := [(rowKey 0 1023, ⟨[], 0, []⟩)] } }, []⟩, frame, 1023, 0, List.replicate 8 1, ⟨[], 0, []⟩, by decide +kernel⟩,
    ⟨⟨({ twin with img := { twin.img with tables := { twin.img.tables with pools := [] } } } : Chip), []⟩, frame, 0, 0, [], by decide +kernel⟩,
    ⟨⟨{ twin with tw := { twin.tw with mirror := [(rowKey 0 0, ⟨[], 0, []⟩)] } }, []⟩, frame, 1, 1, 0, 0, [], _, by decide +kernel, pair_of _ _ (by decide +kernel)⟩,
    ⟨⟨twin, []⟩, frame, 1023, 4, 0, by decide +kernel⟩,
    ⟨⟨twin, []⟩, frame, 0, 4, 0, by decide +kernel⟩,
    ⟨⟨twin, []⟩, frame, [], by decide +kernel⟩,
    ⟨⟨{ twin with tw := { twin.tw with mirror := [(rowKey 0 1023, ⟨[], 0, []⟩)] } }, []⟩, frame, 1023, 17, true, 0, List.replicate 8 1, ⟨[], 0, []⟩, by decide +kernel⟩,
    ⟨⟨twin.setF FCH_DIE.STATE 5 3071, []⟩, frame, ⟨15, 3071, 0, 1023, 15, 15, 4095, 65536⟩, by decide +kernel⟩,
    ⟨⟨twin.setF FCH_DIE.STATE 5 3071, []⟩, frame, ⟨15, 3071, 0, 1023, 15, 15, 4095, 65536⟩, by decide +kernel⟩,
    ⟨⟨twin.setF FCH_DIE.STATE 5 3071, []⟩, frame, ⟨15, 3071, 0, 1023, 15, 15, 4095, 65536⟩, by decide +kernel⟩,
    ⟨⟨twin.putCmd 63488 ({ io [(0, 1), (1, 1)] none with phase := .running, peer := some 65535 }), []⟩, frame, 65535, 0, List.replicate 8 1, (63488, { io [(0, 1), (1, 1)] none with phase := .running, peer := some 65535 }), by decide +kernel⟩,
    ⟨⟨{ twin with tw := { twin.tw with fwds := [(65536, ⟨unit0 .program, 0⟩)] } }, []⟩, frame, 65536, 0, 0, 7, ⟨unit0 .program, 0⟩, by decide +kernel⟩,
    ⟨⟨twin, []⟩, frame, 0, 1, 65535, 0, 4, 1, 0, entry [(0, 2), (1, 1)], _, by decide +kernel, some_of _ (by decide +kernel)⟩,
    ⟨⟨full, []⟩, frame, 0, 1, 65535, 0, 4, 1, 0, entry [], by decide +kernel, full_none⟩,
    ⟨⟨twin.putCmd 65535 ({ io [(0, 1), (1, 1)] none with phase := .running, fwd := true }), []⟩, frame, 65535, 0, 0, { io [(0, 1), (1, 1)] none with phase := .running, fwd := true }, by decide +kernel⟩,
    ⟨⟨twin, []⟩, frame, 65535, true, by decide +kernel⟩,
    ⟨⟨{ twin with isl := { twin.isl with flight := some ⟨.cw, false, true, 7, 0, 0, 0, false⟩ } }, []⟩, frame, 7, true, ⟨.cw, false, true, 7, 0, 0, 0, false⟩, by decide +kernel⟩,
    ⟨⟨twin, []⟩, frame, 1, by decide +kernel⟩,
    ⟨⟨twin, []⟩, frame, by decide +kernel⟩,
    ⟨⟨twin, []⟩, frame, true, by decide +kernel⟩,
    ⟨⟨twin.setZone 0 { Zone.blank with cwp := 1 }, []⟩, frame, 0, by decide +kernel⟩,
    ⟨⟨twin, []⟩, frame, by decide +kernel⟩,
    ⟨⟨twin, []⟩, frame, [], by decide +kernel⟩,
    ⟨⟨twin, []⟩, frame, [0, 0, 0, 0, 1, 0, 0, 0], by decide +kernel⟩,
    ⟨⟨twin, []⟩, frame, by decide +kernel⟩⟩

/-- States and operands that meet the hypotheses of each clause of TwinTimersAndClaimsComplete. -/
theorem test_meets_TwinTimersAndClaimsComplete :
    (∃ (s : State) (sub : SubLink), (s.chip.sub sub).up = true) ∧
    (∃ (s : State) (sub : SubLink), (s.chip.sub sub).up = true ∧ (s.chip.sub sub).keyNum ≠ 0 ∧ (s.chip.sub sub).replay ≠ [] ∧ (s.chip.sub sub).replay.any (fun f => decide (8 ≤ f.sends)) = false) ∧
    (∃ (s : State) (sub : SubLink), (s.chip.sub sub).up = true ∧ (s.chip.sub sub).keyNum ≠ 0 ∧ (s.chip.sub sub).replay.any (fun f => decide (8 ≤ f.sends)) = true) ∧
    (∃ (s : State) (sub : SubLink), (s.chip.sub sub).up = true) ∧
    (∃ (s : State), s.chip.tw.handshake = true ∧ s.chip.f TWN_STAT.STATE = 1) ∧
    (∃ (s : State), s.chip.beats = true) ∧
    (∃ (s : State), s.chip.beats = true) ∧
    (∃ (s : State), s.chip.f TWN_STAT.STATE = 2 ∧ s.chip.tw.hbSeen = true ∧ s.chip.tw.hbAge < 7) ∧
    (∃ (s : State), s.chip.f TWN_STAT.STATE = 2 ∧ s.chip.tw.hbSeen = false ∧ s.chip.tw.hbAge < 7 ∧ s.chip.f TWN_HBCNT.RUN < 3) ∧
    (∃ (s : State), s.chip.tw.deferring = true ∧ s.chip.f TWN_STAT.STATE = 3) ∧
    (∃ (s : State), s.chip.tw.fencing = true) ∧
    (∃ (s : State), s.chip.f TWN_LINES.FENCE_OUT = 0 ∧ 8 ≤ s.chip.st.step ∧ s.chip.f TWN_STAT.STATE = 2) ∧
    (∃ (s : State), s.chip.f TWN_LINES.FENCE_OUT = 0 ∧ s.chip.f TWN_STAT.STATE = 10 ∧ s.chip.tw.rejoin = 0) ∧
    (∃ (s : State), s.chip.tw.takeover = true) ∧
    (∃ (s : State) (k : Clus), (s.chip.fresh.reconAround fun x => x.setBit TWN_LINES.SEEN k true).fbit TWN_LINES.CLAIM k = false) ∧
    (∃ (s : State) (k : Clus) (n : Chip), (s.chip.fresh.reconAround fun x => x.setBit TWN_LINES.SEEN k true) = n ∧ n.fbit TWN_LINES.CLAIM k = true ∧ bitOf n.tw.waitClaims k = true ∧ bitOf n.tw.again k = true) ∧
    (∃ (s : State) (k : Clus), s.chip.claims k = false) ∧
    (∃ (s : State) (k : Clus), s.chip.claims k = true) ∧
    (∃ (s : State) (k : Clus), bitOf s.chip.tw.waitClaims k = true ∧ s.chip.claims k = false ∧ bitOf s.chip.tw.again k = true) ∧
    (∃ (s : State), s.chip.f TWN_STAT.STATE = 5 ∧ s.chip.side = 0) ∧
    (∃ (s : State), s.chip.f TWN_STAT.STATE = 5 ∧ s.chip.side = 0 ∧ s.chip.tw.waitClaims ≠ 0) := by
  exact ⟨⟨⟨on.setSub 0 { SubSt.blank with up := true, keyNum := 1 }, []⟩, 0, by decide +kernel⟩,
    ⟨⟨on.setSub 0 { SubSt.blank with up := true, keyNum := 1, replay := [⟨0, 3, none, none, 0, [], [], 0, 7, 0, none⟩] }, []⟩, 0, by decide +kernel⟩,
    ⟨⟨on.setSub 0 { SubSt.blank with up := true, keyNum := 1, replay := [⟨0, 3, none, none, 0, [], [], 0, 8, 0, none⟩] }, []⟩, 0, by decide +kernel⟩,
    ⟨⟨on.setSub 0 { SubSt.blank with up := true, keyNum := 1 }, []⟩, 0, by decide +kernel⟩,
    ⟨⟨({ on with tw := { on.tw with handshake := true } } : Chip).setF TWN_STAT.STATE 1, []⟩, by decide +kernel⟩,
    ⟨⟨(on.setF TWN_STAT.STATE 10).setF PLP_STAT.STATE 0, []⟩, by decide +kernel⟩,
    ⟨⟨(on.setF TWN_STAT.STATE 10).setF PLP_STAT.STATE 0, []⟩, by decide +kernel⟩,
    ⟨⟨({ on with tw := { on.tw with hbSeen := true, hbAge := 6 } } : Chip).setF TWN_STAT.STATE 2, []⟩, by decide +kernel⟩,
    ⟨⟨({ on with tw := { on.tw with hbAge := 6 } } : Chip).setF TWN_STAT.STATE 2 |>.setF TWN_HBCNT.RUN 2, []⟩, by decide +kernel⟩,
    ⟨⟨({ on with tw := { on.tw with deferring := true } } : Chip).setF TWN_STAT.STATE 3, []⟩, by decide +kernel⟩,
    ⟨⟨{ on with tw := { on.tw with fencing := true } }, []⟩, by decide +kernel⟩,
    ⟨⟨({ on with st := { on.st with step := 8 } } : Chip).setF TWN_STAT.STATE 2, []⟩, by decide +kernel⟩,
    ⟨⟨on.setF TWN_STAT.STATE 10, []⟩, by decide +kernel⟩,
    ⟨⟨{ on with tw := { on.tw with takeover := true } }, []⟩, by decide +kernel⟩,
    ⟨⟨on, []⟩, 11, by decide +kernel⟩,
    ⟨⟨({ on with tw := { on.tw with waitClaims := 2048, again := 2048 } } : Chip).setF TWN_LINES.CLAIM 4095, []⟩, 11, _, rfl, by decide +kernel, by decide +kernel, by decide +kernel⟩,
    ⟨⟨on, []⟩, 11, by decide +kernel⟩,
    ⟨⟨twin, []⟩, 11, by decide +kernel⟩,
    ⟨⟨{ on with tw := { on.tw with waitClaims := 2048, again := 2048 } }, []⟩, 11, by decide +kernel⟩,
    ⟨⟨on.setF TWN_STAT.STATE 5, []⟩, by decide +kernel⟩,
    ⟨⟨({ on with tw := { on.tw with waitClaims := 1 } } : Chip).setF TWN_STAT.STATE 5, []⟩, by decide +kernel⟩⟩

/-- States and operands that meet the hypotheses of each clause of VaultAndArrayEventsComplete. -/
theorem test_meets_VaultAndArrayEventsComplete :
    (∃ (s : State) (lane : Grp) (l w : GcmMsg), earlier w.deadline ((s.chip.lane lane).running.getD l).deadline = true ∧ s.chip.slackBytes w.deadline < (((s.chip.lane lane).running.getD l).len - ((s.chip.lane lane).running.getD l).done) + w.len ∧ (s.chip.lane lane).susp.length < 2) ∧
    (∃ (s : State) (lane : Grp) (w : GcmMsg), (s.chip.lane lane).running = some w ∧ (s.chip.lane lane).susp = [] ∧ s.chip.kv.waiting = [] ∧ gcmAccepts w.use w.slot = true ∧ (s.chip.kslot w.slot).state ≠ 0) ∧
    (∃ (s : State) (lane : Grp) (w l : GcmMsg) (rest : List GcmMsg), (s.chip.lane lane).running = some w ∧ (s.chip.lane lane).susp = l :: rest ∧ gcmAccepts w.use w.slot = true ∧ (s.chip.kslot w.slot).state ≠ 0) ∧
    (∃ (s : State) (i : KeySlotNo), (s.chip.kslot i).state ≠ 0) ∧
    (∃ (s : State) (i : KeySlotNo), s.chip.kv.busErr = none) ∧
    (∃ (s : State) (i : KeySlotNo), (s.chip.kslot i).state = 2 ∧ s.chip.nsBusy (s.chip.kslot i).nsid = false ∧ s.chip.ns? (s.chip.kslot i).nsid = none) ∧
    (∃ (s : State) (i : KeySlotNo) (r : KeyRec), (s.chip.nv.keys.find? (fun k => decide (k.slot = i.val ∧ k.kind ≠ 2) && !k.dead) = some r) ∧ s.chip.dwkLoaded = true ∧ i.val ∈ s.chip.kv.toLoad ∧ (r.kind = 0 ∨ r.kind = 3) ∧ s.chip.keyReads r = true ∧ r.dwk = s.chip.nv.dwkGen) ∧
    (∃ (s : State) (i : Isl), s.chip.islState i = 2) ∧
    (∃ (s : State), s.chip.f NVA_STAT.SEQ ≠ 0 ∧ s.chip.f NVA_STAT.BUSY ≠ 1) ∧
    (∃ (s : State) (o : NvaOp), s.chip.nv.op = some o ∧ o.op = 1 ∧ o.started = false ∧ (tfind s.chip.nv.units (s.chip.nv.unit o.addr)).isSome = false) ∧
    (∃ (s : State) (o : NvaOp), s.chip.nv.op = some o ∧ o.op = 2 ∧ o.started = false ∧ s.chip.nv.worn (s.chip.nv.phys (o.addr / 65536)) = false) ∧
    (∃ (s : State) (o : NvaOp), s.chip.nv.op = some o ∧ o.op = 3 ∧ o.started = false) ∧
    (∃ (s : State), s.chip.f NVA_STAT.BROWNOUT ≠ 1) ∧
    (∃ (s : State), s.chip.nv.op = none ∧ s.chip.evr.held = [] ∧ s.chip.nv.eraseAll = false ∧ s.chip.nv.queue = []) ∧
    (∃ (s : State) (o : NvaOp), s.chip.nv.op = some o ∧ o.started = true ∧ s.chip.evr.held = [] ∧ s.chip.nv.eraseAll = false ∧ s.chip.nv.queue = []) ∧
    (∃ (s : State) (o : NvaOp), s.chip.nv.op = some o ∧ o.pulse = true ∧ o.op = 1) ∧
    (∃ (s : State) (o : NvaOp), s.chip.nv.op = some o ∧ o.pulse = true ∧ o.op ≠ 1) := by
  exact ⟨⟨⟨on.setLane 7 { running := some ⟨0, 8193, 4096, 1000, 0⟩, susp := [⟨0, 8193, 512, 0, 0⟩] }, []⟩, 7, ⟨0, 8193, 4096, 1000, 0⟩, ⟨0, 8193, 512, 5, 0⟩, by decide +kernel⟩,
    ⟨⟨(on.setKslot 8193 { KeySlot.blank with state := 1 }).setLane 7 { running := some ⟨0, 8193, 512, 0, 0⟩, susp := [] }, []⟩, 7, ⟨0, 8193, 512, 0, 0⟩, by decide +kernel⟩,
    ⟨⟨(on.setKslot 8193 { KeySlot.blank with state := 1 }).setLane 7 { running := some ⟨0, 8193, 512, 0, 0⟩, susp := [⟨0, 8193, 512, 9, 0⟩] }, []⟩, 7, ⟨0, 8193, 512, 0, 0⟩, ⟨0, 8193, 512, 9, 0⟩, [], by decide +kernel⟩,
    ⟨⟨on.setKslot 8447 { KeySlot.blank with state := 1 }, []⟩, 8447, by decide +kernel⟩,
    ⟨⟨on, []⟩, 0, by decide +kernel⟩,
    ⟨⟨on.setKslot 0 { KeySlot.blank with state := 2, nsid := 5 }, []⟩, 0, by decide +kernel⟩,
    ⟨⟨({ on with nv := { on.nv with keys := [⟨5, 0, 0, 0, 1, 9, 0, false, List.replicate 128 0, 1⟩], units := [(192 * 2048, sectorHeader 0 0), (192 * 2048 + 1, List.replicate 32 0), (192 * 2048 + 2, List.replicate 32 0), (192 * 2048 + 3, List.replicate 32 0), (192 * 2048 + 4, List.replicate 32 0)] }, kv := { on.kv with toLoad := [5] } } : Chip).setKslot 8192 { KeySlot.blank with state := 1 }, []⟩, 5, ⟨5, 0, 0, 0, 1, 9, 0, false, List.replicate 128 0, 1⟩, by decide +kernel⟩,
    ⟨⟨on, []⟩, 27, by decide +kernel⟩,
    ⟨⟨on.setF NVA_STAT.SEQ 5, []⟩, by decide +kernel⟩,
    ⟨⟨{ on with nv := { on.nv with op := some ⟨1, 0, [], false, false, 0⟩ } }, []⟩, ⟨1, 0, [], false, false, 0⟩, by decide +kernel⟩,
    ⟨⟨{ on with nv := { on.nv with op := some ⟨2, 0, [], false, false, 0⟩ } }, []⟩, ⟨2, 0, [], false, false, 0⟩, by decide +kernel⟩,
    ⟨⟨{ on with nv := { on.nv with op := some ⟨3, 0, [], false, false, 0⟩ } }, []⟩, ⟨3, 0, [], false, false, 0⟩, by decide +kernel⟩,
    ⟨⟨on, []⟩, by decide +kernel⟩,
    ⟨⟨on, []⟩, by decide +kernel⟩,
    ⟨⟨{ on with nv := { on.nv with op := some ⟨1, 0, [], true, false, 0⟩ } }, []⟩, ⟨1, 0, [], true, false, 0⟩, by decide +kernel⟩,
    ⟨⟨{ on with nv := { on.nv with op := some ⟨1, 0, [], false, true, 0⟩ } }, []⟩, ⟨1, 0, [], false, true, 0⟩, by decide +kernel⟩,
    ⟨⟨{ on with nv := { on.nv with op := some ⟨2, 0, [], false, true, 0⟩ } }, []⟩, ⟨2, 0, [], false, true, 0⟩, by decide +kernel⟩⟩

/-- States and operands that meet the hypotheses of each clause of PoolMemoryAndSensorEventsComplete. -/
theorem test_meets_PoolMemoryAndSensorEventsComplete :
    (∃ (s : State) (rq : Fin 64) (sizes : List Nat) (work dl : Nat) (cls : Fin 8) (popped : Option (BitVec 64)) (r : PoolRec), s.chip.img.tables.poolOf rq = some r ∧ sizes ≠ [] ∧ sizes.length ≤ 8 ∧ (s.chip.workRank work).any (r.rank ≤ ·) = false ∧ sizes.all (fun n => ((s.chip.pool r.pool).charge r.classmask n).isSome) = true) ∧
    (∃ (s : State) (rq : Fin 64) (sizes : List Nat) (work dl : Nat) (cls : Fin 8) (popped : Option (BitVec 64)) (r : PoolRec), s.chip.img.tables.poolOf rq = some r ∧ sizes ≠ [] ∧ sizes.length ≤ 8 ∧ (s.chip.workRank work).any (r.rank ≤ ·) = true) ∧
    (∃ (s : State) (p : Fin 64) (w : BitVec 64), linkOk p w.toNat = false ∧ ((s.chip.fresh.grantPool p).pool p).wait ≠ (s.chip.fresh.pool p).wait) ∧
    (∃ (s : State) (id p : Nat) (q : PoolReq), s.chip.bp.pools.findSome? (fun e => (e.2.wait.find? (·.id = id)).map fun q => (e.1, q)) = some (p, q) ∧ q.rq = 36 ∧ 65536 ≤ q.work) ∧
    (∃ (s : State) (id p : Nat) (q : PoolReq), s.chip.bp.pools.findSome? (fun e => (e.2.wait.find? (·.id = id)).map fun q => (e.1, q)) = some (p, q) ∧ q.rq ≠ 36 ∧ 65536 ≤ q.work) ∧
    (∃ (s : State) (id p : Nat) (q : PoolReq), s.chip.bp.pools.findSome? (fun e => (e.2.wait.find? (·.id = id)).map fun q => (e.1, q)) = some (p, q) ∧ q.work < 65536) ∧
    (∃ (s : State) (id : Nat) (q : PoolReq), s.chip.bp.retry.find? (·.id = id) = some q) ∧
    (∃ (s : State) (slot : SlotId) (u : DUnit), (s.chip.md.retry.find? fun u => decide (u.slot = some slot.val)) = some u) ∧
    (∃ (s : State) (i : Isl) (tag : Tag), (i.val, tag.toNat) ∈ s.chip.isl.retry) ∧
    (∃ (s : State) (rq : Fin 64) (buf : Nat) (b : Buf), tfind s.chip.bp.bufs buf = some b ∧ rq.val ∈ b.owners ∧ 1 < b.count) ∧
    (∃ (s : State) (rq : Fin 64) (buf : Nat) (b : Buf), tfind s.chip.bp.bufs buf = some b ∧ rq.val ∈ b.owners ∧ b.count = 1) ∧
    (∃ (s : State) (rq : Fin 64) (buf : Nat) (b : Buf), tfind s.chip.bp.bufs buf = some b ∧ b.count ≠ 0xFFFF ∧ (rq.val ∈ b.owners ∨ b.owners.length < 6)) ∧
    (∃ (s : State) (p : Fin 64) (popped : Option (BitVec 64)), s.chip.f BPM_POOLSTAT.REBUILD p = 1) ∧
    (∃ (s : State) (i : Fin 12) (reqs : List Nat), s.chip.islServes (arbIsland i) = true ∧ s.chip.arbRequests i reqs ≠ [] ∧ s.chip.f ARB_STAT.PARKED i = 0 ∧ s.chip.f ARB_STAT.BUSY i = 0) ∧
    (∃ (s : State) (i : Fin 12) (reqs : List Nat) (w : Nat), s.chip.f ARB_STAT.BUSY i = 1 ∧ (s.chip.arb i).winner = some w ∧ w ∈ s.chip.arbRequests i reqs) ∧
    (∃ (s : State) (i : Fin 12) (reqs : List Nat), s.chip.f ARB_STAT.BUSY i = 1 ∧ (s.chip.arb i).winner = none ∧ s.chip.arbRequests i reqs = []) ∧
    (∃ (s : State) (addr len : Nat) (write : Bool) (tenant : Option Ten) (owner : GOwner), s.chip.f DRC_STAT.STATE (dramChan addr) = 2 ∧ s.chip.f DRC_CTL.QUIESCE (dramChan addr) = 0 ∧ tfind s.chip.dr.runs (dramChan addr) = none ∧ (s.chip.subd (2 * dramChan addr + dramSub addr)).held = [] ∧ (s.chip.subd (2 * dramChan addr + dramSub addr)).writes.length < 64 ∧ (s.chip.subd (2 * dramChan addr + dramSub addr)).reads.length < 32) ∧
    (∃ (s : State) (addr len : Nat) (write : Bool) (tenant : Option Ten) (owner : GOwner), s.chip.f DRC_STAT.STATE (dramChan addr) = 2 ∧ s.chip.dramGrants (dramChan addr) = false) ∧
    (∃ (s : State) (ch : DramCh) (sub : SubLink) (index : Fin 64) (id : Nat) (c : DramCmd), s.chip.f DRC_STAT.STATE ch = 2 ∧ tfind s.chip.dr.runs ch = none ∧ (s.chip.subd (2 * ch + sub)).retry[index.val]? = some (id, c) ∧ (s.chip.subd (2 * ch + sub)).failing ≠ some id) ∧
    (∃ (s : State) (ch : DramCh) (sub : SubLink) (index : Fin 64) (id : Nat) (c : DramCmd), s.chip.f DRC_STAT.STATE ch = 2 ∧ tfind s.chip.dr.runs ch = none ∧ (s.chip.subd (2 * ch + sub)).retry[index.val]? = some (id, c) ∧ (s.chip.subd (2 * ch + sub)).failing = some id ∧ (s.chip.subd (2 * ch + sub)).fails = 2) ∧
    (∃ (s : State) (ch : DramCh) (sub : SubLink) (index : Fin 64) (id : Nat) (c : DramCmd), s.chip.f DRC_STAT.STATE ch = 2 ∧ tfind s.chip.dr.runs ch = none ∧ (s.chip.subd (2 * ch + sub)).retry[index.val]? = some (id, c) ∧ (s.chip.subd (2 * ch + sub)).failing ≠ some id) ∧
    (∃ (s : State) (ch : DramCh) (sub : SubLink) (errs : List MemErr) (a : DramAcc), s.chip.f DRC_STAT.STATE ch = 2 ∧ (let x := s.chip.setSubd (2 * ch.val + sub.val) (s.chip.dramDrain ch (s.chip.subd (2 * ch.val + sub.val))); x.dramNext ch (x.subd (2 * ch.val + sub.val))) = some a ∧ a.write = true ∧ a.partialBursts = 0) ∧
    (∃ (s : State) (ch : DramCh) (sub : SubLink), s.chip.f DRC_STAT.STATE ch = 2) ∧
    (∃ (s : State) (ch : DramCh) (double : Bool), s.chip.f DRC_STAT.STATE ch = 2) ∧
    (∃ (s : State) (ch : DramCh) (double : Bool), s.chip.f DRC_STAT.STATE ch = 2) ∧
    (∃ (s : State) (ch : DramCh) (drift : Nat), s.chip.f DRC_STAT.STATE ch = 2 ∧ 1 < drift) ∧
    (∃ (s : State) (ch : DramCh) (drift : Nat), s.chip.f DRC_STAT.STATE ch = 2 ∧ drift ≤ 1) ∧
    (∃ (s : State) (ch : DramCh) (present ranks2 gb32 : Bool) (rd wr : Fin 64), s.chip.st.dramLeft = 0 ∧ tfind s.chip.dr.runs ch = some 1 ∧ s.chip.f DRC_TRAINCFG.MIN_EYE ch ≤ rd ∧ s.chip.f DRC_TRAINCFG.MIN_EYE ch ≤ wr) ∧
    (∃ (s : State) (errs : List MemErr), s.chip.f SDP_SCRUB_STAT.BUSY = 1) ∧
    (∃ (s : State) (i : Isl) (e : Ev) (rest : List Ev), tget [] s.chip.evr.queues i = e :: rest) ∧
    (∃ (s : State) (xs : List Int), s.chip.therm.trip ≠ 0) ∧
    (∃ (s : State) (us : Nat), s.chip.f THM_STAT.LEVEL ≠ 0) ∧
    (∃ (s : State) (mean : Int) (i : Nat), s.chip.th.cal = some i ∧ (4 * toSigned 10 (s.chip.f THM_CALREF.REF) - mean).natAbs ≤ 127) ∧
    (∃ (s : State) (i : Isl) (r : IslandRec), s.chip.islandRec i = some r ∧ i.val ≠ 0 ∧ s.chip.islServes i = true ∧ 16 * r.fmin < (s.chip.pointOf i).2) ∧
    (∃ (s : State) (i : Isl) (canary : List (Fin 64)) (ro0 ro1 : BitVec 16) (written : Bool), s.chip.ag.cur = some i.val ∧ (s.chip.ageIsl i).tjN ≠ 0) ∧
    (∃ (s : State) (i : Isl), i.val ∈ s.chip.ag.again) ∧
    (∃ (s : State) (bad : Fin 8), s.chip.f PTB_BIST.GO = 1 ∧ bad.val &&& s.chip.f PTB_BIST.MASK = 0) := by
  exact ⟨⟨⟨({ on with img := { on.img with tables := { Image.blank with pools := [⟨1, 0, 0, 9, 0, 64, [], 255, 1⟩] } } } : Chip).setPool 1 { PoolSt.blank with chain := true }, []⟩, 36, [4096, 1, 1, 1, 1, 1, 1, 1], 70000, 0, 7, none, ⟨1, 0, 0, 9, 0, 64, [], 255, 1⟩, by decide +kernel⟩,
    ⟨⟨{ ({ on with img := { on.img with tables := { Image.blank with pools := [⟨1, 0, 0, 9, 0, 64, [], 255, 1⟩] } } } : Chip).setPool 1 { PoolSt.blank with chain := true } with bp := { (({ on with img := { on.img with tables := { Image.blank with pools := [⟨1, 0, 0, 9, 0, 64, [], 255, 1⟩] } } } : Chip).setPool 1 { PoolSt.blank with chain := true }).bp with bufs := [(5, ⟨1, 0, 256, 1, [63], 63, 70000⟩)] } }, []⟩, 36, [4096], 70000, 0, 7, none, ⟨1, 0, 0, 9, 0, 64, [], 255, 1⟩, by decide +kernel⟩,
    ⟨⟨(({ on with img := { on.img with tables := { Image.blank with pools := [⟨1, 0, 0, 9, 0, 64, [], 255, 1⟩] } } } : Chip).setF BPM_RQCFG.QUOTA 1024 36).setPool 1 { PoolSt.blank with chain := true, cap := 16384, cells := 64, wait := [⟨9, 36, [1], 0, 0, 0, 70000⟩] }, []⟩, 1, 1, by decide +kernel⟩,
    ⟨⟨(({ on with img := { on.img with tables := { Image.blank with pools := [⟨1, 0, 0, 9, 0, 64, [], 255, 1⟩] } } } : Chip).setPool 1 { PoolSt.blank with chain := true }).setPool 1 { PoolSt.blank with chain := true, wait := [⟨9, 36, [1], 0, 0, 0, 65536⟩] }, []⟩, 9, 1, ⟨9, 36, [1], 0, 0, 0, 65536⟩, by decide +kernel⟩,
    ⟨⟨(({ on with img := { on.img with tables := { Image.blank with pools := [⟨1, 0, 0, 9, 0, 64, [], 255, 1⟩] } } } : Chip).setPool 1 { PoolSt.blank with chain := true }).setPool 1 { PoolSt.blank with chain := true, wait := [⟨9, 35, [1], 0, 0, 0, 70000⟩] }, []⟩, 9, 1, ⟨9, 35, [1], 0, 0, 0, 70000⟩, by decide +kernel⟩,
    ⟨⟨(({ on with img := { on.img with tables := { Image.blank with pools := [⟨1, 0, 0, 9, 0, 64, [], 255, 1⟩] } } } : Chip).setPool 1 { PoolSt.blank with chain := true }).setPool 1 { PoolSt.blank with chain := true, wait := [⟨9, 36, [1], 0, 0, 0, 65535⟩] }, []⟩, 9, 1, ⟨9, 36, [1], 0, 0, 0, 65535⟩, by decide +kernel⟩,
    ⟨⟨{ on with bp := { on.bp with retry := [⟨9, 36, [1], 0, 0, 0, 70000⟩] } }, []⟩, 9, ⟨9, 36, [1], 0, 0, 0, 70000⟩, by decide +kernel⟩,
    ⟨⟨{ on with md := { on.md with retry := [{ unit0 .read with slot := some 65535 }] } }, []⟩, 65535, { unit0 .read with slot := some 65535 }, by decide +kernel⟩,
    ⟨⟨{ on with isl := { on.isl with retry := [(27, 0)] } }, []⟩, 27, 0, by decide +kernel⟩,
    ⟨⟨{ on with bp := { on.bp with bufs := [(5, ⟨1, 0, 256, 2, [63], 63, 7⟩)] } }, []⟩, 63, 5, ⟨1, 0, 256, 2, [63], 63, 7⟩, by decide +kernel⟩,
    ⟨⟨{ on with bp := { on.bp with bufs := [(5, ⟨1, 0, 256, 1, [63], 63, 7⟩)] } }, []⟩, 63, 5, ⟨1, 0, 256, 1, [63], 63, 7⟩, by decide +kernel⟩,
    ⟨⟨{ on with bp := { on.bp with bufs := [(5, ⟨1, 0, 256, 1, [63], 63, 7⟩)] } }, []⟩, 63, 5, ⟨1, 0, 256, 1, [63], 63, 7⟩, by decide +kernel⟩,
    ⟨⟨on.setF BPM_POOLSTAT.REBUILD 1 63, []⟩, 63, none, by decide +kernel⟩,
    ⟨⟨on, []⟩, 0, [0, 46, 63], by decide +kernel⟩,
    ⟨⟨(on.setF ARB_STAT.BUSY 1 11).setArb 11 { ArbSt.blank with winner := some 50 }, []⟩, 11, [50], 50, by decide +kernel⟩,
    ⟨⟨on.setF ARB_STAT.BUSY 1 11, []⟩, 11, [], by decide +kernel⟩,
    ⟨⟨(List.range 8).foldl (fun m i => m.setF DRC_STAT.STATE 2 i) on, []⟩, 0, 256, true, none, .free, by decide +kernel⟩,
    ⟨⟨(List.range 8).foldl (fun m i => m.setF DRC_CTL.QUIESCE 1 i) ((List.range 8).foldl (fun m i => m.setF DRC_STAT.STATE 2 i) on), []⟩, 0, 256, true, none, .free, by decide +kernel⟩,
    ⟨⟨(on.setF DRC_STAT.STATE 2 7).setSubd 15 { SubDram.blank with retry := List.replicate 64 (9, .refsb 3) }, []⟩, 7, 1, 63, 9, .refsb 3, by decide +kernel⟩,
    ⟨⟨(on.setF DRC_STAT.STATE 2 7).setSubd 15 { SubDram.blank with retry := List.replicate 64 (9, .refsb 3), failing := some 9, fails := 2 }, []⟩, 7, 1, 63, 9, .refsb 3, by decide +kernel⟩,
    ⟨⟨(on.setF DRC_STAT.STATE 2 7).setSubd 15 { SubDram.blank with retry := List.replicate 64 (9, .refsb 3) }, []⟩, 7, 1, 63, 9, .refsb 3, by decide +kernel⟩,
    ⟨⟨(on.setF DRC_STAT.STATE 2 7).setSubd 15 { SubDram.blank with writes := [⟨1, 0, 256, true, 0, none, .free⟩] }, []⟩, 7, 1, [], ⟨1, 0, 256, true, 0, none, .free⟩, by decide +kernel⟩,
    ⟨⟨on.setF DRC_STAT.STATE 2 7, []⟩, 7, 1, by decide +kernel⟩,
    ⟨⟨on.setF DRC_STAT.STATE 2 7, []⟩, 7, true, by decide +kernel⟩,
    ⟨⟨on.setF DRC_STAT.STATE 2 7, []⟩, 7, true, by decide +kernel⟩,
    ⟨⟨on.setF DRC_STAT.STATE 2 7, []⟩, 7, 2, by decide +kernel⟩,
    ⟨⟨on.setF DRC_STAT.STATE 2 7, []⟩, 7, 1, by decide +kernel⟩,
    ⟨⟨({ on with dr := { on.dr with runs := [(7, 1)] } } : Chip).setF DRC_TRAINCFG.MIN_EYE 5 7, []⟩, 7, true, true, true, 5, 63, by decide +kernel⟩,
    ⟨⟨on.setF SDP_SCRUB_STAT.BUSY 1, []⟩, [], by decide +kernel⟩,
    ⟨⟨{ on with evr := { on.evr with queues := [(27, [⟨1, 2, none, 0, false, false⟩])] } }, []⟩, 27, ⟨1, 2, none, 0, false, false⟩, [], by decide +kernel⟩,
    ⟨⟨{ on with img := { on.img with tables := { Image.blank with therm := { Image.blank.therm with trip := 125 } } } }, []⟩, List.replicate 40 50, by decide +kernel⟩,
    ⟨⟨on.setF THM_STAT.LEVEL 1, []⟩, 7, by decide +kernel⟩,
    ⟨⟨{ on with th := { on.th with cal := some 39 } }, []⟩, (-127), 39, by decide +kernel⟩,
    ⟨⟨({ on with img := { on.img with tables := { Image.blank with islands := [⟨27, 3, 1000, 500, 0⟩] } } } : Chip).setF ISL_CLKCFG.FREQ_MHZ 501 27, []⟩, 27, ⟨27, 3, 1000, 500, 0⟩, by decide +kernel⟩,
    ⟨⟨{ on with ag := { on.ag with cur := some 27, isls := [(27, { AgeIsl.blank with tjN := 1 })] } }, []⟩, 27, List.replicate 8 63, 1, 2, true, by decide +kernel⟩,
    ⟨⟨{ on with ag := { on.ag with again := [27] } }, []⟩, 27, by decide +kernel⟩,
    ⟨⟨(on.setF PTB_BIST.GO 1).setF PTB_BIST.MASK 5, []⟩, 2, by decide +kernel⟩⟩

end Sys2Proof.Tests
end

section
/-! PROOFS, family 00_scope. Terms the proofs of complete next states share: a row whose meaning answers a chip completes with any effect
that gives this chip, and what lets an access through does not depend on the outputs of earlier commands. -/

namespace Sys2Proof.Machine

variable {m : Chip} {rq : Rq} {off : Nat} {c : Instr} {s : State} {e : Chip → Chip}

/-- A row that answers chip `m` completes with the effect that gives `m`. -/
theorem completes_of_chip (h : exec c s = .next { s with chip := m.sendFlits.drivePins }) (he : m = e s.chip.fresh) : Completes c s e := by
  rw [he] at h
  exact h

theorem Chip.open_fresh (h : m.open_ rq off) : m.fresh.open_ rq off := h

theorem Chip.writable_fresh (h : m.writable rq off) : m.fresh.writable rq off := h

end Sys2Proof.Machine
end

section
/-! PROOFS, family 00_scope. Register accesses of the control window (R4 to R16, R36): transfers of bytes as accesses of registers, the register
pairs of R14, offsets without a register, islands that are off, and the I3C window (R535). -/

namespace Sys2Proof.Machine

variable {m : Chip} {rq : Rq} {off : Nat}

/-! ## Transfers (R13) -/

theorem touched_word (h : off % 4 = 0) : touched off 4 = [off] := by
  have one : (off + 4 - 1) / 4 - off / 4 + 1 = 1 := by omega
  have aligned : off / 4 * 4 = off := by omega
  unfold touched
  rw [if_neg (by decide), one]
  simp [aligned]

theorem touched_byte (off : Nat) : touched off 1 = [off / 4 * 4] := by
  simp [touched]

/-- The lane `k` bytes behind a transfer's first gets its byte `k`. -/
theorem laneAt_add (off : Nat) (data : List (Option Byte)) (k : Nat) : laneAt off data (off + k) = (data[k]?).getD none := by
  unfold laneAt
  rw [if_neg (Nat.not_lt.mpr (Nat.le_add_right off k)), Nat.add_sub_cancel_left]

theorem fullWord_word (off : Nat) (a b c d : Byte) : fullWord off [some a, some b, some c, some d] off = some (leNat [a, b, c, d]) := by
  have lane0 : laneAt off [some a, some b, some c, some d] off = some a := laneAt_add off _ 0
  have lane1 : laneAt off [some a, some b, some c, some d] (off + 1) = some b := laneAt_add off _ 1
  have lane2 : laneAt off [some a, some b, some c, some d] (off + 2) = some c := laneAt_add off _ 2
  have lane3 : laneAt off [some a, some b, some c, some d] (off + 3) = some d := laneAt_add off _ 3
  simp only [fullWord, lane0, lane1, lane2, lane3]

theorem laneAt_byte_ne {a : Byte} {k : Nat} (h : k ≠ off) : laneAt off [some a] k = none := by
  unfold laneAt
  split
  · rfl
  · rw [List.getElem?_eq_none (by simp; omega)]
    rfl

/-- One byte covers no register whole: of two neighbouring lanes at least one is missing. -/
theorem fullWord_byte (off : Nat) (a : Byte) (r : Nat) : fullWord off [some a] r = none := by
  by_cases h : r = off
  · have lane : laneAt off [some a] (r + 1) = none := laneAt_byte_ne (by omega)
    simp [fullWord, lane]
  · simp [fullWord, laneAt_byte_ne h]

theorem Chip.cwWrite_word (h : off % 4 = 0) (a b c d : Byte) :
    m.cwWrite rq off [some a, some b, some c, some d] = m.access rq off (some (leNat [a, b, c, d])) := by
  simp [Chip.cwWrite, touched_word h, fullWord_word]

theorem Chip.cwWrite_byte (off : Nat) (a : Byte) : m.cwWrite rq off [some a] = m.cwError (off / 4 * 4) := by
  simp [Chip.cwWrite, touched_byte, fullWord_byte]

theorem Chip.cwRead_word (h : off % 4 = 0) : m.cwRead rq off 4 = m.access rq off none := by
  simp [Chip.cwRead, touched_word h]

theorem Chip.cwError_at (awake : m.f PWR_STAT.STATE ≠ 5) (listed : (fieldsAt off).isEmpty = false) :
    m.cwError off = m.emit 0 0x1002 off := by
  simp [Chip.cwError, awake, listed]

/-! ## Accesses of one register -/

theorem Chip.access_write (h : m.open_ rq off) (listed : (fieldsAt off).isEmpty = false) (w : Nat) :
    m.access rq off (some w) = m.writeReg off w := Chip.access_open h listed _

theorem Chip.access_read (h : m.open_ rq off) (listed : (fieldsAt off).isEmpty = false) (now : m.readWaits off = none) :
    m.access rq off none = (m.readWord rq off).2.giveWord (m.readWord rq off).1 := by
  rw [Chip.access_open h listed]
  simp [Chip.reach, now]

/-- An offset without a register reads 0 (R15). -/
theorem Chip.access_unlisted_read (awake : m.f PWR_STAT.STATE ≠ 5) (free : m.isl.stalled.any (fun a => decide (a.rq = rq)) = false)
    (unlisted : (fieldsAt off).isEmpty = true) : m.access rq off none = m.giveWord 0 := by
  simp [Chip.access, unlisted, awake, free]

/-- An offset without a register ignores writes (R15). -/
theorem Chip.access_unlisted_write (awake : m.f PWR_STAT.STATE ≠ 5) (free : m.isl.stalled.any (fun a => decide (a.rq = rq)) = false)
    (unlisted : (fieldsAt off).isEmpty = true) (w : Nat) : m.access rq off (some w) = m := by
  simp [Chip.access, unlisted, awake, free]

/-- A read of a register whose island is off, and is not to wake by itself, is a down hit (R36). -/
theorem Chip.access_down_read (awake : m.f PWR_STAT.STATE ≠ 5) (free : m.isl.stalled.any (fun a => decide (a.rq = rq)) = false)
    (listed : (fieldsAt off).isEmpty = false) (isOff : m.islState (cwIsland off) = 0) (stays : m.f ISL_CTL.AUTOWAKE (cwIsland off) = 0) :
    m.access rq off none = (m.downHit (cwIsland off) off false).giveWord downWord := by
  simp [Chip.access, Chip.islServes, awake, free, listed, isOff, stays]

/-! ## Register pairs (R14) -/

theorem Chip.readWord_lo (plain : plainRead off) (lo : off ∈ pairLos) (notHi : off - 4 ∉ pairLos) :
    m.readWord rq off = (m.regWord off, (m.clearRc off).latchHi off rq) := by
  obtain ⟨_, notArray, notCore, notSync, _⟩ := plain
  simp [Chip.readWord, notArray, notCore, notSync, lo, notHi]

theorem Chip.readWord_hi (plain : plainRead (off + 4)) (lo : off ∈ pairLos) :
    m.readWord rq (off + 4) = ((m.shadowOf (off + 4) rq).getD (m.regWord (off + 4)), m.dropShadow (off + 4) rq) := by
  obtain ⟨_, notArray, notCore, notSync, _⟩ := plain
  simp [Chip.readWord, notArray, notCore, notSync, lo]

theorem Chip.access_pairLo {p : RegPair} (h : m.open_ rq (pairLo p)) :
    m.access rq (pairLo p) none = ((m.clearRc (pairLo p)).latchHi (pairLo p) rq).giveWord (m.regWord (pairLo p)) := by
  obtain ⟨plain, lo, notHi⟩ := pairLo_plain p
  rw [Chip.access_plainRead h plain, Chip.readWord_lo plain lo notHi]

theorem Chip.access_pairHi {p : RegPair} (h : m.open_ rq (pairLo p + 4)) :
    m.access rq (pairLo p + 4) none =
      (m.dropShadow (pairLo p + 4) rq).giveWord ((m.shadowOf (pairLo p + 4) rq).getD (m.regWord (pairLo p + 4))) := by
  obtain ⟨plain, lo⟩ := pairHi_plain p
  rw [Chip.access_plainRead h plain, Chip.readWord_hi plain lo]

theorem Chip.access_pairHi_latched {p : RegPair} (h : m.open_ rq (pairLo p + 4)) {v : Nat} (latched : m.shadowOf (pairLo p + 4) rq = some v) :
    m.access rq (pairLo p + 4) none = (m.dropShadow (pairLo p + 4) rq).giveWord v := by
  rw [Chip.access_pairHi h, latched, Option.getD_some]

theorem Chip.access_pairHi_unlatched {p : RegPair} (h : m.open_ rq (pairLo p + 4)) (unlatched : m.shadowOf (pairLo p + 4) rq = none) :
    m.access rq (pairLo p + 4) none = (m.dropShadow (pairLo p + 4) rq).giveWord (m.regWord (pairLo p + 4)) := by
  rw [Chip.access_pairHi h, unlatched, Option.getD_none]

/-! ## The I3C window (R535) -/

theorem Chip.i3cWrite_word (awake : m.f PWR_STAT.STATE ≠ 5) (a b c d e f g h : Byte) :
    m.i3cWrite [a, b, c, d, e, f, g, h] =
      ({ m with i3cPtr := leNat [a, b, c, d] % 2 ^ 26 / 4 * 4 } : Chip).access .i3c (leNat [a, b, c, d] % 2 ^ 26 / 4 * 4)
        (some (leNat [e, f, g, h])) := by
  simp [Chip.i3cWrite, awake, Chip.i3cPoint]

theorem Chip.i3cWrite_badLength {bytes : List Byte} (awake : m.f PWR_STAT.STATE ≠ 5) (not4 : bytes.length ≠ 4) (not8 : bytes.length ≠ 8) :
    m.i3cWrite bytes = m.emit 0 0x1002 m.i3cPtr := by
  simp [Chip.i3cWrite, awake, not4, not8]

theorem Chip.i3cRead_word (awake : m.f PWR_STAT.STATE ≠ 5) :
    m.i3cRead 4 = { m.access .i3c m.i3cPtr none with i3cPtr := ((m.access .i3c m.i3cPtr none).i3cPtr + 4) % 2 ^ 26 } := by
  simp [Chip.i3cRead, awake, ceilDiv]

theorem Chip.i3cRead_calm (calm : m.f PWR_STAT.STATE = 5) (n : Nat) : m.i3cRead n = m := if_pos calm

end Sys2Proof.Machine
end

section
/-! PROOFS, family 00_scope. The indirect windows (R111, R175, R210, R246): a write to an index register starts a copy, and a copy ends. -/

namespace Sys2Proof.Machine

variable {m : Chip} {rq : Rq} {off v : Nat}

/-! ## Index registers -/

theorem Chip.writeReg_QCX (h : m.blockActs (off / 0x10000) = true) (hb : off / 0x10000 = 0x8) (w : Nat) :
    m.writeReg off w = if off = QCX_IDX.INDEX.off 0 then m.idxWrite .qcx w else m.storeReg off w := by
  simp [Chip.writeReg, hb ▸ h, hb]

theorem Chip.writeReg_ZNE (h : m.blockActs (off / 0x10000) = true) (hb : off / 0x10000 = 0x9) (w : Nat) :
    m.writeReg off w = if off = ZNE_ZCX_IDX.ZONE.off 0 then m.idxWrite .zcx (bits w 17 0) else m.storeReg off w := by
  simp [Chip.writeReg, hb ▸ h, hb]

/-- A field of the index register of an indirect window. -/
def winIdx : Win → Fld
  | .qcx => QCX_IDX.INDEX
  | .zcx => ZNE_ZCX_IDX.ZONE
  | .dcx => DLS_DCX_IDX.DIE
  | .tnt => TNT_IDX.TENANT
  | .ldg => TNT_LDG_IDX.DIE
  | .blk => LDP_BLK_IDX.DIE

theorem Chip.writeReg_winIdx (win : Win) (h : m.blockActs ((winIdx win).off 0 / 0x10000) = true) (w : Nat) :
    m.writeReg ((winIdx win).off 0) w = m.idxWrite win (if win = .zcx then bits w 17 0 else w) := by
  cases win with
  | qcx => exact (Chip.writeReg_QCX h (by decide) w).trans (if_pos rfl)
  | zcx => exact (Chip.writeReg_ZNE h (by decide) w).trans (if_pos rfl)
  | dcx => exact (Chip.writeReg_DLS h (by decide) w).trans (if_pos rfl)
  | tnt => exact (Chip.writeReg_TNT h (by decide) w).trans (if_pos rfl)
  | ldg => exact (Chip.writeReg_TNT h (by decide) w).trans ((if_neg (by decide)).trans (if_pos rfl))
  | blk => exact (Chip.writeReg_LDP h (by decide) w).trans (if_pos rfl)

/-- A write to a window's index register that is let through names the index of the next copy. -/
theorem Chip.cwPut_winIdx (win : Win) (h : m.writable rq ((winIdx win).off 0)) (w : Nat) :
    m.cwPut rq (winIdx win) w = m.idxWrite win (if win = .zcx then bits w 17 0 else w) := by
  have listed : (fieldsAt ((winIdx win).off 0)).isEmpty = false := by cases win <;> decide
  rw [Chip.cwPut_open h.1 listed, Chip.writeReg_winIdx win h.2]

theorem Chip.idxWrite_qcx (inRange : v % 2 ^ 19 ≤ 266271) :
    m.idxWrite .qcx v = (m.setF QCX_IDX.INDEX (v % 2 ^ 19)).setF QCX_STAT.READY 0 := if_neg (Nat.not_lt.mpr inRange)

theorem Chip.idxWrite_dcx (inRange : v % 4096 ≤ 3071) :
    m.idxWrite .dcx v = (m.setF DLS_DCX_IDX.DIE (v % 4096)).setF DLS_DCX_STAT.READY 0 := if_neg (Nat.not_lt.mpr inRange)

theorem Chip.idxWrite_ldg (inRange : v % 4096 ≤ 3071) :
    m.idxWrite .ldg v = ((m.setF TNT_LDG_IDX.TENANT (bits v 23 12)).setF TNT_LDG_IDX.DIE (v % 4096)).setF TNT_LDG_STAT.READY 0 :=
  if_neg (Nat.not_lt.mpr inRange)

theorem Chip.idxWrite_blk (die : v % 4096 ≤ 3071) (block : bits v 24 12 ≤ 5119) :
    m.idxWrite .blk v = ((m.setF LDP_BLK_IDX.BLOCK (bits v 24 12)).setF LDP_BLK_IDX.DIE (v % 4096)).setF LDP_BLK_STAT.READY 0 :=
  if_neg (by omega)

/-! ## Copies -/

theorem Chip.windowDone_qcx (copying : m.f QCX_STAT.READY = 0) :
    m.windowDone .qcx = ((m.setWords QCX_W.WORD (m.qctxWords (m.f QCX_IDX.INDEX))).setF QCX_STAT.MISS
      (b1 (m.qctxOwner (m.f QCX_IDX.INDEX)).isNone)).setF QCX_STAT.READY 1 := by
  simp [Chip.windowDone, copying]

theorem Chip.windowDone_zcx (copying : m.f ZNE_ZCX_STAT.READY = 0) :
    m.windowDone .zcx = ((m.setWords ZNE_ZCX_W.WORD (m.zoneWords (m.f ZNE_ZCX_IDX.ZONE))).setF ZNE_ZCX_STAT.UNUSED
      (b1 (decide ((m.zone (m.f ZNE_ZCX_IDX.ZONE)).nsid = 0)))).setF ZNE_ZCX_STAT.READY 1 := by
  simp [Chip.windowDone, copying]

theorem Chip.windowDone_tnt (copying : m.f TNT_STAT.READY = 0) :
    m.windowDone .tnt = ((m.setWords TNT_W.WORD (m.tenantWords (m.f TNT_IDX.TENANT))).setF TNT_STAT.UNUSED
      (b1 (m.tenRec (m.f TNT_IDX.TENANT)).isNone)).setF TNT_STAT.READY 1 := by
  simp [Chip.windowDone, copying]

theorem Chip.windowDone_dcx (copying : m.f DLS_DCX_STAT.READY = 0)
    (serves : m.islServes (12 + dieCluster (m.f DLS_DCX_IDX.DIE)) = true) (drives : m.drives (m.f DLS_DCX_IDX.DIE) = true) :
    m.windowDone .dcx = (((m.setWords DLS_DCX_W.WORD (m.dieWords (m.f DLS_DCX_IDX.DIE))).setF DLS_DCX_STAT.OFF 0).setF
      DLS_DCX_STAT.NOTOWNED 0).setF DLS_DCX_STAT.READY 1 := by
  simp [Chip.windowDone, copying, serves, drives, b1]

theorem Chip.windowDone_ldg_notOwned (copying : m.f TNT_LDG_STAT.READY = 0) (other : m.drives (m.f TNT_LDG_IDX.DIE) = false) :
    m.windowDone .ldg = ((m.setWords TNT_LDG_W.WORD [0, 0]).setF TNT_LDG_STAT.NOTOWNED 1).setF TNT_LDG_STAT.READY 1 := by
  simp [Chip.windowDone, copying, other]

/-- A tenant's credit on a die is brought up to date before it is shown. -/
theorem Chip.windowDone_ldg (copying : m.f TNT_LDG_STAT.READY = 0) (drives : m.drives (m.f TNT_LDG_IDX.DIE) = true) :
    m.windowDone .ldg =
      (let d := m.f TNT_LDG_IDX.DIE
       let t := m.f TNT_LDG_IDX.TENANT
       let c := m.credit t d
       let m : Chip := { m with md := { m.md with ledger := tput m.md.ledger (ldgKey t d) c } }
       ((m.setWords TNT_LDG_W.WORD [ofSigned 32 c.credit, c.last]).setF TNT_LDG_STAT.NOTOWNED 0).setF TNT_LDG_STAT.READY 1) := by
  simp [Chip.windowDone, copying, drives]

theorem Chip.windowDone_blk (copying : m.f LDP_BLK_STAT.READY = 0)
    (inside : m.f LDP_BLK_IDX.BLOCK < m.flash.userBlocks + m.flash.rsvBlocks) :
    m.windowDone .blk = ((m.setWords LDP_BLK_W.WORD (m.blk (m.f LDP_BLK_IDX.DIE) (m.f LDP_BLK_IDX.BLOCK)).words).setF
      LDP_BLK_STAT.BEYOND 0).setF LDP_BLK_STAT.READY 1 := by
  simp [Chip.windowDone, copying, Nat.not_le.mpr inside, b1]

end Sys2Proof.Machine
end

section
/-! PROOFS, family 00_scope. How the wake of an island ends (R31, R38, R39). -/

namespace Sys2Proof.Machine

variable {m : Chip} {i : Nat}

/-- A waking island is ON: its arbiters are seeded and the units its porter kept are checked. -/
theorem Chip.islandOn_waking (waking : m.islState i = 1) :
    m.islandOn i =
      (let m := ((m.setIsl i 2).setF ISL_CTL.RST 0 i).applyEpoch i (m.wakeEpoch i)
       let m := { m with isl := { m.isl with skew := tdel m.isl.skew i } }
       let m := m.arbSeeds i
       let m := if i = 24 ∨ i = 25 then (m.selfRefresh i false).calmRetrain i else m
       let us := m.isl.units.filter fun u => u.1 = i
       let m : Chip := { m with isl := { m.isl with units := m.isl.units.filter fun u => decide (u.1 ≠ i) } }
       (us.foldl (fun (m : Chip) u => m.unitCheck u.1 u.2) m).powerPoll.lullExitPoll) := by
  unfold Chip.islandOn
  simp only [waking, true_or, if_true]

/-- A waking island that does not wake is OFF again: what waited for it ends. -/
theorem Chip.wakeFailed_waking (waking : m.islState i = 1) :
    m.wakeFailed i =
      (let m := (m.setIsl i 0).setF ISL_STAT.WAKEFAIL 1 i
       let as_ := m.isl.stalled.filter fun a => a.island = i
       let us := m.isl.units.filter fun u => u.1 = i
       let m : Chip := { m with isl := { m.isl with
         stalled := m.isl.stalled.filter (fun a => decide (a.island ≠ i)), units := m.isl.units.filter fun u => decide (u.1 ≠ i) } }
       let m := as_.foldl (fun (m : Chip) a =>
         let m := m.downHit i a.off a.data.isSome
         if a.data.isNone then { m with reply := m.reply ++ [downWord] } else m) m
       let m := us.foldl (fun (m : Chip) u => m.refuseUnit i u.2) m
       m.lullExitPoll.switchPoll.settle) := by
  unfold Chip.wakeFailed
  simp only [waking, true_or, if_true]

end Sys2Proof.Machine
end

section
/-! PROOFS, family 00_scope. Counters, offsets without a register, the state after reset, byte order, and the accesses of the control window:
O3, O7, O26, O31 and O41. -/

namespace Sys2Proof.Machine

/-- The value a saturating counter takes fits its field. -/
theorem Fld.saturated_mod_span (g : Fld) (x : Nat) : min x (g.span - 1) % g.span = min x (g.span - 1) := by
  have pos : 0 < g.span := Nat.two_pow_pos _
  exact Nat.mod_eq_of_lt (by omega)

/-- Settles O7: a rise is a write of the saturated sum, which fits the field. -/
theorem countersSaturateAtAllOnes : Obligations.CountersSaturateAtAllOnes := by
  intro m c k n
  refine ⟨?_, fun g j h => m.f_setF_ne _ _ _ _ _ h⟩
  calc (m.addF c k n).f c n = min (m.f c n + k) (c.span - 1) % c.span := m.f_setF_same ..
    _ = min (m.f c n + k) (c.span - 1) := c.saturated_mod_span _

/-- Settles O26, by what an access of an unlisted offset does. -/
theorem unlistedOffsetsReadZero : Obligations.UnlistedOffsetsReadZero :=
  fun _ _ _ w unlisted awake free =>
    ⟨Chip.access_unlisted_read awake free unlisted, Chip.access_unlisted_write awake free unlisted w⟩

/-- Settles O31, by induction on the number of bytes. -/
theorem littleEndianFieldsReadBack : Obligations.LittleEndianFieldsReadBack := by
  intro n x
  induction n generalizing x with
  | zero => simp [leBytes, leNat, Nat.mod_one]
  | succ n ih =>
    obtain ⟨value, len⟩ := ih (x / 256)
    refine ⟨?_, by simp [leBytes, len]⟩
    calc leNat (leBytes (n + 1) x) = x % 256 + 256 * (x / 256 % 256 ^ n) := by simp [leBytes, leNat, value]
      _ = x % (256 * 256 ^ n) := Nat.mod_mul.symm
      _ = x % 256 ^ (n + 1) := by rw [Nat.pow_succ']

/-- Settles O3: the register store, the queue and the memories are empty after reset, and an entry that a table does not hold is the default. -/
theorem resetLeavesTheStatedValues : Obligations.ResetLeavesTheStatedValues :=
  ⟨fun _ _ => rfl, rfl, rfl, fun _ => ⟨rfl, rfl⟩, by decide, rfl, rfl⟩

/-- Settles O41, row by row in the order of the statement. -/
theorem windowAccessesComplete : Obligations.WindowAccessesComplete :=
  -- index registers: QCX, DLS, TNT, TNT_LDG, LDP_BLK, ZNE_ZCX
  ⟨fun _ _ _ open_ inRange =>
      completes_of_chip rfl ((Chip.cwPut_winIdx .qcx (Chip.writable_fresh open_) _).trans (Chip.idxWrite_qcx inRange)),
    fun _ _ _ open_ inRange =>
      completes_of_chip rfl ((Chip.cwPut_winIdx .dcx (Chip.writable_fresh open_) _).trans (Chip.idxWrite_dcx inRange)),
    fun _ _ _ open_ => completes_of_chip rfl (Chip.cwPut_winIdx .tnt (Chip.writable_fresh open_) _),
    fun _ _ _ open_ inRange =>
      completes_of_chip rfl ((Chip.cwPut_winIdx .ldg (Chip.writable_fresh open_) _).trans (Chip.idxWrite_ldg inRange)),
    fun _ _ _ open_ die block =>
      completes_of_chip rfl ((Chip.cwPut_winIdx .blk (Chip.writable_fresh open_) _).trans (Chip.idxWrite_blk die block)),
    fun _ _ _ open_ => completes_of_chip rfl (Chip.cwPut_winIdx .zcx (Chip.writable_fresh open_) _),
    -- transfers: CW_WRITE of a word and of a byte, RC_FIELD_READ
    fun _ _ _ a b c d aligned open_ listed =>
      completes_of_chip rfl ((Chip.cwWrite_word aligned a b c d).trans (Chip.access_write (Chip.open_fresh open_.1) listed _)),
    fun _ _ _ a awake listed => completes_of_chip rfl ((Chip.cwWrite_byte _ a).trans (Chip.cwError_at awake listed)),
    fun _ _ _ aligned open_ listed now =>
      completes_of_chip rfl ((Chip.cwRead_word aligned).trans (Chip.access_read (Chip.open_fresh open_) listed now)),
    -- register pairs: LO_REGISTER_READ, HI_REGISTER_READ with and without a latched half
    fun _ _ _ open_ => completes_of_chip rfl (Chip.access_pairLo (Chip.open_fresh open_)),
    fun _ _ _ _ open_ latched => completes_of_chip rfl (Chip.access_pairHi_latched (Chip.open_fresh open_) latched),
    fun _ _ _ open_ unlatched => completes_of_chip rfl (Chip.access_pairHi_unlatched (Chip.open_fresh open_) unlatched),
    -- PORTER_CW_ACCESS: a write let through, a read of no register, a read in an island that is off
    fun _ _ _ _ open_ listed => completes_of_chip rfl (Chip.access_write (Chip.open_fresh open_.1) listed _),
    fun _ _ _ awake free unlisted => completes_of_chip rfl (Chip.access_unlisted_read awake free unlisted),
    fun _ _ _ awake free listed isOff stays => completes_of_chip rfl (Chip.access_down_read awake free listed isOff stays),
    -- WINDOW_COPY_DONE
    fun _ copying => completes_of_chip rfl (congrArg Chip.replay (Chip.windowDone_qcx copying)),
    fun _ copying => completes_of_chip rfl (congrArg Chip.replay (Chip.windowDone_zcx copying)),
    fun _ copying => completes_of_chip rfl (congrArg Chip.replay (Chip.windowDone_tnt copying)),
    fun _ copying serves drives => completes_of_chip rfl (congrArg Chip.replay (Chip.windowDone_dcx copying serves drives)),
    fun _ copying other => completes_of_chip rfl (congrArg Chip.replay (Chip.windowDone_ldg_notOwned copying other)),
    fun s copying drives => completes_of_chip rfl (congrArg Chip.replay (Chip.windowDone_ldg (m := s.chip.fresh) copying drives)),
    fun _ copying inside => completes_of_chip rfl (congrArg Chip.replay (Chip.windowDone_blk copying inside)),
    -- ISLAND_WAKE_DONE, WAKE_TIMEOUT
    fun s _ waking => completes_of_chip rfl (congrArg (fun m => m.replay.late) (Chip.islandOn_waking (m := s.chip.fresh) waking)),
    fun s _ waking => completes_of_chip rfl (congrArg Chip.replay (Chip.wakeFailed_waking (m := s.chip.fresh) waking)),
    -- the I3C window
    fun _ _ awake => completes_of_chip rfl (if_neg awake),
    fun s a b c d e f g h awake => completes_of_chip rfl (Chip.i3cWrite_word (m := s.chip.fresh) awake a b c d e f g h),
    fun s _ awake not4 not8 => completes_of_chip rfl (Chip.i3cWrite_badLength (m := s.chip.fresh) awake not4 not8),
    fun s awake => completes_of_chip rfl (Chip.i3cRead_word (m := s.chip.fresh) awake),
    fun s n calm => completes_of_chip rfl (Chip.i3cRead_calm (m := s.chip.fresh) calm n)⟩

end Sys2Proof.Machine
end

section
/-! PROOFS, family 00_scope. Buffer pools (R353 to R363): what a request, a grant, a withdrawn request, an added owner and a released reference do
in each case. -/

namespace Sys2Proof.Machine

variable {m : Chip} {s : State}

/-! ## Requests and grants -/

/-- A request that rank and size class allow joins its pool's queue, and the queue is looked at. -/
theorem Chip.poolRequest_queued {rq work dl cls : Nat} {sizes : List Nat} {popped : Option (BitVec 64)} {r : PoolRec}
    (pool : m.img.tables.poolOf rq = some r) (asks : sizes ≠ []) (atMost : sizes.length ≤ 8)
    (rank : (m.workRank work).any (r.rank ≤ ·) = false)
    (fits : sizes.all (fun n => ((m.pool r.pool).charge r.classmask n).isSome) = true) :
    m.poolRequest rq sizes work dl cls popped =
      (let q : PoolReq :=
        { id := m.bp.nextReq, rq := rq, sizes := sizes, deadline := dl % 2 ^ 32, cls := cls, created := m.isl.dtc, work := work }
       let m := { m with bp := { m.bp with nextReq := m.bp.nextReq + 1 } }
       let m := m.setPool r.pool { m.pool r.pool with wait := insertReq q (m.pool r.pool).wait }
       m.grantPopped r.pool popped) := by
  have noneTooLarge : (sizes.any fun n => ((m.pool r.pool).charge r.classmask n).isNone) = false := by
    simpa [List.any_eq_false, Option.isSome_iff_ne_none] using fits
  unfold Chip.poolRequest
  simp only [pool]
  rw [if_neg (by simp [asks, atMost]), if_neg (by simp only [rank, noneTooLarge]; decide)]

/-- A request that would break the order of ranks is refused (R357). -/
theorem Chip.poolRequest_refused {rq work dl cls : Nat} {sizes : List Nat} {popped : Option (BitVec 64)} {r : PoolRec}
    (pool : m.img.tables.poolOf rq = some r) (asks : sizes ≠ []) (atMost : sizes.length ≤ 8)
    (rank : (m.workRank work).any (r.rank ≤ ·) = true) :
    m.poolRequest rq sizes work dl cls popped = (m.incF BPM_ERRCNT.RANK).emit 11 0x6605 := by
  unfold Chip.poolRequest
  simp only [pool]
  rw [if_neg (by simp [asks, atMost]), if_pos (by simp only [rank, Bool.true_or])]
  rfl

theorem Chip.grantPopped_none (m : Chip) (p : Nat) : m.grantPopped p none = m.grantPool p := by
  simp [Chip.grantPopped]

/-- A grant that pops a link whose check fails is undone, and the lists are rebuilt (R363). -/
theorem Chip.grantPopped_bad {p : Nat} {w : BitVec 64} (bad : linkOk p w.toNat = false)
    (pops : ((m.grantPool p).pool p).wait ≠ (m.pool p).wait) :
    m.grantPopped p (some w) = ((m.incF BPM_ERRCNT.LIST).emit 11 0x6603).setF BPM_POOLSTAT.REBUILD 1 p := by
  unfold Chip.grantPopped
  exact if_pos (by simp [bad, pops])

/-! ## A request that has waited too long (R360) -/

/-- Request `id` of pool `p` is withdrawn, counted, logged where none is, and told. -/
def Chip.reqWithdrawn (m : Chip) (p id rq work : Nat) : Chip :=
  let m := (m.setPool p { m.pool p with wait := (m.pool p).wait.filter (·.id ≠ id) }).incF BPM_WDOGCNT.COUNT
  let m := if m.f BPM_WDOGLOG.VALID = 1 then m
    else ((m.setF BPM_WDOGLOG.VALID 1).setF BPM_WDOGLOG.POOL p).setF BPM_WDOGLOG.REQ rq
  m.emit 11 0x6601 0 ((m.cmd? work).map fun c => m.cmdTag work c)

/-- A withdrawn request is kept for a retry. -/
def Chip.reqKept (m : Chip) (q : PoolReq) : Chip := { m with bp := { m.bp with retry := m.bp.retry ++ [q] } }

/-- What becomes of its work: a host command ends, a mirror row's writer stops waiting, other work is tried again. -/
def Chip.workWithdrawn (m : Chip) (q : PoolReq) : Chip :=
  if q.work < 65536 then m.endCmd q.work (some stInterrupted)
  else if q.rq = 36 then (m.waitsLost 0 (q.work - 2 ^ 40)).waitsLost 1 (q.work - 2 ^ 40)
  else m.reqKept q

/-- Request `q`, of number `id`, waits in pool `p`. -/
abbrev Chip.reqWaits (m : Chip) (id p : Nat) (q : PoolReq) : Prop :=
  m.bp.pools.findSome? (fun e => (e.2.wait.find? (·.id = id)).map fun q => (e.1, q)) = some (p, q)

theorem Chip.poolWatchdog_at {id p : Nat} {q : PoolReq} (h : m.reqWaits id p q) :
    m.poolWatchdog id = (((m.reqWithdrawn p id q.rq q.work).workWithdrawn q).grantPool p).late := by
  simp only [Chip.poolWatchdog, Chip.reqWithdrawn, Chip.workWithdrawn, Chip.reqKept, h]

theorem Chip.poolWatchdog_host {id p : Nat} {q : PoolReq} (h : m.reqWaits id p q) (host : q.work < 65536) :
    m.poolWatchdog id = (((m.reqWithdrawn p id q.rq q.work).endCmd q.work (some stInterrupted)).grantPool p).late := by
  rw [Chip.poolWatchdog_at h, Chip.workWithdrawn, if_pos host]

theorem Chip.poolWatchdog_mirror {id p : Nat} {q : PoolReq} (h : m.reqWaits id p q) (mirror : q.rq = 36) (device : 65536 ≤ q.work) :
    m.poolWatchdog id =
      ((((m.reqWithdrawn p id 36 q.work).waitsLost 0 (q.work - 2 ^ 40)).waitsLost 1 (q.work - 2 ^ 40)).grantPool p).late := by
  rw [Chip.poolWatchdog_at h, Chip.workWithdrawn, if_neg (by omega), if_pos mirror, mirror]

theorem Chip.poolWatchdog_retried {id p : Nat} {q : PoolReq} (h : m.reqWaits id p q) (other : q.rq ≠ 36) (device : 65536 ≤ q.work) :
    m.poolWatchdog id = (((m.reqWithdrawn p id q.rq q.work).reqKept q).grantPool p).late := by
  rw [Chip.poolWatchdog_at h, Chip.workWithdrawn, if_neg (by omega), if_neg other]

/-- The same as the row's next state, written out. -/
theorem poolAllocWatchdog_retried {id p : Nat} {q : PoolReq} (h : s.chip.reqWaits id p q) (other : q.rq ≠ 36) (device : 65536 ≤ q.work) :
    Completes (.poolAllocWatchdog id) s fun m =>
      let m := (m.setPool p { m.pool p with wait := (m.pool p).wait.filter (·.id ≠ id) }).incF BPM_WDOGCNT.COUNT
      let m := if m.f BPM_WDOGLOG.VALID = 1 then m
        else ((m.setF BPM_WDOGLOG.VALID 1).setF BPM_WDOGLOG.POOL p).setF BPM_WDOGLOG.REQ q.rq
      let m := m.emit 11 0x6601 0 ((m.cmd? q.work).map fun c => m.cmdTag q.work c)
      (({ m with bp := { m.bp with retry := m.bp.retry ++ [q] } } : Chip).grantPool p).late := by
  refine completes_of_chip rfl ((Chip.poolWatchdog_retried (m := s.chip.fresh) h other device).trans ?_)
  simp only [Chip.reqWithdrawn, Chip.reqKept]

/-! ## Owners (R361) -/

theorem Chip.dropRef_shared {buf : Nat} {b : Buf} (h : tfind m.bp.bufs buf = some b) (shared : 1 < b.count) :
    m.dropRef buf = { m with bp := { m.bp with bufs := tput m.bp.bufs buf { b with count := b.count - 1 } } } := by
  unfold Chip.dropRef
  simp only [h]
  exact if_neg (by omega)

theorem Chip.dropRef_last {buf : Nat} {b : Buf} (h : tfind m.bp.bufs buf = some b) (last : b.count ≤ 1) :
    m.dropRef buf = m.freeBuf buf := by
  unfold Chip.dropRef
  simp only [h]
  exact if_pos last

theorem Chip.addOwner_added {rq buf : Nat} {b : Buf} (h : tfind m.bp.bufs buf = some b) (countable : b.count ≠ 0xFFFF)
    (names : rq ∈ b.owners ∨ b.owners.length < 6) :
    (m.addOwner rq buf).1 =
      (let owners := if rq ∈ b.owners then b.owners else b.owners ++ [rq]
       { m with bp := { m.bp with bufs := tput m.bp.bufs buf { b with count := b.count + 1, owners := owners } } }) := by
  have allowed : ¬ (b.count = 0xFFFF ∨ (rq ∉ b.owners ∧ 6 ≤ b.owners.length)) := by
    rintro (full | ⟨new, many⟩)
    · exact countable full
    · exact names.elim new (Nat.not_lt.mpr many)
  unfold Chip.addOwner
  simp only [h]
  rw [if_neg allowed]

/-- A release by a named owner drops a reference, and what waits on the pool may be granted. -/
theorem bufferRelease_byOwner {rq : Fin 64} {buf : Nat} {b : Buf} (found : tfind s.chip.bp.bufs buf = some b) (names : rq.val ∈ b.owners)
    (held : b.count ≠ 0) : Completes (.bufferRelease rq buf) s fun m => ((m.dropRef buf).grantPool b.pool).late := by
  have foundNow : tfind s.chip.fresh.bp.bufs buf = some b := found
  refine completes_of_chip rfl ?_
  simp only [foundNow]
  exact if_neg (not_or.mpr ⟨not_not_intro names, held⟩)

/-- A release of a buffer that others still hold. -/
theorem bufferRelease_shared {rq : Fin 64} {buf : Nat} {b : Buf} (found : tfind s.chip.bp.bufs buf = some b) (names : rq.val ∈ b.owners)
    (shared : 1 < b.count) :
    Completes (.bufferRelease rq buf) s fun m =>
      (({ m with bp := { m.bp with bufs := tput m.bp.bufs buf { b with count := b.count - 1 } } } : Chip).grantPool b.pool).late :=
  (bufferRelease_byOwner found names (by omega)).congr
    (congrArg (fun m => (m.grantPool b.pool).late) (Chip.dropRef_shared (m := s.chip.fresh) found shared))

/-- The release of the last reference frees the buffer. -/
theorem bufferRelease_last {rq : Fin 64} {buf : Nat} {b : Buf} (found : tfind s.chip.bp.bufs buf = some b) (names : rq.val ∈ b.owners)
    (last : b.count = 1) : Completes (.bufferRelease rq buf) s fun m => ((m.freeBuf buf).grantPool b.pool).late :=
  (bufferRelease_byOwner found names (by omega)).congr
    (congrArg (fun m => (m.grantPool b.pool).late) (Chip.dropRef_last (m := s.chip.fresh) found (Nat.le_of_eq last)))

/-! ## Retries of device work (R39, R52, R360) -/

theorem deviceWorkRetry_pool {id : Nat} {q : PoolReq} (kept : s.chip.bp.retry.find? (·.id = id) = some q) :
    Completes (.deviceWorkRetry (.pool id)) s fun m =>
      (({ m with bp := { m.bp with retry := m.bp.retry.filter (·.id ≠ id) } } : Chip).poolRequest q.rq q.sizes q.work q.deadline q.cls none).settle := by
  have keptNow : s.chip.fresh.bp.retry.find? (·.id = id) = some q := kept
  refine completes_of_chip rfl ?_
  simp only [keptNow]

theorem deviceWorkRetry_unit {slot : SlotId} {u : DUnit} (kept : (s.chip.md.retry.find? fun u => decide (u.slot = some slot.val)) = some u) :
    Completes (.deviceWorkRetry (.unit slot)) s fun m =>
      (({ m with md := { m.md with retry := m.md.retry.filter (·.id ≠ u.id) } } : Chip).newUnit u).settle := by
  have keptNow : (s.chip.fresh.md.retry.find? fun u => decide (u.slot = some slot.val)) = some u := kept
  refine completes_of_chip rfl ?_
  simp only [keptNow]

end Sys2Proof.Machine
end

section
/-! PROOFS, family 00_scope. Lottery arbiters (R368 to R370): a draw of an idle arbiter, and the two ways a transfer ends. -/

namespace Sys2Proof.Machine

variable {m : Chip} {i : Nat} {reqs : List Nat}

/-- An idle arbiter that is not parked draws among its requesters and grants the winner. -/
theorem Chip.arbDraw_grants (serves : m.islServes (arbIsland i) = true) (asked : m.arbRequests i reqs ≠ [])
    (notParked : m.f ARB_STAT.PARKED i = 0) (idle : m.f ARB_STAT.BUSY i = 0) :
    m.arbDraw i reqs false =
      (let rs := m.arbRequests i reqs
       let m := m.arbCopy i
       let d := (m.arb i).draw rs
       ((m.setArb i { d.2 with winner := none }).incF ARB_DRAWS.COUNT i).arbGrant i (d.1.getD 0)) := by
  unfold Chip.arbDraw
  simp [serves, asked, notParked, idle]

/-- The requester drawn while the transfer ran has the grant. -/
theorem Chip.arbEnd_winner {w : Nat} (busy : m.f ARB_STAT.BUSY i = 1) (drawn : (m.arb i).winner = some w)
    (stays : w ∈ m.arbRequests i reqs) :
    m.arbEnd i reqs = (m.setArb i { m.arb i with winner := none }).arbGrant i w := by
  unfold Chip.arbEnd
  simp [busy, drawn, stays]

/-- With no requester the grant parks on its owner where the owner has tickets. -/
theorem Chip.arbEnd_parks (busy : m.f ARB_STAT.BUSY i = 1) (undrawn : (m.arb i).winner = none) (alone : m.arbRequests i reqs = []) :
    m.arbEnd i reqs = (m.setArb i { m.arb i with winner := none }).showArb i (m.f ARB_STAT.OWNER i) false
      (decide (tget 0 (m.arb i).active (m.f ARB_STAT.OWNER i) ≠ 0)) := by
  unfold Chip.arbEnd
  simp [busy, undrawn, alone]

end Sys2Proof.Machine
end

section
/-! PROOFS, family 00_scope. DRAM controllers (R375 to R392) at a channel in service: arrivals, CA parity alerts, a write served, refresh, polls and
the end of a training run. -/

namespace Sys2Proof.Machine

variable {m : Chip} {s : State} {ch sub : Nat}

theorem Chip.subd_setSubd (m : Chip) (k : Nat) (x : SubDram) : (m.setSubd k x).subd k = x := tget_tset_same ..

theorem Chip.replayEnd_on (on : m.f DRC_STAT.STATE ch = 2) : m.replayEnd ch = m := if_pos (by omega)

theorem Chip.dramAbandon_none (noRun : tfind m.dr.runs ch = none) (reason : Nat) : m.dramAbandon ch reason = m := by
  unfold Chip.dramAbandon
  simp only [noRun]

/-! ## Arrivals (R379) -/

theorem Chip.dramGrants_on (on : m.f DRC_STAT.STATE ch = 2) (flows : m.f DRC_CTL.QUIESCE ch = 0) : m.dramGrants ch = true := by
  simp [Chip.dramGrants, on, flows]

theorem SubDram.full_eq_false {x : SubDram} (writes : x.writes.length < 64) (reads : x.reads.length < 32) (a : DramAcc) :
    x.full a = false := by
  unfold SubDram.full
  split
  · exact decide_eq_false (Nat.not_le.mpr writes)
  · exact decide_eq_false (Nat.not_le.mpr reads)

/-- The only access held enters where its queue has room and the arbiter grants. -/
theorem Chip.dramAdmit_only {k : Nat} {a : DramAcc} (held : (m.subd k).held = [a]) (room : (m.subd k).full a = false)
    (grants : m.dramGrants ch = true) : m.dramAdmit ch k 1 = (m.setSubd k { m.subd k with held := [] }).dramEnter ch k a := by
  unfold Chip.dramAdmit
  simp only [held]
  rw [if_neg (by simp [room, grants])]
  rfl

/-- An access as it reaches the arbiter, with the next number. -/
def Chip.arriving (m : Chip) (addr len : Nat) (write : Bool) (tenant : Option Nat) (owner : GOwner) : DramAcc :=
  { id := m.dr.next, addr := addr, len := min (max len 1) (256 - addr % 256), write := write, at_ := m.isl.dtc, tenant := tenant, owner := owner }

/-- The number of an access is taken. -/
def Chip.numbered (m : Chip) : Chip := { m with dr := { m.dr with next := m.dr.next + 1 } }

/-- The subchannel an access goes to, over all channels. -/
abbrev subOf (addr : Nat) : Nat := 2 * dramChan addr + dramSub addr

variable {addr len : Nat} {write : Bool} {tenant : Option Nat} {owner : GOwner}

/-- An access that meets no training run joins those held at the arbiter, and those with room enter. -/
theorem Chip.dramArrive_on (on : m.f DRC_STAT.STATE (dramChan addr) = 2)
    (meetsNone : m.dramGrants (dramChan addr) = true → tfind m.dr.runs (dramChan addr) = none) :
    m.dramArrive addr len write tenant owner =
      (m.numbered.setSubd (subOf addr)
        { m.subd (subOf addr) with held := (m.subd (subOf addr)).held ++ [m.arriving addr len write tenant owner] }).dramAdmit
        (dramChan addr) (subOf addr) ((m.subd (subOf addr)).held.length + 1) := by
  have runOn : (if m.numbered.dramGrants (dramChan addr) then m.numbered.dramAbandon (dramChan addr) 3 else m.numbered) = m.numbered := by
    split
    · next grants => exact Chip.dramAbandon_none (m := m.numbered) (meetsNone grants) 3
    · rfl
  unfold Chip.dramArrive
  rw [if_neg (by omega)]
  exact congrArg (fun x : Chip => (x.setSubd _ { x.subd _ with held := (x.subd _).held ++ [m.arriving addr len write tenant owner] }).dramAdmit
    (dramChan addr) _ ((x.subd _).held.length + 1)) runOn

/-- It enters its queue at once where the arbiter grants, none is held before it and the queues have room. -/
theorem Chip.dramArrive_enters (on : m.f DRC_STAT.STATE (dramChan addr) = 2) (flows : m.f DRC_CTL.QUIESCE (dramChan addr) = 0)
    (noRun : tfind m.dr.runs (dramChan addr) = none) (empty : (m.subd (subOf addr)).held = [])
    (writes : (m.subd (subOf addr)).writes.length < 64) (reads : (m.subd (subOf addr)).reads.length < 32) :
    m.dramArrive addr len write tenant owner =
      ((m.numbered.setSubd (subOf addr) { m.subd (subOf addr) with held := [m.arriving addr len write tenant owner] }).setSubd (subOf addr)
        { m.subd (subOf addr) with held := [] }).dramEnter (dramChan addr) (subOf addr) (m.arriving addr len write tenant owner) := by
  have admitted := Chip.dramAdmit_only (ch := dramChan addr) (k := subOf addr)
    (m := m.numbered.setSubd (subOf addr) { m.subd (subOf addr) with held := [m.arriving addr len write tenant owner] })
    (by rw [Chip.subd_setSubd]) (by rw [Chip.subd_setSubd]; exact SubDram.full_eq_false writes reads _) (Chip.dramGrants_on on flows)
  rw [Chip.subd_setSubd] at admitted
  rw [Chip.dramArrive_on on fun _ => noRun, empty]
  exact admitted

/-- It is held behind the others where the arbiter does not grant. -/
theorem Chip.dramArrive_held (on : m.f DRC_STAT.STATE (dramChan addr) = 2) (shut : m.dramGrants (dramChan addr) = false) :
    m.dramArrive addr len write tenant owner =
      (m.numbered.setSubd (subOf addr)
        { m.subd (subOf addr) with held := (m.subd (subOf addr)).held ++ [m.arriving addr len write tenant owner] }).dramAdmit
        (dramChan addr) (subOf addr) ((m.subd (subOf addr)).held.length + 1) :=
  Chip.dramArrive_on on fun grants => absurd grants (by rw [shut]; decide)

/-! ## CA parity alerts (R384 to R386) -/

/-- An alert is counted, and command `id` has failed `n` times in a row. -/
def Chip.alerted (m : Chip) (ch sub id n : Nat) : Chip :=
  let m := m.incF DRC_PARITY.ALERTS ch
  m.setSubd (2 * ch + sub) { m.subd (2 * ch + sub) with failing := some id, fails := n }

/-- DRC_PARLOG holds the first alert. -/
def Chip.alertLogged (m : Chip) (ch sub index n : Nat) : Chip :=
  if m.f DRC_PARLOG.VALID ch = 1 then m
  else (((m.setF DRC_PARLOG.VALID 1 ch).setF DRC_PARLOG.ATTEMPT (min n 3) ch).setF DRC_PARLOG.SUBCH sub ch).setF DRC_PARLOG.INDEX index ch

section
variable {index id : Nat} {c : DramCmd} {readable : Bool}

theorem Chip.dramAlert_on (on : m.f DRC_STAT.STATE ch = 2) (noRun : tfind m.dr.runs ch = none)
    (named : (m.subd (2 * ch + sub)).retry[index]? = some (id, c)) :
    m.dramAlert ch sub index readable =
      (let x := m.subd (2 * ch + sub)
       let n := if x.failing = some id then x.fails + 1 else 1
       let m := m.alerted ch sub id n
       if !readable then m.chanFailed ch
       else
         let m := m.alertLogged ch sub index n
         if 3 ≤ n then m.chanFailed ch
         else (m.setSubd (2 * ch + sub) { m.subd (2 * ch + sub) with rows := [], replay := some index }).setF DRC_STAT.STATE 4 ch) := by
  have noneAbandoned : (m.incF DRC_PARITY.ALERTS ch).dramAbandon ch 5 = m.incF DRC_PARITY.ALERTS ch :=
    Chip.dramAbandon_none (m := m.incF DRC_PARITY.ALERTS ch) noRun 5
  unfold Chip.dramAlert
  simp only [named, on, noneAbandoned]
  rfl

/-- A first failure starts the replay from its command on. -/
theorem Chip.dramAlert_first (on : m.f DRC_STAT.STATE ch = 2) (noRun : tfind m.dr.runs ch = none)
    (named : (m.subd (2 * ch + sub)).retry[index]? = some (id, c)) (first : (m.subd (2 * ch + sub)).failing ≠ some id) :
    m.dramAlert ch sub index true =
      (let m := (m.alerted ch sub id 1).alertLogged ch sub index 1
       (m.setSubd (2 * ch + sub) { m.subd (2 * ch + sub) with rows := [], replay := some index }).setF DRC_STAT.STATE 4 ch) := by
  rw [Chip.dramAlert_on on noRun named]
  simp only [if_neg first]
  rfl

/-- The third failure in a row fails the channel. -/
theorem Chip.dramAlert_third (on : m.f DRC_STAT.STATE ch = 2) (noRun : tfind m.dr.runs ch = none)
    (named : (m.subd (2 * ch + sub)).retry[index]? = some (id, c)) (again : (m.subd (2 * ch + sub)).failing = some id)
    (twice : (m.subd (2 * ch + sub)).fails = 2) :
    m.dramAlert ch sub index true = ((m.alerted ch sub id 3).alertLogged ch sub index 3).chanFailed ch := by
  rw [Chip.dramAlert_on on noRun named]
  simp only [if_pos again, twice, Bool.not_true, Bool.false_eq_true, if_false, Nat.reduceAdd, Nat.le_refl, if_true]

/-- Where the RCD's log cannot be read the channel fails at once. -/
theorem Chip.dramAlert_unreadable (on : m.f DRC_STAT.STATE ch = 2) (noRun : tfind m.dr.runs ch = none)
    (named : (m.subd (2 * ch + sub)).retry[index]? = some (id, c)) (first : (m.subd (2 * ch + sub)).failing ≠ some id) :
    m.dramAlert ch sub index false = (m.alerted ch sub id 1).chanFailed ch := by
  rw [Chip.dramAlert_on on noRun named]
  simp only [if_neg first]
  rfl

end

/-! ## Service, refresh and polls (R380, R383, R387) -/

/-- A write of whole bursts is issued, leaves its queue and is counted; it reads no granule, so it meets no error. -/
theorem Chip.dramDone_write {errs : List MemErr} {a : DramAcc} (on : m.f DRC_STAT.STATE ch = 2)
    (next : (let x := m.setSubd (2 * ch + sub) (m.dramDrain ch (m.subd (2 * ch + sub))); x.dramNext ch (x.subd (2 * ch + sub))) = some a)
    (write : a.write = true) (whole : a.partialBursts = 0) :
    m.dramDone ch sub errs =
      (let k := 2 * ch + sub
       let m := m.setSubd k (m.dramDrain ch (m.subd k))
       let m := (m.dramCmds (m.subd k) a).foldl (fun (m : Chip) c => m.dramIssue ch sub a.tenant c) m
       if m.f DRC_STAT.STATE ch = 5 then m
       else
         let x := m.subd k
         let m := m.setSubd k (m.dramDrain ch
           { x with reads := x.reads.filter (fun b => decide (b.id ≠ a.id)), writes := x.writes.filter (fun b => decide (b.id ≠ a.id)) })
         ((m.addWide DRC_WRBYTES_LO.BYTES DRC_WRBYTES_HI.BYTES a.len ch).dramAdmit ch k 96).settle) := by
  unfold Chip.dramDone
  simp only [Chip.replayEnd_on on, next, on, write, whole, ne_eq, not_true_eq_false, if_false, if_true, and_self]

theorem refreshInterval_on {ch : DramCh} {sub : SubLink} (on : s.chip.f DRC_STAT.STATE ch = 2) :
    Completes (.refreshInterval ch sub) s fun m => ((m.setDebt ch sub (m.debt ch sub + 4)).refPlace ch sub 20).refPull ch sub 4 := by
  refine completes_of_chip rfl ?_
  simp only [Chip.replayEnd_on (m := s.chip.fresh) on]
  exact if_pos (Or.inl on)

theorem mr4Poll_on {ch : DramCh} {sub : SubLink} {double : Bool} (on : s.chip.f DRC_STAT.STATE ch = 2) :
    Completes (.mr4Poll ch sub double) s fun m =>
      m.setF (if sub.val = 0 then DRC_REFSTAT.DOUBLE_A else DRC_REFSTAT.DOUBLE_B) (b1 double) ch := by
  refine completes_of_chip rfl ?_
  simp only [Chip.replayEnd_on (m := s.chip.fresh) on]
  exact if_pos on

/-- A drift above 1/64 UI moves a channel's write DQS delay. -/
def Chip.dqsMoved (m : Chip) (ch drift : Nat) : Chip :=
  if 1 < drift then { m with dr := { m.dr with dqs := tset 0 m.dr.dqs ch (tget 0 m.dr.dqs ch + drift) } } else m

theorem dqsOscillatorPoll_on {ch : DramCh} {drift : Nat} (on : s.chip.f DRC_STAT.STATE ch = 2) :
    Completes (.dqsOscillatorPoll ch drift) s fun m => m.dqsMoved ch drift := by
  have onNow : s.chip.fresh.f DRC_STAT.STATE ch = 2 := on
  refine completes_of_chip rfl ?_
  simp only [Chip.replayEnd_on onNow, onNow, true_and]
  rfl

/-! ## The end of a training run in service (R388) -/

/-- A run whose eyes are wide enough passes. -/
theorem Chip.dramRunEnd_passed {op rd wr : Nat} (runs : tfind m.dr.runs ch = some op) (rdWide : m.f DRC_TRAINCFG.MIN_EYE ch ≤ rd)
    (wrWide : m.f DRC_TRAINCFG.MIN_EYE ch ≤ wr) :
    m.dramRunEnd ch rd wr =
      (let m := ({ m with dr := { m.dr with runs := tdel m.dr.runs ch } } : Chip).setF DRC_STAT.STATE 2 ch
       let m := ((m.setF DRC_TRAIN.REASON 1 ch).setF DRC_TRAIN.STEP 8 ch).setF DRC_CTL.TRAIN 0 ch
       let m := { m with dr := { m.dr with dqs := tset 0 m.dr.dqs ch 0 } }
       (m.setF DRC_EYE.RD (min rd 63) ch).setF DRC_EYE.WR (min wr 63) ch) := by
  have least : (({ m with dr := { m.dr with runs := tdel m.dr.runs ch } } : Chip).setF DRC_STAT.STATE 2 ch).f DRC_TRAINCFG.MIN_EYE ch =
      m.f DRC_TRAINCFG.MIN_EYE ch :=
    Chip.f_setF_ne _ _ _ _ _ _ (by simp only [Fld.key, Fld.off, DRC_TRAINCFG.MIN_EYE, DRC_STAT.STATE]; omega)
  unfold Chip.dramRunEnd
  simp only [runs, least]
  rw [if_neg (by omega)]

/-- Once the start's training is over, a training run that ends is one in service. -/
theorem dramTrainDone_inService {ch : DramCh} {present ranks2 gb32 : Bool} {rd wr : Fin 64} (started : s.chip.st.dramLeft = 0) :
    Completes (.dramTrainDone ch present ranks2 gb32 rd wr) s fun m => (m.dramRunEnd ch rd wr).late := by
  have startedNow : s.chip.fresh.st.dramLeft = 0 := started
  refine completes_of_chip rfl ?_
  simp only [startedNow]
  simp [bitOf]

theorem dramTrainDone_passed {ch : DramCh} {present ranks2 gb32 : Bool} {rd wr : Fin 64} {op : Nat} (started : s.chip.st.dramLeft = 0)
    (runs : tfind s.chip.dr.runs ch = some op) (rdWide : s.chip.f DRC_TRAINCFG.MIN_EYE ch ≤ rd)
    (wrWide : s.chip.f DRC_TRAINCFG.MIN_EYE ch ≤ wr) :
    Completes (.dramTrainDone ch present ranks2 gb32 rd wr) s fun m =>
      let m := ({ m with dr := { m.dr with runs := tdel m.dr.runs ch } } : Chip).setF DRC_STAT.STATE 2 ch
      let m := ((m.setF DRC_TRAIN.REASON 1 ch).setF DRC_TRAIN.STEP 8 ch).setF DRC_CTL.TRAIN 0 ch
      let m := { m with dr := { m.dr with dqs := tset 0 m.dr.dqs ch.val 0 } }
      ((m.setF DRC_EYE.RD (min rd.val 63) ch).setF DRC_EYE.WR (min wr.val 63) ch).late :=
  (dramTrainDone_inService started).congr
    (congrArg Chip.late (Chip.dramRunEnd_passed (m := s.chip.fresh) runs rdWide wrWide))

end Sys2Proof.Machine
end

section
/-! PROOFS, family 00_scope. Recorder, sensors, ageing monitors and the self-test on demand (R491 to R509, R513, R531). -/

namespace Sys2Proof.Machine

variable {m : Chip} {i : Nat}

theorem Chip.evArrive_first {e : Ev} {rest : List Ev} (queued : tget [] m.evr.queues i = e :: rest) :
    m.evArrive i = (({ m with evr := { m.evr with queues := tset [] m.evr.queues i rest } } : Chip).recordEv e).noticeEv e := by
  unfold Chip.evArrive
  simp only [queued]

theorem Chip.diodeSample_inForce {xs : List Int} (inForce : m.therm.trip ≠ 0) :
    m.diodeSample xs = ((((((m.takeReadings xs).crossCheck).junction).throttle).thermLine).tripCheck).agePoll.settle := if_neg inForce

theorem Chip.bucketRefill_throttled {us : Nat} (throttled : m.f THM_STAT.LEVEL ≠ 0) :
    m.bucketRefill us =
      { m with th := { m.th with bucket := min ((m.capRate * 1000 : Nat) : Int) (m.th.bucket + (m.capRate * us : Nat)) } } :=
  if_neg throttled

/-- A stable calibration whose offset fits is kept in the device records (R500). -/
theorem Chip.calDone_kept {mean : Int} (runs : m.th.cal = some i)
    (near : (4 * toSigned 10 (m.f THM_CALREF.REF) - mean).natAbs ≤ 127) :
    m.calDone true mean =
      (((m.setF THM_SENS.OFFSET (ofSigned 8 (4 * toSigned 10 (m.f THM_CALREF.REF) - mean)) i).array .record).unrelClear i).calEnd 1 := by
  unfold Chip.calDone
  simp only [runs]
  rw [if_neg (by decide), if_neg (Nat.not_lt.mpr near)]

/-- A canary's failure slows an island whose clock may still fall (R503). -/
theorem Chip.guardFail_slows {r : IslandRec} (planned : m.islandRec i = some r) (notAon : i ≠ 0) (serves : m.islServes i = true)
    (above : 16 * r.fmin < (m.pointOf i).2) :
    m.guardFail i = ((m.setPoint i (m.pointOf i).1 (slower r (m.pointOf i).2)).emit 0 0x6E03).ageNow i := by
  unfold Chip.guardFail
  simp [planned, notAon, serves, above]

/-- The measurement in progress ends where readings were taken since the last one: no free value is drawn (R505). -/
theorem Chip.ageDone_measured {ro0 ro1 : Nat} {canary : List Nat} {written : Bool} (runs : m.ag.cur = some i)
    (read : (m.ageIsl i).tjN ≠ 0) :
    m.ageDone i canary ro0 ro1 written =
      (let m := { m with ag := { m.ag with cur := none } }
       let x := m.ageIsl i
       let tj := ofSigned 16 (meanOf x.tjSum x.tjN)
       let x := { x with canary := canary, ro0 := ro0, ro1 := ro1, tjSum := 0, tjN := 0 }
       let m := m.setAge i { x with m0 := some (x.m0.getD x.margin) }
       let m := if written then m.ageWrite x.m0.isNone (m.ageRecord i tj) else m.emit 0 0x6E06
       (m.rePlan i).ageNext 64) := by
  have readNow : (({ m with ag := { m.ag with cur := none } } : Chip).ageIsl i).tjN ≠ 0 := read
  unfold Chip.ageDone
  simp only [runs, ne_eq, not_true_eq_false, if_false, readNow]

theorem Chip.bistDone_passed {bad : Nat} (runs : m.f PTB_BIST.GO = 1) (passed : bad &&& m.f PTB_BIST.MASK = 0) :
    m.bistDone bad = ((m.setF PTB_BIST.GO 0).setF PTB_BIST.RESULT 1).emit 0 0x6F03 1 := by
  unfold Chip.bistDone
  simp [runs, passed]

end Sys2Proof.Machine
end

section
/-! PROOFS, family 00_scope. The events of the pools, arbiters, memories, recorder, sensors and ageing monitors: O56. -/

namespace Sys2Proof.Machine

/-- Settles O56, row by row in the order of the statement. -/
theorem poolMemoryAndSensorEventsComplete : Obligations.PoolMemoryAndSensorEventsComplete :=
  -- POOL_ALLOC_REQUEST, POOL_GRANT
  ⟨fun s _ _ _ _ _ _ _ pool asks atMost rank fits =>
      completes_of_chip rfl (congrArg Chip.late (Chip.poolRequest_queued (m := s.chip.fresh) pool asks atMost rank fits)),
    fun s _ _ _ _ _ _ _ pool asks atMost rank =>
      completes_of_chip rfl (congrArg Chip.late (Chip.poolRequest_refused (m := s.chip.fresh) pool asks atMost rank)),
    fun _ _ => completes_of_chip rfl (congrArg Chip.late (Chip.grantPopped_none ..)),
    fun _ _ _ bad pops => completes_of_chip rfl (congrArg Chip.late (Chip.grantPopped_bad bad pops)),
    -- POOL_ALLOC_WATCHDOG: a mirror row's request, other device work, a host command
    fun s _ _ _ waits mirror device => completes_of_chip rfl (Chip.poolWatchdog_mirror (m := s.chip.fresh) waits mirror device),
    fun _ _ _ _ waits other device => poolAllocWatchdog_retried waits other device,
    fun s _ _ _ waits host => completes_of_chip rfl (Chip.poolWatchdog_host (m := s.chip.fresh) waits host),
    -- DEVICE_WORK_RETRY
    fun _ _ _ kept => deviceWorkRetry_pool kept,
    fun _ _ _ kept => deviceWorkRetry_unit kept,
    fun _ _ _ kept => completes_of_chip rfl (if_pos kept),
    -- BUFFER_RELEASE, BUFFER_ADD_OWNER, FREE_LIST_REBUILD_DONE
    fun _ _ _ _ found names shared => bufferRelease_shared found names shared,
    fun _ _ _ _ found names last => bufferRelease_last found names last,
    fun s _ _ _ found countable names => completes_of_chip rfl (Chip.addOwner_added (m := s.chip.fresh) found countable names),
    fun s p _ rebuilds => completes_of_chip rfl (if_neg (show ¬ s.chip.f BPM_POOLSTAT.REBUILD p = 0 by omega)),
    -- ARBITER_DRAW, ARBITER_TRANSFER_END
    fun s _ _ serves asked notParked idle =>
      completes_of_chip rfl (Chip.arbDraw_grants (m := s.chip.fresh) serves asked notParked idle),
    fun s _ _ _ busy drawn stays => completes_of_chip rfl (Chip.arbEnd_winner (m := s.chip.fresh) busy drawn stays),
    fun s _ _ busy undrawn alone => completes_of_chip rfl (Chip.arbEnd_parks (m := s.chip.fresh) busy undrawn alone),
    -- DRAM_ACCESS_ARRIVE
    fun s _ _ _ _ _ on flows noRun empty writes reads =>
      completes_of_chip rfl (Chip.dramArrive_enters (m := s.chip.fresh) on flows noRun empty writes reads),
    fun s _ _ _ _ _ on shut => completes_of_chip rfl (Chip.dramArrive_held (m := s.chip.fresh) on shut),
    -- DRAM_ALERT: a first failure, a third one, a log that cannot be read
    fun s _ _ _ _ _ on noRun named first =>
      completes_of_chip rfl (congrArg Chip.settle (Chip.dramAlert_first (m := s.chip.fresh) on noRun named first)),
    fun s _ _ _ _ _ on noRun named again twice =>
      completes_of_chip rfl (congrArg Chip.settle (Chip.dramAlert_third (m := s.chip.fresh) on noRun named again twice)),
    fun s _ _ _ _ _ on noRun named first =>
      completes_of_chip rfl (congrArg Chip.settle (Chip.dramAlert_unreadable (m := s.chip.fresh) on noRun named first)),
    -- DRAM_ACCESS_DONE, REFRESH_INTERVAL, the polls, DRAM_TRAIN_DONE
    fun s _ _ _ _ on next write whole => completes_of_chip rfl (Chip.dramDone_write (m := s.chip.fresh) on next write whole),
    fun _ _ _ on => refreshInterval_on on,
    fun _ _ _ on => mr4Poll_on on,
    fun _ _ _ on => mr4Poll_on on,
    fun _ _ _ on far => (dqsOscillatorPoll_on on).congr (if_pos far),
    fun _ _ _ on near => (dqsOscillatorPoll_on on).congr (if_neg (Nat.not_lt.mpr near)),
    fun _ _ _ _ _ _ _ started runs rdWide wrWide => dramTrainDone_passed started runs rdWide wrWide,
    -- MEMORY_SCRUB_DONE, EVENT_RAISE, TOKEN_REFILL
    fun s _ runs => completes_of_chip rfl (if_neg (show ¬ s.chip.f SDP_SCRUB_STAT.BUSY = 0 by omega)),
    fun s _ _ _ queued => completes_of_chip rfl (Chip.evArrive_first (m := s.chip.fresh) queued),
    fun _ _ => completes_of_chip rfl rfl,
    -- DIODE_SAMPLE, THROTTLE_BUCKET_REFILL, CALIBRATION_DONE
    fun s _ inForce => completes_of_chip rfl (Chip.diodeSample_inForce (m := s.chip.fresh) inForce),
    fun s _ throttled => completes_of_chip rfl (congrArg Chip.settle (Chip.bucketRefill_throttled (m := s.chip.fresh) throttled)),
    fun s _ _ runs near => completes_of_chip rfl (Chip.calDone_kept (m := s.chip.fresh) runs near),
    -- CANARY_GUARD_FAIL, AGE_MEASURE_TIMER, ISLAND_MEASURE_DONE, REMEASURE_TIMER, POWER_ON_HOUR
    fun s _ _ planned notAon serves above =>
      completes_of_chip rfl (Chip.guardFail_slows (m := s.chip.fresh) planned notAon serves above),
    fun _ => completes_of_chip rfl rfl,
    fun s _ _ _ _ _ runs read => completes_of_chip rfl (Chip.ageDone_measured (m := s.chip.fresh) runs read),
    fun _ _ again => completes_of_chip rfl (if_pos again),
    fun _ => completes_of_chip rfl rfl,
    -- ONDEMAND_SELFTEST_DONE
    fun s _ runs passed => completes_of_chip rfl (congrArg Chip.late (Chip.bistDone_passed (m := s.chip.fresh) runs passed))⟩

end Sys2Proof.Machine
end

section
/-! PROOFS, family 03_drite_image. Image commands while an image operation runs (R73): O22. -/

namespace Sys2Proof.Machine

variable {m : Chip} {rq : Rq} {s : State} {src : Bool}

/-- Every word the image commands put in IMG_CMD sets GO. -/
theorem imgWord_sets_go (op : Fin 5) (src : Bool) :
    bitOf (2 ^ IMG_CMD.GO.lo + b1 src * 2 ^ IMG_CMD.SRC.lo + op.val * 2 ^ IMG_CMD.OP.lo) 7 = true := by
  revert op src
  decide

/-- While an operation runs a set GO is refused before anything is stored. -/
theorem Chip.cwIMG_go_busy {w : Nat} (busy : m.f IMG_STAT.BUSY = 1) (go : bitOf w 7 = true) :
    m.cwIMG (IMG_CMD.GO.off 0) w = m.cfgEvent (IMG_CMD.GO.off 0) := by
  simp [Chip.cwIMG, busy, go]

theorem Chip.cwIMG_data (w : Nat) : m.cwIMG (IMG_DATA.DATA.off 0) w = m.imgData w :=
  (if_neg (by decide)).trans (if_pos rfl)

theorem Chip.imgPut_busy (open_ : m.writable rq (IMG_CMD.GO.off 0)) (busy : m.f IMG_STAT.BUSY = 1) (op : Fin 5) (src : Bool) :
    m.imgPut rq op src = m.cfgEvent (IMG_CMD.GO.off 0) := by
  rw [Chip.imgPut, Chip.cwPut_open open_.1 (by decide), Chip.writeReg_IMG open_.2 (by decide),
    Chip.cwIMG_go_busy busy (imgWord_sets_go op src)]

theorem Chip.imgDataPut_busy (open_ : m.writable rq (IMG_DATA.DATA.off 0)) (busy : m.f IMG_STAT.BUSY = 1) (w : Nat) :
    m.cwPut rq IMG_DATA.DATA w = m := by
  rw [Chip.cwPut_open open_.1 (by decide), Chip.writeReg_IMG open_.2 (by decide), Chip.cwIMG_data]
  exact if_pos busy

/-- A command that puts an operation in IMG_CMD while another runs completes with the configuration-class event alone. -/
theorem imgCommand_busy {c : Instr} (op : Fin 5) (means : exec c s = run s fun m => m.imgPut rq op src)
    (open_ : s.chip.writable rq (IMG_CMD.GO.off 0)) (busy : s.chip.f IMG_STAT.BUSY = 1) :
    Completes c s fun m => m.cfgEvent (IMG_CMD.GO.off 0) :=
  completes_of means (Chip.imgPut_busy (m := s.chip.fresh) (Chip.writable_fresh open_) busy op src)

/-- Settles O22: each image command is one write of IMG_CMD, refused before its fields are stored, and the event changes no image register. -/
theorem imageCommandsWaitForTheRunningOperation : Obligations.ImageCommandsWaitForTheRunningOperation := by
  intro s rq src v busy
  refine ⟨fun open_ => ⟨?commands, ?status⟩, fun open_ =>
    completes_of_chip rfl (Chip.imgDataPut_busy (m := s.chip.fresh) (Chip.writable_fresh open_) busy _)⟩
  case commands =>
    simp only [List.forall_mem_cons]
    exact ⟨imgCommand_busy 0 rfl open_ busy, imgCommand_busy 1 rfl open_ busy, imgCommand_busy 2 rfl open_ busy,
      imgCommand_busy 3 rfl open_ busy, imgCommand_busy 4 rfl open_ busy, fun _ mem => absurd mem List.not_mem_nil⟩
  case status =>
    have below : ∀ g ∈ [IMG_STAT.BUSY, IMG_STAT.RESULT, IMG_STAT.SECTYPE, IMG_STAT.RECORD], g.key 0 < 0x260000 * 32 := by decide
    exact fun g mem => Chip.f_emit_below _ _ _ _ _ g 0 (below g mem)

end Sys2Proof.Machine
end

section
/-! PROOFS, family 03_drite_image. What starts, resets and controllers' requests do in each case (R85, R86, R463,
R465, R466, R472 to R478). -/

namespace Sys2Proof.Machine

variable {m : Chip}

/-! ## Warm resets (R472, R473) -/

/-- A warm reset asked for from step 3 of a start on begins, unless a flush, or for the watchdog an array pulse, is to end first. -/
theorem Chip.warmAsk_starts {k : Nat} (pastRails : 3 ≤ m.st.step) (noFlush : m.plp.flushing = false) (uncommitted : m.f PLP_STAT.STATE ≠ 3)
    (noPulse : k = 1 → m.pulseRuns = false) : m.warmAsk k = m.warmStart k := by
  have noWait : ¬ (k = 1 ∧ m.pulseRuns = true) := fun ⟨watchdog, pulse⟩ => by simp [noPulse watchdog] at pulse
  rw [Chip.warmAsk, if_neg (by omega), if_neg (by simp [noFlush]), if_neg noWait]

/-- During a flush it is kept until the flush ends. -/
theorem Chip.warmAsk_flushing (k : Nat) (pastRails : 3 ≤ m.st.step) (flushing : m.plp.flushing = true)
    (uncommitted : m.f PLP_STAT.STATE ≠ 3) :
    m.warmAsk k = { m with st := { m.st with pendWarm := some k } } := by
  rw [Chip.warmAsk, if_neg (by omega), if_pos flushing]

/-! ## Configuration requests (R85, R86, R463) -/

theorem Chip.configRequest_untrusted {f : Nat} {c : CfgReq} (noImage : m.f GEN_STAT.STRUCT_OK = 0) (noRecovery : m.f GEN_STAT.RECOVERY = 0)
    (noRom : m.f TRS_STAT.ROMREC = 0) (trained : m.trained f = true) : m.configRequest f c = m.send (.config f 1 []) := by
  rw [Chip.configRequest, if_pos ⟨noImage, noRecovery, noRom⟩, if_pos trained]

theorem Chip.configRequest_absent {f : Nat} {c : CfgReq} (image : m.f GEN_STAT.STRUCT_OK = 1) (absent : m.fnLive f = false) :
    m.configRequest f c = m.send (.config f 2 []) := by
  rw [Chip.configRequest, if_neg (by simp [image]), if_pos (by simp [absent])]

/-- A request to a function that is there is carried out and answered. -/
theorem Chip.configRequest_live {f : Nat} (c : CfgReq) (image : m.f GEN_STAT.STRUCT_OK = 1) (live : m.fnLive f = true)
    (up : m.linkUp (m.slotOf f) = true) :
    m.configRequest f c = (m.configWrite f c).send (.config f 0 (if c = .read then (m.configWrite f c).configProps f else [])) := by
  rw [Chip.configRequest, if_neg (by simp [image]), if_neg (by simp [live]), if_neg (by simp [up])]

/-- What a write of the configuration space gives is answered without properties. -/
theorem Chip.configRequest_write {f : Nat} {c : CfgReq} {m' : Chip} (image : m.f GEN_STAT.STRUCT_OK = 1) (live : m.fnLive f = true)
    (up : m.linkUp (m.slotOf f) = true) (write : c ≠ .read) (gives : m.configWrite f c = m') :
    m.configRequest f c = m'.send (.config f 0 []) := by
  rw [Chip.configRequest_live c image live up, if_neg write, gives]

theorem Chip.configWrite_numVfs {f : Nat} (n : Fin 4097) (physical : m.portPf (m.slotOf f) = some f) :
    m.configWrite f (.numVfs n) = (m.setNumVfs f n).settle := if_pos physical

theorem Chip.configWrite_deviceControl (f : Nat) {mps mrrs : Fin 8} (mpsKnown : mps.val ≤ 2) (mrrsKnown : mrrs.val ≤ 5) :
    m.configWrite f (.deviceControl mps mrrs) = m.modPcie f fun p => { p with mps := mps, mrrs := mrrs } := by
  simp only [Chip.configWrite, mpsKnown, mrrsKnown, if_true]

/-! ## Controllers (R465, R475, R477) -/

/-- Function `f` after its enable is taken: its controller waits to be ready, and its admin queue pair is set up. -/
def Chip.enabled (m : Chip) (f asq acq asqs acqs : Nat) (wrr : Bool) : Chip :=
  let k := 262144 + f
  let m := m.setFn f { m.fn f with
    enHeld := true, wrr := wrr, anaNotices := true, zoneNotices := true, aqa := asqs + 2 ^ 16 * acqs, asq := asq / 4096 * 4096,
    acq := acq / 4096 * 4096, cc := 0x460001 + 2 ^ 11 * b1 wrr }
  m.setQc k { m.qc k with
    sqBase := asq / 4096 * 4096, sqValid := true, sqSize := asqs, sqHead := 0, sqTail := 0, sqState := 3, sqCq := k
    cqBase := acq / 4096 * 4096, cqValid := true, cqIen := true, cqPhase := 1, cqSize := acqs, cqHead := 0, cqTail := 0, cqIv := 0
    func := f, qid := 0 }

/-- An enable of a controller that is off is taken, and is ready at once where the start is over. -/
theorem Chip.enable_off {f asq acq asqs acqs : Nat} {wrr : Bool} (reached : m.reached f = true) (off : (m.fn f).en = false)
    (notHeld : (m.fn f).enHeld = false) :
    m.enable f asq acq asqs acqs wrr =
      if m.st.step = 14 then (m.enabled f asq acq asqs acqs wrr).fnReady f else m.enabled f asq acq asqs acqs wrr := by
  unfold Chip.enable
  exact if_neg (by simp [reached, off, notHeld])

theorem Chip.disable_on {f : Nat} (reached : m.reached f = true) (on : (m.fn f).en = true) : m.disable f = (m.resetFn true f).late :=
  if_pos ⟨reached, .inl on⟩

theorem Chip.notifyShutdown_on {f : Nat} (abrupt : Bool) (reached : m.reached f = true) (on : (m.fn f).en = true) :
    m.notifyShutdown f abrupt =
      (let x := m.fn f
       let shn := if abrupt then 2 else 1
       (m.setFn f { x with shn := shn, shst := 1, cc := x.cc % 2 ^ 14 + 2 ^ 14 * shn + x.cc / 2 ^ 16 * 2 ^ 16 }).late) :=
  if_pos ⟨reached, on⟩

/-! ## The clean shutdown and checkpoints (R466, R478) -/

theorem Chip.cleanShutdown_starts {twinShut : Bool} (started : m.st.step = 14) (allShut : m.allShut = true)
    (alone : m.aloneNow = true ∨ twinShut = true) (notYet : m.st.clean = false) :
    m.cleanShutdown twinShut =
      (let m := { m with st := { m.st with shutting := true } }
       (m.stagedRows.foldl (fun (m : Chip) e => m.startSpill e.1 e.2.1) m).cleanPoll) := by
  unfold Chip.cleanShutdown
  exact if_neg (by rcases alone with alone | twin <;> simp [*])

/-- Without the metadata key a checkpoint waits (R307). -/
theorem Chip.checkpoint_unkeyed (unkeyed : (m.kslot 8193).state ≠ 1) : m.checkpoint = m := if_pos unkeyed

theorem Chip.checkpoint_keyed (keyed : (m.kslot 8193).state = 1) :
    m.checkpoint =
      (let n := m.st.ckptSeq + 1
       let m := m.writeDeltas true
       let m := { m with st := { m.st with ckptSeq := n, roots := (m.st.roots ++ [n]).drop (m.st.roots.length + 1 - 4), erases := [] } }
       (if (rootPlace n).2 = 1 then m.array (.erase 512 (rootPlace n).1) else m).array (.program 512 (rootPlace n).1 (rootRecord n))) :=
  if_neg (not_not_intro keyed)

end Sys2Proof.Machine
end

section
/-! PROOFS, family 03_drite_image. Epoch switches (R76, R78), spills (R158), the sequencer's inputs (R443 to R447) and the power-fail
lines (R453, R454). -/

namespace Sys2Proof.Machine

variable {m : Chip} {s : State} {i : Nat} {r : RailRec}

/-! ## Epoch switches -/

theorem epochLoaded_serves {i : Isl} {sw : Switch} (switching : s.chip.img.switch = some sw) (serves : s.chip.islServes i = true) :
    Completes (.epochLoaded i) s fun m =>
      ({ m with img := { m.img with switch := some { sw with loaded := sw.loaded ||| 2 ^ i.val } } } : Chip).switchPoll.late := by
  have switchingNow : s.chip.fresh.img.switch = some sw := switching
  refine completes_of_chip rfl ?_
  simp only [switchingNow]
  exact if_pos serves

/-- An island outside the clusters, and every island while no barrier flies, is not behind a barrier's marker. -/
theorem Chip.noMarkLate {k : Nat} (notBehind : k < 12 ∨ m.isl.flight = none) :
    (decide (12 ≤ k) && m.isl.flight.any fun b => decide (b.src = .image) && m.markLate b (k - 12)) = false := by
  rcases notBehind with outside | noBarrier
  · simp [Nat.not_le.mpr outside]
  · simp [noBarrier]

/-- An island that stamps acknowledges, unless it is behind the marker of an image barrier in flight. -/
theorem epochCommitAck_stamping {i : Isl} {sw : Switch} (switching : s.chip.img.switch = some sw) (stamping : sw.stamping = true)
    (serves : s.chip.islServes i = true) (notBehind : i.val < 12 ∨ s.chip.isl.flight = none) :
    Completes (.epochCommitAck i) s fun m => (m.commitAck i.val sw.epoch).switchPoll.late := by
  have switchingNow : s.chip.fresh.img.switch = some sw := switching
  have servesNow : s.chip.fresh.islServes i = true := serves
  refine completes_of_chip rfl ?_
  simp only [switchingNow]
  exact if_pos (by rw [stamping, servesNow, Chip.noMarkLate (m := s.chip.fresh) notBehind]; rfl)

theorem epochSwitchTimeout_switching {sw : Switch} (switching : s.chip.img.switch = some sw) :
    Completes .epochSwitchTimeout s fun m => ((m.rollback 0xD).emit 1 0x3004 (allIslands - m.f IMG_ACKMASK.ACK)).late := by
  have switchingNow : s.chip.fresh.img.switch = some sw := switching
  refine completes_of_chip rfl ?_
  simp only [switchingNow]

/-! ## Spills -/

/-- Of one open row, which no unit still spills, the spill is done. -/
theorem Chip.spillsDone_single {z r : Nat} (rows : (m.stagedStripes z).flatMap m.openRows = [(z, r)]) (stored : m.spilling z r = false) :
    m.spillsDone z = m.spillDone z r := by
  simp [Chip.spillsDone, rows, stored]

theorem Chip.spillDone_planned {z r d b n : Nat} (planned : (m.row z r).plan = some (d, b, n)) :
    m.spillDone z r =
      (let m := m.setRow z r { m.row z r with plan := none, spill := some (d, b, n) }
       let m := m.delta 0x09 z (some z) (leBytes 2 r ++ leBytes 6 0 ++ leBytes 8 (d + b * 2 ^ 12 + 2 ^ 25 * n))
       let m := m.releaseBuffers (rowWork z r)
       let m := if m.paired then m.sendFrame 0x07 (some z) none (leBytes 2 r ++ leBytes 1 1 ++ leBytes 4 (m.zone z).pwp) [] else m
       let m := (m.setZone z { m.zone z with spilled := true }).zoneDelta z
       (m.incF ZNE_SPILLCNT.SPILLS).emit 10 0x403C) := by
  unfold Chip.spillDone
  simp only [planned]

/-! ## The sequencer's inputs -/

theorem Chip.seqFront_taken (free : m.f PSQ_STAT.SYNC_PULL = 0) (notDown : m.f PSQ_STAT.DIR ≠ 3) :
    m.seqFront =
      (let us := min ((m.isl.dtc - m.psq.frontAt) * 2 / 125) 65535
       let dir := m.f PSQ_STAT.DIR
       let st := m.f PSQ_STAT.S
       let m := (m.setF PSQ_FRONT.LAST_US us).setF PSQ_FRONT.MAX_US (max us (m.f PSQ_FRONT.MAX_US))
       let m := { m with psq := { m.psq with frontAt := m.isl.dtc } }
       let m := (((m.setF PSQ_STAT.S (if dir = 2 then st - 1 else st + 1)).setF PSQ_STAT.SEQOUT 0).setF PSQ_STAT.SEQIN 0).setF
         PSQ_STAT.SYNC_PULL 1
       m.upPoll.downPoll) :=
  if_neg (by simp [free, notDown])

/-- A rail in use is judged by a code: the consecutive samples in tolerance, out of it and below the discharge level are counted. -/
def Chip.railSampled (m : Chip) (i code : Nat) (r : RailRec) : Chip :=
  let x := m.rail i
  let gap := if code < r.vsNominal then r.vsNominal - code else code - r.vsNominal
  let ok := decide (gap * 100 ≤ m.f PSQ_CFG.VS_TOL * r.vsNominal)
  let x := { x with
    inTol := if ok then min (x.inTol + 1) 3 else 0
    outTol := if ok then 0 else min (x.outTol + 1) 3
    low := if code < r.vsDischarge then min (x.low + 1) 3 else 0 }
  ((m.setRail i x).setF PSQ_VS.INRANGE (b1 (decide (2 ≤ x.inTol))) i).judgeNow i

/-- The code of a rail is kept. -/
def Chip.codeKept (m : Chip) (code : Fin 1024) (i : Nat) : Chip := m.setF PSQ_VS.CODE code.val i

/-- The codes of several rails are kept, each with its rail's number. -/
def Chip.codesKept (m : Chip) (l : List (Fin 1024 × Nat)) : Chip := l.foldl (fun (m : Chip) e => m.codeKept e.1 e.2) m

theorem Chip.codeKept_psq (code : Fin 1024) : (m.codeKept code i).psq = m.psq := rfl

theorem Chip.vsSample_unused (code : Fin 1024) (unused : m.railRec? i = none) : m.vsSample i code = m.codeKept code i := by
  have unusedStill : (m.setF PSQ_VS.CODE code i).railRec? i = none := unused
  have fits : min code.val 1023 = code.val := Nat.min_eq_left (by omega)
  simp only [Chip.vsSample, fits, unusedStill, Chip.codeKept]

theorem Chip.vsSample_used (code : Fin 1024) (used : m.railRec? i = some r) :
    m.vsSample i code = (m.codeKept code i).railSampled i code r := by
  have usedStill : (m.setF PSQ_VS.CODE code i).railRec? i = some r := used
  have fits : min code.val 1023 = code.val := Nat.min_eq_left (by omega)
  unfold Chip.vsSample
  rw [fits]
  simp only [usedStill]
  rfl

theorem Chip.codesKept_psq (l : List (Fin 1024 × Nat)) (m : Chip) : (m.codesKept l).psq = m.psq := by
  induction l generalizing m with
  | nil => rfl
  | cons e l ih => exact (ih _).trans (Chip.codeKept_psq _)

/-- Codes of rails not in use are kept, and nothing else happens. -/
theorem Chip.foldl_vsSample_unused (l : List (Fin 1024 × Nat)) (m : Chip) (unused : ∀ e ∈ l, m.railRec? e.2 = none) :
    l.foldl (fun (m : Chip) e => m.vsSample e.2 e.1.val) m = m.codesKept l := by
  induction l generalizing m with
  | nil => rfl
  | cons e l ih =>
    obtain ⟨first, rest⟩ := List.forall_mem_cons.mp unused
    simp only [List.foldl_cons, Chip.vsSample_unused e.1 first]
    exact ih _ rest

/-- Where rail 15 alone is in use, the last of the 16 codes judges it. -/
theorem Chip.foldl_vsSample_rail15 {init : List (Fin 1024)} {code : Fin 1024} (len : init.length = 15) (rails : m.psq.seq.rails = [r])
    (last : r.rail = 15) :
    (init.zipIdx ++ [(code, 15)]).foldl (fun (m : Chip) (e : Fin 1024 × Nat) => m.vsSample e.2 e.1.val) m =
      ((m.codesKept init.zipIdx).codeKept code 15).railSampled 15 code r := by
  have unused (e) (mem : e ∈ init.zipIdx) : m.railRec? e.2 = none := by
    have below : e.2 < 15 := by simpa [len] using List.snd_lt_of_mem_zipIdx mem
    simp [Chip.railRec?, rails, last]
    omega
  have used : (m.codesKept init.zipIdx).railRec? 15 = some r := by
    simp [Chip.railRec?, Chip.codesKept_psq, rails, last]
  rw [List.foldl_append, Chip.foldl_vsSample_unused _ _ unused]
  exact Chip.vsSample_used code used

/-- Sixteen codes are those of rails 0 to 15. -/
theorem zipIdx_sixteen {init : List (Fin 1024)} (code : Fin 1024) (len : init.length = 15) :
    (init ++ [code]).zipIdx.filter (fun e => decide (e.2 < 16)) = init.zipIdx ++ [(code, 15)] := by
  have all : (init ++ [code]).zipIdx.filter (fun e => decide (e.2 < 16)) = (init ++ [code]).zipIdx :=
    List.filter_eq_self.mpr fun e mem => decide_eq_true (by simpa [len] using List.snd_lt_of_mem_zipIdx mem)
  rw [all, List.zipIdx_append, len]
  rfl

theorem vsSample_rail15 {init : List (Fin 1024)} {code : Fin 1024} (len : init.length = 15) (rails : s.chip.psq.seq.rails = [r])
    (last : r.rail = 15) :
    Completes (.vsSample (init ++ [code])) s fun m =>
      (((m.codesKept init.zipIdx).codeKept code 15).railSampled 15 code r).late := by
  refine completes_of_chip rfl (congrArg Chip.late ?_)
  rw [zipIdx_sixteen code len]
  exact Chip.foldl_vsSample_rail15 (m := s.chip.fresh) len rails last

/-- A rail that is judged by its PG input and is not good in time is a fault. -/
theorem Chip.pgTimeout_faults (named : m.railRec? i = some r) (rising : (m.rail i).state = 1) (up : m.f PSQ_STAT.DIR = 0)
    (pg : r.pg = true) : m.pgTimeout i = m.seqFault PSQ_FAULT.PGTIMEOUT 0 i := by
  simp [Chip.pgTimeout, named, rising, up, pg]

/-- A rail that is judged neither by PG nor by its voltage is up when its time is. -/
theorem Chip.pgTimeout_rises (named : m.railRec? i = some r) (rising : (m.rail i).state = 1) (up : m.f PSQ_STAT.DIR = 0)
    (noPg : r.pg = false) (noVs : r.vs = false) : m.pgTimeout i = (m.setRail i { m.rail i with state := 2 }).upPoll := by
  simp [Chip.pgTimeout, named, rising, up, noPg, noVs]

/-! ## The power-fail lines -/

theorem Chip.lullWake_awake {src wh : Nat} (awake : m.f PWR_STAT.STATE ≤ 1) : m.lullWake src wh = m := if_neg (by omega)

/-- The first line asserted, with no flush or commit running and no line that lingers, opens the window for the other one. -/
theorem Chip.pfailAssert_first (b : Bool) (undecided : m.f PLP_STAT.STATE ≤ 1) (noLinger : m.f PLP_STAT.LINGER = 0)
    (first : m.plp.first = none) : m.pfailAssert b = (m.setF (pfailField b) 1).pfailFirst b := by
  have lingerStill : (m.setF (pfailField b) 1).f PLP_STAT.LINGER = 0 := by
    rw [Chip.f_setF_ne _ _ _ _ _ _ (by cases b <;> decide), noLinger]
  have firstStill : (m.setF (pfailField b) 1).plp.first.isNone = true := Option.isNone_iff_eq_none.mpr first
  unfold Chip.pfailAssert
  rw [if_neg (by omega), if_neg (by simp [lingerStill]), if_pos firstStill]

theorem Chip.discTimeout_open {t : Nat} (first : m.plp.first = some t) : m.discTimeout = m.discrepancy := if_neg (by simp [first])

end Sys2Proof.Machine
end

section
/-! PROOFS, family 03_drite_image. Starts, resets, controllers, epoch switches, the sequencer and the power-fail lines: O52. -/

namespace Sys2Proof.Machine

/-- Settles O52, row by row in the order of the statement. -/
theorem startResetAndSequencingEventsComplete : Obligations.StartResetAndSequencingEventsComplete :=
  -- COLD_START, PORST_ASSERT
  ⟨fun _ _ _ _ _ idle cold => completes_of_chip rfl (if_neg (by simp [Chip.fresh, idle, cold])),
    fun _ => completes_of_chip rfl rfl,
    -- WARM_RESET, MGT_WATCHDOG_EXPIRY, NVM_SUBSYSTEM_RESET, at once and during a flush
    fun _ _ _ pastRails noFlush uncommitted => completes_of_chip rfl
      (congrArg Chip.late (Chip.warmAsk_starts (by exact pastRails) (by exact noFlush) (by exact uncommitted) nofun)),
    fun s pastRails noFlush uncommitted noPulse => completes_of_chip rfl
      (congrArg Chip.late (Chip.warmAsk_starts (m := s.chip.fresh) pastRails noFlush uncommitted fun _ => noPulse)),
    fun s pastRails noFlush uncommitted => completes_of_chip rfl
      (congrArg Chip.late (Chip.warmAsk_starts (m := s.chip.fresh) pastRails noFlush uncommitted nofun)),
    fun s pastRails flushing uncommitted => completes_of_chip rfl
      (congrArg Chip.late (Chip.warmAsk_flushing (m := s.chip.fresh) 2 pastRails flushing uncommitted)),
    -- CONFIG_REQUEST: a read, an absent function, before the image, NumVFs, Device Control
    fun s _ image live up => completes_of_chip rfl (Chip.configRequest_live (m := s.chip.fresh) .read image live up),
    fun s _ _ image absent => completes_of_chip rfl (Chip.configRequest_absent (m := s.chip.fresh) image absent),
    fun s _ _ noImage noRecovery noRom trained =>
      completes_of_chip rfl (Chip.configRequest_untrusted (m := s.chip.fresh) noImage noRecovery noRom trained),
    fun s _ n image live up physical => completes_of_chip rfl
      (Chip.configRequest_write (m := s.chip.fresh) image live up CfgReq.noConfusion (Chip.configWrite_numVfs n physical)),
    fun s f _ _ image live up mpsKnown mrrsKnown => completes_of_chip rfl
      (Chip.configRequest_write (m := s.chip.fresh) image live up CfgReq.noConfusion
        (Chip.configWrite_deviceControl f mpsKnown mrrsKnown)),
    -- CONTROLLER_ENABLE before and after the start, CONTROLLER_READY_TIMEOUT, CONTROLLER_RESET, SHUTDOWN_NOTIFICATION
    fun s _ _ _ _ _ _ reached off notHeld starting => completes_of_chip rfl
      ((Chip.enable_off (m := s.chip.fresh) reached off notHeld).trans (if_neg starting)),
    fun s _ _ _ _ _ _ reached off notHeld started => completes_of_chip rfl
      ((Chip.enable_off (m := s.chip.fresh) reached off notHeld).trans (if_pos started)),
    fun _ _ held => completes_of_chip rfl (if_pos held),
    fun s _ reached on => completes_of_chip rfl (Chip.disable_on (m := s.chip.fresh) reached on),
    fun s _ abrupt reached on => completes_of_chip rfl (Chip.notifyShutdown_on (m := s.chip.fresh) abrupt reached on),
    -- CLEAN_SHUTDOWN, CHECKPOINT
    fun s _ started allShut alone notYet => completes_of_chip rfl
      (congrArg Chip.late (Chip.cleanShutdown_starts (m := s.chip.fresh) started allShut alone notYet)),
    fun s started keyed => completes_of_chip rfl ((if_pos started).trans (Chip.checkpoint_keyed (m := s.chip.fresh) keyed)),
    fun s started unkeyed => completes_of_chip rfl ((if_pos started).trans (Chip.checkpoint_unkeyed (m := s.chip.fresh) unkeyed)),
    -- EPOCH_LOADED, EPOCH_COMMIT_ACK, EPOCH_SWITCH_TIMEOUT
    fun _ _ _ switching serves => epochLoaded_serves switching serves,
    fun _ _ _ switching stamping serves notBehind => epochCommitAck_stamping switching stamping serves notBehind,
    fun _ _ switching => epochSwitchTimeout_switching switching,
    -- SPILL_PROGRAM_DONE
    fun s _ _ _ _ _ rows stored planned => completes_of_chip rfl (congrArg Chip.late
      ((Chip.spillsDone_single (m := s.chip.fresh) rows stored).trans (Chip.spillDone_planned (m := s.chip.fresh) planned))),
    -- SEQ_FRONT, SEQ_IN_ASSERT, VS_SAMPLE, PG_CHANGE, PG_TIMEOUT
    fun s free notDown => completes_of_chip rfl (congrArg Chip.late (Chip.seqFront_taken (m := s.chip.fresh) free notDown)),
    fun _ => completes_of_chip rfl rfl,
    fun _ _ _ _ len rails last => vsSample_rail15 len rails last,
    fun _ _ _ => completes_of_chip rfl rfl,
    fun s _ _ named rising up pg =>
      completes_of_chip rfl (congrArg Chip.late (Chip.pgTimeout_faults (m := s.chip.fresh) named rising up pg)),
    fun s _ _ named rising up noPg noVs =>
      completes_of_chip rfl (congrArg Chip.late (Chip.pgTimeout_rises (m := s.chip.fresh) named rising up noPg noVs)),
    -- PFAIL_ASSERT, DISCREPANCY_TIMEOUT
    fun s b awake undecided noLinger first => completes_of_chip rfl (congrArg Chip.late
      ((congrArg (·.pfailAssert b) (Chip.lullWake_awake (m := s.chip.fresh) awake)).trans
        (Chip.pfailAssert_first (m := s.chip.fresh) b undecided noLinger first))),
    fun s _ first => completes_of_chip rfl (congrArg Chip.late (Chip.discTimeout_open (m := s.chip.fresh) first))⟩

end Sys2Proof.Machine
end

section
/-! PROOFS, family 04_host_ports. What the proofs of the host ports' statements share: what a slot holds does not depend on the outputs of earlier
commands, and a check that holds lets a meaning go on. -/

namespace Sys2Proof.Machine

variable {m : Chip} {i op : Nat} {c : Cmd}

theorem not_not_of_true {a : Bool} (h : a = true) : ¬ (!a) = true := by simp [h]

theorem Chip.adminAt_fresh (h : m.adminAt i op c) : m.fresh.adminAt i op c := h

theorem Chip.dataAt_fresh (h : m.dataAt i op c) : m.fresh.dataAt i op c := h

end Sys2Proof.Machine
end

section
/-! PROOFS, family 04_host_ports. Identify, the namespace commands and the log pages (R103, R145, R177, R302, R346, R559): O38. -/

namespace Sys2Proof.Machine

variable {m : Chip} {i lid : Nat} {c d : Cmd} {n : Ns} {s : State} {slot : SlotId}

/-! ## Log pages -/

/-- The bytes a Get Log Page asks for. -/
def logBytes (c : Cmd) : Nat := (65536 * (dw c.entry 11 % 65536) + bits (dw c.entry 10) 31 16 + 1) * 4

/-- A log page whose pointers are all known goes to the host, and the command completes. -/
theorem Chip.logPage_in (h : m.adminAt i 0x02 c) (page : bits (dw c.entry 10) 7 0 = lid) (known : m.ptrsIn i (logBytes c) c d)
    (g : Cmd → Chip → List Byte × Chip) :
    m.logPage i lid g =
      ((g c (m.ptrsAsked i (logBytes c) c)).2.giveHost i 0
        (slice (g c (m.ptrsAsked i (logBytes c) c)).1 (dw c.entry 12 + 2 ^ 32 * (dw c.entry 13)) (logBytes c))).finish i (some stOk) :=
  (Chip.adminCmd_at h _).trans ((if_neg (not_not_intro page)).trans (Chip.withPtrs_in h.1 known _))

/-! ## Identify -/

/-- The CNS values under which the entry names no namespace are known ones. -/
theorem cns_without_namespace {cns : Nat} (other : cns ∈ [0x01, 0x02, 0x06, 0x07, 0x13]) :
    cns ∈ [0x00, 0x01, 0x02, 0x05, 0x06, 0x07, 0x12, 0x13] ∧ ¬ (cns = 0x00 ∨ cns = 0x05 ∨ cns = 0x12) := by
  revert cns
  decide

/-! ## Namespaces -/

theorem namespaceCreate_asks (at_ : s.chip.adminAt slot 0x0D c) (create : bits (dw c.entry 10) 3 0 = 0) :
    Completes (.namespaceCreate slot) s fun m =>
      (m.modCmd slot fun c => { c with phase := .running, want := 4096, dataOpen := true }).fetchData slot 4096 := by
  have found : s.chip.fresh.cmd? slot = some c := at_.1
  refine completes_of_chip rfl ?_
  simp only [found]
  exact (if_neg (not_not_of_true (decide_eq_true create))).trans (Chip.adminData_ask (Chip.adminAt_fresh at_) rfl _ _)

theorem namespaceCreate_creates (at_ : s.chip.dataAt slot 0x0D c) (create : bits (dw c.entry 10) 3 0 = 0) (made : s.chip.createNs c = .ok n) :
    Completes (.namespaceCreate slot) s fun m =>
      ((({ m with zn := { m.zn with ns := m.zn.ns ++ [n] } } : Chip).giveZones n).newDataKey n.keySlot n.tenant n.nsid).finish slot
        (some stOk) n.nsid := by
  have found : s.chip.fresh.cmd? slot = some c := at_.1
  have made : s.chip.fresh.createNs c = .ok n := made
  refine completes_of_chip rfl ?_
  simp only [found]
  refine (if_neg (not_not_of_true (decide_eq_true create))).trans ((Chip.adminData_at (Chip.dataAt_fresh at_) _ _ _).trans ?_)
  simp only [made]

/-- The controllers that the list of a Namespace Attachment names. -/
def listedCtrls (c : Cmd) : List Nat := (List.range (min (fieldAt c.data 0 2) 2047)).map fun i => fieldAt c.data (2 + 2 * i) 2

theorem namespaceAttachment_attaches (at_ : s.chip.dataAt slot 0x15 c) (seen : s.chip.visible? c.fn (nsidOf c.entry) = some n)
    (sel : bits (dw c.entry 10) 3 0 = 0) (owned : ∀ id ∈ listedCtrls c, ∃ f, s.chip.cntlFn id = some f ∧ s.chip.fnTenant f = n.tenant) :
    Completes (.namespaceAttachment slot) s fun m =>
      (m.attach n.nsid fun a => a ++ (listedCtrls c).filter (· ∉ a)).finish slot (some stOk) := by
  have seen : s.chip.fresh.visible? c.fn (nsidOf c.entry) = some n := seen
  refine completes_of_chip rfl ((Chip.adminData_at (Chip.dataAt_fresh at_) _ _ _).trans ?_)
  simp only [seen]
  refine (if_neg fun refused => ?_).trans (if_pos sel)
  obtain ⟨id, listed, bad⟩ := List.any_eq_true.mp refused
  obtain ⟨f, named, same⟩ := owned id listed
  have named : s.chip.fresh.cntlFn id = some f := named
  have same : s.chip.fresh.fnTenant f = n.tenant := same
  simp [named, same] at bad

theorem namespaceAttachment_detaches (at_ : s.chip.dataAt slot 0x15 c) (seen : s.chip.visible? c.fn (nsidOf c.entry) = some n)
    (sel : bits (dw c.entry 10) 3 0 = 1) (named : ∀ id ∈ listedCtrls c, (s.chip.cntlFn id).isSome = true) :
    Completes (.namespaceAttachment slot) s fun m =>
      (m.attach n.nsid fun a => a.filter (· ∉ listedCtrls c)).finish slot (some stOk) := by
  have seen : s.chip.fresh.visible? c.fn (nsidOf c.entry) = some n := seen
  refine completes_of_chip rfl ((Chip.adminData_at (Chip.dataAt_fresh at_) _ _ _).trans ?_)
  simp only [seen]
  refine (if_neg fun refused => ?_).trans (if_neg (by omega))
  obtain ⟨id, listed, bad⟩ := List.any_eq_true.mp refused
  obtain ⟨f, stands⟩ := Option.isSome_iff_exists.mp (named id listed)
  have stands : s.chip.fresh.cntlFn id = some f := stands
  simp [stands, sel] at bad

theorem formatNvm_clears (at_ : s.chip.adminAt slot 0x80 c) (seen : s.chip.visible? c.fn (nsidOf c.entry) = some n)
    (format : bits (dw c.entry 10) 3 0 < 2) (erases : bits (dw c.entry 10) 11 9 = 1 ∨ bits (dw c.entry 10) 11 9 = 2) :
    Completes (.formatNvm slot) s fun m => (m.modCmd slot fun c => { c with phase := .running }).startClear n true := by
  have seen : s.chip.fresh.visible? c.fn (nsidOf c.entry) = some n := seen
  refine completes_of_chip rfl ((Chip.adminCmd_at (Chip.adminAt_fresh at_) _).trans ?_)
  simp only [seen]
  exact (if_neg (by omega)).trans (if_neg (by omega))

/-- Settles O38, row by row in the order of the statement. -/
theorem namespaceAndLogCommandsComplete : Obligations.NamespaceAndLogCommandsComplete :=
  -- IDENTIFY with its pointers known, and with a list to read first
  ⟨fun _ _ _ _ at_ listed seen known => completes_of_chip rfl
      ((Chip.adminCmd_at (Chip.adminAt_fresh at_) _).trans ((if_neg (not_not_intro listed)).trans
        ((if_neg fun ⟨named, unseen⟩ => Option.isSome_iff_ne_none.mp (seen named) (Option.isNone_iff_eq_none.mp unseen)).trans
          (Chip.withPtrs_in (Chip.adminAt_fresh at_).1 known _)))),
    fun _ _ _ _ at_ other asked waits => completes_of_chip rfl
      ((Chip.adminCmd_at (Chip.adminAt_fresh at_) _).trans ((if_neg (not_not_intro (cns_without_namespace other).1)).trans
        ((if_neg fun ⟨named, _⟩ => (cns_without_namespace other).2 named).trans
          (Chip.withPtrs_waits (Chip.adminAt_fresh at_).1 asked waits _)))),
    -- NAMESPACE_CREATE before its data and with it, NAMESPACE_DELETE
    fun _ _ _ at_ create => namespaceCreate_asks at_ create,
    fun _ _ _ _ at_ create made => namespaceCreate_creates at_ create made,
    fun _ _ _ at_ delete owned => completes_of_chip rfl
      ((Chip.adminCmd_at (Chip.adminAt_fresh at_) _).trans ((if_neg (not_not_intro delete)).trans (if_neg owned))),
    -- NAMESPACE_ATTACHMENT, FORMAT_NVM
    fun _ _ _ _ at_ seen sel owned => namespaceAttachment_attaches at_ seen sel owned,
    fun _ _ _ _ at_ seen sel named => namespaceAttachment_detaches at_ seen sel named,
    fun _ _ _ _ at_ seen format erases => formatNvm_clears at_ seen format erases,
    -- GET_LOG_PAGE of TENANT, NOTICES, ANA, CHANGED_ZONE_LIST and FIRMWARE_SLOT
    fun _ _ _ _ at_ page known => completes_of_chip rfl (Chip.logPage_in (Chip.adminAt_fresh at_) page known _),
    fun _ _ _ _ at_ page known => completes_of_chip rfl (Chip.logPage_in (Chip.adminAt_fresh at_) page known _),
    fun _ _ _ _ at_ page known => completes_of_chip rfl (Chip.logPage_in (Chip.adminAt_fresh at_) page known _),
    fun _ _ _ _ at_ page known => completes_of_chip rfl (Chip.logPage_in (Chip.adminAt_fresh at_) page known _),
    fun _ _ _ _ at_ page known => completes_of_chip rfl (Chip.logPage_in (Chip.adminAt_fresh at_) page known _)⟩

end Sys2Proof.Machine
end

section
/-! PROOFS, family 04_host_ports. Firmware download and commit (R327) and Sanitize (R347): O39. -/

namespace Sys2Proof.Machine

variable {m : Chip} {i action : Nat} {c : Cmd} {s : State} {slot : SlotId}

/-! ## Firmware -/

theorem firmwareImageDownload_asks (at_ : s.chip.adminAt slot 0x11 c) (fn0 : c.fn = 0)
    (fits : dw c.entry 11 * 4 + (dw c.entry 10 + 1) * 4 ≤ 8388608) :
    Completes (.firmwareImageDownload slot) s fun m =>
      (m.modCmd slot fun c' => { c' with phase := .running, want := (dw c.entry 10 + 1) * 4, dataOpen := true }).fetchData slot
        ((dw c.entry 10 + 1) * 4) := by
  have found : s.chip.fresh.cmd? slot = some c := at_.1
  refine completes_of_chip rfl ?_
  simp only [found]
  exact Chip.adminData_ask (Chip.adminAt_fresh at_) ((if_neg (not_not_of_true (decide_eq_true fn0))).trans (if_neg (by omega))) _ _

theorem firmwareImageDownload_keeps (at_ : s.chip.dataAt slot 0x11 c) :
    Completes (.firmwareImageDownload slot) s fun m =>
      ({ m with tr := { m.tr with
          pkg := memSetBytes m.tr.pkg (dw c.entry 11 * 4) c.data
          pkgLen := max m.tr.pkgLen (dw c.entry 11 * 4 + c.data.length) } } : Chip).finish slot (some stOk) := by
  have found : s.chip.fresh.cmd? slot = some c := at_.1
  refine completes_of_chip rfl ?_
  simp only [found]
  exact Chip.adminData_at (Chip.dataAt_fresh at_) _ _ _

/-- A Firmware Commit on function 0 that names a bank with sectors to spare acts on it. -/
theorem Chip.fwCommit_at (h : m.adminAt i 0x10 c) (named : bits (dw c.entry 10) 5 3 = action) (fn0 : c.fn = 0) (stores : action ≠ 3)
    (bankLo : 1 ≤ bits (dw c.entry 10) 2 0) (bankHi : bits (dw c.entry 10) 2 0 ≤ 2)
    (unworn : m.bankWorn (fwSector (bits (dw c.entry 10) 2 0 - 1)) 128 = false) (g : Nat → Chip → Chip) :
    m.fwCommit i action g = g (bits (dw c.entry 10) 2 0 - 1) m := by
  have bank : ¬ (bits (dw c.entry 10) 2 0 = 0 ∨ 2 < bits (dw c.entry 10) 2 0 ∨
      m.bankWorn (fwSector (bits (dw c.entry 10) 2 0 - 1)) 128 = true) := by
    simp only [unworn, Bool.false_eq_true, or_false]
    omega
  exact (Chip.adminCmd_at h _).trans ((if_neg (not_not_intro named)).trans ((if_neg (not_not_of_true (decide_eq_true fn0))).trans
    ((if_neg stores).trans (if_neg bank))))

/-- Commit Action 011b ends at once (R327). -/
theorem Chip.fwCommit_immediate (h : m.adminAt i 0x10 c) (named : bits (dw c.entry 10) 5 3 = 3) (fn0 : c.fn = 0) (g : Nat → Chip → Chip) :
    m.fwCommit i 3 g = m.finish i (some stFwReset) :=
  (Chip.adminCmd_at h _).trans ((if_neg (not_not_intro named)).trans ((if_neg (not_not_of_true (decide_eq_true fn0))).trans (if_pos rfl)))

/-- The chip once bank `b` holds the package `p`. -/
def Chip.fwWritten (m : Chip) (b : Nat) (p : List Byte) : Chip :=
  let m := (m.countErases (fwSector b) (ceilDiv p.length 65536)).codeClear b
  { m with nv := if b = 0 then { m.nv with fwA := p } else { m.nv with fwB := p }, tr := { m.tr with pkg := [], pkgLen := 0 } }

/-- Outside a brown-out the inactive bank takes the package if it checks. -/
theorem Chip.fwStore_inactive {b : Nat} (inactive : b ≠ m.nv.banks.1) (powered : m.f NVA_STAT.BROWNOUT = 0) (activate : Bool) :
    m.fwStore i activate b =
      let p := memGetBytes m.tr.pkg 0 m.tr.pkgLen
      if m.fwCheck p ≠ 0 then m.finish i (some stFwImage)
      else (if activate then (m.fwWritten b p).array (.flag (.firmware b)) else m.fwWritten b p).finish i (some stOk) :=
  (if_neg (by omega)).trans (if_neg inactive)

/-! ## Sanitize -/

theorem Chip.sanitize_at (h : m.adminAt i 0x84 c) (named : bits (dw c.entry 10) 2 0 = action) (fn0 : c.fn = 0) (g : Chip → Chip) :
    m.sanitize i action g = g m :=
  (Chip.adminCmd_at h _).trans ((if_neg (not_not_intro named)).trans (if_neg (not_not_intro fn0)))

/-- Settles O39, row by row in the order of the statement. -/
theorem firmwareAndSanitizeCommandsComplete : Obligations.FirmwareAndSanitizeCommandsComplete :=
  -- FIRMWARE_IMAGE_DOWNLOAD before its data and with it
  ⟨fun _ _ _ at_ fn0 fits => firmwareImageDownload_asks at_ fn0 fits,
    fun _ _ _ at_ => firmwareImageDownload_keeps at_,
    -- FIRMWARE_COMMIT: STORE, STORE_ACTIVATE, ACTIVATE, IMMEDIATE
    fun s _ _ at_ named fn0 bankLo bankHi unworn inactive powered => completes_of_chip rfl
      ((Chip.fwCommit_at (Chip.adminAt_fresh at_) named fn0 (by decide) bankLo bankHi unworn _).trans
        (Chip.fwStore_inactive (m := s.chip.fresh) inactive powered false)),
    fun s _ _ at_ named fn0 bankLo bankHi unworn inactive powered => completes_of_chip rfl
      ((Chip.fwCommit_at (Chip.adminAt_fresh at_) named fn0 (by decide) bankLo bankHi unworn _).trans
        (Chip.fwStore_inactive (m := s.chip.fresh) inactive powered true)),
    fun _ _ _ at_ named fn0 bankLo bankHi unworn => completes_of_chip rfl
      (Chip.fwCommit_at (Chip.adminAt_fresh at_) named fn0 (by decide) bankLo bankHi unworn _),
    fun _ _ _ at_ named fn0 => completes_of_chip rfl (Chip.fwCommit_immediate (Chip.adminAt_fresh at_) named fn0 _),
    -- SANITIZE: CRYPTO_ERASE, BLOCK_ERASE, EXIT_FAILURE_MODE, OVERWRITE
    fun _ _ _ at_ named fn0 => completes_of_chip rfl (Chip.sanitize_at (Chip.adminAt_fresh at_) named fn0 _),
    fun _ _ _ at_ named fn0 => completes_of_chip rfl (Chip.sanitize_at (Chip.adminAt_fresh at_) named fn0 _),
    fun s slot _ at_ named fn0 failed => completes_of_chip rfl
      ((Chip.sanitize_at (Chip.adminAt_fresh at_) named fn0 _).trans (congrArg (fun m : Chip => m.finish slot (some stOk)) (if_pos failed))),
    fun _ _ _ at_ named fn0 => completes_of_chip rfl (Chip.sanitize_at (Chip.adminAt_fresh at_) named fn0 _)⟩

end Sys2Proof.Machine
end

section
/-! PROOFS, family 04_host_ports. Links and BAR0 (R84 to R101, R112 to R114): the ends of training, link losses, accesses of a function's BAR0 and
its doorbells. O23. -/

namespace Sys2Proof.Machine

variable {m : Chip} {q f off : Nat} {s : State}

/-! ## Links -/

/-- A used port whose link trains, recovers or sleeps comes up. -/
theorem Chip.trainEnd_l0 {rate width : Nat} {flit : Bool} (used : m.portUsed q = true)
    (coming : m.f HPT_PSTAT.STATE q = 1 ∨ m.f HPT_PSTAT.STATE q = 3 ∨ m.f HPT_PSTAT.STATE q = 4) :
    m.trainEnd q rate width (.l0 flit) =
      let w := min width (m.f HPT_PCFG.WIDTH q)
      let m := (m.setF HPT_PSTAT.STATE 2 q).setF HPT_PSTAT.SPEED (linkRate (m.f HPT_PCFG.MAX_GEN q) rate flit) q
      let m := (m.setF HPT_PSTAT.NEG_WIDTH w q).setF HPT_PSTAT.FLIT (b1 flit) q
      let m := (m.setF HPT_PCTL.RETRAIN 0 q).payOwed q
      if w < m.f HPT_PCFG.WIDTH q then m.emit (2 + q / 4) 0x2001 q else m :=
  (if_neg (not_not_of_true used)).trans (if_neg (not_not_intro coming))

/-- From L0 a link whose physical function enables ASPM goes to L1. -/
theorem Chip.trainEnd_l1 {rate width pf : Nat} (used : m.portUsed q = true) (up : m.f HPT_PSTAT.STATE q = 2) (phys : m.portPf q = some pf)
    (aspm : (m.fn pf).pcie.aspm = true) : m.trainEnd q rate width .l1 = m.setF HPT_PSTAT.STATE 4 q :=
  (if_neg (not_not_of_true used)).trans (if_pos ⟨up, by simp [phys, aspm]⟩)

theorem Chip.linkDown_up (up : m.linkUp q = true) : m.linkDown q = ((m.setF HPT_EVT.LINKDOWN 1 q).linkGone q 0).resetPortFns q := by
  simp only [Chip.linkDown, Chip.tellDown, if_pos up]

/-- That a link went down by surprise is told without touching the link. -/
theorem Chip.linkUp_surprise (m : Chip) (q v k : Nat) : (m.setF HPT_EVT.SURPRISE v k).linkUp q = m.linkUp q := by
  have apart : HPT_PSTAT.STATE.key q ≠ HPT_EVT.SURPRISE.key k := by
    simp only [Fld.key, HPT_PSTAT.STATE, HPT_EVT.SURPRISE]
    omega
  simp only [Chip.linkUp, Chip.f_setF_ne _ _ _ _ _ _ apart]

/-- A surprise link down is told as such, and is a link down. -/
theorem Chip.surpriseLinkDown (up : m.linkUp q = true) :
    (m.setF HPT_EVT.SURPRISE 1 q).linkDown q =
      (((m.setF HPT_EVT.SURPRISE 1 q).setF HPT_EVT.LINKDOWN 1 q).linkGone q 0).resetPortFns q :=
  Chip.linkDown_up ((m.linkUp_surprise q 1 q).trans up)

/-! ## BAR0 -/

theorem Chip.bar0_read (seen : m.fnSeen f = true) (reached : m.reached f = true) : m.bar0 f off none = m.bar0Read f off :=
  (if_neg (not_not_of_true seen)).trans (if_neg (not_not_of_true reached))

theorem Chip.bar0_write (seen : m.fnSeen f = true) (reached : m.reached f = true) (v : Nat) : m.bar0 f off (some v) = m.bar0Write f off v :=
  (if_neg (not_not_of_true seen)).trans (if_neg (not_not_of_true reached))

/-- Outside a Secure stream that the function requires a write is dropped (R92). -/
theorem Chip.bar0_nonsecure (seen : m.fnSeen f = true) (out : m.reached f = false) (needs : m.needsIde f = true) (v : Nat) :
    m.bar0 f off (some v) = m.incF HPT_DROPCNT.DROPS (m.slotOf f) :=
  (if_neg (not_not_of_true seen)).trans ((if_pos ((Bool.not_eq_true' _).mpr out)).trans
    ((if_neg (not_not_of_true needs)).trans (if_neg Bool.false_ne_true)))

theorem Chip.bar0Read_register {r : Nat} (place : m.bar0At f off = .register r) : m.bar0Read f off = m.giveWord (m.nvmeReg f r) := by
  simp only [Chip.bar0Read, place]

theorem Chip.bar0Read_pending {w : Nat} (place : m.bar0At f off = .pending w) : m.bar0Read f off = m.giveWord ((m.fn f).pcie.pba w) := by
  simp only [Chip.bar0Read, place]

theorem Chip.bar0Read_none (place : m.bar0At f off = .none) : m.bar0Read f off = (m.unmapped (m.slotOf f)).giveWord 0 := by
  simp only [Chip.bar0Read, place]

theorem Chip.bar0Write_register {r : Nat} (place : m.bar0At f off = .register r) (v : Nat) : m.bar0Write f off v = m.writeNvme f r v := by
  simp only [Chip.bar0Write, place]

theorem Chip.bar0Write_vector {i w : Nat} (place : m.bar0At f off = .vector i w) (v : Nat) :
    m.bar0Write f off v =
      (m.modPcie f fun p => { p with vectors := tset MsixEnt.blank p.vectors i ((tget MsixEnt.blank p.vectors i).put w v) }).sendPending f := by
  simp only [Chip.bar0Write, place]

theorem Chip.bar0Write_none (place : m.bar0At f off = .none) (v : Nat) : m.bar0Write f off v = m.unmapped (m.slotOf f) := by
  simp only [Chip.bar0Write, place]

/-- The one word a read outside the regions gives is the whole reply of its command. -/
theorem Chip.unmapped_giveWord (m : Chip) (q : Nat) : (m.fresh.unmapped q).giveWord 0 = { m.fresh.addF HPT_ERRCNT.UNMAPPED 1 q with reply := [0] } :=
  rfl

/-- Settles O23: such an access is counted, a read gives 0, and a write does nothing else. -/
theorem unmappedBar0AccessesAreCounted : Obligations.UnmappedBar0AccessesAreCounted :=
  fun s _ _ seen reached place =>
    ⟨completes_of_chip rfl ((Chip.bar0_read (m := s.chip.fresh) seen reached).trans
        ((Chip.bar0Read_none (m := s.chip.fresh) place).trans (s.chip.unmapped_giveWord _))),
      fun _ => completes_of_chip rfl ((Chip.bar0_write (m := s.chip.fresh) seen reached _).trans (Chip.bar0Write_none (m := s.chip.fresh) place _))⟩

/-! ## Doorbells -/

/-- A valid tail rings its running queue (R113, R114). -/
theorem Chip.sqTail_rings {y v i : Nat} (seen : m.fnSeen f = true) (queue : m.img.tables.qctxOf f y = some i) (runs : (m.qc i).sqState = 1)
    (valid : (m.qc i).sqValid = true) (inside : v ≤ (m.qc i).sqSize) : m.sqTail f y v = m.setQc i ((m.qc i).ring v m.isl.dtc) := by
  refine (if_neg (not_not_of_true seen)).trans ?_
  simp only [queue, runs, valid]
  exact (if_neg (by omega)).trans ((if_neg (by simp)).trans (if_neg (by omega)))

/-- A head within what the queue holds is taken (R113). -/
theorem Chip.cqHead_moves {y v i : Nat} (seen : m.fnSeen f = true) (queue : m.img.tables.qctxOf f y = some i) (runs : (m.qc i).sqState ≠ 3)
    (valid : (m.qc i).cqValid = true) (inside : v ≤ (m.qc i).cqSize)
    (held : ringDist (m.qc i).cqSize (m.qc i).cqHead v ≤ ringDist (m.qc i).cqSize (m.qc i).cqHead (m.qc i).cqTail) :
    m.cqHead f y v = m.setQc i { m.qc i with cqHead := v } := by
  refine (if_neg (not_not_of_true seen)).trans ?_
  simp only [queue]
  exact (if_neg runs).trans ((if_neg (not_not_of_true valid)).trans ((if_neg (by omega)).trans (if_neg (by omega))))

/-- A write to a queue's tail doorbell (R112). -/
theorem Chip.bar0_sqTail {y : Nat} (seen : m.fnSeen f = true) (reached : m.reached f = true) (within : y ≤ m.img.tables.qcount f) (v : BitVec 16) :
    m.bar0 f (0x1000 + 8 * y) (some v.toNat) = m.sqTail f y v.toNat := by
  rw [Chip.bar0_write seen reached, Chip.bar0Write, (m.bar0At_doorbell f within).1]
  exact congrArg (m.sqTail f y) (Nat.mod_eq_of_lt v.isLt)

/-- A write to a queue's head doorbell (R112). -/
theorem Chip.bar0_cqHead {y : Nat} (seen : m.fnSeen f = true) (reached : m.reached f = true) (within : y ≤ m.img.tables.qcount f) (v : BitVec 16) :
    m.bar0 f (0x1000 + 8 * y + 4) (some v.toNat) = m.cqHead f y v.toNat := by
  rw [Chip.bar0_write seen reached, Chip.bar0Write, (m.bar0At_doorbell f within).2]
  exact congrArg (m.cqHead f y) (Nat.mod_eq_of_lt v.isLt)

end Sys2Proof.Machine
end

section
/-! PROOFS, family 04_host_ports. IDE streams, data that stops, fetches and arriving entries (R91 to R97, R115, R119), and what happens at the host
ports: O50. -/

namespace Sys2Proof.Machine

variable {m : Chip} {q f i : Nat} {c : Cmd} {s : State} {slot : SlotId}

/-! ## Function level reset -/

theorem functionLevelReset_virtual {f : Fn} {r : FuncRec} (found : s.chip.img.tables.func? f = some r) (virtual : r.type ≠ 0) :
    Completes (.functionLevelReset f) s fun m => (m.resetFn false f).settle := by
  have found : s.chip.fresh.img.tables.func? f = some r := found
  refine completes_of_chip rfl ?_
  simp only [found]
  exact congrArg (fun m : Chip => (m.resetFn false f).settle) (if_neg virtual)

theorem functionLevelReset_physical {f : Fn} {r : FuncRec} (found : s.chip.img.tables.func? f = some r) (physical : r.type = 0) :
    Completes (.functionLevelReset f) s fun m =>
      (((m.img.tables.vfsOf f).foldl (fun (m : Chip) v => m.resetFn false v) m).resetFn false f).settle := by
  have found : s.chip.fresh.img.tables.func? f = some r := found
  refine completes_of_chip rfl ?_
  simp only [found]
  exact congrArg (fun m : Chip => (m.resetFn false f).settle) (if_pos physical)

/-! ## IDE streams -/

/-- A substream that goes on with a key it has, where a substream of the six still lacks one. -/
theorem Chip.kSetGo_waits {k sub ks : Nat} {x : IdeStream} (used : m.portUsed q = true) (session : m.ideSession q = true)
    (stream : (tfind (m.port q).streams k).getD IdeStream.blank = x) (keyed : (sub, ks) ∈ x.keys)
    (few : (x.runs.filter fun r => decide (r.1 ≠ sub)).length < 5) :
    m.kSetGo q k sub ks = m.setPort q { m.port q with
      streams := tput (m.port q).streams k { x with runs := (sub, ks) :: x.runs.filter fun r => decide (r.1 ≠ sub) } } := by
  subst stream
  exact (if_neg (by simp [used, session, keyed])).trans (if_pos (by rw [List.length_cons]; omega))

/-- With the last of its six substreams a stream is Secure. -/
theorem Chip.kSetGo_secures {k sub ks : Nat} {x : IdeStream} (used : m.portUsed q = true) (session : m.ideSession q = true)
    (stream : (tfind (m.port q).streams k).getD IdeStream.blank = x) (keyed : (sub, ks) ∈ x.keys)
    (last : ¬ (x.runs.filter fun r => decide (r.1 ≠ sub)).length < 5) :
    m.kSetGo q k sub ks =
      let runs := (sub, ks) :: x.runs.filter fun r => decide (r.1 ≠ sub)
      let m := (m.setPort q { m.port q with streams := tput (m.port q).streams k { x with runs := runs } }).setSecure q k true
      let m := if k < 8 then m.setBit HPT_IDESTAT.SEL_KEYSET k (runs.all fun r => decide (r.2 = 1)) q else m
      if m.st.step ≠ 14 then m else (m.img.tables.fnsOnSlot q).foldl (fun (m : Chip) f => m.fnReady f) m := by
  subst stream
  exact (if_neg (by simp [used, session, keyed])).trans (if_neg (by rw [List.length_cons]; omega))

theorem Chip.nonsecure_read (needs : m.needsIde f = true) : m.nonsecure f true = m.send (.tlpUr (m.slotOf f)) :=
  (if_neg (not_not_of_true needs)).trans (if_pos rfl)

theorem Chip.nonsecure_write (needs : m.needsIde f = true) : m.nonsecure f false = m.incF HPT_DROPCNT.DROPS (m.slotOf f) :=
  (if_neg (not_not_of_true needs)).trans (if_neg Bool.false_ne_true)

/-! ## Data that stops -/

theorem dataCompletion_data {l : List Byte} {port : PSlot} (found : s.chip.cmd? slot = some c) (takes : c.takesData = true) (noList : c.list = none) :
    Completes (.dataCompletion slot port l .ok) s fun m =>
      m.modCmd slot fun c => { c with
        data := (c.data ++ l).take c.want, dataOpen := decide (((c.data ++ l).take c.want).length < c.want) } := by
  have found : s.chip.fresh.cmd? slot = some c := found
  refine completes_of_chip rfl ?_
  simp only [found, noList]
  exact if_neg (not_not_of_true takes)

theorem dataCompletion_list {l : List Byte} {port : PSlot} {at_ : Nat × Nat} (found : s.chip.cmd? slot = some c) (takes : c.takesData = true)
    (list : c.list = some at_) :
    Completes (.dataCompletion slot port l .ok) s fun m => m.listIn slot c (slice (l ++ List.replicate at_.2 0) 0 at_.2) := by
  have found : s.chip.fresh.cmd? slot = some c := found
  refine completes_of_chip rfl ?_
  simp only [found, list]
  exact if_neg (not_not_of_true takes)

theorem dataCompletion_poisoned {l : List Byte} {port : PSlot} (found : s.chip.cmd? slot = some c) (takes : c.takesData = true) :
    Completes (.dataCompletion slot port l .poisoned) s fun m =>
      ((m.incF HPT_ERRCNT.POISONED port).endCmd slot (some stDataTransfer)).settle := by
  have found : s.chip.fresh.cmd? slot = some c := found
  refine completes_of_chip rfl ?_
  simp only [found]
  exact if_neg (not_not_of_true takes)

theorem dataCompletion_late {l : List Byte} {port : PSlot} {st : DataStatus} (free : s.chip.cmd? slot = none) :
    Completes (.dataCompletion slot port l st) s fun m => m.incF HPT_LATECNT.LATE port := by
  have free : s.chip.fresh.cmd? slot = none := free
  refine completes_of_chip rfl ?_
  simp only [free]

theorem dataStallTimeout_ends (found : s.chip.cmd? slot = some c) (takes : c.takesData = true) :
    Completes (.dataStallTimeout slot) s fun m =>
      ((m.incF HPT_ABORTCNT.STALL (m.slotOf c.fn)).endCmd slot (some stDataTransfer)).settle := by
  have found : s.chip.fresh.cmd? slot = some c := found
  refine completes_of_chip rfl ?_
  simp only [found]
  exact if_pos takes

theorem completionTimeout_command (found : s.chip.cmd? slot = some c) (takes : c.takesData = true) (on : (s.chip.fn c.fn).pcie.ctoOff = false) :
    Completes (.completionTimeout (.command slot)) s fun m =>
      ((m.incF HPT_ABORTCNT.CTO (m.slotOf c.fn)).endCmd slot (some stDataTransfer)).settle := by
  have found : s.chip.fresh.cmd? slot = some c := found
  have on : (s.chip.fresh.fn c.fn).pcie.ctoOff = false := on
  refine completes_of_chip rfl ?_
  simp only [found]
  exact if_pos (by simp [takes, on])

theorem completionTimeout_sqFetch (found : s.chip.cmd? slot = some c) (reserved : c.phase = .reserved)
    (on : (s.chip.fn c.fn).pcie.ctoOff = false) :
    Completes (.completionTimeout (.sqFetch slot)) s fun m =>
      let mine := m.q.slots.filter fun e => decide (e.2.q = c.q ∧ e.2.burst = c.burst ∧ e.2.peer = none ∧ e.2.phase = .reserved)
      (mine.foldl (fun (m : Chip) e => m.freeSlot e.1) (m.incF HPT_ABORTCNT.CTO (m.slotOf c.fn))).finishDelete c.q := by
  have found : s.chip.fresh.cmd? slot = some c := found
  have on : (s.chip.fresh.fn c.fn).pcie.ctoOff = false := on
  refine completes_of_chip rfl ?_
  simp only [found]
  exact if_neg (by simp [reserved, on])

theorem completionTimeout_image {op len : Nat} (reads : s.chip.img.phase = .dma op len) (on : (s.chip.fn 0).pcie.ctoOff = false) :
    Completes (.completionTimeout .image) s fun m => (m.incF HPT_ABORTCNT.CTO (m.slotOf 0)).imgEnd ⟨2, 0, 0⟩ := by
  have reads : s.chip.fresh.img.phase = .dma op len := reads
  refine completes_of_chip rfl ?_
  simp only [reads]
  exact if_neg (Bool.eq_false_iff.mp on)

/-! ## Fetch -/

/-- The entry of a reserved slot arrives. -/
theorem Chip.entryArrives_reserved (found : m.cmd? i = some c) (reserved : c.phase = .reserved) (e : List Byte) :
    m.entryArrives i e =
      m.putCmd i { c with phase := .fetched, entry := slice (e ++ List.replicate 64 0) 0 64, progress := m.isl.dtc } := by
  simp [Chip.entryArrives, found, reserved]

theorem Chip.entryArrives_free (free : m.cmd? i = none) (e : List Byte) : m.entryArrives i e = m := by
  simp only [Chip.entryArrives, free]

/-- Settles O50, row by row in the order of the statement. -/
theorem portAndQueueEventsComplete : Obligations.PortAndQueueEventsComplete :=
  -- PERST_ASSERT
  ⟨fun _ _ => completes_of_chip rfl rfl,
    -- PORT_TRAIN_DONE from training, recovery or L1, and into L1
    fun s _ _ _ _ used coming => completes_of_chip rfl (Chip.trainEnd_l0 (m := s.chip.fresh) used coming),
    fun s _ _ used up phys aspm => completes_of_chip rfl (Chip.trainEnd_l1 (m := s.chip.fresh) used up phys aspm),
    -- HOT_RESET, LINK_DOWN of a link that is up and of one that is down, SURPRISE_LINK_DOWN
    fun _ _ used up => completes_of_chip rfl (if_neg fun no => no.elim (not_not_of_true used) (not_not_of_true up)),
    fun s q used up => completes_of_chip rfl
      ((if_pos ⟨used, up⟩).trans (congrArg (fun m : Chip => m.startTraining q) (Chip.linkDown_up (m := s.chip.fresh) up))),
    fun _ _ _ down => completes_of_chip rfl (if_neg fun ⟨_, up⟩ => Bool.eq_false_iff.mp down up),
    fun s q used up => completes_of_chip rfl
      ((if_pos ⟨used, up⟩).trans (congrArg (fun m : Chip => m.startTraining q) (Chip.surpriseLinkDown (m := s.chip.fresh) up))),
    -- FUNCTION_LEVEL_RESET of a virtual and of a physical function
    fun _ _ _ found virtual => functionLevelReset_virtual found virtual,
    fun _ _ _ found physical => functionLevelReset_physical found physical,
    -- BAR0
    fun s _ _ seen reached place => completes_of_chip rfl
      ((Chip.bar0_read (m := s.chip.fresh) seen reached).trans (Chip.bar0Read_none (m := s.chip.fresh) place)),
    fun s _ _ _ seen reached place => completes_of_chip rfl
      ((Chip.bar0_write (m := s.chip.fresh) seen reached _).trans (Chip.bar0Write_none (m := s.chip.fresh) place _)),
    fun s _ _ _ seen reached place => completes_of_chip rfl
      ((Chip.bar0_read (m := s.chip.fresh) seen reached).trans (Chip.bar0Read_register (m := s.chip.fresh) place)),
    fun s _ _ _ _ seen reached place => completes_of_chip rfl
      ((Chip.bar0_write (m := s.chip.fresh) seen reached _).trans (Chip.bar0Write_register (m := s.chip.fresh) place _)),
    fun s _ _ _ _ _ seen reached place => completes_of_chip rfl
      ((Chip.bar0_write (m := s.chip.fresh) seen reached _).trans (Chip.bar0Write_vector (m := s.chip.fresh) place _)),
    fun s _ _ _ seen reached place => completes_of_chip rfl
      ((Chip.bar0_read (m := s.chip.fresh) seen reached).trans (Chip.bar0Read_pending (m := s.chip.fresh) place)),
    fun s _ _ _ seen out needs => completes_of_chip rfl (Chip.bar0_nonsecure (m := s.chip.fresh) seen out needs _),
    -- MALFORMED_TLP
    fun _ _ _ _ _ noEcrc => completes_of_chip rfl (if_neg fun ⟨ecrc, flit⟩ => noEcrc.elim (· ecrc) (· flit)),
    fun _ _ _ _ flit => completes_of_chip rfl (if_pos ⟨rfl, flit⟩),
    -- NONSECURE_TLP
    fun s _ needs => completes_of_chip rfl (Chip.nonsecure_read (m := s.chip.fresh) needs),
    fun s _ needs => completes_of_chip rfl (Chip.nonsecure_write (m := s.chip.fresh) needs),
    -- IDE_STREAM_FAIL, K_SET_GO
    fun _ _ _ secure => completes_of_chip rfl (if_neg (not_not_of_true secure)),
    fun s _ _ _ _ _ used session stream keyed few => completes_of_chip rfl
      (Chip.kSetGo_waits (m := s.chip.fresh) used session stream keyed few),
    fun s _ _ _ _ _ used session stream keyed last => completes_of_chip rfl
      (Chip.kSetGo_secures (m := s.chip.fresh) used session stream keyed last),
    -- DATA_COMPLETION, DATA_STALL_TIMEOUT, COMPLETION_TIMEOUT
    fun _ _ _ _ _ found takes noList => dataCompletion_data found takes noList,
    fun _ _ _ _ _ _ found takes list => dataCompletion_list found takes list,
    fun _ _ _ _ _ found takes => dataCompletion_poisoned found takes,
    fun _ _ _ _ _ free => dataCompletion_late free,
    fun _ _ _ found takes => dataStallTimeout_ends found takes,
    fun _ _ _ found takes on => completionTimeout_command found takes on,
    fun _ _ _ found reserved on => completionTimeout_sqFetch found reserved on,
    fun _ _ _ reads on => completionTimeout_image reads on,
    -- CREDIT_STALL_TIMEOUT, CREDIT_RECOVERY_TIMEOUT
    fun _ _ used up => completes_of_chip rfl (if_neg fun no => no.elim (not_not_of_true used) fun notUp => notUp up),
    fun s q relinks up => completes_of_chip rfl
      ((if_pos relinks).trans (congrArg (fun m : Chip => m.startTraining q) (Chip.surpriseLinkDown (m := s.chip.fresh) up))),
    -- SQ_TAIL_DOORBELL of a running queue and of a function no host sees, CQ_HEAD_DOORBELL
    fun s _ _ v _ seen reached within queue runs valid inside => completes_of_chip rfl
      ((Chip.bar0_sqTail (m := s.chip.fresh) seen reached within v).trans (Chip.sqTail_rings (m := s.chip.fresh) seen queue runs valid inside)),
    fun _ _ _ _ unseen => completes_of_chip rfl (if_pos ((Bool.not_eq_true' _).mpr unseen)),
    fun s _ _ v _ seen reached within queue runs valid inside held => completes_of_chip rfl
      ((Chip.bar0_cqHead (m := s.chip.fresh) seen reached within v).trans (Chip.cqHead_moves (m := s.chip.fresh) seen queue runs valid inside held)),
    -- SQ_FETCH, SQ_ENTRY_ARRIVAL in a reserved slot and in a free one
    fun _ _ runs => completes_of_chip rfl (if_neg (Bool.eq_false_iff.mp runs)),
    fun s _ entry _ found reserved => completes_of_chip rfl (congrArg (fun m : Chip => m.acceptAll.settle)
      (Chip.entryArrives_reserved (m := s.chip.fresh) found reserved entry)),
    fun s _ entry free => completes_of_chip rfl (congrArg (fun m : Chip => m.acceptAll.settle)
      (Chip.entryArrives_free (m := s.chip.fresh) free entry))⟩

end Sys2Proof.Machine
end

section
/-! PROOFS, family 04_host_ports. Owner commands (R340, R341, R348): the operations, and how a command that passes its checks ends. -/

namespace Sys2Proof.Machine

variable {m t : Chip} {c : OwnerCheck} {op : Nat} {b : List Byte} {alarmed : Bool}

/-- A command that passes its checks does its operation if it is signed, and else counts as a bad signature. -/
theorem Chip.ownerCmd_does {ok : Bool} (passes : m.ownerPasses c op) (isOp : Nat → Bool) (b : List Byte) (row : isOp op = true)
    (named : 1 ≤ op ∧ op ≤ 7) (does : (m.ownerIdle.ownerShown op).ownerDo c.bytes op c.alarmed = (t, ok)) :
    m.ownerCmd isOp b = if m.ownerSigned c then t.ownerEnd op (if ok then 1 else 6) else m.ownerIdle.badSig op := by
  refine (Chip.ownerCmd_is isOp b passes row).trans ?_
  by_cases signed : m.ownerSigned c
  · rw [if_pos signed, Chip.ownerCheck_ok passes signed named, does]
  · rw [if_neg signed, Chip.ownerCheck_unsigned passes signed named]

/-- Where its condition holds it gives result 1. -/
theorem Chip.ownerCmd_succeeds (passes : m.ownerPasses c op) (isOp : Nat → Bool) (b : List Byte) (row : isOp op = true)
    (named : 1 ≤ op ∧ op ≤ 7) (does : (m.ownerIdle.ownerShown op).ownerDo c.bytes op c.alarmed = (t, true)) :
    m.ownerCmd isOp b = if m.ownerSigned c then t.ownerEnd op 1 else m.ownerIdle.badSig op :=
  Chip.ownerCmd_does passes isOp b row named does

/-- Where its condition does not hold it gives result 6, NOT_ALLOWED. -/
theorem Chip.ownerCmd_refused (passes : m.ownerPasses c op) (isOp : Nat → Bool) (b : List Byte) (row : isOp op = true)
    (named : 1 ≤ op ∧ op ≤ 7) (does : (m.ownerIdle.ownerShown op).ownerDo c.bytes op c.alarmed = (t, false)) :
    m.ownerCmd isOp b = if m.ownerSigned c then t.ownerEnd op 6 else m.ownerIdle.badSig op :=
  Chip.ownerCmd_does passes isOp b row named does

/-! ## The operations (R341) -/

theorem Chip.ownerDo_take (free : m.nv.owner = []) :
    m.ownerDo b 1 alarmed = (({ m with nv := { m.nv with owner := slice b 0x30 96 } } : Chip).array .record, true) :=
  if_neg (not_not_intro free)

theorem Chip.ownerDo_take_owned (owned : m.nv.owner ≠ []) : m.ownerDo b 1 alarmed = (m, false) := if_pos owned

theorem Chip.ownerDo_transfer (key : (slice b 0x30 96).all (fun x => x = 0) = false) :
    m.ownerDo b 2 alarmed = ((({ m with nv := { m.nv with owner := slice b 0x30 96 } } : Chip).array .record).endGrant, true) := by
  simp only [Chip.ownerDo, key]
  rfl

theorem Chip.ownerDo_transfer_refused (zero : (slice b 0x30 96).all (fun x => x = 0) = true) (level : m.level ≠ 0) :
    m.ownerDo b 2 alarmed = (m, false) := by
  have refused : ((slice b 0x30 96).all (fun x => x = 0) && decide (m.level ≠ 0)) = true := by rw [zero, decide_eq_true level]; rfl
  exact if_pos refused

theorem Chip.ownerDo_setLevel (raises : m.level < fieldAt b 0x90 1) (known : fieldAt b 0x90 1 ≤ 2) :
    m.ownerDo b 3 alarmed = (m.setLevel (fieldAt b 0x90 1), true) := if_pos (Or.inl ⟨raises, known⟩)

theorem Chip.ownerDo_imgkeySet {st : Nat} (slot : (m.nv.imgKeys[fieldAt b 0x90 1]?).map Prod.fst = some st) (kept : st ≠ 2) :
    m.ownerDo b 4 alarmed =
      (({ m with nv := { m.nv with imgKeys := m.nv.imgKeys.set (fieldAt b 0x90 1) (1, slice b 0x30 96) } } : Chip).array .record, true) := by
  obtain ⟨e, found, rfl⟩ := Option.map_eq_some_iff.mp slot
  simp only [Chip.ownerDo, found]
  exact if_neg kept

theorem Chip.ownerDo_imgkeySet_revoked (slot : (m.nv.imgKeys[fieldAt b 0x90 1]?).map Prod.fst = some 2) :
    m.ownerDo b 4 alarmed = (m, false) := by
  obtain ⟨e, found, revoked⟩ := Option.map_eq_some_iff.mp slot
  simp only [Chip.ownerDo, found]
  exact if_pos revoked

theorem Chip.ownerDo_imgkeyRevoke (slot : (m.nv.imgKeys[fieldAt b 0x90 1]?).isSome = true) :
    m.ownerDo b 5 alarmed =
      (({ m with nv := { m.nv with imgKeys := m.nv.imgKeys.set (fieldAt b 0x90 1) (2, []) } } : Chip).array .record, true) := by
  obtain ⟨e, found⟩ := Option.isSome_iff_exists.mp slot
  simp only [Chip.ownerDo, found]
  rfl

theorem Chip.ownerDo_unlock (locked : m.f KVT_STAT.STATE = 1) (quiet : alarmed = false) : m.ownerDo b 6 alarmed = (m.reauth false, true) :=
  if_pos ⟨locked, (Bool.not_eq_true' _).mpr quiet⟩

/-- An alarm raised while an UNLOCK is checked wins (R348). -/
theorem Chip.ownerDo_unlock_alarmed (raised : alarmed = true) : m.ownerDo b 6 alarmed = (m, false) :=
  if_neg fun ⟨_, quiet⟩ => not_not_of_true raised quiet

theorem Chip.ownerDo_debugGrant (level : m.level = 1) (lasts : 1 ≤ fieldAt b 0x94 4) (day : fieldAt b 0x94 4 ≤ 86400) :
    m.ownerDo b 7 alarmed =
      (({ m with tr := { m.tr with
          debug := fieldAt b 0x90 1 % 4, debugEnd := m.isl.dtc + 62500000 * fieldAt b 0x94 4 } } : Chip).emit 0 0x6506, true) :=
  if_neg (by omega)

/-! ## Debug grants -/

/-- A grant that ends where the level gives no scope of its own stops perturbation and lets the cores go on (R342). -/
theorem Chip.endGrant_held (held : m.scopes ≠ 0) (level : m.level ≠ 0) :
    m.endGrant = (({ m with tr := { m.tr with debug := 0, debugEnd := 0 } } : Chip).ptbStop 2 false).setF PTB_CORE.HALT 0 :=
  if_neg fun no => no.elim held level

end Sys2Proof.Machine
end

section
/-! PROOFS, family 04_host_ports. SPDM requests (R91, R343, R344), and owner commands and attestation: O51. -/

namespace Sys2Proof.Machine

variable {m : Chip} {p stage id : Nat}

theorem Chip.atStage_reached (reached : stage ≤ (m.peer p).stage) (g : Chip → Chip) : m.atStage p stage g = g m := if_neg (by omega)

theorem Chip.atStage_early (early : (m.peer p).stage < stage) (g : Chip → Chip) : m.atStage p stage g = m.answer p "ERROR" [] [] :=
  if_pos early

theorem Chip.inSession_open (has : (m.peer p).has id = true) (g : Chip → Chip) : m.inSession p id g = g m := if_pos has

theorem Chip.inSession_none (hasNot : (m.peer p).has id = false) (g : Chip → Chip) : m.inSession p id g = m.answer p "ERROR" [] [] :=
  if_neg (Bool.eq_false_iff.mp hasNot)

theorem spdmGetMeasurements_one {s : State} {p : Fin 35} {index : Nat} {request v : List Byte} (reached : 3 ≤ (s.chip.peer p).stage)
    (one : index ≠ 0xFF) (measured : s.chip.measurement index = some v) :
    Completes (.spdmGetMeasurements p index false request) s fun m => m.answer p "MEASUREMENTS" [] (leBytes 1 index ++ v) := by
  have measured : s.chip.fresh.measurement index = some v := measured
  refine completes_of_chip rfl ((Chip.atStage_reached (m := s.chip.fresh) reached _).trans ?_)
  simp only [measured, if_neg one, Option.isNone_some, Bool.false_eq_true, and_false, if_false, List.flatMap_singleton, Option.getD_some]

/-- Settles O51, row by row in the order of the statement. -/
theorem ownerAndSpdmCommandsComplete : Obligations.OwnerAndSpdmCommandsComplete :=
  -- NONCE, NONCE_EXPIRY
  ⟨fun _ => completes_of_chip rfl rfl, fun _ => completes_of_chip rfl rfl,
    -- TAKE, TRANSFER, SET_LEVEL
    fun s b _ passes free => completes_of_chip rfl (Chip.ownerCmd_succeeds (m := s.chip.fresh) passes _ b rfl (by decide)
      (Chip.ownerDo_take ((congrArg (·.owner) (s.chip.fresh.nv_shown 1)).trans free))),
    fun s b _ passes owned => completes_of_chip rfl (Chip.ownerCmd_refused (m := s.chip.fresh) passes _ b rfl (by decide)
      (Chip.ownerDo_take_owned (by rw [Chip.nv_shown]; exact owned))),
    fun s b _ passes key => completes_of_chip rfl (Chip.ownerCmd_succeeds (m := s.chip.fresh) passes _ b rfl (by decide)
      (Chip.ownerDo_transfer key)),
    fun s b _ passes zero level => completes_of_chip rfl (Chip.ownerCmd_refused (m := s.chip.fresh) passes _ b rfl (by decide)
      (Chip.ownerDo_transfer_refused zero (by rw [Chip.level_shown]; exact level))),
    fun s b _ passes raises known => completes_of_chip rfl (Chip.ownerCmd_succeeds (m := s.chip.fresh) passes _ b rfl (by decide)
      (Chip.ownerDo_setLevel (by rw [Chip.level_shown]; exact raises) known)),
    -- IMGKEY_SET on an empty slot and on a revoked one, IMGKEY_REVOKE
    fun s b _ passes empty => completes_of_chip rfl (Chip.ownerCmd_succeeds (m := s.chip.fresh) passes _ b rfl (by decide)
      (Chip.ownerDo_imgkeySet (by rw [Chip.nv_shown]; exact empty) (by decide))),
    fun s b _ passes revoked => completes_of_chip rfl (Chip.ownerCmd_refused (m := s.chip.fresh) passes _ b rfl (by decide)
      (Chip.ownerDo_imgkeySet_revoked (by rw [Chip.nv_shown]; exact revoked))),
    fun s b _ passes slot => completes_of_chip rfl (Chip.ownerCmd_succeeds (m := s.chip.fresh) passes _ b rfl (by decide)
      (Chip.ownerDo_imgkeyRevoke (by rw [Chip.nv_shown]; exact slot))),
    -- UNLOCK, DEBUG_GRANT, BADOP
    fun s b _ passes locked quiet => completes_of_chip rfl (Chip.ownerCmd_succeeds (m := s.chip.fresh) passes _ b rfl (by decide)
      (Chip.ownerDo_unlock (Chip.state_shown (m := s.chip.fresh) locked) quiet)),
    fun s b _ passes _ raised => completes_of_chip rfl (Chip.ownerCmd_refused (m := s.chip.fresh) passes _ b rfl (by decide)
      (Chip.ownerDo_unlock_alarmed raised)),
    fun s b _ passes level lasts day => completes_of_chip rfl (Chip.ownerCmd_succeeds (m := s.chip.fresh) passes _ b rfl (by decide)
      (Chip.ownerDo_debugGrant ((Chip.level_shown _ _).trans level) lasts day)),
    fun s b _ _ passes noOp => completes_of_chip rfl ((Chip.ownerCmd_is (m := s.chip.fresh) _ b passes (decide_eq_true noOp)).trans
      (Chip.ownerCheck_bad (m := s.chip.fresh) passes noOp)),
    -- DEBUG_REVOKE, DEBUG_GRANT_EXPIRY
    fun s held level => completes_of_chip rfl (Chip.endGrant_held (m := s.chip.fresh) held level),
    fun s held level => completes_of_chip rfl (Chip.endGrant_held (m := s.chip.fresh) held level),
    -- SPDM: GET_VERSION, GET_CAPABILITIES, NEGOTIATE_ALGORITHMS, GET_DIGESTS too early and at its stage, GET_CERTIFICATE, CHALLENGE
    fun _ _ => completes_of_chip rfl rfl,
    fun s _ reached => completes_of_chip rfl (Chip.atStage_reached (m := s.chip.fresh) reached _),
    fun s _ reached => completes_of_chip rfl (Chip.atStage_reached (m := s.chip.fresh) reached _),
    fun s _ early => completes_of_chip rfl (Chip.atStage_early (m := s.chip.fresh) early _),
    fun s _ reached => completes_of_chip rfl (Chip.atStage_reached (m := s.chip.fresh) reached _),
    fun s _ _ _ reached => completes_of_chip rfl
      ((Chip.atStage_reached (m := s.chip.fresh) reached _).trans (if_neg (not_not_intro rfl))),
    fun s _ _ reached => completes_of_chip rfl (Chip.atStage_reached (m := s.chip.fresh) reached _),
    -- SPDM: GET_MEASUREMENTS of one index and of all, signed
    fun _ _ _ _ _ reached one measured => spdmGetMeasurements_one reached one measured,
    fun s _ _ reached => completes_of_chip rfl ((Chip.atStage_reached (m := s.chip.fresh) reached _).trans (if_neg fun no => no.1 rfl)),
    -- SPDM: KEY_EXCHANGE with room for a session and without, FINISH, KEY_UPDATE, HEARTBEAT in a session and in none, END_SESSION
    fun s _ _ _ reached room new => completes_of_chip rfl ((Chip.atStage_reached (m := s.chip.fresh) reached _).trans
      (if_neg fun no => no.elim (Nat.not_le_of_lt room) (Bool.eq_false_iff.mp new))),
    fun s _ _ _ reached full => completes_of_chip rfl ((Chip.atStage_reached (m := s.chip.fresh) reached _).trans (if_pos (Or.inl full))),
    fun s _ _ new => completes_of_chip rfl (if_pos new),
    fun s _ _ has => completes_of_chip rfl (Chip.inSession_open (m := s.chip.fresh) has _),
    fun s _ _ has => completes_of_chip rfl (Chip.inSession_open (m := s.chip.fresh) has _),
    fun s _ _ hasNot => completes_of_chip rfl (Chip.inSession_none (m := s.chip.fresh) hasNot _),
    fun s _ _ has => completes_of_chip rfl (Chip.inSession_open (m := s.chip.fresh) has _),
    -- SPDM: VENDOR_DEFINED of KEY_PROG, of K_SET_GO, and from the twin or the management bus
    fun s p _ _ _ _ _ has own => completes_of_chip rfl ((Chip.inSession_open (m := s.chip.fresh) has _).trans
      ((if_neg (Nat.not_le_of_lt p.isLt)).trans (congrArg (fun m : Chip => m.answer p "VENDOR_DEFINED_RESPONSE" [] []) (if_pos own)))),
    fun s p _ _ _ _ _ has own => completes_of_chip rfl ((Chip.inSession_open (m := s.chip.fresh) has _).trans
      ((if_neg (Nat.not_le_of_lt p.isLt)).trans (congrArg (fun m : Chip => m.answer p "VENDOR_DEFINED_RESPONSE" [] []) (if_pos own)))),
    fun s _ _ _ has twin => completes_of_chip rfl ((Chip.inSession_open (m := s.chip.fresh) has _).trans (if_pos twin))⟩

end Sys2Proof.Machine
end

section
/-! PROOFS, family 05_queues_and_intake. Bit fields of sealed flow tags and the tag of an admin command (R47, R50, R106): O20. -/

namespace Sys2Proof.Machine

variable {m : Chip} {slot : Nat} {c : Cmd}

theorem bits_eq_div_mod (x hi lo : Nat) : bits x hi lo = x / 2 ^ lo % 2 ^ (hi - lo + 1) := by
  rw [bits, Nat.shiftRight_eq_div_pow]

theorem bitOf_eq_div_mod (x i : Nat) : bitOf x i = decide (x / 2 ^ i % 2 = 1) := by
  rw [bitOf, Nat.shiftRight_eq_div_pow]

theorem bits_eq_mod_div (x : Nat) {hi lo : Nat} (order : lo ≤ hi) : bits x hi lo = x % 2 ^ (hi + 1) / 2 ^ lo := by
  have split : 2 ^ lo * 2 ^ (hi - lo + 1) = 2 ^ (hi + 1) := by rw [← Nat.pow_add]; congr 1; omega
  rw [bits_eq_div_mod, ← split, Nat.mod_mul_right_div_self]

theorem bitOf_eq_bits (x i : Nat) : bitOf x i = decide (bits x i i = 1) := by
  rw [bitOf_eq_div_mod, bits_eq_div_mod, Nat.sub_self, Nat.zero_add, Nat.pow_one]

/-- The check of a tag lies at bit 176 and above (R47). -/
theorem tagSeal_mod (t : Nat) {n : Nat} (below : n ≤ 176) : tagSeal t % 2 ^ n = t % 2 ^ n := by
  have divides : 2 ^ n ∣ 2 ^ 176 := Nat.pow_dvd_pow 2 below
  rw [tagSeal, Nat.add_mod, Nat.mod_mod_of_dvd _ divides, Nat.mod_eq_zero_of_dvd (Nat.dvd_mul_left_of_dvd divides _), Nat.add_zero, Nat.mod_mod]

theorem bits_tagSeal (t : Nat) {hi lo : Nat} (order : lo ≤ hi) (below : hi < 176) : bits (tagSeal t) hi lo = bits t hi lo := by
  rw [bits_eq_mod_div _ order, bits_eq_mod_div _ order, tagSeal_mod t below]

theorem bitOf_tagSeal (t : Nat) {i : Nat} (below : i < 176) : bitOf (tagSeal t) i = bitOf t i := by
  rw [bitOf_eq_bits, bitOf_eq_bits, bits_tagSeal t (Nat.le_refl i) below]

theorem dvd_sum_of_forall_dvd {d : Nat} {l : List Nat} (each : ∀ p ∈ l, d ∣ p) : d ∣ l.sum := by
  induction l with
  | nil => exact Nat.dvd_zero d
  | cons p l ih =>
    obtain ⟨first, rest⟩ := List.forall_mem_cons.mp each
    rw [List.sum_cons]
    exact Nat.dvd_add first (ih rest)

/-- Flag 143 with flags above it: their sum has bit 143 set and none below. -/
theorem sum_flags_of_143 {rest : List Nat} (above : ∀ k ∈ rest, 144 ≤ k) :
    ∃ r, ((143 :: rest).eraseDups.map (2 ^ ·)).sum = 2 ^ 143 + 2 ^ 144 * r := by
  have divides : 2 ^ 144 ∣ (((rest.filter fun k => !k == 143).eraseDups).map (2 ^ ·)).sum := by
    refine dvd_sum_of_forall_dvd fun p mem => ?_
    obtain ⟨k, flag, rfl⟩ := List.mem_map.mp mem
    exact Nat.pow_dvd_pow 2 (above k (List.mem_filter.mp (List.mem_eraseDups.mp flag)).1)
  obtain ⟨r, sum⟩ := divides
  exact ⟨r, by rw [List.eraseDups_cons, List.map_cons, List.sum_cons, sum]⟩

/-- A flag at bit `n`, set where `b` holds, is not below bit `lo`. -/
theorem mem_flag_above {b : Prop} [Decidable b] {lo n : Nat} (above : lo ≤ n) : ∀ k ∈ (if b then [n] else []), lo ≤ k := by
  split <;> simp [above]

/-- An admin command's tag has queue 0, no cipher key and flag ADMIN (bit 143); its other flags are higher bits (R47, R49, R106). -/
theorem Chip.cmdTag_admin (admin : c.admin = true) :
    ∃ rest : List Nat, (∀ k ∈ rest, 144 ≤ k) ∧
      m.cmdTag slot c = tagMake 0xC c.cls c.epoch c.hint c.level c.tenant c.fn 0 slot (c.zone.getD 0) 0x3FFF c.deadline (143 :: rest) := by
  simp only [Chip.cmdTag, Chip.cmdUnitTag, Cmd.kind, admin, if_true, List.append_assoc, List.cons_append, List.nil_append]
  refine ⟨_, ?_, rfl⟩
  simp only [List.forall_mem_append, List.append_nil]
  and_intros <;> exact mem_flag_above (by decide)

/-- Settles O20: the flags of an admin command's tag begin at bit 143, and every field keeps within its place. -/
theorem adminQueuesHaveTheirOwnIndices : Obligations.AdminQueuesHaveTheirOwnIndices := by
  refine ⟨fun i f => ⟨rfl, by omega⟩, fun m slot c admin slotFits fnFits tenantFits levelFits hintFits epochFits clsFits zoneFits => ?_⟩
  obtain ⟨rest, above, tag⟩ := Chip.cmdTag_admin (m := m) (slot := slot) admin
  obtain ⟨r, flags⟩ := sum_flags_of_143 above
  rw [tag, tagMake, flags, bits_tagSeal _ (by decide) (by decide), bitOf_tagSeal _ (by decide), bits_eq_div_mod, bitOf_eq_div_mod]
  refine ⟨?_, decide_eq_true ?_⟩ <;> omega

end Sys2Proof.Machine
end

section
/-! PROOFS, family 05_queues_and_intake. Admin commands for queues, aborts, event requests and features (R107, R108, R116, R138, R139, R205,
R268): O37. -/

namespace Sys2Proof.Machine

variable {m : Chip} {s op i k : Nat} {c : Cmd}

/-! ## Queues (R108, R139) -/

theorem Chip.createSq_creates (h : m.adminAt s 0x01 c) (ioQueue : bits (dw c.entry 10) 15 0 ≠ 0)
    (within : bits (dw c.entry 10) 15 0 ≤ m.img.tables.qcount c.fn)
    (sq : m.img.tables.qctxOf c.fn (bits (dw c.entry 10) 15 0) = some i) (free : (m.qc i).sqValid = false)
    (contiguous : bitOf (dw c.entry 11) 0 = true) (ioCq : bits (dw c.entry 11) 31 16 ≠ 0)
    (cqWithin : bits (dw c.entry 11) 31 16 ≤ m.img.tables.qcount c.fn)
    (cq : m.img.tables.qctxOf c.fn (bits (dw c.entry 11) 31 16) = some k) (cqStands : (m.qc k).cqValid = true) :
    m.createSq s = (m.setQc i { m.qc i with
      sqBase := prp1Of c.entry / 4096 * 4096, sqValid := true, sqSize := bits (dw c.entry 10) 31 16, sqHead := 0, sqTail := 0
      sqPrio := if (m.fn c.fn).wrr then bits (dw c.entry 11) 2 1 else 0, sqState := 1, sqCq := k, func := c.fn
      qid := bits (dw c.entry 10) 15 0, pairs := [] }).finish s (some stOk) := by
  refine (Chip.adminCmd_at h _).trans ((if_neg (by omega)).trans ?_)
  simp only [sq, cq]
  refine (if_neg (Bool.eq_false_iff.mp free)).trans ((if_neg (not_not_of_true contiguous)).trans (if_neg ?_))
  rintro (zero | beyond | missing)
  · exact ioCq zero
  · omega
  · exact not_not_of_true cqStands missing

theorem Chip.createCq_creates (h : m.adminAt s 0x05 c) (ioQueue : bits (dw c.entry 10) 15 0 ≠ 0)
    (within : bits (dw c.entry 10) 15 0 ≤ m.img.tables.qcount c.fn)
    (cq : m.img.tables.qctxOf c.fn (bits (dw c.entry 10) 15 0) = some i) (free : (m.qc i).cqValid = false)
    (contiguous : bitOf (dw c.entry 11) 0 = true) :
    m.createCq s = (m.setQc i { m.qc i with
      cqBase := prp1Of c.entry / 4096 * 4096, cqValid := true, cqIen := bitOf (dw c.entry 11) 1, cqPhase := 1
      cqSize := bits (dw c.entry 10) 31 16, cqHead := 0, cqTail := 0, cqIv := bits (dw c.entry 11) 26 16, func := c.fn
      qid := bits (dw c.entry 10) 15 0 }).finish s (some stOk) := by
  refine (Chip.adminCmd_at h _).trans ((if_neg (by omega)).trans ?_)
  simp only [cq]
  exact (if_neg (Bool.eq_false_iff.mp free)).trans (if_neg (not_not_of_true contiguous))

/-- The SQ stops, its commands that have been accepted and not committed end, and the Delete completes once none is left. -/
theorem Chip.deleteSq_stops (h : m.adminAt s 0x00 c) (sq : m.img.tables.qctxOf c.fn (bits (dw c.entry 10) 15 0) = some i)
    (ioQueue : bits (dw c.entry 10) 15 0 ≠ 0) (stands : (m.qc i).sqValid = true) (notYet : (m.qc i).sqState ≠ 2) :
    m.deleteSq s =
      (let m := (m.setQc i { m.qc i with sqState := 2 }).modCmd s fun c => { c with phase := .running }
       let mine := m.q.slots.filter fun e => decide (e.2.q = i ∧ e.2.peer = none)
       let m := (mine.filter fun e => decide (e.2.phase ≠ .reserved ∧ e.2.phase ≠ .committed)).foldl
         (fun (m : Chip) e => if (m.cmd? e.1).isSome then m.endCmd e.1 (some stSqDeleted) else m) m
       m.finishDelete i) := by
  refine (Chip.adminCmd_at h _).trans ?_
  simp only [sq]
  exact if_neg fun no => no.elim ioQueue (·.elim (not_not_of_true stands) notYet)

theorem Chip.deleteCq_deletes (h : m.adminAt s 0x04 c) (cq : m.img.tables.qctxOf c.fn (bits (dw c.entry 10) 15 0) = some i)
    (ioQueue : bits (dw c.entry 10) 15 0 ≠ 0) (stands : (m.qc i).cqValid = true)
    (unused : m.q.qctx.any (fun e => decide (e.2.sqState ≠ 0 ∧ e.1 < 262144 ∧ e.2.sqCq = i)) = false) :
    m.deleteCq s = (m.setQc i { m.qc i with
      cqBase := 0, cqValid := false, cqIen := false, cqPhase := 0, cqSize := 0, cqHead := 0, cqTail := 0, cqIv := 0 }).finish s
        (some stOk) := by
  refine (Chip.adminCmd_at h _).trans ?_
  simp only [cq]
  exact (if_neg fun no => no.elim ioQueue (not_not_of_true stands)).trans (if_neg (Bool.eq_false_iff.mp unused))

/-! ## Aborts and event requests (R138, R205) -/

/-- Entry `e` is the command that an Abort in slot `s`, naming identifier `cid` in SQ context `i`, may end. -/
abbrev Chip.abortable (m : Chip) (s i cid : Nat) (e : Nat × Cmd) : Bool :=
  decide (e.1 ≠ s ∧ e.2.q = i ∧ e.2.peer = none ∧ e.2.phase ≠ .reserved ∧ e.2.phase ≠ .committed) && decide (cidOf e.2.entry = cid) &&
    !(decide (opcodeOf e.2.entry = 0x02) && m.onDie e.1)

theorem Chip.abort_noQueue (h : m.adminAt s 0x08 c) (noQueue : m.img.tables.qctxOf c.fn (bits (dw c.entry 10) 15 0) = none) :
    m.abort s = m.finish s (some stOk) 1 := by
  refine (Chip.adminCmd_at h _).trans ?_
  simp only [noQueue, Option.bind_none]

theorem Chip.abort_ends {t : Nat} {d : Cmd} (h : m.adminAt s 0x08 c)
    (queue : m.img.tables.qctxOf c.fn (bits (dw c.entry 10) 15 0) = some i)
    (found : m.q.slots.find? (m.abortable s i (bits (dw c.entry 10) 31 16)) = some (t, d)) :
    m.abort s = (m.endCmd t (some stAborted)).finish s (some stOk) 0 := by
  refine (Chip.adminCmd_at h _).trans ?_
  simp only [queue, Option.bind_some, found]

theorem Chip.asyncRequest_waits (h : m.adminAt s 0x0C c) (noEvent : (m.fn c.fn).events = []) :
    m.asyncRequest s =
      (m.setFn c.fn { m.fn c.fn with aers := (m.fn c.fn).aers ++ [s] }).modCmd s fun c => { c with phase := .running } := by
  refine (Chip.adminCmd_at h _).trans ?_
  simp only [noEvent]

theorem Chip.asyncRequest_completes {type info page : Nat} {rest : List (Nat × Nat × Nat)} (h : m.adminAt s 0x0C c)
    (held : (m.fn c.fn).events = (type, info, page) :: rest) :
    m.asyncRequest s =
      (m.setFn c.fn { m.fn c.fn with events := rest }).finish s (some stOk) (65536 * page + info * 256 + type) := by
  refine (Chip.adminCmd_at h _).trans ?_
  simp only [held]

/-! ## Features (R107, R268) -/

theorem Chip.queueCount_ioQueues (h : m.adminAt s op c) (named : bits (dw c.entry 10) 7 0 = 0x07) (ioQueues : m.img.tables.qcount c.fn ≠ 0) :
    m.queueCount s op = m.finish s (some stOk) (65536 * (m.img.tables.qcount c.fn - 1) + (m.img.tables.qcount c.fn - 1)) :=
  (Chip.feature_at h named _).trans (if_neg ioQueues)

theorem Chip.levelFeature_elastic {n : Ns} (h : m.adminAt s op c) (named : bits (dw c.entry 10) 7 0 = 0xC8)
    (one : nsidOf c.entry ≠ 0xFFFFFFFF) (seen : m.visible? c.fn (nsidOf c.entry) = some n) (elastic : n.elastic = true)
    (g : Cmd → Ns → Chip → Chip) : m.levelFeature s op g = g c n m := by
  refine (Chip.feature_at h named _).trans ((if_neg one).trans ?_)
  simp only [seen]
  exact if_pos elastic

/-- Settles O37, row by row in the order of the statement. -/
theorem queueAndFeatureCommandsComplete : Obligations.QueueAndFeatureCommandsComplete :=
  -- CREATE_IO_SUBMISSION_QUEUE, CREATE_IO_COMPLETION_QUEUE, DELETE_IO_SUBMISSION_QUEUE, DELETE_IO_COMPLETION_QUEUE
  ⟨fun _ _ _ _ _ at_ ioQueue within sq free contiguous ioCq cqWithin cq cqStands => completes_of_chip rfl
      (Chip.createSq_creates (Chip.adminAt_fresh at_) ioQueue within sq free contiguous ioCq cqWithin cq cqStands),
    fun _ _ _ _ at_ ioQueue within cq free contiguous => completes_of_chip rfl
      (Chip.createCq_creates (Chip.adminAt_fresh at_) ioQueue within cq free contiguous),
    fun _ _ _ _ at_ sq ioQueue stands notYet => completes_of_chip rfl
      (congrArg Chip.settle (Chip.deleteSq_stops (Chip.adminAt_fresh at_) sq ioQueue stands notYet)),
    fun _ _ _ _ at_ cq ioQueue stands unused => completes_of_chip rfl
      (Chip.deleteCq_deletes (Chip.adminAt_fresh at_) cq ioQueue stands unused),
    -- ABORT of no queue and of a command found, ASYNCHRONOUS_EVENT_REQUEST with no event held and with one
    fun _ _ _ at_ noQueue => completes_of_chip rfl (congrArg Chip.settle (Chip.abort_noQueue (Chip.adminAt_fresh at_) noQueue)),
    fun _ _ _ _ _ _ at_ queue found => completes_of_chip rfl
      (congrArg Chip.settle (Chip.abort_ends (Chip.adminAt_fresh at_) queue found)),
    fun _ _ _ at_ noEvent => completes_of_chip rfl (Chip.asyncRequest_waits (Chip.adminAt_fresh at_) noEvent),
    fun _ _ _ _ _ _ _ at_ held => completes_of_chip rfl (Chip.asyncRequest_completes (Chip.adminAt_fresh at_) held),
    -- SET_FEATURES and GET_FEATURES of NUMBER_OF_QUEUES, of ARBITRATION and of COMPRESSION_LEVEL
    fun _ _ _ at_ named ioQueues => completes_of_chip rfl (Chip.queueCount_ioQueues (Chip.adminAt_fresh at_) named ioQueues),
    fun _ _ _ at_ named ioQueues => completes_of_chip rfl (Chip.queueCount_ioQueues (Chip.adminAt_fresh at_) named ioQueues),
    fun _ _ _ at_ named => completes_of_chip rfl (Chip.feature_at (Chip.adminAt_fresh at_) named _),
    fun _ _ _ at_ named => completes_of_chip rfl (Chip.feature_at (Chip.adminAt_fresh at_) named _),
    fun _ _ _ _ at_ named one seen elastic least most => completes_of_chip rfl
      ((Chip.levelFeature_elastic (Chip.adminAt_fresh at_) named one seen elastic _).trans (if_pos ⟨least, most⟩)),
    fun _ _ _ _ at_ named one seen elastic => completes_of_chip rfl
      (Chip.levelFeature_elastic (Chip.adminAt_fresh at_) named one seen elastic _)⟩

end Sys2Proof.Machine
end

section
/-! PROOFS, family 06_zones. Where the units of a row and the bytes of a zone lie (R156, R157): O10 and O11. -/

namespace Sys2Proof.Machine

/-! ## The members of a row (R156) -/

theorem parityP_ne_parityQ (r : Nat) : parityP r ≠ parityQ r := by
  unfold parityP parityQ
  omega

theorem memberOf_ne_parityP {c : Nat} (r : Nat) (column : c < 16) : memberOf r c ≠ parityP r := by
  unfold memberOf parityP
  omega

theorem memberOf_ne_parityQ {c : Nat} (r : Nat) (column : c < 16) : memberOf r c ≠ parityQ r := by
  unfold memberOf parityQ
  omega

theorem memberOf_inj {r c c' : Nat} (column : c < 16) (column' : c' < 16) (same : memberOf r c' = memberOf r c) : c' = c := by
  unfold memberOf at same
  omega

/-- Settles O10: eighteen successive residues modulo 18 are distinct, P the first, Q the second, the data columns the others. -/
theorem aRowsUnitsLieOnDistinctMembers : Obligations.ARowsUnitsLieOnDistinctMembers :=
  fun r _ column => ⟨rfl, rfl, rfl, parityP_ne_parityQ r, memberOf_ne_parityP r column, memberOf_ne_parityQ r column,
    fun _ column' => memberOf_inj column column'⟩

/-! ## The place of a byte (R157) -/

theorem rowOf_lt {b : Nat} (inZone : b < 2 ^ 32) : rowOf b < 1024 := by
  unfold rowOf
  omega

theorem columnOf_lt (b : Nat) : columnOf b < 16 := by
  unfold columnOf
  omega

theorem pageOf_lt (b : Nat) : pageOf b < 16 := by
  unfold pageOf
  omega

theorem memberOf_lt (r c : Nat) : memberOf r c < 18 := Nat.mod_lt _ (by decide)

/-- A row is 16 columns of 256 KiB, and a column's share of it is 16 pages of 16 KiB. -/
theorem offset_eq_place (b : Nat) : b = 4194304 * rowOf b + 262144 * columnOf b + 16384 * pageOf b + b % 16384 := by
  unfold rowOf columnOf pageOf
  omega

/-- Settles O11: row, column, page and byte are the digits of the offset in the mixed base of R157. -/
theorem aZoneOffsetIsItsPlace : Obligations.AZoneOffsetIsItsPlace :=
  fun b inZone => ⟨rowOf_lt inZone, columnOf_lt b, pageOf_lt b, memberOf_lt _ _, offset_eq_place b⟩

end Sys2Proof.Machine
end

section
/-! PROOFS, family 06_zones. Zone Management Send and Receive (R145 to R147, R173): what an action does to a zone that may take it, and O45. -/

namespace Sys2Proof.Machine

variable {m m' : Chip} {i z act hint : Nat} {c d : Cmd} {n : Ns}

theorem Chip.ioAt_fresh {op : Nat} (h : m.ioAt i op c n) : m.fresh.ioAt i op c n := h

/-! ## One action on one zone -/

/-- The table of R146 lets the action go on; only Offline is not stopped by a zone that is Offline already. -/
theorem Chip.zoneDo_go (online : (m.zone z).state ≠ zso ∨ act = 5) (allowed : zoneAction act (m.zone z).state = .go) :
    m.zoneDo z act hint =
      if act = 3 then m.takeZone z zseo hint
      else if act = 1 then (m.closeZone z, none)
      else if act = 2 then (m.finishZone z, none)
      else if act = 4 then (m.resetZone z, none)
      else (m.setZoneState z zso, none) := by
  have notOffline : ¬ ((m.zone z).state = zso ∧ act ≠ 5) := fun ⟨offline, other⟩ => online.elim (· offline) other
  unfold Chip.zoneDo
  simp only [if_neg notOffline, allowed]

theorem Chip.zoneDo_open (online : (m.zone z).state ≠ zso) (allowed : zoneAction 3 (m.zone z).state = .go)
    (taken : (m.takeZone z zseo hint).2 = none) : m.zoneDo z 3 hint = ((m.takeZone z zseo hint).1, none) :=
  (Chip.zoneDo_go (.inl online) allowed).trans (Prod.ext rfl taken)

theorem Chip.zoneDo_close (online : (m.zone z).state ≠ zso) (allowed : zoneAction 1 (m.zone z).state = .go) :
    m.zoneDo z 1 hint = (m.closeZone z, none) :=
  Chip.zoneDo_go (.inl online) allowed

theorem Chip.zoneDo_finish (online : (m.zone z).state ≠ zso) (allowed : zoneAction 2 (m.zone z).state = .go) :
    m.zoneDo z 2 hint = (m.finishZone z, none) :=
  Chip.zoneDo_go (.inl online) allowed

theorem Chip.zoneDo_reset (online : (m.zone z).state ≠ zso) (allowed : zoneAction 4 (m.zone z).state = .go) :
    m.zoneDo z 4 hint = (m.resetZone z, none) :=
  Chip.zoneDo_go (.inl online) allowed

theorem Chip.zoneDo_offline (allowed : zoneAction 5 (m.zone z).state = .go) : m.zoneDo z 5 hint = (m.setZoneState z zso, none) :=
  Chip.zoneDo_go (.inr rfl) allowed

/-! ## Zone Management Send -/

/-- An action that succeeds on the command's zone ends the command with success. -/
theorem Chip.zoneSend_one (h : m.ioAt i 0x79 c n) (action : zsaOf c.entry = act) (one : selectAll c.entry = false) (named : c.zone = some z)
    (quiet : m.zoneQuiet z c.seq = true) (done : m.zoneDo z act c.hint = (m', none)) :
    m.zoneSend i act = (m'.finish i (some stOk)).reclassify z := by
  refine (Chip.ioCmd_at h _).trans ((if_neg (not_not_intro action)).trans ((if_neg (by simp [one])).trans ?_))
  simp only [named]
  refine (if_neg (not_not_of_true quiet)).trans ?_
  simp only [done]

/-- With Select All the action is tried on each zone it selects, and the command ends with success. -/
theorem Chip.zoneSend_all (h : m.ioAt i 0x79 c n) (action : zsaOf c.entry = act) (all : selectAll c.entry = true)
    (quiet : (n.zones.filter fun z => selectsState act (m.zone z).state).all (m.zoneQuiet · c.seq) = true) :
    m.zoneSend i act =
      ((n.zones.filter fun z => selectsState act (m.zone z).state).foldl (fun (m : Chip) z => (m.zoneDo z act c.hint).1) m).finish i
        (some stOk) :=
  (Chip.ioCmd_at h _).trans ((if_neg (not_not_intro action)).trans ((if_pos all).trans (if_neg (not_not_of_true quiet))))

/-! ## Zone Management Receive -/

theorem Chip.zoneReceive_at (h : m.ioAt i 0x7A c n) (action : zraOf c.entry = act) (g : Cmd → Ns → Chip → Chip) :
    m.zoneReceive i act g = g c n m :=
  (Chip.ioCmd_at h _).trans (if_pos action)

/-- A report whose pointers are all known goes to the host, and the command completes. -/
theorem Chip.giveReport_in {bytes : List Byte} (h : m.cmd? i = some c) (known : m.ptrsIn i bytes.length c d) :
    m.giveReport i bytes = ((m.ptrsAsked i bytes.length c).giveHost i 0 bytes).finish i (some stOk) :=
  Chip.withPtrs_in h known _

/-- A report with a list or segment of pointers still to read waits for it. -/
theorem Chip.giveReport_waits {bytes : List Byte} (h : m.cmd? i = some c) (asked : (m.ptrsAsked i bytes.length c).cmd? i = some d)
    (waits : d.list.isSome = true) : m.giveReport i bytes = m.ptrsAsked i bytes.length c :=
  Chip.withPtrs_waits h asked waits _

/-- Settles O45, row by row in the order of the statement. -/
theorem zoneCommandsComplete : Obligations.ZoneCommandsComplete :=
  -- OPEN_ZONE of one zone and of all selected
  ⟨fun _ _ _ _ _ at_ action one named quiet online allowed taken => completes_of_chip rfl (congrArg Chip.settle
      (Chip.zoneSend_one (Chip.ioAt_fresh at_) action one named quiet (Chip.zoneDo_open online allowed taken))),
    fun _ _ _ _ at_ action all quiet => completes_of_chip rfl (congrArg Chip.settle
      (Chip.zoneSend_all (Chip.ioAt_fresh at_) action all quiet)),
    -- CLOSE_ZONE
    fun _ _ _ _ _ at_ action one named quiet online allowed => completes_of_chip rfl (congrArg Chip.settle
      (Chip.zoneSend_one (Chip.ioAt_fresh at_) action one named quiet (Chip.zoneDo_close online allowed))),
    fun _ _ _ _ at_ action all quiet => completes_of_chip rfl (congrArg Chip.settle
      (Chip.zoneSend_all (Chip.ioAt_fresh at_) action all quiet)),
    -- FINISH_ZONE
    fun _ _ _ _ _ at_ action one named quiet online allowed => completes_of_chip rfl (congrArg Chip.settle
      (Chip.zoneSend_one (Chip.ioAt_fresh at_) action one named quiet (Chip.zoneDo_finish online allowed))),
    fun _ _ _ _ at_ action all quiet => completes_of_chip rfl (congrArg Chip.settle
      (Chip.zoneSend_all (Chip.ioAt_fresh at_) action all quiet)),
    -- RESET_ZONE
    fun _ _ _ _ _ at_ action one named quiet online allowed => completes_of_chip rfl (congrArg Chip.settle
      (Chip.zoneSend_one (Chip.ioAt_fresh at_) action one named quiet (Chip.zoneDo_reset online allowed))),
    fun _ _ _ _ at_ action all quiet => completes_of_chip rfl (congrArg Chip.settle
      (Chip.zoneSend_all (Chip.ioAt_fresh at_) action all quiet)),
    -- OFFLINE_ZONE
    fun _ _ _ _ _ at_ action one named quiet allowed => completes_of_chip rfl (congrArg Chip.settle
      (Chip.zoneSend_one (Chip.ioAt_fresh at_) action one named quiet (Chip.zoneDo_offline allowed))),
    fun _ _ _ _ at_ action all quiet => completes_of_chip rfl (congrArg Chip.settle
      (Chip.zoneSend_all (Chip.ioAt_fresh at_) action all quiet)),
    -- SET_ZONE_DESCRIPTOR_EXTENSION
    fun _ _ _ _ at_ action => completes_of_chip rfl ((Chip.ioCmd_at (Chip.ioAt_fresh at_) _).trans (if_pos action)),
    -- REPORT_ZONES with its pointers known, and with a list to read first
    fun _ _ _ _ _ at_ action known => completes_of_chip rfl
      ((Chip.zoneReceive_at (Chip.ioAt_fresh at_) action _).trans (Chip.giveReport_in (Chip.ioAt_fresh at_).1 known)),
    fun _ _ _ _ _ at_ action asked waits => completes_of_chip rfl
      ((Chip.zoneReceive_at (Chip.ioAt_fresh at_) action _).trans (Chip.giveReport_waits (Chip.ioAt_fresh at_).1 asked waits)),
    -- EXTENDED_REPORT_ZONES
    fun _ _ _ _ at_ action => completes_of_chip rfl (Chip.zoneReceive_at (Chip.ioAt_fresh at_) action _),
    -- AVFORT_ZONE_REPORT with its pointers known, and with a list to read first
    fun _ _ _ _ _ at_ action known => completes_of_chip rfl
      ((Chip.zoneReceive_at (Chip.ioAt_fresh at_) action _).trans (Chip.giveReport_in (Chip.ioAt_fresh at_).1 known)),
    fun _ _ _ _ _ at_ action asked waits => completes_of_chip rfl
      ((Chip.zoneReceive_at (Chip.ioAt_fresh at_) action _).trans (Chip.giveReport_waits (Chip.ioAt_fresh at_).1 asked waits))⟩

end Sys2Proof.Machine
end

section
/-! PROOFS, family 06_zones. Spills (R158), log compaction and merge (R169), relocations (R170), solves (R254, R255), rebuild pacing (R262) and
parity verify (R264): O47. -/

namespace Sys2Proof.Machine

variable {m v : Chip} {z : Nat} {s : State}

/-! ## Spills (R158) -/

theorem Chip.spillAged_noRows (rows : (m.stagedStripes z).flatMap m.openRows = []) : m.spillAged z = m := by
  simp [Chip.spillAged, rows]

/-- The zone's own row is spilled whatever its age. -/
theorem Chip.spillAged_single {r : Nat} (rows : (m.stagedStripes z).flatMap m.openRows = [(z, r)]) : m.spillAged z = m.startSpill z r := by
  simp [Chip.spillAged, rows]

/-- Beyond the first wordline of its block a spill needs no erase: the programs of the row's wordlines are placed. -/
theorem Chip.startSpill_placed {r d b n : Nat} (may : m.spillable z r = true) (begun : 0 < n)
    (place : m.spillDies.findSome? (fun d =>
      (m.spillPlace d (ceilDiv (min (m.filledBytes z - 4194304 * r) 4194304) 65536)).map fun p => (d, p)) = some (d, b, n)) :
    m.startSpill z r =
      (let len := min (m.filledBytes z - 4194304 * r) 4194304
       let w := ceilDiv len 65536
       let cls := if m.st.shutting then 5 else 4
       let dl := m.rowDeadline (m.zone z).tenant m.now cls
       let m := { m with zn := { m.zn with spillBlk := tput m.zn.spillBlk d (b, n + w), spillNext := d + 1 } }
       let m := m.setRow z r { m.row z r with plan := some (d, b, n), spillLen := len }
       (List.range w).foldl (fun (m : Chip) k =>
         m.place z { DUnit.make d .program (.spill z r) cls dl b (n + k) 0 with slc := true }) m) := by
  have noErase : ¬ (n = 0 ∧ (m.blk d b).dirty = true) := fun ⟨atStart, _⟩ => Nat.ne_of_gt begun atStart
  refine (if_neg (not_not_of_true may)).trans ?_
  simp only [place, if_neg noErase]

/-! ## Compaction and merge (R169) -/

theorem Chip.compactLog_rests (enough : 8 ≤ m.freeLog ∨ m.zn.compact.isSome = true) : m.compactLog = m := if_pos enough

/-- The one candidate is the victim. -/
theorem Chip.compactLog_single {c : Nat × LogBlk} (short : m.freeLog < 8) (idle : m.zn.compact = none)
    (cands : (m.zn.logBlks.filter fun e =>
      !e.2.opened && m.ownsStripe (logZone e.1) && decide ((m.zone (logZone e.1)).rows = 1024)) = [c]) :
    m.compactLog = ({ m with zn := { m.zn with compact := some { victim := c.1, left := c.2.units } } } : Chip).compactNext := by
  refine (if_neg (not_or.mpr ⟨Nat.not_le.mpr short, by simp [idle]⟩)).trans ?_
  simp only [cands, List.foldl_nil]

theorem Chip.mergeZone_fewUnits (few : m.logUnitsOf z ≤ 262144) : m.mergeZone z = m := by
  unfold Chip.mergeZone
  exact if_pos (.inr (.inr (.inl few)))

section merge

variable (conventional : (m.zone z).type = 2) (owned : m.ownsZone z = true) (many : 262144 < m.logUnitsOf z) (free : m.zn.merge = none)
include conventional owned many free

/-- A conventional zone with too many units in log blocks, while no zone merges, is due for a merge. -/
theorem Chip.merge_due :
    ¬ ((m.zone z).type ≠ 2 ∨ (!m.ownsZone z) = true ∨ m.logUnitsOf z ≤ 262144 ∨ m.zn.merge.isSome = true) := by
  simp [conventional, owned, many, free]

theorem Chip.mergeZone_begins {ms : List Member} (stripe : m.newStripe (if (m.zone z).cls = 0 then 2 else (m.zone z).cls) = (v, some ms)) :
    m.mergeZone z = v.mergeRow { zone := z, members := ms, row := 0, reads := 0, left := [], taken := [], lost := [] } := by
  simp only [Chip.mergeZone, if_neg (Chip.merge_due conventional owned many free), stripe]

theorem Chip.mergeZone_noStripe (stripe : m.newStripe (if (m.zone z).cls = 0 then 2 else (m.zone z).cls) = (v, none)) :
    m.mergeZone z = m.incF ZNE_MOVES.PLACEFAIL := by
  simp only [Chip.mergeZone, if_neg (Chip.merge_due conventional owned many free), stripe]

end merge

/-! ## Relocations (R170) and the solving lane (R254, R255) -/

theorem memberRelocation_starts {z : ZoneId} {i : Fin 18} (bound : (s.chip.zone z).members ≠ []) (alive : ((s.chip.zone z).member i).failed = false)
    (owned : s.chip.ownsStripe z = true) :
    Completes (.memberRelocation z i) s fun m =>
      m.startMove z i (m.blk ((m.zone z).member i).die ((m.zone z).member i).block).urgent false false := by
  have mayMove : ¬ ((s.chip.zone z).members = [] ∨ ((s.chip.zone z).member i).failed = true ∨ (!s.chip.ownsStripe z) = true) := by
    simp [bound, alive, owned]
  exact completes_of_chip rfl (if_neg mayMove)

/-- The lane ends a ready solve that comes before all other ready ones. -/
theorem rowSolveDone_ends {id : Nat} {v : Solve} (found : s.chip.md.solves.find? (fun x => decide (x.id = id)) = some v) (ready : v.ready = true)
    (first : (s.chip.md.solves.filter (·.ready)).all v.before = true) : Completes (.rowSolveDone id) s fun m => (m.endSolve v).settle := by
  have foundNow : s.chip.fresh.md.solves.find? (fun x => decide (x.id = id)) = some v := found
  refine completes_of_chip rfl ?_
  simp only [foundNow]
  exact if_pos (by rw [ready]; exact first)

theorem rowSolveDone_unready {id : Nat} {v : Solve} (found : s.chip.md.solves.find? (fun x => decide (x.id = id)) = some v)
    (unready : v.ready = false) : Completes (.rowSolveDone id) s fun m => m := by
  have foundNow : s.chip.fresh.md.solves.find? (fun x => decide (x.id = id)) = some v := found
  refine completes_of_chip rfl ?_
  simp only [foundNow]
  exact if_neg (by simp [unready])

/-- Settles O47, row by row in the order of the statement. -/
theorem zoneBackgroundEventsComplete : Obligations.ZoneBackgroundEventsComplete :=
  -- SPILL_AGE_TIMEOUT with no open row and with one
  ⟨fun _ _ rows => completes_of_chip rfl (Chip.spillAged_noRows rows),
    fun s _ _ _ _ _ rows may begun place => completes_of_chip rfl
      ((Chip.spillAged_single (m := s.chip.fresh) rows).trans (Chip.startSpill_placed may begun place)),
    -- LOG_COMPACTION with enough free, with one candidate, and while one runs
    fun _ enough => completes_of_chip rfl (congrArg Chip.settle (Chip.compactLog_rests (.inl enough))),
    fun _ _ short idle cands => completes_of_chip rfl (congrArg Chip.settle (Chip.compactLog_single short idle cands)),
    fun _ running => completes_of_chip rfl (congrArg Chip.settle (Chip.compactLog_rests (.inr running))),
    -- ZONE_MERGE with a new stripe, without one, and with too few units
    fun s _ _ _ conventional owned many free stripe => completes_of_chip rfl
      (congrArg Chip.settle (Chip.mergeZone_begins (m := s.chip.fresh) conventional owned many free stripe)),
    fun _ _ _ conventional owned many free stripe => completes_of_chip rfl
      (congrArg Chip.settle (Chip.mergeZone_noStripe conventional owned many free stripe)),
    fun _ _ few => completes_of_chip rfl (congrArg Chip.settle (Chip.mergeZone_fewUnits few)),
    -- MEMBER_RELOCATION, ROW_SOLVE_DONE of a solve whose turn it is and of one not ready
    fun _ _ _ bound alive owned => memberRelocation_starts bound alive owned,
    fun _ _ _ found ready first => rowSolveDone_ends found ready first,
    fun _ _ _ found unready => rowSolveDone_unready found unready,
    -- REBUILD_BUCKET_REFILL, PARITY_VERIFY_TIMER disabled and with no mismatch found
    fun _ _ => completes_of_chip rfl rfl,
    fun _ _ disabled => completes_of_chip rfl (if_pos disabled),
    fun _ enabled hours => completes_of_chip rfl (if_neg (not_or.mpr ⟨enabled, hours⟩))⟩

end Sys2Proof.Machine
end

section
/-! PROOFS, family 07_deadlines_and_tenants. Units with equal deadlines (R181): O9. -/

namespace Sys2Proof.Machine

section tie

variable {a b : DUnit} (notEarlier : earlier a.deadline b.deadline = false) (notLater : earlier b.deadline a.deadline = false)
include notEarlier notLater

/-- With neither deadline earlier, class, kind, creation and origin decide, in this order. -/
theorem DUnit.before_tie :
    a.before b =
      if a.cls ≠ b.cls then decide (a.cls < b.cls)
      else if a.kind.rank ≠ b.kind.rank then decide (a.kind.rank < b.kind.rank)
      else if a.created ≠ b.created then decide (a.created < b.created)
      else if a.internal ≠ b.internal then b.internal
      else decide (a.id < b.id) :=
  (if_neg (Bool.eq_false_iff.mp notEarlier)).trans (if_neg (Bool.eq_false_iff.mp notLater))

theorem DUnit.before_lowerClass (lower : a.cls < b.cls) : a.before b = true ∧ b.before a = false := by
  rw [DUnit.before_tie notEarlier notLater, DUnit.before_tie notLater notEarlier]
  simp [lower, Nat.ne_of_lt lower, Nat.ne_of_gt lower, Nat.le_of_lt lower]

theorem DUnit.before_lowerKind (cls : a.cls = b.cls) (lower : a.kind.rank < b.kind.rank) : a.before b = true ∧ b.before a = false := by
  rw [DUnit.before_tie notEarlier notLater, DUnit.before_tie notLater notEarlier]
  simp [cls, lower, Nat.ne_of_lt lower, Nat.ne_of_gt lower, Nat.le_of_lt lower]

theorem DUnit.before_createdFirst (cls : a.cls = b.cls) (kind : a.kind = b.kind) (lower : a.created < b.created) :
    a.before b = true ∧ b.before a = false := by
  rw [DUnit.before_tie notEarlier notLater, DUnit.before_tie notLater notEarlier]
  simp [cls, kind, lower, Nat.ne_of_lt lower, Nat.ne_of_gt lower, Nat.le_of_lt lower]

theorem DUnit.before_hostFirst (cls : a.cls = b.cls) (kind : a.kind = b.kind) (created : a.created = b.created) (host : a.internal = false)
    (device : b.internal = true) : a.before b = true ∧ b.before a = false := by
  rw [DUnit.before_tie notEarlier notLater, DUnit.before_tie notLater notEarlier]
  simp [cls, kind, created, host, device]

end tie

/-- Reads rank below programs and erases, programs below erases. -/
theorem UKind.rank_lt {k j : UKind} (h : k = .read ∧ j ≠ .read ∨ k = .program ∧ j = .erase) : k.rank < j.rank := by
  revert h
  cases k <;> cases j <;> decide

/-- Settles O9: at equal deadlines the first of class, kind and creation that differs decides, then the origin. -/
theorem unitsWithEqualDeadlinesAreOrdered : Obligations.UnitsWithEqualDeadlinesAreOrdered :=
  fun _ _ notEarlier notLater =>
    ⟨DUnit.before_lowerClass notEarlier notLater, fun cls =>
      ⟨fun kinds => DUnit.before_lowerKind notEarlier notLater cls (UKind.rank_lt kinds), fun kind =>
        ⟨DUnit.before_createdFirst notEarlier notLater cls kind, DUnit.before_hostFirst notEarlier notLater cls kind⟩⟩⟩

end Sys2Proof.Machine
end

section
/-! PROOFS, family 07_deadlines_and_tenants. Die-time credits (R190): O33. -/

namespace Sys2Proof.Machine

variable {share windowMs now : Nat} {c : Credit} {t : Int}

theorem ldgDepth_nonneg (share windowMs : Nat) : 0 ≤ ldgDepth share windowMs := Int.natCast_nonneg _

theorem ldgGain_le_depth (c : Credit) : (ldgGain share windowMs now c).credit ≤ ldgDepth share windowMs := Int.min_le_left _ _

/-- A credit within its depth does not fall when it is brought up to date. -/
theorem le_ldgGain (within : c.credit ≤ ldgDepth share windowMs) : c.credit ≤ (ldgGain share windowMs now c).credit :=
  Int.le_min.mpr ⟨within, Int.le_add_of_nonneg_right (Int.natCast_nonneg _)⟩

theorem neg_depth_le_ldgCharge (c : Credit) (t : Int) : -ldgDepth share windowMs ≤ (ldgCharge share windowMs c t).credit :=
  Int.le_max_left _ _

/-- A charge leaves a credit within its depth. -/
theorem ldgCharge_le_depth (within : c.credit ≤ ldgDepth share windowMs) (charge : 0 ≤ t) :
    (ldgCharge share windowMs c t).credit ≤ ldgDepth share windowMs := by
  have depth := ldgDepth_nonneg share windowMs
  exact Int.max_le.mpr ⟨by omega, by omega⟩

/-- Settles O33: the gain caps the credit at the depth, and the charge only lowers it, to minus the depth at most. -/
theorem creditsStayWithinTheirDepth : Obligations.CreditsStayWithinTheirDepth :=
  fun _ _ _ c t charge =>
    ⟨ldgCharge_le_depth (ldgGain_le_depth c) charge, neg_depth_le_ldgCharge _ t, rfl, ldgGain_le_depth c,
      fun within _ _ => le_ldgGain within⟩

end Sys2Proof.Machine
end

section
/-! PROOFS, family 07_deadlines_and_tenants. The bus of a channel (R185): O36. -/

namespace Sys2Proof.Machine

theorem tfind_tput_same {α : Type} (t : Table α) (k : Nat) (v : α) : tfind (tput t k v) k = some v := by
  fun_induction tput t k v <;> grind [tfind]

theorem tfind_tput_ne {α : Type} (t : Table α) {k j : Nat} (other : j ≠ k) (v : α) : tfind (tput t k v) j = tfind t j := by
  fun_induction tput t k v <;> grind [tfind]

theorem tfind_tdel_same {α : Type} (t : Table α) (k : Nat) : tfind (tdel t k) k = none := by
  fun_induction tdel t k <;> grind [tfind]

theorem tfind_tdel_ne {α : Type} (t : Table α) {k j : Nat} (other : j ≠ k) : tfind (tdel t k) j = tfind t j := by
  fun_induction tdel t k <;> grind [tfind]

theorem mem_insertBy {α : Type} {le : α → α → Bool} {a x : α} {l : List α} : x ∈ insertBy le a l ↔ x = a ∨ x ∈ l := by
  induction l with
  | nil => simp [insertBy]
  | cons b t ih =>
    rw [insertBy]
    split
    · exact List.mem_cons
    · rw [List.mem_cons, ih, List.mem_cons, or_left_comm]

/-- Sorting keeps the members of a list. -/
theorem mem_isort {α : Type} {le : α → α → Bool} {x : α} {l : List α} : x ∈ isort le l ↔ x ∈ l := by
  induction l with
  | nil => exact Iff.rfl
  | cons a t ih => rw [isort, mem_insertBy, ih, List.mem_cons]

variable {m : Chip} {ch d : Nat}

theorem mem_channelDies : d ∈ (List.range 32).map (32 * ch + ·) ↔ dieChannel d = ch := by
  simp only [List.mem_map, List.mem_range, dieChannel]
  exact ⟨fun ⟨i, small, sum⟩ => by omega, fun same => ⟨d % 32, by omega, by omega⟩⟩

/-- A die with data ready runs a read. -/
theorem Chip.running_of_dataReady (ready : m.dataReady d = true) : ∃ u, (m.die d).running = some u := by
  obtain ⟨reads, _⟩ := (Bool.and_eq_true _ _).mp ready
  obtain ⟨u, running, _⟩ := (Option.any_eq_true _ _).mp reads
  exact ⟨u, running⟩

/-- The dies that wait for a channel's bus are those of the channel that hold data ready. -/
theorem Chip.mem_busOrder : d ∈ m.busOrder ch ↔ dieChannel d = ch ∧ m.dataReady d = true := by
  constructor
  · intro waits
    obtain ⟨_, sorted, rfl⟩ := List.mem_map.mp waits
    obtain ⟨k, ofChannel, taken⟩ := List.mem_filterMap.mp (mem_isort.mp sorted)
    obtain ⟨ready, taken⟩ := Option.ite_none_right_eq_some.mp taken
    obtain ⟨u, _, rfl⟩ := Option.map_eq_some_iff.mp taken
    exact ⟨mem_channelDies.mp ofChannel, ready⟩
  · rintro ⟨ofChannel, ready⟩
    obtain ⟨u, running⟩ := m.running_of_dataReady ready
    have taken : (if m.dataReady d then (m.die d).running.map fun u => (u, d) else none) = some (u, d) := by simp [ready, running]
    exact List.mem_map.mpr ⟨(u, d), mem_isort.mpr (List.mem_filterMap.mpr ⟨d, mem_channelDies.mpr ofChannel, taken⟩), rfl⟩

/-- The bus passed on is held by the first die that waits for it. -/
theorem Chip.bus_busNext_same (m : Chip) (ch : Nat) : tfind (m.busNext ch).md.bus ch = (m.busOrder ch).head? := by
  unfold Chip.busNext
  cases m.busOrder ch with
  | nil => exact tfind_tdel_same _ _
  | cons d rest => exact tfind_tput_same _ _ _

/-- Passing on one channel's bus leaves the buses of the others. -/
theorem Chip.bus_busNext_ne (m : Chip) {c : Nat} (other : c ≠ ch) : tfind (m.busNext ch).md.bus c = tfind m.md.bus c := by
  unfold Chip.busNext
  cases m.busOrder ch with
  | nil => exact tfind_tdel_ne _ other
  | cons d rest => exact tfind_tput_ne _ other _

/-- Settles O36: the holder is the head of the dies that wait, and these are the dies of the channel with data ready. -/
theorem theBusGoesToADieWithDataReady : Obligations.TheBusGoesToADieWithDataReady := by
  intro m ch
  rw [m.bus_busNext_same ch]
  refine ⟨fun d holds => Chip.mem_busOrder.mp (List.mem_of_head? holds), fun free d ofChannel => ?_, fun c => m.bus_busNext_ne⟩
  have noneWaits : m.busOrder ch = [] := List.head?_eq_none_iff.mp free
  refine Bool.eq_false_iff.mpr fun ready => ?_
  simpa [noneWaits] using Chip.mem_busOrder.mpr ⟨ofChannel, ready⟩

end Sys2Proof.Machine
end

section
/-! PROOFS, family 07_deadlines_and_tenants. What happens at the dies and channels (R183 to R187, R193, R196, R205, R215, R222 to R244, R456): O49. -/

namespace Sys2Proof.Machine

variable {m : Chip} {s : State} {d ch ce busy : Nat} {u p : DUnit} {decodes : List (Option Nat)} {c : Cmd}

/-! ## What a command finds does not depend on the outputs of earlier commands -/

theorem Chip.running_fresh (running : (m.die d).running = some u) : (m.fresh.die d).running = some u := running

theorem Chip.softFirst_fresh {p : DUnit → Bool} (first : firstUnit (m.md.softQ.filter p) = some u) :
    firstUnit (m.fresh.md.softQ.filter p) = some u := first

/-! ## What a die runs (R184, R187) -/

/-- The earliest unit that can have a slot, or needs none, enters its die's overflow list. -/
theorem Chip.enqueueDie_first
    (first : firstUnit (m.md.disp.filter fun u => decide (u.die = d) && !(m.needsSlot u && u.slot.isNone && m.deviceSlot.isNone)) = some u) :
    m.enqueueDie d =
      (let v := if m.needsSlot u && u.slot.isNone then { u with slot := m.deviceSlot } else u
       let m := { m with md := { m.md with disp := m.md.disp.filter (·.id ≠ v.id) } }
       (m.setDie d { m.die d with overflow := insertUnit v (m.die d).overflow }.fill).turn d) := by
  unfold Chip.enqueueDie
  simp only [first]

/-- A suspended operation leaves its die, and a read that then starts pays for the suspend. -/
theorem Chip.suspReady_suspending (running : (m.die d).running = some p) (suspending : (m.die d).suspending = true) :
    m.suspReady d =
      (let t := (m.die d).suspAt
       let m := (m.setDie d { m.die d with running := none, suspended := some p, suspending := false }).startDie d
       match (m.die d).running with
       | some r => if r.kind = .read then m.charge r (m.isl.dtc - t : Nat) else m
       | none => m) := by
  unfold Chip.suspReady
  simp only [running]
  exact if_neg (not_not_of_true suspending)

/-! ## Ends of operations (R184, R185) -/

section dieDone

variable (running : (m.die d).running = some u) (hard : u.soft = false)
include running hard

/-- A read that holds the bus ends its attempt, and the bus passes on. -/
theorem Chip.dieDone_read (read : u.kind = .read) (mine : m.busMine d = true) (fail : Bool) :
    m.dieDone d fail decodes busy = ((m.readAttempt u decodes busy).busNext (dieChannel d)).turn d := by
  simp [Chip.dieDone, running, hard, read, mine]

theorem Chip.dieDone_busTaken (read : u.kind = .read) (taken : m.busMine d = false) (fail : Bool) : m.dieDone d fail decodes busy = m := by
  simp [Chip.dieDone, running, hard, read, taken]

theorem Chip.dieDone_erase (erase : u.kind = .erase) (fail : Bool) :
    m.dieDone d fail decodes busy = ((m.endUnit u busy).eraseDone u fail busy).turn d := by
  simp [Chip.dieDone, running, hard, erase]

/-- A program ends with the last of its passes. -/
theorem Chip.dieDone_program (program : u.kind = .program) (last : (if u.slc then 1 else 4 / m.flash.cellBits) ≤ u.passes + 1) :
    m.dieDone d false decodes busy = ((m.endUnit u busy).progDone u busy).turn d := by
  simp [Chip.dieDone, running, hard, program, Nat.not_lt.mpr last]

theorem Chip.dieDone_programFailed (program : u.kind = .program) :
    m.dieDone d true decodes busy = ((m.endUnit u busy).progFailed u false).turn d := by
  simp [Chip.dieDone, running, hard, program]

end dieDone

/-! ## Watchdogs (R227, R230) -/

/-- What a transfer cut off by its watchdog leaves: a read is read again, an erase issued again, and so is, once, a program cut off in data-in;
any other program is interrupted. -/
def Chip.watchdogEnds (dataIn : Bool) (m : Chip) (u : DUnit) : Chip :=
  match u.kind with
  | .read => m.rereadOr u
  | .program => if dataIn && !u.again then m.requeue u else m.progFailed u true
  | .erase => m.requeue u

theorem Chip.dataWatchdog_running (running : (m.die d).running = some u) (dataIn : Bool) :
    m.dataWatchdog d dataIn =
      (let m := m.hourly d
       let m := if dataIn then m.incF FCH_WDOG.DATAIN (dieChannel d) else m.incF FCH_WDOG.DATAOUT (dieChannel d)
       let m := m.emit (12 + dieCluster d) 0x6003
       let n := (m.die d).watchdogs ++ [m.isl.dtc]
       let m := (m.setDie d { m.die d with watchdogs := n }).cutOff d (Chip.watchdogEnds dataIn)
       if m.f LDP_DIECFG.WD_MAX < n.length then m.failDie d 6 else m) := by
  unfold Chip.dataWatchdog
  rw [running]
  rfl

/-! ## Resets and training (R223 to R226, R229) -/

/-- A die that was reset serves again, and the next reset of its channel follows. -/
theorem Chip.dieResetDone_ok (inReset : m.f FCH_DIE.STATE d = 4) :
    m.dieResetDone d .ok =
      (let m := (m.setF FCH_DIE.STATE (m.serviceState d) d).turn d
       match (m.train (dieChannel d)).resets with
       | e :: rest => (m.setTrain (dieChannel d) { m.train (dieChannel d) with resets := rest }).cutOff e Chip.interrupted
       | [] => m.setF FCH_CTL.RESETDIES 0 (dieChannel d)) :=
  (if_neg (by rw [inReset]; decide)).trans (if_neg (not_not_intro inReset))

theorem Chip.startRun_ready (turn : (m.train ch).ce = some ce) (waiting : (m.train ch).started = false)
    (ready : ((ceDies ch ce).all fun d => (m.die d).running.isNone && (m.die d).suspended.isNone) = true) :
    m.startRun ch =
      (let n := (ceDies ch ce).foldl (fun (m : Chip) d => m.setDie d { m.die d with start := m.isl.dtc }) m
       (n.setTrain ch { m.train ch with started := true }).setF FCH_STAT.TRAINING 1 ch) := by
  unfold Chip.startRun
  simp only [turn]
  exact if_pos (by rw [waiting, ready]; rfl)

theorem trainingNotreadyTimeout_fails {ch : Chan} (turn : (s.chip.train ch).ce = some ce) (waiting : (s.chip.train ch).started = false) :
    Completes (.trainingNotreadyTimeout ch) s fun m => (m.runFailed ch ce 2 true).late := by
  have turn : (s.chip.fresh.train ch).ce = some ce := turn
  refine completes_of_chip rfl ?_
  simp only [turn]
  exact if_neg (Bool.eq_false_iff.mp waiting)

/-- What the end of a training run does, by how it ended. -/
def Chip.runEnds (m : Chip) (ch ce : Nat) : TrainEnd → Chip
  | .eyes rd wr => m.runEyes ch ce rd wr
  | .busy => m.abandonRun ch ce 3
  | .status => m.abandonRun ch ce 4
  | .mode => m.abandonRun ch ce 5
  | .noAnswer => m.abandonRun ch ce 6

theorem trainingRunDone_started {ch : Chan} (turn : (s.chip.train ch).ce = some ce) (started : (s.chip.train ch).started = true)
    (e : TrainEnd) : Completes (.trainingRunDone ch e) s fun m => (m.runEnds ch ce e).late := by
  have turn : (s.chip.fresh.train ch).ce = some ce := turn
  refine completes_of_chip rfl ?_
  simp only [turn]
  refine (if_neg (not_not_of_true started)).trans ?_
  cases e <;> rfl

/-! ## Quotas and misses (R196, R205, R206) -/

theorem quotaBucketRefill_gains {t : Ten} {us : Nat} {r : TenantRec} (found : s.chip.tenRec t = some r) (limited : r.quota ≠ 0) :
    Completes (.quotaBucketRefill t us) s fun m => (m.setTen t ((m.ten t).refill r us)).settle := by
  have found : s.chip.fresh.tenRec t = some r := found
  refine completes_of_chip rfl ?_
  simp only [found]
  exact if_neg limited

/-- A running I/O command whose slack has expired misses, once, and ends where its tag says so. -/
theorem Chip.missSlot_misses {i : Nat} (found : m.cmd? i = some c) (first : c.missAt = none)
    (expired : m.expired (some c.tenant) c.deadline = true) (running : c.phase = .running) (io : c.admin = false) :
    m.missSlot i =
      (let m := m.countMiss c.cls (some c.tenant)
       let m := (m.diesOf i).foldl (fun (m : Chip) d => m.setDie d { m.die d with misses := (m.die d).misses + 1 }) m
       let m := m.putCmd i { c with missAt := some m.isl.dtc }
       if !c.abortMiss then m
       else
         let m := m.setTen c.tenant { m.ten c.tenant with aborts := sat16 (m.ten c.tenant).aborts }
         (((m.incF DLS_ABORTCNT.COUNT).emit 10 0x5002 0 (some (m.cmdTag i c))).endCmd i (some stDeadline)).settle) := by
  unfold Chip.missSlot
  simp only [found]
  exact if_neg (by simp [first, expired, running, io])

/-! ## Flush units (R456) -/

/-- The block for flush units does not depend on the flush's own state. -/
theorem Chip.flushBlock_plp (m : Chip) (p : PlpSt) (d : Nat) : ({ m with plp := p } : Chip).flushBlock d = m.flushBlock d := rfl

/-- The program of a flush unit ends in the block of its die that takes flush units. -/
theorem Chip.flushUnit_ends {seq b : Nat} {u : FlushUnit} (flying : tfind m.plp.flight d = some (u, seq)) (block : m.flushBlock d = some b)
    (fail : Bool) :
    m.flushUnit d fail =
      (let m := { m with plp := { m.plp with flight := tdel m.plp.flight d } }
       let m := if fail then
           let m := { m with plp := { m.plp with failed := m.plp.failed ++ [(u, seq)] } }
           ((m.growBad d b).incF FCH_ERRCNT.PROGFAIL (dieChannel d)).emit (12 + dieCluster d) 0x6007
         else
           let side := if u.kind < 4 then m.stripeSide u.zone else m.side
           let g : FlushPage := { die := d, block := b, bytes := flushImage (m.f PLP_FLUSHID.FLUSH_ID) seq side u (m.flushPayload u) }
           let m := { m with plp := { m.plp with good := m.plp.good ++ [g] } }
           let hot := decide (m.f FCH_DIE.HOT d = 1)
           let x := m.blk d b
           let x := { x with rows := x.rows + 1, slc := true, outwin := x.outwin || hot }
           let m := (m.setBlk d b x).tellDelta none (deltaRecord 0x05 d (x.record b))
           if hot then m.markRefresh d b false else m
       m.flushPoll.turn d) := by
  unfold Chip.flushUnit
  simp only [flying, Chip.flushBlock_plp, block]

/-- Settles O49, row by row in the order of the statement. -/
theorem dieAndChannelEventsComplete : Obligations.DieAndChannelEventsComplete :=
  -- DIE_UNIT_ENQUEUE, SUSPEND_READY
  ⟨fun s _ _ first => completes_of_chip rfl (Chip.enqueueDie_first (m := s.chip.fresh) first),
    fun _ _ _ running suspending => completes_of_chip rfl (Chip.suspReady_suspending (Chip.running_fresh running) suspending),
    -- DATA_PHASE_WATCHDOG, DIE_OPERATION_TIMEOUT, SOFT_DECODE_DONE
    fun s _ _ _ running => completes_of_chip rfl (congrArg Chip.settle (Chip.dataWatchdog_running (m := s.chip.fresh) running _)),
    fun _ _ _ running => completes_of_chip rfl (by simp only [Chip.opTimeout, Chip.running_fresh running]),
    fun _ _ _ _ first => completes_of_chip rfl (by simp only [Chip.softDone, Chip.softFirst_fresh first]),
    -- ZQ_SHORT_TIMER, DIE_TEMP_POLL
    fun _ _ _ => completes_of_chip rfl rfl,
    fun _ _ _ drives lo hi => completes_of_chip rfl (if_pos ⟨drives, lo, hi⟩),
    -- SCRUB_PASS_TIMER, WEAR_LEVEL_TIMER, QUOTA_BUCKET_REFILL
    fun _ enabled => completes_of_chip rfl (if_neg enabled),
    fun _ enabled => completes_of_chip rfl (if_neg enabled),
    fun _ _ _ _ found limited => quotaBucketRefill_gains found limited,
    -- DEADLINE_MISS
    fun s _ _ found first expired running io goesOn => completes_of_chip rfl
      ((Chip.missSlot_misses (m := s.chip.fresh) found first expired running io).trans (if_pos (by rw [goesOn]; rfl))),
    fun s _ _ found first expired running io aborts => completes_of_chip rfl
      ((Chip.missSlot_misses (m := s.chip.fresh) found first expired running io).trans (if_neg (not_not_of_true aborts))),
    -- DIE_OPERATION_DONE
    fun _ _ fail _ _ _ running hard read mine => completes_of_chip rfl
      (congrArg Chip.late (Chip.dieDone_read (Chip.running_fresh running) hard read mine fail)),
    fun _ _ fail _ _ _ running hard read taken => completes_of_chip rfl
      (congrArg Chip.late (Chip.dieDone_busTaken (Chip.running_fresh running) hard read taken fail)),
    fun _ _ fail _ _ _ running hard erase => completes_of_chip rfl
      (congrArg Chip.late (Chip.dieDone_erase (Chip.running_fresh running) hard erase fail)),
    fun _ _ _ _ _ running hard program last => completes_of_chip rfl
      (congrArg Chip.late (Chip.dieDone_program (Chip.running_fresh running) hard program last)),
    fun _ _ _ _ _ running hard program => completes_of_chip rfl
      (congrArg Chip.late (Chip.dieDone_programFailed (Chip.running_fresh running) hard program)),
    -- DIE_RESET_DONE
    fun s _ inReset => completes_of_chip rfl (congrArg Chip.late (Chip.dieResetDone_ok (m := s.chip.fresh) inReset)),
    -- TRAINING_RUN_START, TRAINING_NOTREADY_TIMEOUT, TRAINING_RUN_DONE, TRAINING_RETRY_TIMER
    fun s _ _ turn waiting ready => completes_of_chip rfl (Chip.startRun_ready (m := s.chip.fresh) turn waiting ready),
    fun _ _ _ turn waiting => trainingNotreadyTimeout_fails turn waiting,
    fun _ _ _ rd wr turn started => trainingRunDone_started turn started (.eyes rd wr),
    fun _ _ _ turn started => trainingRunDone_started turn started .busy,
    fun _ _ _ turn started => trainingRunDone_started turn started .status,
    fun _ _ _ turn started => trainingRunDone_started turn started .mode,
    fun _ _ _ turn started => trainingRunDone_started turn started .noAnswer,
    fun _ _ _ asked => completes_of_chip rfl (if_pos asked),
    -- LEDGER_CREDIT_RECOVERY
    fun _ _ _ shares => completes_of_chip rfl (if_neg shares),
    -- FLUSH_UNIT_DONE
    fun s _ _ _ _ flying block => completes_of_chip rfl (congrArg Chip.late (Chip.flushUnit_ends (m := s.chip.fresh) flying block false)),
    fun s _ _ _ _ flying block => completes_of_chip rfl (congrArg Chip.late (Chip.flushUnit_ends (m := s.chip.fresh) flying block true))⟩

end Sys2Proof.Machine
end

section
/-! PROOFS, family 08_flash_channels. The fields of an ONFI row address (R218): O12. -/

namespace Sys2Proof.Machine

variable {b r k : Nat}

/-- The plane block fits the 15 bits below the LUN. -/
theorem planeBlock_lt (block : b < 5120) (k : Nat) : b * 4 + k % 4 < 2 ^ 15 := by omega

/-- The page in the plane block fits the 12 bits below the plane block. -/
theorem planePage_lt (row : r < 1024) (page : k < 16) : r * 4 + k / 4 < 2 ^ 12 := by omega

/-! ## What the bits of a row address hold -/

/-- Bits [11:0] are the page in the plane block. -/
theorem onfiRow_page (d b : Nat) (row : r < 1024) (page : k < 16) : onfiRow d b r k % 2 ^ 12 = r * 4 + k / 4 := by
  have fits := planePage_lt row page
  unfold onfiRow
  omega

/-- The bits above the page hold the LUN above the plane block. -/
theorem onfiRow_abovePage (d b : Nat) (row : r < 1024) (page : k < 16) :
    onfiRow d b r k / 2 ^ 12 = 2 ^ 15 * (d % 4) + (b * 4 + k % 4) := by
  have fits := planePage_lt row page
  unfold onfiRow
  omega

/-- Bits [26:12] are the plane block. -/
theorem onfiRow_planeBlock (d : Nat) (block : b < 5120) (row : r < 1024) (page : k < 16) :
    onfiRow d b r k / 2 ^ 12 % 2 ^ 15 = b * 4 + k % 4 := by
  rw [onfiRow_abovePage d b row page, Nat.mul_add_mod, Nat.mod_eq_of_lt (planeBlock_lt block k)]

/-- The bits above the plane block are the LUN. -/
theorem onfiRow_lun (d : Nat) (block : b < 5120) (row : r < 1024) (page : k < 16) :
    onfiRow d b r k / 2 ^ 12 / 2 ^ 15 = d % 4 := by
  rw [onfiRow_abovePage d b row page, Nat.mul_add_div (by decide), Nat.div_eq_of_lt (planeBlock_lt block k), Nat.add_zero]

/-- Settles O12: equal addresses have equal fields; the LUN tells the dies of a chip enable apart, the plane block gives the block and
the low two bits of the page, the page in the plane block gives the row and the page's upper two bits. -/
theorem onfiRowAddressesAreDistinct : Obligations.OnfiRowAddressesAreDistinct := by
  intro d d' b b' r r' k k' sameCe block block' row row' page page' same
  have lun : d % 4 = d' % 4 := by rw [← onfiRow_lun d block row page, same, onfiRow_lun d' block' row' page']
  have planeBlock : b * 4 + k % 4 = b' * 4 + k' % 4 := by
    rw [← onfiRow_planeBlock d block row page, same, onfiRow_planeBlock d' block' row' page']
  have planePage : r * 4 + k / 4 = r' * 4 + k' / 4 := by
    rw [← onfiRow_page d b row page, same, onfiRow_page d' b' row' page']
  exact ⟨by omega, by omega, by omega, by omega⟩

end Sys2Proof.Machine
end

section
/-! PROOFS, family 09_stripe_parity. The field GF(2^8) of the stripe parity code (R248): multiplication is bilinear, commutative and
associative, and every nonzero element has an inverse. -/

namespace Sys2Proof.Machine

variable {a b c : Nat}

/-! ## Addition is XOR -/

theorem xor_lt_256 (ha : a < 256) (hb : b < 256) : a ^^^ b < 256 := Nat.xor_lt_two_pow (n := 8) ha hb

theorem xor_xor_cancel_left (a b : Nat) : a ^^^ (a ^^^ b) = b := by
  rw [← Nat.xor_assoc, Nat.xor_self, Nat.zero_xor]

theorem eq_of_xor_eq_zero (zero : a ^^^ b = 0) : a = b := by
  rw [← xor_xor_cancel_left a b, zero, Nat.xor_zero]

theorem two_mul_xor (a b : Nat) : 2 * (a ^^^ b) = 2 * a ^^^ 2 * b := by
  simp only [Nat.mul_comm 2, ← Nat.shiftLeft_eq _ 1, Nat.shiftLeft_xor_distrib]

theorem xor_xor_xor_comm (a b c d : Nat) : a ^^^ b ^^^ (c ^^^ d) = a ^^^ c ^^^ (b ^^^ d) := by ac_rfl

/-! ## Bytes, bit by bit -/

theorem bitOf_eq_testBit (x i : Nat) : bitOf x i = x.testBit i := by
  rw [bitOf_eq_div_mod, Nat.testBit_eq_decide_div_mod_eq]

theorem appendBit_div_two (β : Bool) (b : Nat) : (2 * b + β.toNat) / 2 = b := by
  have bit : β.toNat < 2 := β.toNat_lt
  omega

theorem bitOf_appendBit_zero (β : Bool) (b : Nat) : bitOf (2 * b + β.toNat) 0 = β := by
  rw [bitOf_eq_testBit, Nat.testBit_zero, Nat.mul_add_mod]
  cases β <;> rfl

theorem bitOf_appendBit_succ (β : Bool) (b i : Nat) : bitOf (2 * b + β.toNat) (i + 1) = bitOf b i := by
  rw [bitOf_eq_testBit, bitOf_eq_testBit, Nat.testBit_succ, appendBit_div_two]

/-- A number below 128 and one more low bit make a byte. -/
theorem appendBit_lt (β : Bool) (below : b < 128) : 2 * b + β.toNat < 256 := by
  have bit : β.toNat < 2 := β.toNat_lt
  omega

/-- A number has a last bit: it is twice its half and that bit. -/
theorem appendBit_half (b : Nat) : 2 * (b / 2) + (b.testBit 0).toNat = b := by
  rw [Nat.toNat_testBit, Nat.pow_zero, Nat.div_one, Nat.div_add_mod]

/-- A byte is 0 or has one more low bit than a number below 128. -/
theorem byte_induction {motive : ∀ b, b < 256 → Prop} (zero : motive 0 (by decide))
    (bit : ∀ β b (below : b < 128), motive b (by omega) → motive (2 * b + β.toNat) (appendBit_lt β below)) (b : Nat) (byte : b < 256) :
    motive b byte := by
  induction b using Nat.strongRecOn with
  | ind b ih =>
    by_cases nonzero : b = 0
    · subst nonzero
      exact zero
    · have half : b / 2 < 128 := by omega
      have extended := bit (b.testBit 0) (b / 2) half (ih (b / 2) (by omega) (by omega))
      simpa only [appendBit_half] using extended

/-! ## Multiplication by g -/

@[simp] theorem gfDouble_zero : gfDouble 0 = 0 := rfl

/-- The reduction by 0x11D happens exactly where bit 7 is set. -/
theorem gfDouble_eq (byte : a < 256) : gfDouble a = 2 * a ^^^ (if a.testBit 7 then 0x11D else 0) := by
  have top : (a.testBit 7 = true) ↔ ¬ a < 128 := by
    rw [Nat.testBit_eq_decide_div_mod_eq, decide_eq_true_iff]
    omega
  by_cases small : a < 128 <;> simp [gfDouble, top, small]

theorem gfDouble_lt (byte : a < 256) : gfDouble a < 256 := by
  unfold gfDouble
  split
  · omega
  · have quotient : (2 * a ^^^ 0x11D) / 2 ^ 8 = 0 := by
      rw [Nat.xor_div_two_pow, show 2 * a / 2 ^ 8 = 1 by omega]
      rfl
    exact (Nat.div_eq_zero_iff_lt (by decide)).mp quotient

theorem gfDouble_xor (ha : a < 256) (hb : b < 256) : gfDouble (a ^^^ b) = gfDouble a ^^^ gfDouble b := by
  have reduction :
      (if (a ^^^ b).testBit 7 then 0x11D else 0) = (if a.testBit 7 then 0x11D else 0) ^^^ (if b.testBit 7 then 0x11D else 0) := by
    rw [Nat.testBit_xor]
    cases a.testBit 7 <;> cases b.testBit 7 <;> rfl
  rw [gfDouble_eq ha, gfDouble_eq hb, gfDouble_eq (xor_lt_256 ha hb), two_mul_xor, reduction, xor_xor_xor_comm]

theorem gfDouble_ne_zero (nonzero : a ≠ 0) : gfDouble a ≠ 0 := by
  unfold gfDouble
  split
  · omega
  · intro zero
    have odd := eq_of_xor_eq_zero zero
    omega

/-- One more low bit is a multiplication by g and the addition of that bit. -/
theorem appendBit_eq_gfDouble_xor (β : Bool) (below : b < 128) : 2 * b + β.toNat = gfDouble b ^^^ (if β then 1 else 0) := by
  rw [gfDouble, if_pos below]
  cases β
  · exact (Nat.xor_zero _).symm
  · have half : (2 * b ^^^ 1) / 2 = b := by rw [Nat.xor_div_two, Nat.mul_div_cancel_left b (by decide)]; exact Nat.xor_zero b
    have odd : (2 * b ^^^ 1) % 2 = 1 := by rw [Nat.xor_mod_two_eq_one]; omega
    rw [if_pos rfl, Bool.toNat_true]
    omega

/-! ## Multiplication -/

theorem ite_lt_256 (ha : a < 256) (β : Bool) : (if β then a else 0) < 256 := by
  cases β
  · exact Nat.zero_lt_succ _
  · exact ha

@[simp] theorem gfMul_zero_right (a : Nat) : gfMul a 0 = 0 := by simp [gfMul, bitOf]

/-- The product takes the right factor's bits one by one, the highest first. -/
theorem gfMul_appendBit_right (a : Nat) (β : Bool) (below : b < 128) :
    gfMul a (2 * b + β.toNat) = gfDouble (gfMul a b) ^^^ (if β then a else 0) := by
  have top : bitOf b 7 = false := by rw [bitOf_eq_testBit, Nat.testBit_lt_two_pow below]
  simp [gfMul, bitOf_appendBit_zero, bitOf_appendBit_succ, top]

theorem gfMul_lt (ha : a < 256) (hb : b < 256) : gfMul a b < 256 := by
  induction b, hb using byte_induction with
  | zero => rw [gfMul_zero_right]; decide
  | bit β b below ih =>
    rw [gfMul_appendBit_right a β below]
    exact xor_lt_256 (gfDouble_lt ih) (ite_lt_256 ha β)

theorem gfMul_xor_left (ha : a < 256) (hb : b < 256) (hc : c < 256) : gfMul (a ^^^ b) c = gfMul a c ^^^ gfMul b c := by
  induction c, hc using byte_induction with
  | zero => rw [gfMul_zero_right, gfMul_zero_right, gfMul_zero_right, Nat.xor_zero]
  | bit β c below ih =>
    have byte : c < 256 := by omega
    have last : (if β then a ^^^ b else 0) = (if β then a else 0) ^^^ (if β then b else 0) := by cases β <;> simp
    rw [gfMul_appendBit_right _ β below, gfMul_appendBit_right _ β below, gfMul_appendBit_right _ β below, ih,
      gfDouble_xor (gfMul_lt ha byte) (gfMul_lt hb byte), last, xor_xor_xor_comm]

theorem gfMul_gfDouble_left (ha : a < 256) (hb : b < 256) : gfMul (gfDouble a) b = gfDouble (gfMul a b) := by
  induction b, hb using byte_induction with
  | zero => rw [gfMul_zero_right, gfMul_zero_right, gfDouble_zero]
  | bit β b below ih =>
    have byte : b < 256 := by omega
    have last : (if β then gfDouble a else 0) = gfDouble (if β then a else 0) := by cases β <;> rfl
    rw [gfMul_appendBit_right _ β below, gfMul_appendBit_right _ β below, ih,
      gfDouble_xor (gfDouble_lt (gfMul_lt ha byte)) (ite_lt_256 ha β), last]

theorem gfMul_zero_left (hb : b < 256) : gfMul 0 b = 0 := by
  induction b, hb using byte_induction with
  | zero => exact gfMul_zero_right _
  | bit β b below ih => rw [gfMul_appendBit_right 0 β below, ih, ite_self, gfDouble_zero, Nat.xor_self]

theorem gfMul_one_left (hb : b < 256) : gfMul 1 b = b := by
  induction b, hb using byte_induction with
  | zero => exact gfMul_zero_right _
  | bit β b below ih => rw [gfMul_appendBit_right 1 β below, ih, appendBit_eq_gfDouble_xor β below]

theorem gfMul_appendBit_left (β : Bool) (below : a < 128) (hb : b < 256) :
    gfMul (2 * a + β.toNat) b = gfDouble (gfMul a b) ^^^ (if β then b else 0) := by
  have byte : a < 256 := by omega
  have last : gfMul (if β then 1 else 0) b = if β then b else 0 := by
    cases β
    · exact gfMul_zero_left hb
    · exact gfMul_one_left hb
  rw [appendBit_eq_gfDouble_xor β below, gfMul_xor_left (gfDouble_lt byte) (ite_lt_256 (by decide) β) hb, gfMul_gfDouble_left byte hb, last]

theorem gfMul_comm (ha : a < 256) (hb : b < 256) : gfMul a b = gfMul b a := by
  induction a, ha using byte_induction with
  | zero => rw [gfMul_zero_left hb, gfMul_zero_right]
  | bit β a below ih => rw [gfMul_appendBit_left β below hb, gfMul_appendBit_right b β below, ih]

theorem gfMul_assoc (ha : a < 256) (hb : b < 256) (hc : c < 256) : gfMul (gfMul a b) c = gfMul a (gfMul b c) := by
  have product : gfMul b c < 256 := gfMul_lt hb hc
  induction a, ha using byte_induction with
  | zero => rw [gfMul_zero_left hb, gfMul_zero_left hc, gfMul_zero_left product]
  | bit β a below ih =>
    have byte : gfMul a b < 256 := gfMul_lt (by omega) hb
    have last : gfMul (if β then b else 0) c = if β then gfMul b c else 0 := by
      cases β
      · exact gfMul_zero_left hc
      · rfl
    rw [gfMul_appendBit_left β below hb, gfMul_xor_left (gfDouble_lt byte) (ite_lt_256 hb β) hc, gfMul_gfDouble_left byte hc, ih, last,
      gfMul_appendBit_left β below product]

theorem gfMul_xor_right (ha : a < 256) (hb : b < 256) (hc : c < 256) : gfMul a (b ^^^ c) = gfMul a b ^^^ gfMul a c := by
  rw [gfMul_comm ha (xor_lt_256 hb hc), gfMul_xor_left hb hc ha, gfMul_comm hb ha, gfMul_comm hc ha]

/-! ## Inverses and powers of g -/

theorem gfInv_lt (ha : a < 256) : gfInv a < 256 := by
  have h2 := gfMul_lt ha ha
  have h4 := gfMul_lt h2 h2
  have h8 := gfMul_lt h4 h4
  have h16 := gfMul_lt h8 h8
  have h32 := gfMul_lt h16 h16
  have h64 := gfMul_lt h32 h32
  exact gfMul_lt h2 (gfMul_lt h4 (gfMul_lt h8 (gfMul_lt h16 (gfMul_lt h32 (gfMul_lt h64 (gfMul_lt h64 h64))))))

theorem gfPow_lt (n : Nat) : gfPow n < 256 := by
  induction n with
  | zero => decide
  | succ n ih => exact gfDouble_lt ih

theorem gfPow_ne_zero (n : Nat) : gfPow n ≠ 0 := by
  induction n with
  | zero => decide
  | succ n ih => exact gfDouble_ne_zero ih

theorem gfPow_add (m n : Nat) : gfPow (m + n) = gfMul (gfPow m) (gfPow n) := by
  induction m with
  | zero => rw [Nat.zero_add, gfPow, gfMul_one_left (gfPow_lt n)]
  | succ m ih => rw [Nat.succ_add, gfPow, gfPow, ih, gfMul_gfDouble_left (gfPow_lt m) (gfPow_lt n)]

/-- The order of g divides 255. -/
theorem gfPow_255_mul (n : Nat) : gfPow (255 * n) = 1 := by
  induction n with
  | zero => rfl
  | succ n ih =>
    have round : gfPow 255 = 1 := by decide +kernel
    rw [Nat.mul_succ, gfPow_add, ih, round, gfMul_one_left (by decide)]

/-- The set of the first n powers of g, as the number with a bit at each of them. -/
def gfPowSet : Nat → Nat
  | 0 => 0
  | n + 1 => gfPowSet n ||| 2 ^ gfPow n

theorem exists_gfPow_eq_of_mem {n : Nat} (mem : (gfPowSet n).testBit a = true) : ∃ k, gfPow k = a := by
  induction n with
  | zero => rw [gfPowSet, Nat.zero_testBit] at mem; contradiction
  | succ n ih =>
    rw [gfPowSet, Nat.testBit_or, Bool.or_eq_true, Nat.testBit_two_pow, decide_eq_true_iff] at mem
    exact mem.elim ih fun last => ⟨n, last⟩

/-- g generates the nonzero elements: its first 255 powers are all of them. -/
theorem exists_gfPow_eq (ha : a < 256) (nonzero : a ≠ 0) : ∃ n, gfPow n = a := by
  have all : gfPowSet 255 = 2 ^ 256 - 2 := by decide +kernel
  have mem : ∀ a < 256, a ≠ 0 → (2 ^ 256 - 2).testBit a = true := by decide +kernel
  exact exists_gfPow_eq_of_mem (all ▸ mem a ha nonzero)

/-- The 255th power of every nonzero element is 1. -/
theorem gfInv_gfMul_self (ha : a < 256) (nonzero : a ≠ 0) : gfMul (gfInv a) a = 1 := by
  obtain ⟨n, rfl⟩ := exists_gfPow_eq ha nonzero
  simp only [gfInv, ← gfPow_add]
  exact (congrArg gfPow (by omega)).trans (gfPow_255_mul n)

theorem gfInv_gfMul_cancel (ha : a < 256) (nonzero : a ≠ 0) (hb : b < 256) : gfMul (gfInv a) (gfMul a b) = b := by
  rw [← gfMul_assoc (gfInv_lt ha) ha hb, gfInv_gfMul_self ha nonzero, gfMul_one_left hb]

theorem gfMul_right_cancel (ha : a < 256) (hb : b < 256) (hc : c < 256) (nonzero : c ≠ 0) (same : gfMul a c = gfMul b c) : a = b := by
  rw [← gfInv_gfMul_cancel hc nonzero ha, gfMul_comm hc ha, same, gfMul_comm hb hc, gfInv_gfMul_cancel hc nonzero hb]

/-- The powers g^0 to g^15 are distinct (R249). -/
theorem gfPow_injective_below_16 : ∀ x < 16, ∀ y < 16, gfPow x = gfPow y → x = y := by decide +kernel

theorem gfMul_ne_zero (ha : a < 256) (hb : b < 256) (a_nonzero : a ≠ 0) (b_nonzero : b ≠ 0) : gfMul a b ≠ 0 := by
  intro zero
  exact a_nonzero (gfMul_right_cancel ha (by decide) hb b_nonzero (zero.trans (gfMul_zero_left hb).symm))

end Sys2Proof.Machine
end

section
/-! PROOFS, family 09_stripe_parity. Erased columns come back and wrong members are located (R249, R255, R265): O13, O14 and O15. -/

namespace Sys2Proof.Machine

variable {a b e x y : Nat} {ds : List Nat}

/-! ## What an erased column takes out of P and Q -/

theorem parityPAt_cons (d : Nat) (ds : List Nat) : parityPAt (d :: ds) = d ^^^ parityPAt ds := by
  rw [parityPAt, parityPAt, List.foldl_cons, Nat.xor_comm 0 d, List.foldl_assoc]

theorem parityPAt_set_zero (ds : List Nat) (x : Nat) : parityPAt ds ^^^ parityPAt (ds.set x 0) = ds.getD x 0 := by
  induction ds generalizing x with
  | nil => rw [List.set_nil, Nat.xor_self, List.getD_nil]
  | cons d ds ih =>
    cases x with
    | zero =>
      rw [List.set_cons_zero, parityPAt_cons, parityPAt_cons, xor_xor_xor_comm, Nat.xor_self, Nat.xor_zero, Nat.xor_zero,
        List.getD_cons_zero]
    | succ x =>
      rw [List.set_cons_succ, parityPAt_cons, parityPAt_cons, xor_xor_xor_comm, Nat.xor_self, Nat.zero_xor, ih, List.getD_cons_succ]

theorem parityQFrom_set_zero (c : Nat) (ds : List Nat) (x : Nat) :
    parityQFrom c ds ^^^ parityQFrom c (ds.set x 0) = gfMul (gfPow (c + x)) (ds.getD x 0) := by
  induction ds generalizing c x with
  | nil => rw [List.set_nil, Nat.xor_self, List.getD_nil, gfMul_zero_right]
  | cons d ds ih =>
    cases x with
    | zero =>
      rw [List.set_cons_zero, parityQFrom, parityQFrom, xor_xor_xor_comm, Nat.xor_self, gfMul_zero_right, Nat.xor_zero, Nat.xor_zero,
        List.getD_cons_zero, Nat.add_zero]
    | succ x =>
      rw [List.set_cons_succ, parityQFrom, parityQFrom, xor_xor_xor_comm, Nat.xor_self, Nat.zero_xor, ih, List.getD_cons_succ,
        Nat.succ_add_eq_add_succ]

theorem parityQAt_set_zero (ds : List Nat) (x : Nat) : parityQAt ds ^^^ parityQAt (ds.set x 0) = gfMul (gfPow x) (ds.getD x 0) := by
  rw [parityQAt, parityQAt, parityQFrom_set_zero, Nat.zero_add]

theorem getD_set_of_ne (distinct : x ≠ y) (ds : List Nat) : (ds.set x 0).getD y 0 = ds.getD y 0 := by
  rw [List.getD_eq_getElem?_getD, List.getElem?_set_ne distinct, List.getD_eq_getElem?_getD]

/-- P′ of R255. -/
theorem parityPAt_set_zero_set_zero (distinct : x ≠ y) (ds : List Nat) :
    parityPAt ds ^^^ parityPAt ((ds.set x 0).set y 0) = ds.getD x 0 ^^^ ds.getD y 0 := by
  rw [← parityPAt_set_zero ds x, ← getD_set_of_ne distinct, ← parityPAt_set_zero (ds.set x 0) y, Nat.xor_assoc, xor_xor_cancel_left]

/-- Q′ of R255. -/
theorem parityQAt_set_zero_set_zero (distinct : x ≠ y) (ds : List Nat) :
    parityQAt ds ^^^ parityQAt ((ds.set x 0).set y 0) = gfMul (gfPow x) (ds.getD x 0) ^^^ gfMul (gfPow y) (ds.getD y 0) := by
  rw [← parityQAt_set_zero ds x, ← getD_set_of_ne distinct, ← parityQAt_set_zero (ds.set x 0) y, Nat.xor_assoc, xor_xor_cancel_left]

theorem getD_lt_256 (bytes : ∀ d ∈ ds, d < 256) (x : Nat) : ds.getD x 0 < 256 := by
  rw [List.getD_eq_getElem?_getD]
  cases h : ds[x]? with
  | none => exact Nat.zero_lt_succ _
  | some d => exact bytes d (List.mem_of_getElem? h)

/-! ## The solution of two erased columns (R255) -/

theorem gfPow_xor_one_ne_zero (order : x < y) (last : y < 16) : gfPow (y - x) ^^^ 1 ≠ 0 := by
  intro zero
  have same : gfPow (y - x) = gfPow 0 := eq_of_xor_eq_zero zero
  have : y - x = 0 := gfPow_injective_below_16 (y - x) (by omega) 0 (by decide) same
  omega

/-- g^−x·(g^x·a ⊕ g^y·b) = a ⊕ g^(y−x)·b. -/
theorem gfInv_gfMul_two_columns (order : x < y) (ha : a < 256) (hb : b < 256) :
    gfMul (gfInv (gfPow x)) (gfMul (gfPow x) a ^^^ gfMul (gfPow y) b) = a ^^^ gfMul (gfPow (y - x)) b := by
  have hx := gfPow_lt x
  have hg := gfPow_lt (y - x)
  have nonzero : gfPow x ≠ 0 := gfPow_ne_zero x
  have split : gfPow y = gfMul (gfPow x) (gfPow (y - x)) := by rw [← gfPow_add, Nat.add_sub_cancel' (Nat.le_of_lt order)]
  rw [split, gfMul_assoc hx hg hb, ← gfMul_xor_right hx ha (gfMul_lt hg hb),
    gfInv_gfMul_cancel hx nonzero (xor_lt_256 ha (gfMul_lt hg hb))]

/-- The numerator of D_x in R255 is (g^(y−x) ⊕ 1)·D_x. -/
theorem numerator_two_columns (order : x < y) (ha : a < 256) (hb : b < 256) :
    gfMul (gfPow (y - x)) (a ^^^ b) ^^^ gfMul (gfInv (gfPow x)) (gfMul (gfPow x) a ^^^ gfMul (gfPow y) b) =
      gfMul (gfPow (y - x) ^^^ 1) a := by
  have hg := gfPow_lt (y - x)
  calc
    _ = gfMul (gfPow (y - x)) a ^^^ gfMul (gfPow (y - x)) b ^^^ (a ^^^ gfMul (gfPow (y - x)) b) := by
      rw [gfMul_xor_right hg ha hb, gfInv_gfMul_two_columns order ha hb]
    _ = gfMul (gfPow (y - x)) a ^^^ a := by rw [xor_xor_xor_comm, Nat.xor_self, Nat.xor_zero]
    _ = gfMul (gfPow (y - x) ^^^ 1) a := by rw [gfMul_xor_left hg (by decide) ha, gfMul_one_left ha]

/-- Settles O13: P′ and Q′ hold the two erased columns only, and the numerator of D_x divides by g^(y−x) ⊕ 1, which is nonzero because
the powers of g are distinct. -/
theorem parityRestoresTwoColumns : Obligations.ParityRestoresTwoColumns := by
  intro ds x y _ bytes order last
  have ha := getD_lt_256 bytes x
  have hb := getD_lt_256 bytes y
  have hg : gfPow (y - x) ^^^ 1 < 256 := xor_lt_256 (gfPow_lt _) (by decide)
  have quotient : gfMul (gfMul (gfPow (y - x) ^^^ 1) (ds.getD x 0)) (gfInv (gfPow (y - x) ^^^ 1)) = ds.getD x 0 := by
    rw [gfMul_comm (gfMul_lt hg ha) (gfInv_lt hg), gfInv_gfMul_cancel hg (gfPow_xor_one_ne_zero order last) ha]
  have distinct : x ≠ y := Nat.ne_of_lt order
  simp only [solveXY, parityPAt_set_zero_set_zero distinct, parityQAt_set_zero_set_zero distinct, numerator_two_columns order ha hb,
    quotient]
  rw [Nat.xor_comm _ (ds.getD x 0), xor_xor_cancel_left]

/-- Settles O14: without column x, P and Q miss D_x and g^x·D_x; g^x has an inverse. -/
theorem parityRestoresOneColumn : Obligations.ParityRestoresOneColumn := by
  intro ds x _ bytes _
  refine ⟨parityPAt_set_zero ds x, ?_⟩
  rw [solveQ, parityQAt_set_zero]
  exact gfInv_gfMul_cancel (gfPow_lt x) (gfPow_ne_zero x) (getD_lt_256 bytes x)

/-! ## The location of a wrong member (R265) -/

theorem locateAt_parityP (nonzero : e ≠ 0) : locateAt e 0 = .parityP := by simp [locateAt, nonzero]

theorem locateAt_parityQ (nonzero : e ≠ 0) : locateAt 0 e = .parityQ := by simp [locateAt, nonzero]

/-- No earlier column has the same quotient of the syndromes. -/
theorem locateAt_column (he : e < 256) (nonzero : e ≠ 0) (column : x < 16) : locateAt e (gfMul (gfPow x) e) = .column x := by
  have sq : gfMul (gfPow x) e ≠ 0 := gfMul_ne_zero (gfPow_lt x) he (gfPow_ne_zero x) nonzero
  have found : (List.range 16).find? (fun z => decide (gfMul (gfPow x) e = gfMul (gfPow z) e)) = some x := by
    refine List.find?_range_eq_some.mpr ⟨decide_eq_true rfl, List.mem_range.mpr column, fun z earlier => ?_⟩
    have other : gfMul (gfPow x) e ≠ gfMul (gfPow z) e := fun same =>
      Nat.ne_of_gt earlier (gfPow_injective_below_16 x column z (by omega)
        (gfMul_right_cancel (gfPow_lt x) (gfPow_lt z) he nonzero same))
    simp [other]
  simp [locateAt, nonzero, sq, found]

/-- Settles O15: a zero syndrome names P or Q; with both nonzero, their quotient g^x names one column only. -/
theorem oneWrongMemberIsLocated : Obligations.OneWrongMemberIsLocated := by
  intro e positive byte
  have nonzero : e ≠ 0 := Nat.ne_of_gt positive
  exact ⟨locateAt_parityP nonzero, locateAt_parityQ nonzero, fun _ column => locateAt_column byte nonzero column⟩

end Sys2Proof.Machine
end

section
/-! PROOFS, family 10_compression. The header of a stored block and its checks (R271, R272): O16. -/

namespace Sys2Proof.Machine

/-! ## The CRCs stay within their width (R47, R272) -/

theorem crc16Byte_lt (crc : Nat) (b : Byte) : crc16Byte crc b < 2 ^ 16 := by
  rw [crc16Byte, List.range_succ, List.foldl_append, List.foldl_cons, List.foldl_nil]
  split <;> exact Nat.mod_lt _ (by decide)

theorem crc16_lt (bs : List Byte) : crc16 bs < 2 ^ 16 :=
  List.foldlRecOn bs crc16Byte (motive := (· < 2 ^ 16)) (by decide) fun crc _ b _ => crc16Byte_lt crc b

theorem crc64Byte_lt (crc : Nat) (b : Byte) : crc64Byte crc b < 2 ^ 64 := by
  rw [crc64Byte, List.range_succ, List.foldl_append, List.foldl_cons, List.foldl_nil]
  split <;> exact Nat.mod_lt _ (by decide)

theorem crc64_lt (bs : List Byte) : crc64 bs < 2 ^ 64 :=
  List.foldlRecOn bs crc64Byte (motive := (· < 2 ^ 64)) (by decide) fun crc _ b _ => crc64Byte_lt crc b

/-- Settles O16, by running the CRC over the nine bytes. -/
theorem crc64GivesTheCheckValue : Obligations.Crc64GivesTheCheckValue := by
  unfold Obligations.Crc64GivesTheCheckValue
  decide +kernel

/-! ## The fields of a header (R271) -/

theorem leNat_leBytes_of_lt {n x : Nat} (fits : x < 256 ^ n) : leNat (leBytes n x) = x :=
  (littleEndianFieldsReadBack n x).1.trans (Nat.mod_eq_of_lt fits)

section
variable {raw early : Bool} {level origLen storedLen check lbaOff : Nat} {rest : List Byte}

/-- What lies behind the 24 bytes of a header. -/
theorem drop_blockHeader_append : (blockHeader raw early level origLen storedLen check lbaOff ++ rest).drop 24 = rest := rfl

theorem slice_blockHeader_body {body : List Byte} :
    slice (blockHeader raw early level origLen storedLen check lbaOff ++ (body ++ rest)) 24 body.length = body := by
  rw [slice, drop_blockHeader_append, List.take_left]

theorem length_blockHeader : (blockHeader raw early level origLen storedLen check lbaOff).length = 24 := rfl

theorem fieldAt_blockHeader_ver : fieldAt (blockHeader raw early level origLen storedLen check lbaOff ++ rest) 0 1 = 1 := rfl

theorem fieldAt_blockHeader_flags :
    fieldAt (blockHeader raw early level origLen storedLen check lbaOff ++ rest) 1 1 = b1 raw + 2 * b1 early := by
  cases raw <;> cases early <;> rfl

theorem fieldAt_blockHeader_reserved : fieldAt (blockHeader raw early level origLen storedLen check lbaOff ++ rest) 3 1 = 0 := rfl

theorem fieldAt_blockHeader_origLen (fits : origLen < 2 ^ 32) :
    fieldAt (blockHeader raw early level origLen storedLen check lbaOff ++ rest) 4 4 = origLen :=
  leNat_leBytes_of_lt (n := 4) fits

theorem fieldAt_blockHeader_storedLen (fits : storedLen < 2 ^ 32) :
    fieldAt (blockHeader raw early level origLen storedLen check lbaOff ++ rest) 8 4 = storedLen :=
  leNat_leBytes_of_lt (n := 4) fits

theorem fieldAt_blockHeader_check (fits : check < 2 ^ 64) :
    fieldAt (blockHeader raw early level origLen storedLen check lbaOff ++ rest) 12 8 = check :=
  leNat_leBytes_of_lt (n := 8) fits

/-- HCHK is the CRC-16 of the bytes before it. -/
theorem fieldAt_blockHeader_hchk :
    fieldAt (blockHeader raw early level origLen storedLen check lbaOff ++ rest) 22 2 =
      crc16 ((blockHeader raw early level origLen storedLen check lbaOff ++ rest).take 22) :=
  leNat_leBytes_of_lt (n := 2) (crc16_lt _)

end

end Sys2Proof.Machine
end

section
/-! PROOFS, family 10_compression. A raw block opens to the bytes it holds (R271 to R274): O30. -/

namespace Sys2Proof.Machine

variable {orig payload : List Byte}

/-- The FLAGS of a raw block (R271): bits 7:2 are 0 and bit 0 is set. -/
theorem rawFlags_lt_and_bitOf_zero (early : Bool) : b1 true + 2 * b1 early < 4 ∧ bitOf (b1 true + 2 * b1 early) 0 = true := by
  cases early <;> decide

/-- A payload no shorter than the piece makes the engine store the piece itself, with zeros behind it (R273, R274). -/
theorem makeBlock_raw (level lbaOff : Nat) (early : Bool) (noShorter : orig.length ≤ 24 + payload.length) :
    ∃ pad, makeBlock level lbaOff early orig payload =
      (blockHeader true early level orig.length orig.length (crc64 orig) lbaOff ++ (orig ++ List.replicate pad 0), true) := by
  simp only [makeBlock, decide_eq_true noShorter, if_true, List.append_assoc]
  exact ⟨_, rfl⟩

/-- Raw bytes behind their header pass every check, whatever lies behind them (R271, R272). -/
theorem openBlock_raw (early : Bool) (level lbaOff : Nat) (rest : List Byte) (aligned : orig.length % 512 = 0)
    (least : 512 ≤ orig.length) (most : orig.length ≤ 65536) :
    openBlock (blockHeader true early level orig.length orig.length (crc64 orig) lbaOff ++ (orig ++ rest)) = .good orig := by
  have fits : orig.length < 2 ^ 32 := by omega
  obtain ⟨flags, raw⟩ := rawFlags_lt_and_bitOf_zero early
  simp only [openBlock, fieldAt_blockHeader_ver, fieldAt_blockHeader_flags, fieldAt_blockHeader_reserved, fieldAt_blockHeader_origLen fits,
    fieldAt_blockHeader_storedLen fits, fieldAt_blockHeader_check (crc64_lt orig), fieldAt_blockHeader_hchk, List.length_append,
    length_blockHeader, slice_blockHeader_body, raw, if_true, true_and, Bool.not_true, Bool.false_eq_true, false_and, false_or]
  rw [if_neg (by omega), if_neg (by omega)]

/-- Settles O30: the block is stored raw, and its header describes the bytes behind it. -/
theorem aRawBlockOpensToItsBytes : Obligations.ARawBlockOpensToItsBytes := by
  intro level lbaOff early orig payload _ _ aligned least most noShorter
  obtain ⟨pad, block⟩ := makeBlock_raw level lbaOff early noShorter
  rw [block]
  exact ⟨rfl, openBlock_raw early level lbaOff (List.replicate pad 0) aligned least most⟩

end Sys2Proof.Machine
end

section
/-! PROOFS, family 11_cipher_and_vault. GCM lanes, the key bus, key slots and alarms (R295 to R309, R346): what each event does in each case. -/

namespace Sys2Proof.Machine

variable {m : Chip} {i : Nat}

/-! ## GCM lanes (R295 to R298) -/

section
variable {l w : GcmMsg}

/-- An earlier message that would be late behind the running one takes its lane (R298). -/
theorem Chip.gcmSuspend_suspends (sooner : earlier w.deadline ((m.lane i).running.getD l).deadline = true)
    (late : m.slackBytes w.deadline < (((m.lane i).running.getD l).len - ((m.lane i).running.getD l).done) + w.len)
    (room : (m.lane i).susp.length < 2) :
    m.gcmSuspend i l w =
      (m.setLane i { running := some w, susp := (m.lane i).running.getD l :: (m.lane i).susp }).incF CPH_SUSPCNT.COUNT := by
  unfold Chip.gcmSuspend
  exact if_pos (by simp only [sooner, late, room, and_self, decide_true, Bool.and_self])

/-- A message whose key is there and allowed is counted, and logged where its tag fails. -/
def Chip.gcmCounted (m : Chip) (w : GcmMsg) (ok : Bool) : Chip :=
  let m := m.addWide CPH_GCMBYTES_LO.BYTES CPH_GCMBYTES_HI.BYTES w.len
  if ok then m else m.tagFail w.use w.slot

section
variable (running : (m.lane i).running = some w) (accepted : gcmAccepts w.use w.slot = true) (keyed : (m.kslot w.slot).state ≠ 0)
include running accepted keyed

/-- With a message suspended the lane goes on with it. -/
theorem Chip.gcmDone_resumes {rest : List GcmMsg} (suspended : (m.lane i).susp = l :: rest) (ok : Bool) :
    m.gcmDone i w ok = (m.gcmCounted w ok).setLane i { running := some l, susp := rest } := by
  unfold Chip.gcmDone
  simp [running, accepted, keyed, suspended, Chip.gcmCounted]

/-- With none suspended and none that waits the lane is idle. -/
theorem Chip.gcmDone_idles (alone : (m.lane i).susp = []) (noneWaits : m.kv.waiting = []) :
    m.gcmDone i w true = (m.gcmCounted w true).setLane i GcmLane.blank := by
  unfold Chip.gcmDone
  simp [running, accepted, keyed, alone, noneWaits, Chip.gcmCounted]

end
end

/-! ## The key bus (R300, R301) -/

theorem Chip.keyBus_crosses (loaded : (m.kslot i).state ≠ 0) :
    m.keyBus i false = { m with kv := { m.kv with cache := (i :: m.kv.cache.filter (· ≠ i)).take 1024 } } := if_neg loaded

/-- The first parity error raises no alarm. -/
theorem Chip.keyBus_firstError (first : m.kv.busErr = none) :
    m.keyBus i true =
      (let m := (m.incF KVT_BUSERR.COUNT).emit 0 0x6303
       { m with kv := { m.kv with busErr := some m.isl.dtc } }) := by
  have firstStill : ((m.incF KVT_BUSERR.COUNT).emit 0 0x6303).kv.busErr = none := by rw [Chip.emit_kv, Chip.incF_kv, first]
  unfold Chip.keyBus
  simp only [firstStill, if_true, Bool.false_eq_true, if_false]

/-! ## Slots and loads (R302, R304, R305) -/

/-- A slot whose namespace is gone is cleared, and its data key's record is dead. -/
theorem Chip.clearSlot_noNs (clearing : (m.kslot i).state = 2) (quiet : m.nsBusy (m.kslot i).nsid = false)
    (gone : m.ns? (m.kslot i).nsid = none) :
    m.clearSlot i =
      (let dead (r : KeyRec) : KeyRec := if r.slot = i ∧ r.kind = 1 then { r with dead := true } else r
       let m := ({ m with kv := { m.kv with cache := m.kv.cache.filter (· ≠ i) } } : Chip).setKslot i KeySlot.blank
       { m with nv := { m.nv with keys := m.nv.keys.map dead } }) := by
  have goneStill : m.zn.ns.find? (·.nsid = (m.kslot i).nsid) = none := gone
  unfold Chip.clearSlot
  rw [if_neg (by simp [clearing, quiet])]
  simp only [Chip.ns?, Chip.setKslot_zn, goneStill]

theorem Chip.keyReads_kv (m : Chip) (k : KvtSt) (r : KeyRec) : ({ m with kv := k } : Chip).keyReads r = m.keyReads r := rfl

/-- The record of a slot under the DWK is loaded where both its tag verifies and it reads as written. -/
theorem Chip.unwrap_loads {r : KeyRec} (found : m.nv.keys.find? (fun k => decide (k.slot = i ∧ k.kind ≠ 2) && !k.dead) = some r)
    (dwk : m.dwkLoaded = true) (asked : i ∈ m.kv.toLoad) (underDwk : r.kind ≠ 1) (reads : m.keyReads r = true)
    (current : r.dwk = m.nv.dwkGen) :
    m.unwrap i true =
      (let m := { m with kv := { m.kv with toLoad := m.kv.toLoad.filter (· ≠ i) } }
       (m.loadKey i { KeySlot.blank with
         kind := if r.kind = 3 then 1 else 0, tenant := if r.kind = 3 then 0 else r.tenant, keygen := r.keygen, nsid := r.nsid
         key := r.key }).loadsEnd) := by
  unfold Chip.unwrap
  simp only [found]
  rw [if_neg (by simp [dwk, asked])]
  refine congrArg Chip.loadsEnd ((if_neg (by simp [underDwk])).trans (if_neg ?_))
  simp [Chip.keyReads_kv, reads, current]

end Sys2Proof.Machine
end

section
/-! PROOFS, family 11_cipher_and_vault. The non-volatile array (R314 to R321): the CW's sequence and read buffer, pulses and brown-outs. -/

namespace Sys2Proof.Machine

variable {m : Chip} {o : NvaOp} {v : Nat}

/-! ## The CW's sequence (R319, R320) -/

theorem Chip.nvaTimeout_ends (open_ : m.f NVA_STAT.SEQ ≠ 0) (idle : m.f NVA_STAT.BUSY ≠ 1) : m.nvaTimeout = m.nvaEnd 3 :=
  if_neg (not_or.mpr ⟨open_, idle⟩)

section
variable (idle : m.f NVA_STAT.BUSY ≠ 1)
include idle

theorem Chip.nvaGuard_idle (g : Chip → Chip) : m.nvaGuard g = g m := if_neg idle

theorem Chip.nvaKey_first (locked : m.f NVA_STAT.SEQ = 0) : m.nvaKey 0xA5C3 = m.setF NVA_STAT.SEQ 1 :=
  (Chip.nvaGuard_idle idle _).trans (if_pos ⟨locked, rfl⟩)

theorem Chip.nvaKey_second (halfway : m.f NVA_STAT.SEQ = 1) : m.nvaKey 0x3C5A = m.setF NVA_STAT.SEQ 2 :=
  (Chip.nvaGuard_idle idle _).trans ((if_neg (by omega)).trans (if_pos ⟨halfway, rfl⟩))

theorem Chip.nvaCmd_names (unlocked : m.f NVA_STAT.SEQ = 2) (least : 1 ≤ v % 16) (most : v % 16 ≤ 3) :
    m.nvaCmd v = (m.setF NVA_CMD.OP (v % 16)).setF NVA_STAT.SEQ 3 :=
  (Chip.nvaGuard_idle idle _).trans ((if_neg (by omega)).trans (if_neg (Nat.not_lt.mpr most)))

omit idle in
/-- The regions of R329 lie in registers of their own. -/
theorem Chip.inXo_setF_addr (m : Chip) (a sector : Nat) : (m.setF NVA_ADDR.ADDR a).inXo sector = m.inXo sector := by
  have kept (g : Fld) (k : Nat) (apart : g.key k ≠ NVA_ADDR.ADDR.key 0) : (m.setF NVA_ADDR.ADDR a).f g k = m.f g k :=
    m.f_setF_ne _ _ _ _ _ apart
  have valid (k : Nat) := kept NVA_XO.VALID k (by simp only [Fld.key, Fld.off, NVA_XO.VALID, NVA_ADDR.ADDR]; omega)
  have first (k : Nat) := kept NVA_XO.FIRST k (by simp only [Fld.key, Fld.off, NVA_XO.FIRST, NVA_ADDR.ADDR]; omega)
  have last (k : Nat) := kept NVA_XO.LAST k (by simp only [Fld.key, Fld.off, NVA_XO.LAST, NVA_ADDR.ADDR]; omega)
  simp only [Chip.inXo, valid, first, last]

/-- An aligned address of the host's sectors outside every execute-only region is taken: a program waits for its data, an erase or
a blank check for its turn. -/
theorem Chip.nvaAddr_taken (named : m.f NVA_STAT.SEQ = 3)
    (aligned : v % 2 ^ 26 % (if m.f NVA_CMD.OP = 1 then 32 else 65536) = 0) (host : hostLo ≤ v % 2 ^ 26)
    (readable : m.inXo (v % 2 ^ 26 / 65536) = false) :
    m.nvaAddr v =
      (let op := m.f NVA_CMD.OP
       let m := ((m.setF NVA_ADDR.ADDR (v % 2 ^ 26)).setF NVA_STAT.SEQ 4).setF NVA_STAT.DATACNT 0
       if op = 1 then m
       else (m.setF NVA_STAT.BUSY 1).setOp { op := op, addr := v % 2 ^ 26, data := [], started := false, pulse := false, count := 0 }) := by
  refine (Chip.nvaGuard_idle idle _).trans ((if_neg (not_not.mpr named)).trans ((if_neg (not_not.mpr aligned)).trans (if_neg ?_)))
  rw [Chip.inXo_setF_addr, readable]
  exact not_or.mpr ⟨Nat.not_lt.mpr host, by decide⟩

/-- A data word before the eighth is kept. -/
theorem Chip.nvaData_keeps (addressed : m.f NVA_STAT.SEQ = 4 ∨ m.f NVA_STAT.SEQ = 5) (program : m.f NVA_CMD.OP = 1)
    (room : m.nv.words.length < 28) :
    m.nvaData v =
      (let ws := m.nv.words ++ leBytes 4 v
       let m := (m.setF NVA_STAT.SEQ 5).setF NVA_STAT.DATACNT (ws.length / 4)
       { m with nv := { m.nv with words := ws } }) := by
  have short : (m.nv.words ++ leBytes 4 v).length < 32 := by
    rw [List.length_append, show (leBytes 4 v).length = 4 from rfl]
    omega
  exact (Chip.nvaGuard_idle idle _).trans ((if_neg (by omega)).trans (if_pos short))

end

/-! ## The read buffer (R316) -/

theorem Chip.access_rdata_loaded {rq : Rq} (open_ : m.open_ rq (NVA_RDATA.WORD.off 0)) (noMiss : m.f NVA_STAT.RDMISS = 0)
    (loaded : m.f NVA_STAT.RDVALID = 1) : m.access rq (NVA_RDATA.WORD.off 0) none = m.nvaServe.2.giveWord m.nvaServe.1 := by
  have listed : (fieldsAt (NVA_RDATA.WORD.off 0)).isEmpty = false := by decide
  have noWindow : QCX_W.WORD.index? (NVA_RDATA.WORD.off 0) = none ∧ ZNE_ZCX_W.WORD.index? (NVA_RDATA.WORD.off 0) = none ∧
      DLS_DCX_W.WORD.index? (NVA_RDATA.WORD.off 0) = none ∧ TNT_W.WORD.index? (NVA_RDATA.WORD.off 0) = none ∧
      TNT_LDG_W.WORD.index? (NVA_RDATA.WORD.off 0) = none ∧ LDP_BLK_W.WORD.index? (NVA_RDATA.WORD.off 0) = none := by decide
  obtain ⟨qcx, zcx, dcx, tnt, ldg, blk⟩ := noWindow
  have now : m.readWaits (NVA_RDATA.WORD.off 0) = none := by simp [Chip.readWaits, qcx, zcx, dcx, tnt, ldg, blk, loaded]
  have served : m.readWord rq (NVA_RDATA.WORD.off 0) = m.nvaServe := by simp [Chip.readWord, Chip.nvaRead, noMiss]
  rw [Chip.access_read open_ listed now, served]

/-! ## Pulses (R314, R318) -/

section
variable (waiting : m.nv.op = some o)
include waiting

theorem Chip.nvaStart_program (program : o.op = 1) (fresh : o.started = false)
    (erased : (tfind m.nv.units (m.nv.unit o.addr)).isSome = false) :
    m.nvaStart 1 = m.setOp { o with started := true, pulse := decide (m.f NVA_STAT.BROWNOUT = 0) } := by
  simp [Chip.nvaStart, waiting, program, fresh, erased]

theorem Chip.nvaStart_erase (erase : o.op = 2) (fresh : o.started = false) (sound : m.nv.worn (m.nv.phys (o.addr / 65536)) = false) :
    m.nvaStart 2 = (m.countErase (m.nv.phys (o.addr / 65536))).setOp
      { o with started := true, pulse := decide ((m.countErase (m.nv.phys (o.addr / 65536))).f NVA_STAT.BROWNOUT = 0) } := by
  simp [Chip.nvaStart, waiting, erase, fresh, sound]

theorem Chip.nvaStart_blankcheck (blankcheck : o.op = 3) (fresh : o.started = false) :
    m.nvaStart 3 =
      (m.setF NVA_STAT.BLANK (b1 (m.nv.units.all fun e => decide (e.1 / 2048 ≠ m.nv.phys (o.addr / 65536))))).nvaEnd 1 := by
  simp [Chip.nvaStart, waiting, blankcheck, fresh]

theorem Chip.nvaPulse_programmed (pulses : o.pulse = true) (program : o.op = 1) :
    m.nvaPulse true = ({ m with nv := { m.nv with units := tput m.nv.units (m.nv.unit o.addr) o.data } } : Chip).nvaEnd 1 := by
  simp [Chip.nvaPulse, waiting, pulses, program]

theorem Chip.nvaPulse_erased (pulses : o.pulse = true) (erase : o.op ≠ 1) :
    m.nvaPulse true =
      ({ m with nv := { m.nv with
        units := m.nv.units.filter fun e => decide (e.1 / 2048 ≠ m.nv.phys (o.addr / 65536)) } } : Chip).nvaEnd 1 := by
  simp [Chip.nvaPulse, waiting, pulses, erase]

end

/-! ## Brown-outs (R321) -/

/-- The array supply is back, and nothing that on-chip firmware was held at is left to do. -/
def Chip.supplied (m : Chip) : Chip :=
  { m.setF NVA_STAT.BROWNOUT 0 with nv := { m.nv with queue := [] }, evr := { m.evr with held := [] } }

section
variable (noNotice : m.evr.held = []) (noErase : m.nv.eraseAll = false) (noArray : m.nv.queue = [])
include noNotice noErase noArray

theorem Chip.brownoutEnd_idle (idle : m.nv.op = none) : m.brownoutEnd = m.supplied := by
  simp [Chip.brownoutEnd, Chip.supplied, noNotice, noErase, noArray, idle]

/-- The CW's operation that had started goes on with its pulse. -/
theorem Chip.brownoutEnd_resumes (waiting : m.nv.op = some o) (started : o.started = true) :
    m.brownoutEnd = m.supplied.setOp { o with pulse := true } := by
  simp [Chip.brownoutEnd, Chip.supplied, noNotice, noErase, noArray, waiting, started]

end

end Sys2Proof.Machine
end

section
/-! PROOFS, family 11_cipher_and_vault. The events of the vault and the non-volatile array: O55. -/

namespace Sys2Proof.Machine

/-- Settles O55, row by row in the order of the statement. -/
theorem vaultAndArrayEventsComplete : Obligations.VaultAndArrayEventsComplete :=
  -- GCM_SUSPEND, GCM_MESSAGE_DONE
  ⟨fun s _ _ _ sooner late room => completes_of_chip rfl (Chip.gcmSuspend_suspends (m := s.chip.fresh) sooner late room),
    fun s _ _ running alone noneWaits accepted keyed =>
      completes_of_chip rfl (Chip.gcmDone_idles (m := s.chip.fresh) running accepted keyed alone noneWaits),
    fun s _ _ _ _ running suspended accepted keyed =>
      completes_of_chip rfl (Chip.gcmDone_resumes (m := s.chip.fresh) running accepted keyed suspended false),
    -- KEY_BUS_TRANSFER, KEY_SLOT_CLEAR, KEY_UNWRAP
    fun s _ loaded => completes_of_chip rfl (Chip.keyBus_crosses (m := s.chip.fresh) loaded),
    fun s _ first => completes_of_chip rfl (Chip.keyBus_firstError (m := s.chip.fresh) first),
    fun s _ clearing quiet gone =>
      completes_of_chip rfl (congrArg Chip.settle (Chip.clearSlot_noNs (m := s.chip.fresh) clearing quiet gone)),
    fun s _ _ found dwk asked kind reads current =>
      completes_of_chip rfl (Chip.unwrap_loads (m := s.chip.fresh) found dwk asked (by omega) reads current),
    -- VOLTAGE_GLITCH, CLOCK_MONITOR_FAULT, SHIELD_BREACH, LOCKSTEP_MISMATCH, KEY_STORE_ERASE
    fun _ _ on => completes_of_chip rfl (if_pos on),
    fun _ _ => completes_of_chip rfl rfl,
    fun _ => completes_of_chip rfl rfl,
    fun _ => completes_of_chip rfl rfl,
    fun _ => completes_of_chip rfl rfl,
    -- NVA_SEQUENCE_TIMEOUT, PROGRAM, ERASE, BLANKCHECK
    fun s open_ idle => completes_of_chip rfl (Chip.nvaTimeout_ends (m := s.chip.fresh) open_ idle),
    fun s _ waiting program fresh erased =>
      completes_of_chip rfl (Chip.nvaStart_program (m := s.chip.fresh) waiting program fresh erased),
    fun s _ waiting erase fresh sound => completes_of_chip rfl (Chip.nvaStart_erase (m := s.chip.fresh) waiting erase fresh sound),
    fun s _ waiting blankcheck fresh =>
      completes_of_chip rfl (Chip.nvaStart_blankcheck (m := s.chip.fresh) waiting blankcheck fresh),
    -- NVA_BROWNOUT, NVA_BROWNOUT_RECOVER, NVA_PULSE_DONE
    fun _ powered => completes_of_chip rfl (if_neg powered),
    fun s idle noNotice noErase noArray =>
      completes_of_chip rfl (Chip.brownoutEnd_idle (m := s.chip.fresh) noNotice noErase noArray idle),
    fun s _ waiting started noNotice noErase noArray =>
      completes_of_chip rfl (Chip.brownoutEnd_resumes (m := s.chip.fresh) noNotice noErase noArray waiting started),
    fun s _ waiting pulses program =>
      completes_of_chip rfl (congrArg Chip.late (Chip.nvaPulse_programmed (m := s.chip.fresh) waiting pulses program)),
    fun s _ waiting pulses erase =>
      completes_of_chip rfl (congrArg Chip.late (Chip.nvaPulse_erased (m := s.chip.fresh) waiting pulses erase))⟩

end Sys2Proof.Machine
end

section
/-! PROOFS, family 11_cipher_and_vault. Writes of the control window by block: the vault, the array, trust, pools, arbiters, stored-data
protection and DRAM (R306, R319, R335, R356, R371, R389, R395, R398, R402). -/

namespace Sys2Proof.Machine

variable {m : Chip} {rq : Rq} {v : Nat}

/-! ## Where the registers lie -/

/-- The offset of an element names it, in an array of registers that lie one step apart. -/
theorem Fld.index?_off {g : Fld} {n : Nat} (single : g.m = 1) (step : 0 < g.s1) (within : n < g.count) : g.index? (g.off n) = some n := by
  have off : g.off n = g.base + n * g.s1 := by simp [Fld.off, single, Nat.mod_one]
  simp [Fld.index?, off, single, step, within]

/-- The same in an array of rows, each of registers one step apart. -/
theorem Fld.index?_off_row {g : Fld} {k j : Nat} (several : 1 < g.m) (row : g.m * g.s2 = g.s1) (step : 0 < g.s2) (inRow : j < g.m)
    (within : k * g.m + j < g.count) : g.index? (g.off (k * g.m + j)) = some (k * g.m + j) := by
  have inside : j * g.s2 < g.s1 := row ▸ Nat.mul_lt_mul_of_pos_right inRow step
  have off : g.off (k * g.m + j) = g.base + (j * g.s2 + g.s1 * k) := by
    rw [Fld.off, Nat.mul_comm k, Nat.mul_add_div (by omega), Nat.mul_add_mod, Nat.div_eq_of_lt inRow, Nat.mod_eq_of_lt inRow]
    ring
  have rowOf : (j * g.s2 + g.s1 * k) / g.s1 = k := by
    rw [Nat.add_mul_div_left _ _ (by omega), Nat.div_eq_of_lt inside, Nat.zero_add]
  have restOf : (j * g.s2 + g.s1 * k) % g.s1 = j * g.s2 := by rw [Nat.add_mul_mod_self_left, Nat.mod_eq_of_lt inside]
  simp [Fld.index?, off, rowOf, restOf, step, inRow, within, Nat.not_le.mpr several]

/-- The field of a register makes its offset one with a register. -/
theorem fieldsAt_listed {g : Fld} {off n : Nat} (mem : g ∈ blockFields off) (named : g.index? off = some n) :
    (fieldsAt off).isEmpty = false := by
  have listed : (g, n) ∈ fieldsAt off := List.mem_filterMap.mpr ⟨g, mem, by rw [named]; rfl⟩
  exact List.isEmpty_eq_false_iff.mpr (List.ne_nil_of_mem listed)

/-- A value within a field's range is permitted where no narrower rule stands (R12). -/
theorem Fld.takes_of_range {g : Fld} (plain : oddRanges.find? (fun e => decide (e.1 = g)) = none) (least : g.vmin ≤ v) (most : v ≤ g.vmax) :
    g.takes v = true := by
  simp [Fld.takes, plain, least, most]

/-! ## KVT, NVA and TRS -/

theorem Chip.cwPut_kvtForce (open_ : m.writable rq (KVT_FORCE.CODE.off 0)) (w : Nat) :
    m.cwPut rq KVT_FORCE.CODE w = (m.kvtForce w).late := by
  rw [Chip.cwPut_open open_.1 (by decide), Chip.writeReg, open_.2]
  rfl

theorem Chip.cwPut_NVA {g : Fld} (open_ : m.writable rq (g.off 0)) (listed : (fieldsAt (g.off 0)).isEmpty = false)
    (block : g.off 0 / 0x10000 = 0x1b) (w : Nat) : m.cwPut rq g w = m.cwNVA (g.off 0) w :=
  (Chip.cwPut_open open_.1 listed w).trans (Chip.writeReg_NVA open_.2 block w)

theorem Chip.cwPut_nvaKey (open_ : m.writable rq (NVA_KEY.KEY.off 0)) (w : Nat) : m.cwPut rq NVA_KEY.KEY w = m.nvaKey w :=
  Chip.cwPut_NVA open_ (by decide) (by decide) w

theorem Chip.cwPut_nvaCmd (open_ : m.writable rq (NVA_CMD.OP.off 0)) (w : Nat) : m.cwPut rq NVA_CMD.OP w = m.nvaCmd w :=
  Chip.cwPut_NVA open_ (by decide) (by decide) w

theorem Chip.cwPut_nvaAddr (open_ : m.writable rq (NVA_ADDR.ADDR.off 0)) (w : Nat) : m.cwPut rq NVA_ADDR.ADDR w = m.nvaAddr w :=
  Chip.cwPut_NVA open_ (by decide) (by decide) w

theorem Chip.cwPut_nvaData (open_ : m.writable rq (NVA_DATA.WORD.off 0)) (w : Nat) : m.cwPut rq NVA_DATA.WORD w = m.nvaData w :=
  Chip.cwPut_NVA open_ (by decide) (by decide) w

theorem Chip.cwPut_nvaRaddr (open_ : m.writable rq (NVA_RADDR.WORD.off 0)) (w : Nat) : m.cwPut rq NVA_RADDR.WORD w = m.nvaRaddr w :=
  Chip.cwPut_NVA open_ (by decide) (by decide) w

theorem Chip.cwPut_fwload (open_ : m.writable rq (TRS_CMD.GO.off 0)) :
    m.cwPut rq TRS_CMD.GO (2 ^ TRS_CMD.FWLOAD.lo) = m.fwLoad.late :=
  (Chip.cwPut_open open_.1 (by decide) _).trans (Chip.writeReg_TRS open_.2 (by decide) _)

/-- In ROM recovery the package is checked and, where it is good, written to bank A (R335). -/
theorem Chip.fwLoad_recovery (recovery : m.f TRS_STAT.ROMREC = 1) :
    m.fwLoad =
      (let b := memGetBytes m.img.staging 0 (min (leNat (memGetBytes m.img.staging 0x0C 4)) 4194304)
       if m.fwCheck b ≠ 0 then m.setF TRS_STAT.BOOTFAIL (m.fwCheck b) else
         let m := ((m.countErases (fwSector 0) (ceilDiv b.length 65536)).codeClear 0).array (.flag (.firmware 0))
         ({ m with nv := { m.nv with fwA := b } } : Chip).warmAsk 3) :=
  if_neg (by omega)

/-! ## BPM and ARB -/

/-- A quota and a minimum that the pool's cells cover are stored, and the pool is looked at (R356). -/
theorem Chip.cwPut_rqcfg {r : Fin 64} {p : PoolRec} (open_ : m.writable rq (BPM_RQCFG.QUOTA.off r)) (hasPool : rqHasPool r = true)
    (covered : m.minimaWith r ((m.asked (BPM_RQCFG.QUOTA.off r) v BPM_RQCFG.MIN r).getD (m.f BPM_RQCFG.MIN r)) ≤ 1024)
    (pool : m.img.tables.poolOf r = some p) :
    m.cwPut rq BPM_RQCFG.QUOTA v r = ((m.storeReg (BPM_RQCFG.QUOTA.off r) v).grantPool p.pool).late := by
  have named : BPM_RQCFG.QUOTA.index? (BPM_RQCFG.QUOTA.off r) = some r.val := Fld.index?_off rfl (by decide) r.isLt
  have block : BPM_RQCFG.QUOTA.off r / 0x10000 = 0x1d := by simp only [Fld.off, BPM_RQCFG.QUOTA]; omega
  have mem : BPM_RQCFG.QUOTA ∈ blockFields (BPM_RQCFG.QUOTA.off r) := by simp only [blockFields, block]; decide
  rw [Chip.cwPut_open open_.1 (fieldsAt_listed mem named), Chip.writeReg_BPM open_.2 block]
  simp only [Chip.cwBPM, named, hasPool, Bool.not_true, Bool.false_eq_true, if_false, if_neg (Nat.not_lt.mpr covered), Chip.storeReg_img, pool]

/-- The tickets of four requesters of an arbiter are stored, and it takes them over (R371). -/
theorem Chip.cwPut_tickets {inst : Fin 12} {wd : Fin 16} (open_ : m.writable rq (ARB_TKT.TKT0.off (inst * 16 + wd))) (arbiter : inst.val < 11) :
    m.cwPut rq ARB_TKT.TKT0 v (inst * 16 + wd) = (m.storeReg (ARB_TKT.TKT0.off (inst * 16 + wd)) v).tktDirty inst := by
  have named : ARB_TKT.TKT0.index? (ARB_TKT.TKT0.off (inst * 16 + wd)) = some (inst.val * 16 + wd.val) :=
    Fld.index?_off_row (g := ARB_TKT.TKT0) (by decide) rfl (by decide) wd.isLt (show inst.val * 16 + wd.val < 176 by omega)
  have block : ARB_TKT.TKT0.off (inst * 16 + wd) / 0x10000 = 0x27 := by simp only [Fld.off, ARB_TKT.TKT0]; omega
  have mem : ARB_TKT.TKT0 ∈ blockFields (ARB_TKT.TKT0.off (inst * 16 + wd)) := by simp only [blockFields, block]; decide
  have own : (inst.val * 16 + wd.val) / 16 = inst := by omega
  rw [Chip.cwPut_open open_.1 (fieldsAt_listed mem named), Chip.writeReg_ARB open_.2 block]
  simp only [Chip.cwARB, named, own]

/-! ## SDP -/

theorem Chip.cwPut_SDP {g : Fld} (open_ : m.writable rq (g.off 0)) (listed : (fieldsAt (g.off 0)).isEmpty = false)
    (block : g.off 0 / 0x10000 = 0x1f) (w : Nat) : m.cwPut rq g w = m.cwSDP (g.off 0) w :=
  (Chip.cwPut_open open_.1 listed w).trans (Chip.writeReg_SDP open_.2 block w)

theorem Chip.cwPut_remap (open_ : m.writable rq (SDP_REMAPCMD.GO.off 0)) :
    m.cwPut rq SDP_REMAPCMD.GO (2 ^ SDP_REMAPCMD.GO.lo) = m.remapCmd :=
  Chip.cwPut_SDP open_ (by decide) (by decide) _

/-- A write of the log's index names a memory and an entry, which is copied (R395). -/
theorem Chip.cwPut_logIdx (open_ : m.writable rq (SDP_LOG_IDX.MEM.off 0)) (memory : bits v 9 8 ≤ 2) :
    m.cwPut rq SDP_LOG_IDX.MEM v = ((m.setF SDP_LOG_IDX.MEM (bits v 9 8)).setF SDP_LOG_IDX.ENTRY (bits v 4 0)).logCopy := by
  have entry : bits v 4 0 ≤ 31 := by rw [bits_eq_div_mod]; omega
  have stored : m.storeReg (SDP_LOG_IDX.MEM.off 0) v = (m.setF SDP_LOG_IDX.MEM (bits v 9 8)).setF SDP_LOG_IDX.ENTRY (bits v 4 0) :=
    Chip.storeReg_plain [SDP_LOG_IDX.MEM, SDP_LOG_IDX.ENTRY] 0 (by decide) v (by
      simpa using ⟨.inl ⟨rfl, Fld.takes_of_range (by decide) (Nat.zero_le _) memory⟩,
        .inl ⟨rfl, Fld.takes_of_range (by decide) (Nat.zero_le _) entry⟩⟩)
  rw [← stored]
  exact Chip.cwPut_SDP open_ (by decide) (by decide) v

section
variable {mem : Fin 3}

/-- A write of SDP_SCRUB_CTL stores the memory it names; GO and ABORT only act. -/
theorem Chip.storeReg_scrubCtl (named : bits v 1 0 = mem) : m.storeReg (SDP_SCRUB_CTL.GO.off 0) v = m.setF SDP_SCRUB_CTL.MEM mem := by
  have known : mem.val ≤ SDP_SCRUB_CTL.MEM.vmax := Nat.le_of_lt_succ mem.isLt
  rw [Chip.storeReg_plain [SDP_SCRUB_CTL.GO, SDP_SCRUB_CTL.ABORT, SDP_SCRUB_CTL.MEM] 0 (by decide) v]
  · exact congrArg (m.setF SDP_SCRUB_CTL.MEM) named
  · simpa using ⟨.inr (.inl rfl), .inr (.inl rfl), .inl ⟨rfl, named ▸ Fld.takes_of_range (by decide) (Nat.zero_le _) known⟩⟩

/-- It aborts, then starts, as its bits say. -/
theorem Chip.cwPut_scrubCtl (open_ : m.writable rq (SDP_SCRUB_CTL.GO.off 0)) (named : bits v 1 0 = mem) :
    m.cwPut rq SDP_SCRUB_CTL.GO v =
      (let x := m.setF SDP_SCRUB_CTL.MEM mem
       let x := if bitOf v 30 then x.scrubAbort else x
       (if bitOf v 31 then x.scrubGo (x.f SDP_SCRUB_CTL.MEM) else x).powerPoll) := by
  rw [Chip.cwPut_SDP open_ (by decide) (by decide), Chip.cwSDP, if_neg (by decide), if_neg (by decide), if_pos rfl,
    Chip.storeReg_scrubCtl named]

theorem Chip.cwPut_scrubGo (open_ : m.writable rq (SDP_SCRUB_CTL.GO.off 0)) :
    m.cwPut rq SDP_SCRUB_CTL.GO (2 ^ SDP_SCRUB_CTL.GO.lo + mem * 2 ^ SDP_SCRUB_CTL.MEM.lo) =
      ((m.setF SDP_SCRUB_CTL.MEM mem).scrubGo mem).powerPoll := by
  have word : ∀ k : Fin 3, let w := 2 ^ SDP_SCRUB_CTL.GO.lo + k.val * 2 ^ SDP_SCRUB_CTL.MEM.lo
      bits w 1 0 = k ∧ bitOf w 30 = false ∧ bitOf w 31 = true := by decide
  obtain ⟨named, noAbort, go⟩ := word mem
  have holds : (m.setF SDP_SCRUB_CTL.MEM mem).f SDP_SCRUB_CTL.MEM = mem :=
    (m.f_setF_same ..).trans (Nat.mod_eq_of_lt (Nat.lt_succ_of_lt mem.isLt))
  rw [Chip.cwPut_scrubCtl open_ named]
  simp only [noAbort, go, Bool.false_eq_true, if_false, if_true, holds]

/-- An abort ends the scrub that runs (R402). -/
theorem Chip.cwPut_scrubAbort (open_ : m.writable rq (SDP_SCRUB_CTL.GO.off 0)) (runs : m.f SDP_SCRUB_STAT.BUSY = 1) :
    m.cwPut rq SDP_SCRUB_CTL.GO (2 ^ SDP_SCRUB_CTL.ABORT.lo + mem * 2 ^ SDP_SCRUB_CTL.MEM.lo) =
      ((m.setF SDP_SCRUB_CTL.MEM mem).scrubEnd 2).powerPoll := by
  have word : ∀ k : Fin 3, let w := 2 ^ SDP_SCRUB_CTL.ABORT.lo + k.val * 2 ^ SDP_SCRUB_CTL.MEM.lo
      bits w 1 0 = k ∧ bitOf w 30 = true ∧ bitOf w 31 = false := by decide
  obtain ⟨named, abort, noGo⟩ := word mem
  have runsStill : (m.setF SDP_SCRUB_CTL.MEM mem).f SDP_SCRUB_STAT.BUSY = 1 := (m.f_setF_ne _ _ _ _ _ (by decide)).trans runs
  rw [Chip.cwPut_scrubCtl open_ named]
  simp only [abort, noGo, Bool.false_eq_true, if_false, if_true, Chip.scrubAbort, runsStill]

end

/-! ## DRC (R389) -/

/-- The fields of a word for DRC_CTL. -/
theorem drcWord_fields (quiesce train full : Bool) :
    let w := b1 quiesce * 2 ^ DRC_CTL.QUIESCE.lo + b1 train * 2 ^ DRC_CTL.TRAIN.lo + (1 + b1 full) * 2 ^ DRC_CTL.TRAIN_OP.lo
    bits w DRC_CTL.QUIESCE.hi DRC_CTL.QUIESCE.lo = b1 quiesce ∧ bitOf w DRC_CTL.TRAIN.lo = train ∧
      bits w DRC_CTL.TRAIN_OP.hi DRC_CTL.TRAIN_OP.lo = 1 + b1 full ∧ DRC_CTL.TRAIN_OP.takes (1 + b1 full) = true ∧
        decide (b1 quiesce = 1) = quiesce := by
  revert quiesce train full
  decide

/-- The store of the operation leaves QUIESCE. -/
theorem Chip.quiesce_setF_trainOp (m : Chip) (op ch k : Nat) : (m.setF DRC_CTL.TRAIN_OP op ch).f DRC_CTL.QUIESCE k = m.f DRC_CTL.QUIESCE k :=
  m.f_setF_ne _ _ _ _ _ (by simp only [Fld.key, Fld.off, DRC_CTL.TRAIN_OP, DRC_CTL.QUIESCE]; omega)

section
variable {ch : DramCh} (open_ : m.writable rq (DRC_CTL.QUIESCE.off ch)) (free : m.rwlOpen (DRC_CTL.QUIESCE.off ch) % 2 = 1)
  {quiesce : Bool} (full : Bool)
include open_ free

/-- A write of DRC_CTL stores the training operation, follows QUIESCE where it changes, and starts training with TRAIN. -/
theorem Chip.drcPut_writable (train : Bool) :
    m.drcPut rq ch quiesce train full =
      (let x := m.setF DRC_CTL.TRAIN_OP (1 + b1 full) ch
       let x := if b1 quiesce = x.f DRC_CTL.QUIESCE ch then x else x.dramQuiesce ch quiesce
       if train then x.dramTrain ch (x.f DRC_CTL.TRAIN_OP ch) else x) := by
  have named : DRC_CTL.QUIESCE.index? (DRC_CTL.QUIESCE.off ch) = some ch.val := Fld.index?_off rfl (by decide) ch.isLt
  have block : DRC_CTL.QUIESCE.off ch / 0x10000 = 0x1e := by simp only [Fld.off, DRC_CTL.QUIESCE]; omega
  have mem : DRC_CTL.QUIESCE ∈ blockFields (DRC_CTL.QUIESCE.off ch) := by simp only [blockFields, block]; decide
  obtain ⟨quiesceBit, trainBit, opBits, opKnown, isSet⟩ := drcWord_fields quiesce train full
  have asked := Chip.asked_open (m := m) (g := DRC_CTL.QUIESCE) (off := DRC_CTL.QUIESCE.off ch) rfl
    ((bits_eq_div_mod _ 0 0).trans (by rw [Nat.pow_zero, Nat.div_one]; exact free))
  rw [Chip.drcPut, Chip.cwPut_open open_.1 (fieldsAt_listed mem named), Chip.writeReg_DRC open_.2 block]
  simp only [Chip.cwDRC, named]
  rw [asked, Chip.storeField_plain (.inl ⟨rfl, (congrArg _ opBits).trans opKnown⟩)]
  simp only [show DRC_CTL.TRAIN_OP.acc = .rw from rfl, Bool.false_eq_true, if_false, if_true, quiesceBit, opBits, isSet]
  rw [show bitOf _ 1 = train from trainBit]

/-- With QUIESCE as it was, TRAIN starts the operation named with it. -/
theorem Chip.drcPut_train (same : m.f DRC_CTL.QUIESCE ch = b1 quiesce) :
    m.drcPut rq ch quiesce true full = (m.setF DRC_CTL.TRAIN_OP (1 + b1 full) ch).dramTrain ch (1 + b1 full) := by
  have op : (m.setF DRC_CTL.TRAIN_OP (1 + b1 full) ch).f DRC_CTL.TRAIN_OP ch = 1 + b1 full :=
    (m.f_setF_same ..).trans (Nat.mod_eq_of_lt (by cases full <;> decide))
  rw [Chip.drcPut_writable open_ free full true]
  simp only [Chip.quiesce_setF_trainOp, same, if_true, op]

theorem Chip.drcPut_same (same : m.f DRC_CTL.QUIESCE ch = b1 quiesce) :
    m.drcPut rq ch quiesce false full = m.setF DRC_CTL.TRAIN_OP (1 + b1 full) ch := by
  rw [Chip.drcPut_writable open_ free full false]
  simp only [Chip.quiesce_setF_trainOp, same, if_true, Bool.false_eq_true, if_false]

theorem Chip.drcPut_changed (other : m.f DRC_CTL.QUIESCE ch = 1 - b1 quiesce) :
    m.drcPut rq ch quiesce false full = (m.setF DRC_CTL.TRAIN_OP (1 + b1 full) ch).dramQuiesce ch quiesce := by
  have differs : b1 quiesce ≠ 1 - b1 quiesce := by cases quiesce <;> decide
  rw [Chip.drcPut_writable open_ free full false]
  simp only [Chip.quiesce_setF_trainOp, other, if_neg differs, Bool.false_eq_true, if_false]

end

end Sys2Proof.Machine
end

section
/-! PROOFS, family 11_cipher_and_vault. The writes of the control window that reach the vault, the non-volatile array, firmware, pools, arbiters,
stored-data protection and DRAM: O42. -/

namespace Sys2Proof.Machine

variable {s : State} {rq : Rq} {v : BitVec 32}

/-- An address of a program is taken, and its data awaited. -/
theorem nvaAddrWrite_program (open_ : s.chip.writable rq (NVA_ADDR.ADDR.off 0)) (idle : s.chip.f NVA_STAT.BUSY ≠ 1)
    (named : s.chip.f NVA_STAT.SEQ = 3) (program : s.chip.f NVA_CMD.OP = 1) (aligned : v.toNat % 2 ^ 26 % 32 = 0)
    (host : hostLo ≤ v.toNat % 2 ^ 26) (readable : s.chip.inXo (v.toNat % 2 ^ 26 / 65536) = false) :
    Completes (.nvaAddrWrite rq v) s fun m =>
      ((m.setF NVA_ADDR.ADDR (v.toNat % 2 ^ 26)).setF NVA_STAT.SEQ 4).setF NVA_STAT.DATACNT 0 := by
  refine completes_of_chip rfl ((Chip.cwPut_nvaAddr (Chip.writable_fresh open_) _).trans ?_)
  rw [Chip.nvaAddr_taken (m := s.chip.fresh) idle named (by rwa [Chip.fresh_f, if_pos program]) host readable]
  exact if_pos program

/-- An address of an erase or a blank check is taken, and the operation waits for its turn. -/
theorem nvaAddrWrite_waits (open_ : s.chip.writable rq (NVA_ADDR.ADDR.off 0)) (idle : s.chip.f NVA_STAT.BUSY ≠ 1)
    (named : s.chip.f NVA_STAT.SEQ = 3) (other : s.chip.f NVA_CMD.OP ≠ 1) (aligned : v.toNat % 2 ^ 26 % 65536 = 0)
    (host : hostLo ≤ v.toNat % 2 ^ 26) (readable : s.chip.inXo (v.toNat % 2 ^ 26 / 65536) = false) :
    Completes (.nvaAddrWrite rq v) s fun m =>
      let op := m.f NVA_CMD.OP
      ((((m.setF NVA_ADDR.ADDR (v.toNat % 2 ^ 26)).setF NVA_STAT.SEQ 4).setF NVA_STAT.DATACNT 0).setF NVA_STAT.BUSY 1).setOp
        { op := op, addr := v.toNat % 2 ^ 26, data := [], started := false, pulse := false, count := 0 } := by
  refine completes_of_chip rfl ((Chip.cwPut_nvaAddr (Chip.writable_fresh open_) _).trans ?_)
  rw [Chip.nvaAddr_taken (m := s.chip.fresh) idle named (by rwa [Chip.fresh_f, if_neg other]) host readable]
  exact if_neg other

/-- A code other than that of R306 is a configuration-class event. -/
theorem Chip.kvtForce_otherCode {m : Chip} (other : v ≠ 0x0A1A0001#32) : m.kvtForce v.toNat = m.cfgEvent (KVT_FORCE.CODE.off 0) :=
  if_neg fun same => other (BitVec.eq_of_toNat_eq same)

/-- Settles O42, row by row in the order of the statement. -/
theorem vaultArrayAndMemoryWritesComplete : Obligations.VaultArrayAndMemoryWritesComplete :=
  -- KVT_FORCE
  ⟨fun _ _ open_ => completes_of_chip rfl (Chip.cwPut_kvtForce (Chip.writable_fresh open_) _),
    fun _ _ _ open_ other =>
      completes_of_chip rfl ((Chip.cwPut_kvtForce (Chip.writable_fresh open_) _).trans (congrArg Chip.late (Chip.kvtForce_otherCode other))),
    -- NVA_KEY_WRITE, NVA_CMD_WRITE, NVA_ADDR_WRITE, NVA_DATA_WRITE, NVA_RADDR_WRITE
    fun _ _ open_ idle locked =>
      completes_of_chip rfl ((Chip.cwPut_nvaKey (Chip.writable_fresh open_) _).trans (Chip.nvaKey_first idle locked)),
    fun _ _ open_ idle halfway =>
      completes_of_chip rfl ((Chip.cwPut_nvaKey (Chip.writable_fresh open_) _).trans (Chip.nvaKey_second idle halfway)),
    fun _ _ _ open_ idle unlocked least most =>
      completes_of_chip rfl ((Chip.cwPut_nvaCmd (Chip.writable_fresh open_) _).trans (Chip.nvaCmd_names idle unlocked least most)),
    fun _ _ _ open_ idle named program aligned host readable => nvaAddrWrite_program open_ idle named program aligned host readable,
    fun _ _ _ open_ idle named other aligned host readable => nvaAddrWrite_waits open_ idle named other aligned host readable,
    fun s _ _ open_ idle addressed program room => completes_of_chip rfl
      ((Chip.cwPut_nvaData (Chip.writable_fresh open_) _).trans (Chip.nvaData_keeps (m := s.chip.fresh) idle addressed program room)),
    fun _ _ _ open_ => completes_of_chip rfl (Chip.cwPut_nvaRaddr (Chip.writable_fresh open_) _),
    -- FWLOAD
    fun s _ open_ recovery => completes_of_chip rfl ((Chip.cwPut_fwload (Chip.writable_fresh open_)).trans
      (congrArg Chip.late (Chip.fwLoad_recovery (m := s.chip.fresh) recovery))),
    -- BPM_RQCFG_WRITE, ARB_TKT_WRITE
    fun _ _ _ _ _ open_ hasPool covered pool =>
      completes_of_chip rfl (Chip.cwPut_rqcfg (Chip.writable_fresh open_) hasPool covered pool),
    fun _ _ _ _ _ open_ arbiter => completes_of_chip rfl (Chip.cwPut_tickets (Chip.writable_fresh open_) arbiter),
    -- SDP_REMAP, SDP_LOG_IDX_WRITE, MEMORY_SCRUB, SCRUB_ABORT
    fun _ _ open_ => completes_of_chip rfl (Chip.cwPut_remap (Chip.writable_fresh open_)),
    fun _ _ _ open_ memory => completes_of_chip rfl (Chip.cwPut_logIdx (Chip.writable_fresh open_) memory),
    fun _ _ _ open_ => completes_of_chip rfl (Chip.cwPut_scrubGo (Chip.writable_fresh open_)),
    fun _ _ _ open_ runs => completes_of_chip rfl (Chip.cwPut_scrubAbort (Chip.writable_fresh open_) runs),
    -- DRAM_DQ_RUN, DRAM_FULL_RUN, DRAM_QUIESCE
    fun _ _ _ _ open_ free same => completes_of_chip rfl (Chip.drcPut_train (Chip.writable_fresh open_) free false same),
    fun _ _ _ _ open_ free same => completes_of_chip rfl (Chip.drcPut_train (Chip.writable_fresh open_) free true same),
    fun _ _ _ _ full open_ free same => completes_of_chip rfl (Chip.drcPut_same (Chip.writable_fresh open_) free full same),
    fun _ _ _ _ full open_ free other => completes_of_chip rfl (Chip.drcPut_changed (Chip.writable_fresh open_) free full other),
    -- NVA_RDATA_READ, NVA_LINE_LOAD_DONE, NVA_RDATA_STALL_TIMEOUT
    fun _ _ open_ noMiss loaded => completes_of_chip rfl (Chip.access_rdata_loaded (Chip.open_fresh open_) noMiss loaded),
    fun _ => completes_of_chip rfl rfl,
    fun _ stalled => completes_of_chip rfl (if_pos stalled)⟩

end Sys2Proof.Machine
end

section
/-! PROOFS, family other. A step runs the front command, or idles, and ends with the side-band outputs at their levels: O1, O4, O5 and O6. -/

namespace Sys2Proof.Machine

/-- Every meaning answers a next state: no command faults or is refused (log entry 13). -/
theorem exec_next (c : Instr) (s : State) : ∃ m : Chip, exec c s = .next { s with chip := m.sendFlits.drivePins } := by
  cases c <;> exact ⟨_, rfl⟩

/-- What a step leads to: the outputs are driven last, and what waits then has waited before. -/
theorem step_next (s : State) :
    ∃ (m : Chip) (rest : List Instr), (∀ c ∈ rest, c ∈ s.pending) ∧ step s = .next ⟨m.sendFlits.drivePins, rest⟩ := by
  obtain ⟨chip, pending⟩ := s
  cases pending with
  | nil => exact ⟨_, [], fun _ => id, rfl⟩
  | cons c rest =>
    obtain ⟨m, next⟩ := exec_next c ⟨chip, rest⟩
    exact ⟨m, rest, fun _ => List.mem_cons_of_mem c, next⟩

/-- Settles O1, by the definition of a step. -/
theorem stepRunsTheFrontCommand : Obligations.StepRunsTheFrontCommand := fun _ _ _ => rfl

/-- Settles O4: no command waits after reset, and the outputs are at their levels as O3 says. -/
theorem theInvariantHoldsAfterReset : Obligations.TheInvariantHoldsAfterReset := by
  obtain ⟨_, noneWaits, _, _, pins, _⟩ := resetLeavesTheStatedValues
  refine ⟨pins, fun c waits => ?_⟩
  rw [noneWaits] at waits
  exact absurd waits List.not_mem_nil

/-- Settles O6: a meaning drives the outputs last, and leaves the queue. -/
theorem everyCommandAnswersANextState : Obligations.EveryCommandAnswersANextState := fun c s =>
  have ⟨_, next⟩ := exec_next c s
  ⟨_, next, rfl, Chip.drivePins_ok _⟩

/-- Settles O5, by what a step leads to. -/
theorem everyStepKeepsTheInvariant : Obligations.EveryStepKeepsTheInvariant := by
  intro s t ⟨_, wellFormed⟩ stepped
  obtain ⟨m, rest, waited, next⟩ := step_next s
  obtain rfl := Host.Outcome.next.inj (next.symm.trans stepped)
  exact ⟨Chip.drivePins_ok _, fun c waits => wellFormed c (waited c waits)⟩

end Sys2Proof.Machine
end

section
/-! PROOFS, family 14_buffer_pools. Size classes (R353), and the LFSR and the walk of a lottery arbiter (R368, R369): O17, O32 and O35. -/

namespace Sys2Proof.Machine

/-! ## Size classes -/

/-- Settles O32: the classes are looked through from the smallest. -/
theorem aRequestGetsTheSmallestClass : Obligations.ARequestGetsTheSmallestClass := by
  intro mask n
  refine ⟨fun k found => ?_, fun none_ k known enabled => ?_⟩
  · obtain ⟨fits, known, smaller⟩ := List.find?_range_eq_some.mp found
    rw [Bool.and_eq_true, decide_eq_true_eq] at fits
    obtain ⟨enabled, holds⟩ := fits
    exact ⟨List.mem_range.mp known, enabled, holds, fun j less enabledToo => by simpa [enabledToo] using smaller j less⟩
  · have tooSmall := List.find?_eq_none.mp none_ k (List.mem_range.mpr known)
    simpa [enabled] using tooSmall

/-! ## The LFSR -/

theorem b1_bitOf (x i : Nat) : b1 (bitOf x i) = x / 2 ^ i % 2 := by
  rw [bitOf_eq_div_mod, b1]
  rcases Nat.mod_two_eq_zero_or_one (x / 2 ^ i) with zero | one
  · simp [zero]
  · simp [one]

/-- The bits of an LFSR that make its new bit 0, added up (R368). -/
def lfsrTaps (x : Nat) : Nat := x / 2 ^ 31 % 2 + x / 2 ^ 21 % 2 + x / 2 ^ 1 % 2 + x / 2 ^ 0 % 2

theorem lfsrNext_eq (x : Nat) : lfsrNext x = 2 * (x % 2 ^ 31) + lfsrTaps x % 2 := by
  have cut : ∀ taps, (x * 2 + taps % 2) % 2 ^ 32 = 2 * (x % 2 ^ 31) + taps % 2 := by omega
  simp only [lfsrNext, b1_bitOf]
  exact cut (lfsrTaps x)

/-- The lower bits of a value are the next value's upper ones; with them, the new bit 0 gives the top bit. -/
theorem lfsrNext_injective {x y : Nat} (hx : x < 2 ^ 32) (hy : y < 2 ^ 32) (same : lfsrNext x = lfsrNext y) : x = y := by
  rw [lfsrNext_eq, lfsrNext_eq] at same
  have lower : x % 2 ^ 31 = y % 2 ^ 31 := by omega
  have bit0 : lfsrTaps x % 2 = lfsrTaps y % 2 := by omega
  have taps : x / 2 ^ 21 % 2 = y / 2 ^ 21 % 2 ∧ x / 2 ^ 1 % 2 = y / 2 ^ 1 % 2 ∧ x / 2 ^ 0 % 2 = y / 2 ^ 0 % 2 := by
    clear same bit0
    omega
  obtain ⟨tap21, tap1, tap0⟩ := taps
  have top : x / 2 ^ 31 = y / 2 ^ 31 := by
    rw [lfsrTaps, lfsrTaps, tap21, tap1, tap0] at bit0
    clear same lower tap21 tap1 tap0
    generalize y / 2 ^ 21 % 2 + y / 2 ^ 1 % 2 + y / 2 ^ 0 % 2 = others at bit0
    omega
  rw [← Nat.div_add_mod x (2 ^ 31), ← Nat.div_add_mod y (2 ^ 31), top, lower]

/-- Settles O17: 0 is its own next value, and no other value has it. -/
theorem theLfsrNeverStops : Obligations.TheLfsrNeverStops := fun _ _ hx hy =>
  ⟨fun nonzero stops => nonzero (lfsrNext_injective hx (by decide) stops), Nat.mod_lt _ (by decide), lfsrNext_injective hx hy⟩

/-! ## The walk -/

/-- A walk for a value among the tickets ends at a requester that holds some. -/
theorem drawWalk_lt {active : Table Nat} {reqs : List Nat} {sum v : Nat} (least : sum ≤ v)
    (most : v < sum + (reqs.map fun r => tget 0 active r).sum) :
    ∃ w ∈ reqs, drawWalk active reqs sum v = some w ∧ tget 0 active w ≠ 0 := by
  induction reqs generalizing sum with
  | nil => exact absurd most (Nat.not_lt.mpr least)
  | cons r reqs ih =>
    rw [List.map_cons, List.sum_cons] at most
    by_cases here : v < sum + tget 0 active r
    · exact ⟨r, List.mem_cons_self, if_pos here, by omega⟩
    · obtain ⟨w, mem, walk, holds⟩ := ih (sum := sum + tget 0 active r) (by omega) (by omega)
      exact ⟨w, List.mem_cons_of_mem r mem, (if_neg here).trans walk, holds⟩

/-- The 16 bits of the LFSR pick one of the tickets. -/
theorem pick_lt (x : Nat) {t : Nat} (some_ : t ≠ 0) : bits x 31 16 * t / 65536 < t := by
  have width : bits x 31 16 < 65536 := Nat.mod_lt _ (by decide)
  exact Nat.div_lt_of_lt_mul (Nat.mul_lt_mul_of_pos_right width (Nat.pos_of_ne_zero some_))

/-- Without tickets the next requester in turn wins. -/
theorem ArbSt.draw_noTickets {a : ArbSt} {reqs : List Nat} (none_ : (reqs.map fun r => tget 0 a.active r).sum = 0) :
    a.draw reqs = (let w := (reqs.filter (a.rr < ·) ++ reqs).head?; (w, { a with lfsr := lfsrNext a.lfsr, rr := w.getD a.rr })) :=
  if_pos none_

theorem ArbSt.draw_tickets {a : ArbSt} {reqs : List Nat} (some_ : (reqs.map fun r => tget 0 a.active r).sum ≠ 0) :
    a.draw reqs = (drawWalk a.active reqs 0 (bits (lfsrNext a.lfsr) 31 16 * (reqs.map fun r => tget 0 a.active r).sum / 65536),
      { a with lfsr := lfsrNext a.lfsr }) :=
  if_neg some_

/-- Settles O35: with tickets the walk ends at one that holds some, and without the round robin names one. -/
theorem aDrawNamesARequester : Obligations.ADrawNamesARequester := by
  intro a reqs requested
  by_cases none_ : (reqs.map fun r => tget 0 a.active r).sum = 0
  · have noneHolds : ∀ r ∈ reqs, tget 0 a.active r = 0 := by simpa [List.sum_eq_zero_iff] using none_
    have listed : reqs.filter (a.rr < ·) ++ reqs ≠ [] := by simp [requested]
    obtain ⟨w, rest, turn⟩ := List.exists_cons_of_ne_nil listed
    have mem : w ∈ reqs := by
      have first : w ∈ reqs.filter (a.rr < ·) ++ reqs := turn ▸ List.mem_cons_self
      exact (List.mem_append.mp first).elim List.mem_of_mem_filter id
    rw [ArbSt.draw_noTickets none_, turn]
    exact ⟨w, mem, rfl, fun ⟨r, requests, holds⟩ => absurd (noneHolds r requests) holds, rfl, rfl⟩
  · obtain ⟨w, mem, walk, holds⟩ := drawWalk_lt (active := a.active) (reqs := reqs) (sum := 0) (Nat.zero_le _)
      (by rw [Nat.zero_add]; exact pick_lt (lfsrNext a.lfsr) none_)
    rw [ArbSt.draw_tickets none_]
    exact ⟨w, mem, walk, fun _ => holds, rfl, rfl⟩

end Sys2Proof.Machine
end

section
/-! PROOFS, family 17_twin. What a flit holds (R406): O34. -/

namespace Sys2Proof.Machine

theorem length_leBytes (n x : Nat) : (leBytes n x).length = n := (littleEndianFieldsReadBack n x).2

theorem length_fit (n : Nat) (bs : List Byte) : (fit n bs).length = n := by
  simp [fit]

/-- Bytes that fit are kept, with zeros behind them. -/
theorem fit_of_le {n : Nat} {bs : List Byte} (fits : bs.length ≤ n) : fit n bs = bs ++ List.replicate (n - bs.length) 0 := by
  rw [fit, List.take_append, List.take_of_length_le fits, List.take_replicate, Nat.min_eq_left (Nat.sub_le ..)]

/-- A slice of the middle one of three strings. -/
theorem slice_middle {a b c : List Byte} {o n : Nat} (start : a.length = o) (len : b.length = n) : slice (a ++ (b ++ c)) o n = b := by
  subst start len
  rw [slice, List.drop_left, List.take_left]

/-- The parts of a flit, in order: FIRST, the bytes of frames, the CRC of both, and the FEC. -/
theorem flitOf_parts (first : Nat) (bs : List Byte) : ∃ fec, fec.length = 6 ∧
    flitOf first bs = leBytes 2 first ++ (fit 240 bs ++ (leBytes 8 (crc64 (leBytes 2 first ++ fit 240 bs)) ++ fec)) := by
  refine ⟨fit 6 (Config.flitFec (leBytes 2 first ++ fit 240 bs ++ leBytes 8 (crc64 (leBytes 2 first ++ fit 240 bs)))), length_fit .., ?_⟩
  simp only [flitOf, List.append_assoc]

/-- Settles O34, part by part of the flit. -/
theorem aFlitCarriesItsBytes : Obligations.AFlitCarriesItsBytes := by
  intro first bs fits short
  obtain ⟨fec, fecLen, parts⟩ := flitOf_parts first bs
  have headLen : (leBytes 2 first ++ fit 240 bs).length = 242 := by rw [List.length_append, length_leBytes, length_fit]
  have filled := fit_of_le short
  refine ⟨?_, ?_, ?_, ?_, ?_⟩
  · simp only [parts, List.length_append, length_leBytes, length_fit, fecLen]
  · rw [parts]
    exact leNat_leBytes_of_lt (n := 2) fits
  · rw [parts, filled, List.append_assoc]
    exact slice_middle (length_leBytes ..) rfl
  · have zeros : slice (flitOf first bs) (2 + bs.length) (240 - bs.length) = List.replicate (240 - bs.length) 0 := by
      rw [parts, filled, List.append_assoc, ← List.append_assoc]
      exact slice_middle (by rw [List.length_append, length_leBytes]) List.length_replicate
    rw [zeros]
    exact fun x mem => List.eq_of_mem_replicate mem
  · rw [fieldAt, parts, ← List.append_assoc, slice_middle headLen (length_leBytes ..), List.take_left' headLen]
    exact leNat_leBytes_of_lt (n := 8) (crc64_lt _)

end Sys2Proof.Machine
end

section
/-! PROOFS, family 21_thermal. THERM_n (R497): O24. -/

namespace Sys2Proof.Machine

variable {m : Chip}

theorem Chip.thermLine_asserts (released : m.f THM_STAT.THERM_OUT = 0) (hot : 2 * (m.therm.thermN : Int) ≤ m.tj) :
    m.thermLine = (m.setF THM_STAT.THERM_OUT 1).emit 0 0x6D02 := by
  simp [Chip.thermLine, released, hot]

theorem Chip.thermLine_deasserts (asserted : m.f THM_STAT.THERM_OUT = 1)
    (cool : m.tj < 2 * (m.therm.thermN : Int) - 2 * (m.therm.hyst : Int)) : m.thermLine = m.setF THM_STAT.THERM_OUT 0 := by
  simp [Chip.thermLine, asserted, cool]

theorem Chip.thermLine_staysAsserted (asserted : m.f THM_STAT.THERM_OUT = 1)
    (warm : 2 * (m.therm.thermN : Int) - 2 * (m.therm.hyst : Int) ≤ m.tj) : m.thermLine = m := by
  simp [Chip.thermLine, asserted, warm]

theorem Chip.thermLine_staysReleased (released : m.f THM_STAT.THERM_OUT = 0) (below : m.tj < 2 * (m.therm.thermN : Int)) :
    m.thermLine = m := by
  simp [Chip.thermLine, released, below]

/-- Settles O24, by whether the line is asserted. -/
theorem thermNFollowsTheJunction : Obligations.ThermNFollowsTheJunction := by
  intro m bit
  have either : m.f THM_STAT.THERM_OUT = 0 ∨ m.f THM_STAT.THERM_OUT = 1 := by omega
  refine ⟨fun hot released => ⟨Chip.thermLine_asserts released hot, ?_⟩, fun hot asserted => Chip.thermLine_staysAsserted asserted (by omega),
    fun cool => ?_, fun below warm => ?_⟩
  · rw [Chip.thermLine_asserts released hot, Chip.f_emit_below _ _ _ _ _ _ _ (by decide), Chip.f_setF_same]
    rfl
  · rcases either with released | asserted
    · rw [Chip.thermLine_staysReleased released (by omega)]
      exact ⟨released, fun _ _ _ => rfl⟩
    · rw [Chip.thermLine_deasserts asserted cool]
      exact ⟨m.f_setF_same .., fun g j other => m.f_setF_ne _ _ _ _ _ other⟩
  · rcases either with released | asserted
    · exact Chip.thermLine_staysReleased released below
    · exact Chip.thermLine_staysAsserted asserted warm

end Sys2Proof.Machine
end

section
/-! PROOFS, family 24_perturbation_and_selftest. Writes and reads of the PTB block (R525): O27. -/

namespace Sys2Proof.Machine

variable {m : Chip} {off w : Nat}

/-! ## Writes by scope -/

theorem Chip.cwPTB_halt (w : Nat) :
    m.cwPTB (PTB_CORE.HALT.off 0) w = if bitOf m.scopes 1 then m.coreHalt w else m.cfgEvent (PTB_CORE.HALT.off 0) := rfl

theorem Chip.cwPTB_bist (idle : m.f PTB_BIST.GO = 0) (w : Nat) :
    m.cwPTB (PTB_BIST.GO.off 0) w =
      if bitOf w 31 then (m.storeReg (PTB_BIST.GO.off 0) w).bistGo else m.storeReg (PTB_BIST.GO.off 0) w := by
  rw [Chip.cwPTB, if_pos rfl, if_neg (by rw [idle]; decide)]

theorem Chip.cwPTB_unscoped (notHalt : off ≠ PTB_CORE.HALT.off 0) (notBist : off ≠ PTB_BIST.GO.off 0) (scope : bitOf m.scopes 0 = false)
    (w : Nat) : m.cwPTB off w = m.cfgEvent off := by
  rw [Chip.cwPTB, if_neg notBist, if_neg notHalt, if_pos (by rw [scope]; rfl)]

/-! ## Reads -/

/-- A register of an array that ends below an offset is not at it. -/
theorem Fld.index?_beyond {g : Fld} (single : g.m = 1) (step : 0 < g.s1) (ends : g.base + g.s1 * g.count ≤ off) : g.index? off = none := by
  have beyond : g.count ≤ (off - g.base) / g.s1 := (Nat.le_div_iff_mul_le step).mpr (by rw [Nat.mul_comm]; omega)
  simp [Fld.index?, single, beyond]

/-- A read in a block above that of the array waits for nothing: the indirect windows and the read buffer of the array lie below. -/
theorem Chip.readWaits_above (above : 0x1c0000 ≤ off) : m.readWaits off = none := by
  have beyond (g : Fld) (single : g.m = 1) (step : 0 < g.s1) (ends : g.base + g.s1 * g.count ≤ 0x1c0000) : g.index? off = none :=
    Fld.index?_beyond single step (Nat.le_trans ends above)
  have notArray : off ≠ NVA_RDATA.WORD.off 0 := Nat.ne_of_gt (Nat.lt_of_lt_of_le (by decide) above)
  simp [Chip.readWaits, beyond QCX_W.WORD rfl (by decide) (by decide), beyond ZNE_ZCX_W.WORD rfl (by decide) (by decide),
    beyond DLS_DCX_W.WORD rfl (by decide) (by decide), beyond TNT_W.WORD rfl (by decide) (by decide),
    beyond TNT_LDG_W.WORD rfl (by decide) (by decide), beyond LDP_BLK_W.WORD rfl (by decide) (by decide), notArray]

/-- Settles O27: a write that is let through reaches the block, whose scopes decide; a read waits for nothing there. -/
theorem perturbationNeedsItsScope : Obligations.PerturbationNeedsItsScope := by
  intro m rq off w ⟨open_, acts⟩ listed block
  have writes : m.access rq off (some w) = m.cwPTB off w := (Chip.access_write open_ listed w).trans (Chip.writeReg_PTB acts block w)
  refine ⟨fun halt scope => ?_, fun notHalt notBist scope => writes.trans (Chip.cwPTB_unscoped notHalt notBist scope w),
    fun bist idle => ?_, _, _, Chip.access_read open_ listed (Chip.readWaits_above (by omega))⟩
  · subst halt
    rw [writes, Chip.cwPTB_halt, if_neg (by rw [scope]; decide)]
  · subst bist
    rw [writes, Chip.cwPTB_bist idle]

end Sys2Proof.Machine
end

section
/-! PROOFS, family 24_perturbation_and_selftest. Writes of the control window by block: the twin, the sequencer, power-loss protection, power
states, calibration, ageing, the recorder, perturbation and the fault mask (R413, R432, R440, R448, R457, R480, R483, R484, R500, R504, R514,
R516, R523, R526, R530, R531). -/

namespace Sys2Proof.Machine

variable {m : Chip} {rq : Rq}

/-! ## TWN and PSQ -/

theorem Chip.cwPut_twnCtl (open_ : m.writable rq (TWN_CTL.FENCE.off 0)) (w : Nat) :
    m.cwPut rq TWN_CTL.FENCE w =
      (let x := if bitOf w 2 then m.rekey else m
       let x := if bitOf w 1 then x.rejoinGo else x
       (if bitOf w 0 then x.fenceRequest else x).late) :=
  (Chip.cwPut_open open_.1 (by decide) w).trans (Chip.writeReg_TWN open_.2 (by decide) w)

theorem Chip.cwPut_rekey (open_ : m.writable rq (TWN_CTL.FENCE.off 0)) : m.cwPut rq TWN_CTL.FENCE (2 ^ TWN_CTL.REKEY.lo) = m.rekey.late := by
  have word : bitOf (2 ^ TWN_CTL.REKEY.lo) 2 = true ∧ bitOf (2 ^ TWN_CTL.REKEY.lo) 1 = false ∧ bitOf (2 ^ TWN_CTL.REKEY.lo) 0 = false := by decide
  rw [Chip.cwPut_twnCtl open_]
  simp only [word, Bool.false_eq_true, if_false, if_true]

theorem Chip.cwPut_rejoin (open_ : m.writable rq (TWN_CTL.FENCE.off 0)) :
    m.cwPut rq TWN_CTL.FENCE (2 ^ TWN_CTL.REJOIN.lo) = m.rejoinGo.late := by
  have word : bitOf (2 ^ TWN_CTL.REJOIN.lo) 2 = false ∧ bitOf (2 ^ TWN_CTL.REJOIN.lo) 1 = true ∧ bitOf (2 ^ TWN_CTL.REJOIN.lo) 0 = false := by
    decide
  rw [Chip.cwPut_twnCtl open_]
  simp only [word, Bool.false_eq_true, if_false, if_true]

theorem Chip.cwPut_fence (open_ : m.writable rq (TWN_CTL.FENCE.off 0)) :
    m.cwPut rq TWN_CTL.FENCE (2 ^ TWN_CTL.FENCE.lo) = m.fenceRequest.late := by
  have word : bitOf (2 ^ TWN_CTL.FENCE.lo) 2 = false ∧ bitOf (2 ^ TWN_CTL.FENCE.lo) 1 = false ∧ bitOf (2 ^ TWN_CTL.FENCE.lo) 0 = true := by decide
  rw [Chip.cwPut_twnCtl open_]
  simp only [word, Bool.false_eq_true, if_false, if_true]

theorem Chip.fenceRequest_active (active : m.f TWN_STAT.STATE = 1 ∨ m.f TWN_STAT.STATE = 2) :
    m.fenceRequest = (m.setF TWN_CTL.FENCE 1).suspect 0 := if_pos active

theorem Chip.rejoinGo_unkeyed (survivor : m.f TWN_STAT.STATE = 6) (notYet : m.tw.rejoin = 0) (unkeyed : m.linkKeyed = false) :
    m.rejoinGo = m.emit 27 0x6909 := by
  rw [Chip.rejoinGo, if_neg (by rw [survivor, notYet]; decide), if_pos (by rw [unkeyed]; rfl)]

/-- Steps 1 to 4 of R440 on a survivor whose sub-links have keys. -/
theorem Chip.rejoinGo_keyed (survivor : m.f TWN_STAT.STATE = 6) (notYet : m.tw.rejoin = 0) (keyed : m.linkKeyed = true) :
    m.rejoinGo =
      (let m := ({ m with tw := { m.tw with handover := true, rejoin := 4, hbSeen := false } } : Chip).setF TWN_CTL.REJOIN 1
       let m := m.setF TWN_HBCNT.RUN 0
       let m := m.sendRecords
       let m := m.stagedRows.foldl (fun (m : Chip) e => m.mirrorRow e.1 e.2.1) m
       let m := m.fenceLine false
       let m := (maskList (homeMask (1 - m.side))).foldl (fun (m : Chip) k =>
         (List.range 8).foldl (fun (m : Chip) c => m.chanHold (8 * k + c) true) m) m
       m.rejoinPoll) := by
  rw [Chip.rejoinGo, if_neg (by rw [survivor, notYet]; decide), if_neg (by rw [keyed]; decide)]

theorem Chip.cwPut_psqDown (open_ : m.writable rq (PSQ_CTL.DOWN.off 0)) : m.cwPut rq PSQ_CTL.DOWN (2 ^ PSQ_CTL.DOWN.lo) = m.psqDown.late :=
  (Chip.cwPut_open open_.1 (by decide) _).trans (Chip.writeReg_PSQ open_.2 (by decide) _)

theorem Chip.psqDown_up (up : m.f PSQ_STAT.DIR < 2) :
    m.psqDown = (((m.setF PSQ_CTL.DOWN 1).psqLog PSQ_FAULT.REQUEST 4 0).seqFlt).shutdown := if_neg (Nat.not_le.mpr up)

/-! ## PLP_CFG (R457) -/

section
variable {off w n : Nat} {g k : Fld} {a b : Nat}

/-- A field that takes the value asked of it stores it. -/
theorem Chip.storeField_takes (asked : m.asked off w g n = some a) (takes : g.takes a = true) : m.storeField off w g n = (m.setF g a n, false) := by
  simp only [Chip.storeField, asked, takes, or_true, if_true]

/-- Two fields whose ranges depend on each other are both stored where the values asked of them fit. -/
theorem Chip.storeTied_fits {ok : List Nat → Bool} (askedG : m.asked off w g n = some a) (askedK : m.asked off w k n = some b)
    (fits : ok [a, b] = true) : m.storeTied off w n [g, k] ok = (m.setF g a n).setF k b n := by
  simp [Chip.storeTied, askedG, askedK, fits]

end

/-- Values in their ranges and within the budget are all stored, and the dirty limit follows. -/
theorem Chip.cwPut_plpCfg (open_ : m.writable rq (PLP_CFG.DIRTY_GIB.off 0)) (free : m.rwlOpen (PLP_CFG.DIRTY_GIB.off 0) = 0xFF1F03FF) {w : Nat}
    (disc : PLP_CFG.DISC_T.takes (bits w 9 0) = true) (dirty : PLP_CFG.DIRTY_GIB.takes (bits w 20 16) = true)
    (budget : PLP_CFG.BUDGET_MS.takes (bits w 31 24) = true) (covered : plpCfgOk (bits w 20 16) (bits w 31 24) = true) :
    m.cwPut rq PLP_CFG.DIRTY_GIB w =
      (((m.setF PLP_CFG.DISC_T (bits w 9 0)).setF PLP_CFG.DIRTY_GIB (bits w 20 16)).setF PLP_CFG.BUDGET_MS (bits w 31 24)).limitView.late := by
  have asked (x : Chip) (image : x.img = m.img) (g : Fld) (locked : g.acc = .rwl)
      (open_ : bits 0xFF1F03FF g.hi g.lo = g.span - 1) : x.asked (PLP_CFG.DIRTY_GIB.off 0) w g 0 = some (bits w g.hi g.lo) :=
    Chip.asked_open locked (by rw [Chip.rwlOpen, image, ← open_, ← free, Chip.rwlOpen]) w 0
  let x := m.setF PLP_CFG.DISC_T (bits w 9 0)
  have askedDisc : m.asked (PLP_CFG.DIRTY_GIB.off 0) w PLP_CFG.DISC_T 0 = some (bits w 9 0) := asked m rfl _ rfl (by decide)
  have askedDirty : x.asked (PLP_CFG.DIRTY_GIB.off 0) w PLP_CFG.DIRTY_GIB 0 = some (bits w 20 16) := asked x rfl _ rfl (by decide)
  have askedBudget : x.asked (PLP_CFG.DIRTY_GIB.off 0) w PLP_CFG.BUDGET_MS 0 = some (bits w 31 24) := asked x rfl _ rfl (by decide)
  rw [Chip.cwPut_open open_.1 (by decide), Chip.writeReg_PLP open_.2 (by decide), Chip.cwPLP, if_pos rfl, Chip.storeField_takes askedDisc disc]
  simp only [Bool.false_eq_true, if_false]
  rw [Chip.storeTied_fits askedDirty askedBudget (by simp [x, askedDirty, askedBudget, dirty, budget, covered])]

/-! ## PWR (R480, R483, R484) -/

/-- WAKE and CALM in a word for PWR_CTL. -/
theorem pwrWord_bits (trimEn lullEn calm wake : Bool) :
    let w := b1 trimEn * 2 ^ PWR_CTL.TRIM_EN.lo + b1 lullEn * 2 ^ PWR_CTL.LULL_EN.lo + b1 calm * 2 ^ PWR_CTL.CALM.lo + b1 wake * 2 ^ PWR_CTL.WAKE.lo
    bitOf w 3 = wake ∧ bitOf w 2 = calm := by
  revert trimEn lullEn calm wake
  decide

/-- The enables are stored and power is looked at; then WAKE and CALM, of which both at once refuse Calm. -/
theorem Chip.pwrPut_writable (open_ : m.writable rq (PWR_CTL.TRIM_EN.off 0)) (trimEn lullEn calm wake : Bool) :
    m.pwrPut rq trimEn lullEn calm wake =
      (let x := (m.storeReg (PWR_CTL.TRIM_EN.off 0) (b1 trimEn * 2 ^ PWR_CTL.TRIM_EN.lo + b1 lullEn * 2 ^ PWR_CTL.LULL_EN.lo +
         b1 calm * 2 ^ PWR_CTL.CALM.lo + b1 wake * 2 ^ PWR_CTL.WAKE.lo)).powerPoll
       let x := if wake then x.wakeAsked else x
       (if calm then (if wake then x.calmRefuse 6 else (x.setF PWR_CTL.CALM 1).calmPoll) else x).late) := by
  obtain ⟨wakes, calms⟩ := pwrWord_bits trimEn lullEn calm wake
  rw [Chip.pwrPut, Chip.cwPut_open open_.1 (by decide), Chip.writeReg_PWR open_.2 (by decide), Chip.cwPWR, if_pos rfl]
  simp only [wakes, calms]

section
variable (open_ : m.writable rq (PWR_CTL.TRIM_EN.off 0)) (trimEn lullEn : Bool)
include open_

theorem Chip.pwrPut_wake :
    m.pwrPut rq trimEn lullEn false true =
      (m.storeReg (PWR_CTL.TRIM_EN.off 0) (b1 trimEn * 2 ^ PWR_CTL.TRIM_EN.lo + b1 lullEn * 2 ^ PWR_CTL.LULL_EN.lo +
        b1 false * 2 ^ PWR_CTL.CALM.lo + b1 true * 2 ^ PWR_CTL.WAKE.lo)).powerPoll.wakeAsked.late := by
  rw [Chip.pwrPut_writable open_]
  simp only [Bool.false_eq_true, if_false, if_true]

theorem Chip.pwrPut_enables :
    m.pwrPut rq trimEn lullEn false false =
      (m.storeReg (PWR_CTL.TRIM_EN.off 0) (b1 trimEn * 2 ^ PWR_CTL.TRIM_EN.lo + b1 lullEn * 2 ^ PWR_CTL.LULL_EN.lo +
        b1 false * 2 ^ PWR_CTL.CALM.lo + b1 false * 2 ^ PWR_CTL.WAKE.lo)).powerPoll.late := by
  rw [Chip.pwrPut_writable open_]
  simp only [Bool.false_eq_true, if_false]

theorem Chip.pwrPut_calm :
    m.pwrPut rq trimEn lullEn true false =
      ((m.storeReg (PWR_CTL.TRIM_EN.off 0) (b1 trimEn * 2 ^ PWR_CTL.TRIM_EN.lo + b1 lullEn * 2 ^ PWR_CTL.LULL_EN.lo +
        b1 true * 2 ^ PWR_CTL.CALM.lo + b1 false * 2 ^ PWR_CTL.WAKE.lo)).powerPoll.setF PWR_CTL.CALM 1).calmPoll.late := by
  rw [Chip.pwrPut_writable open_]
  simp only [Bool.false_eq_true, if_false, if_true]

end

/-! ## THM_CAL (R500) -/

/-- GO of THM_CAL while no calibration runs names a diode and starts on it. -/
theorem Chip.cwPut_calGo (open_ : m.writable rq (THM_CAL.GO.off 0)) (idle : m.th.cal = none) (sensor : Fin 64) :
    m.cwPut rq THM_CAL.GO (2 ^ THM_CAL.GO.lo + sensor * 2 ^ THM_CAL.SENSOR.lo) = (m.setF THM_CAL.SENSOR sensor).calGo := by
  have word : ∀ k : Fin 64, let w := 2 ^ THM_CAL.GO.lo + k.val * 2 ^ THM_CAL.SENSOR.lo; bits w 5 0 = k ∧ bitOf w 31 = true := by decide
  obtain ⟨named, go⟩ := word sensor
  have known : sensor.val ≤ THM_CAL.SENSOR.vmax := Nat.le_of_lt_succ sensor.isLt
  have stored : m.storeReg (THM_CAL.GO.off 0) (2 ^ THM_CAL.GO.lo + sensor * 2 ^ THM_CAL.SENSOR.lo) = m.setF THM_CAL.SENSOR sensor := by
    rw [Chip.storeReg_plain [THM_CAL.GO, THM_CAL.RESULT, THM_CAL.SENSOR] 0 (by decide)]
    · exact congrArg (m.setF THM_CAL.SENSOR) named
    · simpa using ⟨.inr (.inl rfl), .inr (.inr rfl), .inl ⟨rfl, named.symm ▸ Fld.takes_of_range (by decide) (Nat.zero_le _) known⟩⟩
  rw [Chip.cwPut_open open_.1 (by decide), Chip.writeReg_THM open_.2 (by decide), Chip.cwTHM, if_pos rfl, stored]
  simp only [idle, go, Option.isSome_none, Bool.false_and, Bool.false_eq_true, if_false, if_true]

theorem Chip.f_calSensor (m : Chip) (sensor : Fin 64) : (m.setF THM_CAL.SENSOR sensor).f THM_CAL.SENSOR = sensor :=
  (m.f_setF_same ..).trans (Nat.mod_eq_of_lt sensor.isLt)

/-- A number no diode has ends the calibration with 6. -/
theorem Chip.calGo_unknown (idle : m.th.cal = none) (unknown : 39 < m.f THM_CAL.SENSOR) : m.calGo = m.calEnd 6 := by
  rw [Chip.calGo, if_neg (by rw [idle]; decide), if_pos unknown]

/-- A diode that is on, on a cool device, is calibrated where its neighbour is on too. -/
theorem Chip.calGo_on {i : Nat} (idle : m.th.cal = none) (named : m.f THM_CAL.SENSOR = i) (known : i ≤ 39) (on : m.diodeOn i = true)
    (level : m.f THM_STAT.LEVEL = 0) (noTrip : m.f THM_STAT.TRIP = 0) :
    m.calGo = if m.diodeOn (Config.neighbourA i) then ({ m with th := { m.th with cal := some i } } : Chip).setF THM_CAL.GO 1
      else m.calEnd 4 := by
  subst named
  rw [Chip.calGo, if_neg (by rw [idle]; decide), if_neg (Nat.not_lt.mpr known)]
  by_cases neighbour : m.diodeOn (Config.neighbourA (m.f THM_CAL.SENSOR)) = true
  · rw [if_neg (by rw [on, neighbour]; decide), if_neg (by rw [level, noTrip]; decide), if_pos neighbour]
  · rw [if_pos (.inr (by simpa using neighbour)), if_neg neighbour]

/-! ## AGE and EVR -/

theorem Chip.cwPut_ageMeasure (open_ : m.writable rq (AGE_CTL.MEASURE.off 0)) :
    m.cwPut rq AGE_CTL.MEASURE (2 ^ AGE_CTL.MEASURE.lo) = (m.setF AGE_CTL.MEASURE 1).agePass :=
  (Chip.cwPut_open open_.1 (by decide) _).trans (Chip.writeReg_AGE open_.2 (by decide) _)

/-- A pass that is not running takes every island with monitors behind those that wait. -/
theorem Chip.agePass_idle (idle : m.f AGE_STAT.BUSY ≠ 1) :
    m.agePass =
      (let todo := m.ag.todo ++ ((List.range 28).filter fun i => decide (1 ≤ i ∧ i ∉ m.ag.todo))
       (({ m with ag := { m.ag with due := false, todo := todo } } : Chip).setF AGE_STAT.BUSY 1).ageNext 64) := if_neg idle

theorem Chip.cwPut_evrCtl (open_ : m.writable rq (EVR_CTL.CLEAR.off 0)) (w : Nat) :
    m.cwPut rq EVR_CTL.CLEAR w =
      (let x := if bitOf w 31 then m.evrClear else m
       if bitOf w 30 then x.evrFree else x) :=
  (Chip.cwPut_open open_.1 (by decide) w).trans (Chip.writeReg_EVR open_.2 (by decide) w)

/-! ## PTB and FLT -/

/-- A write of PTB_CTL with the scope it needs. -/
theorem Chip.cwPTB_ctl (scope : bitOf m.scopes 0 = true) (w : Nat) :
    m.cwPTB (PTB_CTL.ARM.off 0) w =
      (let x := if bitOf w 31 then m.ptbArm else m
       (if bitOf w 30 then x.ptbStop 1 true else x).late) := by
  rw [Chip.cwPTB, if_neg (by decide), if_neg (by decide), if_neg (by rw [scope]; decide), if_pos rfl]

theorem Chip.cwPut_PTB {g : Fld} (open_ : m.writable rq (g.off 0)) (listed : (fieldsAt (g.off 0)).isEmpty = false)
    (block : g.off 0 / 0x10000 = 0x28) (w : Nat) : m.cwPut rq g w = m.cwPTB (g.off 0) w :=
  (Chip.cwPut_open open_.1 listed w).trans (Chip.writeReg_PTB open_.2 block w)

/-- GO of PTB_BIST with a mask stores the mask, and starts the test. -/
theorem Chip.cwPut_bistGo (open_ : m.writable rq (PTB_BIST.GO.off 0)) (idle : m.f PTB_BIST.GO = 0) (mask : Fin 8) :
    m.cwPut rq PTB_BIST.GO (2 ^ PTB_BIST.GO.lo + mask * 2 ^ PTB_BIST.MASK.lo) = (m.setF PTB_BIST.MASK mask).bistGo := by
  have word : ∀ k : Fin 8, let w := 2 ^ PTB_BIST.GO.lo + k.val * 2 ^ PTB_BIST.MASK.lo; bits w 2 0 = k ∧ bitOf w 31 = true := by decide
  obtain ⟨named, go⟩ := word mask
  have known : mask.val ≤ PTB_BIST.MASK.vmax := Nat.le_of_lt_succ mask.isLt
  have stored : m.storeReg (PTB_BIST.GO.off 0) (2 ^ PTB_BIST.GO.lo + mask * 2 ^ PTB_BIST.MASK.lo) = m.setF PTB_BIST.MASK mask := by
    rw [Chip.storeReg_plain [PTB_BIST.GO, PTB_BIST.RESULT, PTB_BIST.MASK] 0 (by decide)]
    · exact congrArg (m.setF PTB_BIST.MASK) named
    · simpa using ⟨.inr (.inl rfl), .inr (.inr rfl), .inl ⟨rfl, named.symm ▸ Fld.takes_of_range (by decide) (Nat.zero_le _) known⟩⟩
  rw [Chip.cwPut_PTB open_ (by decide) (by decide), Chip.cwPTB_bist idle, if_pos go, stored]

/-- With every island of the tested memories on, the test runs (R531). -/
theorem Chip.bistGo_on (idle : m.f PTB_BIST.GO = 0) (sram : m.islState 11 ≠ 0) (dramA : m.islState 24 ≠ 0) (dramB : m.islState 25 ≠ 0)
    (management : m.islState 1 ≠ 0) : m.bistGo = m.setF PTB_BIST.GO 1 := by
  rw [Chip.bistGo, if_neg (by rw [idle]; decide), if_neg (by simp [sram, dramA, dramB, management])]

theorem Chip.cwPut_fltMask (open_ : m.writable rq (FLT_MASK.GROUP.off 0)) (w : Nat) :
    m.cwPut rq FLT_MASK.GROUP w = m.storeReg (FLT_MASK.GROUP.off 0) w := by
  rw [Chip.cwPut_open open_.1 (by decide), Chip.writeReg, open_.2]
  rfl

end Sys2Proof.Machine
end

section
/-! PROOFS, family 24_perturbation_and_selftest. The writes of the control window that reach the twin, the sequencer, power states, calibration,
ageing, the recorder, perturbation, the fault mask and power-loss protection: O43. -/

namespace Sys2Proof.Machine

variable {s : State} {rq : Rq}

/-- A diode that is on is calibrated on a cool device; naming it changes neither the level nor the latch. -/
theorem diodeCalibrate_on {sensor : Fin 64} (open_ : s.chip.writable rq (THM_CAL.GO.off 0)) (idle : s.chip.th.cal = none)
    (known : sensor.val ≤ 39) (on : (s.chip.setF THM_CAL.SENSOR sensor).diodeOn sensor = true) (level : s.chip.f THM_STAT.LEVEL = 0)
    (noTrip : s.chip.f THM_STAT.TRIP = 0) :
    Completes (.diodeCalibrate rq sensor) s fun m =>
      let m := m.setF THM_CAL.SENSOR sensor
      if m.diodeOn (Config.neighbourA sensor) then ({ m with th := { m.th with cal := some sensor.val } } : Chip).setF THM_CAL.GO 1
      else m.calEnd 4 := by
  have kept (g : Fld) (other : g.key 0 ≠ THM_CAL.SENSOR.key 0) : (s.chip.fresh.setF THM_CAL.SENSOR sensor).f g = s.chip.f g :=
    Chip.f_setF_ne _ _ _ _ _ _ other
  exact completes_of_chip rfl ((Chip.cwPut_calGo (Chip.writable_fresh open_) idle sensor).trans
    (Chip.calGo_on idle (Chip.f_calSensor ..) known on ((kept _ (by decide)).trans level) ((kept _ (by decide)).trans noTrip)))

/-- The test of the masked memories starts with every island it may need on; storing the mask changes neither GO nor an island. -/
theorem ondemandSelftest_on {mask : Fin 8} (open_ : s.chip.writable rq (PTB_BIST.GO.off 0)) (idle : s.chip.f PTB_BIST.GO = 0)
    (sram : s.chip.islState 11 ≠ 0) (dramA : s.chip.islState 24 ≠ 0) (dramB : s.chip.islState 25 ≠ 0) (management : s.chip.islState 1 ≠ 0) :
    Completes (.ondemandSelftest rq mask) s fun m => (m.setF PTB_BIST.MASK mask).setF PTB_BIST.GO 1 := by
  have kept (g : Fld) (n : Nat) (other : g.key n ≠ PTB_BIST.MASK.key 0) : (s.chip.fresh.setF PTB_BIST.MASK mask).f g n = s.chip.f g n :=
    Chip.f_setF_ne _ _ _ _ _ _ other
  have island (i : Nat) (other : ISL_STAT.STATE.key i ≠ PTB_BIST.MASK.key 0) (on : s.chip.islState i ≠ 0) :
      (s.chip.fresh.setF PTB_BIST.MASK mask).islState i ≠ 0 := fun off => on ((kept _ i other).symm.trans off)
  exact completes_of_chip rfl ((Chip.cwPut_bistGo (Chip.writable_fresh open_) idle mask).trans
    (Chip.bistGo_on ((kept _ 0 (by decide)).trans idle) (island 11 (by decide) sram) (island 24 (by decide) dramA)
      (island 25 (by decide) dramB) (island 1 (by decide) management)))

/-- Settles O43, row by row in the order of the statement. -/
theorem pairPowerAndRecorderWritesComplete : Obligations.PairPowerAndRecorderWritesComplete :=
  -- REKEY, FENCE_REQUEST, REJOIN without keys and with them
  ⟨fun _ _ open_ => completes_of_chip rfl (Chip.cwPut_rekey (Chip.writable_fresh open_)),
    fun s _ open_ active => completes_of_chip rfl ((Chip.cwPut_fence (Chip.writable_fresh open_)).trans
      (congrArg Chip.late (Chip.fenceRequest_active (m := s.chip.fresh) active))),
    fun s _ open_ survivor notYet unkeyed => completes_of_chip rfl ((Chip.cwPut_rejoin (Chip.writable_fresh open_)).trans
      (congrArg Chip.late (Chip.rejoinGo_unkeyed (m := s.chip.fresh) survivor notYet unkeyed))),
    fun s _ open_ survivor notYet keyed => completes_of_chip rfl ((Chip.cwPut_rejoin (Chip.writable_fresh open_)).trans
      (congrArg Chip.late (Chip.rejoinGo_keyed (m := s.chip.fresh) survivor notYet keyed))),
    -- PSQ_DOWN
    fun s _ open_ up => completes_of_chip rfl ((Chip.cwPut_psqDown (Chip.writable_fresh open_)).trans
      (congrArg Chip.late (Chip.psqDown_up (m := s.chip.fresh) up))),
    -- PWR_WAKE, TRIM_EN_WRITE, CALM_REQUEST
    fun _ _ trimEn lullEn open_ => completes_of_chip rfl (Chip.pwrPut_wake (Chip.writable_fresh open_) trimEn lullEn),
    fun _ _ trimEn lullEn open_ => completes_of_chip rfl (Chip.pwrPut_enables (Chip.writable_fresh open_) trimEn lullEn),
    fun _ _ trimEn lullEn open_ => completes_of_chip rfl (Chip.pwrPut_calm (Chip.writable_fresh open_) trimEn lullEn),
    -- DIODE_CALIBRATE of a number no diode has and of a diode
    fun s _ sensor open_ idle unknown => completes_of_chip rfl ((Chip.cwPut_calGo (Chip.writable_fresh open_) idle sensor).trans
      (Chip.calGo_unknown idle (unknown.trans_eq (Chip.f_calSensor s.chip.fresh sensor).symm))),
    fun _ _ _ open_ idle known on level noTrip => diodeCalibrate_on open_ idle known on level noTrip,
    -- AGE_MEASURE, CLEAR, FREE
    fun s _ open_ idle => completes_of_chip rfl ((Chip.cwPut_ageMeasure (Chip.writable_fresh open_)).trans
      (Chip.agePass_idle fun runs => idle ((Chip.f_setF_ne s.chip.fresh _ _ _ _ _ (by decide)).symm.trans runs))),
    fun _ _ open_ => completes_of_chip rfl (Chip.cwPut_evrCtl (Chip.writable_fresh open_) _),
    fun _ _ open_ => completes_of_chip rfl (Chip.cwPut_evrCtl (Chip.writable_fresh open_) _),
    -- ARM with its scope and without, STOP
    fun s _ open_ scope => completes_of_chip rfl ((Chip.cwPut_PTB (Chip.writable_fresh open_) (by decide) (by decide) _).trans
      (Chip.cwPTB_ctl (m := s.chip.fresh) scope _)),
    fun s _ open_ scope => completes_of_chip rfl ((Chip.cwPut_PTB (Chip.writable_fresh open_) (by decide) (by decide) _).trans
      (Chip.cwPTB_unscoped (m := s.chip.fresh) (by decide) (by decide) scope _)),
    fun s _ open_ scope => completes_of_chip rfl ((Chip.cwPut_PTB (Chip.writable_fresh open_) (by decide) (by decide) _).trans
      (Chip.cwPTB_ctl (m := s.chip.fresh) scope _)),
    -- CORE_HALT with its scope and without, ONDEMAND_SELFTEST
    fun _ _ _ open_ scope => completes_of_chip rfl ((Chip.cwPut_PTB (Chip.writable_fresh open_) (by decide) (by decide) _).trans
      (if_pos scope)),
    fun _ _ _ open_ scope => completes_of_chip rfl ((Chip.cwPut_PTB (Chip.writable_fresh open_) (by decide) (by decide) _).trans
      (if_neg (Bool.eq_false_iff.mp scope))),
    fun _ _ _ open_ idle sram dramA dramB management => ondemandSelftest_on open_ idle sram dramA dramB management,
    -- FLT_MASK_WRITE, PLP_CFG_WRITE
    fun _ _ _ open_ => completes_of_chip rfl (Chip.cwPut_fltMask (Chip.writable_fresh open_) _),
    fun _ _ _ open_ free disc dirty budget covered => completes_of_chip rfl
      (Chip.cwPut_plpCfg (Chip.writable_fresh open_) free disc dirty budget covered)⟩

end Sys2Proof.Machine
end

section
/-! PROOFS, family 17_twin. The timers of the sub-links and heartbeats (R415, R416, R430, R431), TWIN_FENCE_n (R434, R440) and the claims (R436,
R437): what each does in the cases of O54. -/

namespace Sys2Proof.Machine

variable {m : Chip} {i k : Nat}

/-! ## Replay (R407, R416) -/

section
variable (up : (m.sub i).up = true) (keyed : (m.sub i).keyNum ≠ 0)
include up keyed

/-- What is unacknowledged is sent again, while nothing has been sent 8 times. -/
theorem Chip.replayTimer_again (unacked : (m.sub i).replay ≠ []) (few : (m.sub i).replay.any (fun f => decide (8 ≤ f.sends)) = false) :
    m.replayTimer i =
      (let x := m.sub i
       let fs := x.replay.map fun f => { f with sends := f.sends + 1, last := m.isl.dtc }
       let m := m.setSub i { x with replay := fs }
       (fs.foldl (fun (m : Chip) f => m.send (.frame i f.type (m.frameBytes i f))) m).addF TWN_REPLAY.FRAMES fs.length i) := by
  rw [Chip.replayTimer, if_neg (by simp [up, keyed, unacked]), if_neg (by rw [few]; decide)]

theorem Chip.replayTimer_down (often : (m.sub i).replay.any (fun f => decide (8 ≤ f.sends)) = true) : m.replayTimer i = m.subDown i := by
  have unacked : (m.sub i).replay ≠ [] := fun none_ => by rw [none_] at often; exact absurd often (by decide)
  rw [Chip.replayTimer, if_neg (by simp [up, keyed, unacked]), if_pos often]

end

/-! ## Heartbeats (R430, R431) -/

theorem Chip.sendBeat_beats (beats : m.beats = true) :
    m.sendBeat =
      (let args := leBytes 8 m.isl.dtc ++ leBytes 1 (m.f TWN_STAT.STATE) ++ leBytes 1 (m.f BPM_STAT.DEVBARO) ++ leBytes 1 (m.f GEN_EPOCH.CURRENT)
       (m.sendUnseq 0 0x03 args).sendUnseq 1 0x03 args) := if_neg (by rw [beats]; decide)

theorem Chip.sendPulse_beats (beats : m.beats = true) : m.sendPulse = (m.send (.pin 86 true)).send (.pin 86 false) := if_pos beats

theorem Chip.rejoinPoll_active (active : m.f TWN_STAT.STATE = 2) : m.rejoinPoll = m := by
  rw [Chip.rejoinPoll, if_neg (by rw [active]; simp), if_neg (by rw [active]; simp)]

section
variable (active : m.f TWN_STAT.STATE = 2) (young : m.tw.hbAge < 7)
include active young

/-- Of a pair in service whose twin pulsed lately, a window counts its heartbeat alone. -/
theorem Chip.windowClose_active :
    m.windowClose =
      (let x : Chip := { m with tw := { m.tw with hbAge := m.tw.hbAge + 1 } }
       if m.tw.hbSeen then ({ x with tw := { x.tw with hbSeen := false } } : Chip).setF TWN_HBCNT.RUN 0
       else
         let run := min (x.f TWN_HBCNT.RUN + 1) 4
         let y := (x.incF TWN_HBCNT.MISSED).setF TWN_HBCNT.RUN run
         if run = 4 ∧ !y.tw.heldHb ∧ m.f TWN_STAT.STATE ≠ 10 then y.suspect (if y.f TWN_STAT.HB_SEEN = 1 then 4 else 3) else y) := by
  have age : min (m.tw.hbAge + 1) 8 = m.tw.hbAge + 1 := Nat.min_eq_left (by omega)
  have polled : Chip.rejoinPoll { m with tw := { m.tw with hbAge := m.tw.hbAge + 1 } } = { m with tw := { m.tw with hbAge := m.tw.hbAge + 1 } } :=
    Chip.rejoinPoll_active active
  rw [Chip.windowClose]
  simp only [age, if_neg (show ¬ 8 ≤ m.tw.hbAge + 1 by omega), polled]
  exact if_neg (by rw [active]; simp)

theorem Chip.windowClose_heard (seen : m.tw.hbSeen = true) :
    m.windowClose = ({ m with tw := { m.tw with hbAge := m.tw.hbAge + 1, hbSeen := false } } : Chip).setF TWN_HBCNT.RUN 0 := by
  rw [Chip.windowClose_active active young]
  exact if_pos seen

/-- Up to the third in a row, a missed heartbeat is only counted. -/
theorem Chip.windowClose_missed (unseen : m.tw.hbSeen = false) (few : m.f TWN_HBCNT.RUN < 3) :
    m.windowClose =
      (let x : Chip := { m with tw := { m.tw with hbAge := m.tw.hbAge + 1 } }
       (x.incF TWN_HBCNT.MISSED).setF TWN_HBCNT.RUN (x.f TWN_HBCNT.RUN + 1)) := by
  have run : min (m.f TWN_HBCNT.RUN + 1) 4 = m.f TWN_HBCNT.RUN + 1 := Nat.min_eq_left (by omega)
  have notFourth : m.f TWN_HBCNT.RUN + 1 ≠ 4 := by omega
  rw [Chip.windowClose_active active young]
  refine (if_neg (Bool.eq_false_iff.mp unseen)).trans ((if_neg fun ⟨fourth, _⟩ => notFourth (run.symm.trans fourth)).trans ?_)
  exact congrArg (Chip.setF _ TWN_HBCNT.RUN) run

end

/-! ## TWIN_FENCE_n (R434, R440) -/

theorem Chip.handshakeTimeout_waiting (waits : m.tw.handshake = true) (state : m.f TWN_STAT.STATE = 1) : m.handshakeTimeout = m.suspect 5 :=
  if_pos ⟨waits, state⟩

/-- The line as seen is a field of its own. -/
theorem Chip.f_fenceIn (m : Chip) (v : Nat) (g : Fld) (other : g.key 0 ≠ TWN_LINES.FENCE_IN.key 0) : (m.setF TWN_LINES.FENCE_IN v).f g = m.f g :=
  m.f_setF_ne _ _ _ _ _ other

section
variable (notOurs : m.f TWN_LINES.FENCE_OUT = 0)
include notOurs

theorem Chip.fenceSeen_active (started : 8 ≤ m.st.step) (active : m.f TWN_STAT.STATE = 2) :
    m.fenceSeen = (m.setF TWN_LINES.FENCE_IN 1).fenced :=
  if_neg (by
    rw [Chip.f_fenceIn _ _ _ (by decide), notOurs, active, Chip.setF_st]
    simp [Nat.not_lt.mpr started])

theorem Chip.fenceReleased_waiting (waiting : m.f TWN_STAT.STATE = 10) (notYet : m.tw.rejoin = 0) :
    m.fenceReleased =
      (let x := m.setF TWN_LINES.FENCE_IN 0
       ({ x with tw := { x.tw with rejoin := 5 } } : Chip).claimMask (homeMask x.side)) :=
  (if_neg (by rw [notOurs]; decide)).trans (if_pos ⟨(Chip.f_fenceIn _ _ _ (by decide)).trans waiting, notYet⟩)

end

/-! ## Claims (R436, R437) -/

/-- Without a claim the SEEN of a cluster is only shown. -/
theorem Chip.claimSeen_unclaimed (unclaimed : (m.reconAround fun x => x.setBit TWN_LINES.SEEN k true).fbit TWN_LINES.CLAIM k = false) :
    m.claimSeen k = m.reconAround fun x => x.setBit TWN_LINES.SEEN k true :=
  if_pos (.inl ((Bool.not_eq_true' _).mpr unclaimed))

/-- The SEEN of a claim that was lost comes back: the dies of the cluster go on. -/
theorem Chip.claimSeen_back {n : Chip} (seen : (m.reconAround fun x => x.setBit TWN_LINES.SEEN k true) = n)
    (claimed : n.fbit TWN_LINES.CLAIM k = true) (waits : bitOf n.tw.waitClaims k = true) (again : bitOf n.tw.again k = true) :
    m.claimSeen k =
      (let x := { n with tw := { n.tw with
         waitClaims := maskSet n.tw.waitClaims k false, again := maskSet n.tw.again k false
         retryClaims := maskSet n.tw.retryClaims k false } }
       (clusterDies k).foldl (fun (m : Chip) d => m.turn d) x.powerPoll.limitView) := by
  subst seen
  exact (if_neg (by rw [claimed, waits]; decide)).trans (if_pos again)

theorem Chip.seenLost_unclaimed (unclaimed : m.claims k = false) :
    m.seenLost k = m.reconAround fun x => x.setBit TWN_LINES.SEEN k false := if_neg (Bool.eq_false_iff.mp unclaimed)

theorem Chip.seenLost_claimed (claimed : m.claims k = true) :
    m.seenLost k =
      (let m := m.reconAround fun m => m.setBit TWN_LINES.SEEN k false
       let m := { m with tw := { m.tw with waitClaims := maskSet m.tw.waitClaims k true, again := maskSet m.tw.again k true } }
       ((m.setF TWN_FAULT.CLAIMLOST 1).emit 27 0x6908).limitView) := if_pos claimed

/-- A lost claim that is refused takes the dies of its cluster down. -/
theorem Chip.claimRefused_again (waits : bitOf m.tw.waitClaims k = true) (unseen : m.claims k = false) (again : bitOf m.tw.again k = true) :
    m.claimRefused k =
      (let x := (((m.dropClaim k).setF TWN_FAULT.CLAIMREFUSED 1).emit 27 0x6907).powerPoll
       (clusterDies k).foldl (fun (m : Chip) d => if 1 ≤ m.f FCH_DIE.STATE d ∧ m.f FCH_DIE.STATE d ≤ 5 then m.failDie d 1 else m) x) :=
  (if_neg (by rw [waits, unseen]; decide)).trans (if_pos again)

theorem Chip.claimRetry_sideA (takeover : m.f TWN_STAT.STATE = 5) (sideA : m.side = 0) : m.claimRetry = m.claimMask m.tw.retryClaims :=
  if_pos ⟨takeover, sideA⟩

theorem Chip.takeoverFails_sideA (takeover : m.f TWN_STAT.STATE = 5) (sideA : m.side = 0) (waits : m.tw.waitClaims ≠ 0) :
    m.takeoverFails =
      (let m := (List.range 12).foldl (fun (m : Chip) k => if bitOf (homeMask 0) k then m else m.dropClaim k) m
       let m := { m with tw := { m.tw with takeover := false, waitClaims := 0, retryClaims := 0 } }
       (m.twnState 9).powerPoll) :=
  if_neg (by simp [takeover, sideA, waits])

end Sys2Proof.Machine
end

section
/-! PROOFS, family 17_twin. The timers of the twin link, the pair's side-band lines, fencing, claims and takeover: O54. -/

namespace Sys2Proof.Machine

/-- Settles O54, row by row in the order of the statement. -/
theorem twinTimersAndClaimsComplete : Obligations.TwinTimersAndClaimsComplete :=
  -- FRAME_INCOMPLETE_TIMEOUT, REPLAY_TIMER, ACK_IDLE_TIMER, HANDSHAKE_TIMEOUT
  ⟨fun _ _ up => completes_of_chip rfl (if_pos up),
    fun s _ up keyed unacked few => completes_of_chip rfl
      (congrArg Chip.late (Chip.replayTimer_again (m := s.chip.fresh) up keyed unacked few)),
    fun s _ up keyed often => completes_of_chip rfl (congrArg Chip.late (Chip.replayTimer_down (m := s.chip.fresh) up keyed often)),
    fun _ _ up => completes_of_chip rfl (if_neg fun down => Bool.eq_false_iff.mp ((Bool.not_eq_true' _).mp down) up),
    fun s waits state => completes_of_chip rfl (congrArg Chip.late (Chip.handshakeTimeout_waiting (m := s.chip.fresh) waits state)),
    -- HEARTBEAT_SEND_TIMER, TWIN_HB_PULSE_TIMER, HEARTBEAT_WINDOW_CLOSE
    fun s beats => completes_of_chip rfl (Chip.sendBeat_beats (m := s.chip.fresh) beats),
    fun s beats => completes_of_chip rfl (Chip.sendPulse_beats (m := s.chip.fresh) beats),
    fun s active seen young => completes_of_chip rfl (congrArg Chip.late (Chip.windowClose_heard (m := s.chip.fresh) active young seen)),
    fun s active unseen young few => completes_of_chip rfl
      (congrArg Chip.late (Chip.windowClose_missed (m := s.chip.fresh) active young unseen few)),
    -- FENCE_DEFER_TIMEOUT, FENCE_LINE_TIMEOUT, TWIN_FENCE_ASSERT, TWIN_FENCE_RELEASE
    fun _ deferring state => completes_of_chip rfl (if_pos ⟨deferring, state⟩),
    fun _ fencing => completes_of_chip rfl (if_pos fencing),
    fun s notOurs started active => completes_of_chip rfl
      (congrArg Chip.late (Chip.fenceSeen_active (m := s.chip.fresh) notOurs started active)),
    fun s notOurs waiting notYet => completes_of_chip rfl
      (congrArg Chip.late (Chip.fenceReleased_waiting (m := s.chip.fresh) notOurs waiting notYet)),
    -- MIRROR_REPLAY_DONE, CLAIM_SEEN_ASSERT, CLAIM_SEEN_DEASSERT
    fun _ takeover => completes_of_chip rfl (if_pos takeover),
    fun s _ unclaimed => completes_of_chip rfl (congrArg Chip.late (Chip.claimSeen_unclaimed (m := s.chip.fresh) unclaimed)),
    fun s _ _ seen claimed waits again => completes_of_chip rfl
      (congrArg Chip.late (Chip.claimSeen_back (m := s.chip.fresh) seen claimed waits again)),
    fun s _ unclaimed => completes_of_chip rfl (congrArg Chip.late (Chip.seenLost_unclaimed (m := s.chip.fresh) unclaimed)),
    fun s _ claimed => completes_of_chip rfl (congrArg Chip.late (Chip.seenLost_claimed (m := s.chip.fresh) claimed)),
    -- CLAIM_REFUSE_TIMEOUT, CLAIM_RETRY_TIMER, TAKEOVER_CLAIM_TIMEOUT
    fun s _ waits unseen again => completes_of_chip rfl
      (congrArg Chip.late (Chip.claimRefused_again (m := s.chip.fresh) waits unseen again)),
    fun s takeover sideA => completes_of_chip rfl (congrArg Chip.late (Chip.claimRetry_sideA (m := s.chip.fresh) takeover sideA)),
    fun s takeover sideA waits => completes_of_chip rfl
      (congrArg Chip.late (Chip.takeoverFails_sideA (m := s.chip.fresh) takeover sideA waits))⟩

end Sys2Proof.Machine
end

section
/-! PROOFS, family 02_islands_and_flow_tags. The check of a flow tag sees every bit (R47, R51), and the fields of an I/O command's tag (R47 to
R51): O18 and O19. -/

namespace Sys2Proof.Machine

/-! ## The CRC-16 tells bytes apart -/

/-- One bit through the CRC-16, as `crc16Byte` runs it eight times. -/
def crc16Bit (c : Nat) : Nat := if bitOf c 15 then ((c <<< 1) ^^^ 0x1021) % 65536 else (c <<< 1) % 65536

theorem crc16Byte_eq (crc : Nat) (b : Byte) : crc16Byte crc b = crc16Bit^[8] (crc ^^^ (b.toNat <<< 8)) := rfl

theorem crc16Bit_eq (c : Nat) : crc16Bit c = 2 * (c % 2 ^ 15) ^^^ (if c.testBit 15 then 0x1021 else 0) := by
  have double : c <<< 1 % 65536 = 2 * (c % 2 ^ 15) := by rw [Nat.shiftLeft_eq]; omega
  rw [crc16Bit, bitOf_eq_testBit]
  split
  · rw [show (65536 : Nat) = 2 ^ 16 from rfl, Nat.xor_mod_two_pow, ← double]
  · rw [double, Nat.xor_zero]

theorem crc16Bit_lt (c : Nat) : crc16Bit c < 2 ^ 16 := by
  rw [crc16Bit]
  split <;> exact Nat.mod_lt _ (by decide)

/-- The polynomial's constant term carries the top bit into bit 0; without it, the others are the value's lower bits. -/
theorem crc16Bit_injOn : Set.InjOn crc16Bit (Set.Iio (2 ^ 16)) := by
  intro x hx y hy same
  rw [Set.mem_Iio] at hx hy
  rw [crc16Bit_eq, crc16Bit_eq] at same
  have top : x.testBit 15 = y.testBit 15 := by
    have bit0 := congrArg (Nat.testBit · 0) same
    cases hx : x.testBit 15 <;> cases hy : y.testBit 15 <;> simp [hx, hy, Nat.testBit_zero] at bit0 ⊢
  rw [top] at same
  have doubled : 2 * (x % 2 ^ 15) = 2 * (y % 2 ^ 15) := Nat.xor_left_injective same
  have upper : x / 2 ^ 15 % 2 = y / 2 ^ 15 % 2 := by
    rw [← Nat.toNat_testBit, ← Nat.toNat_testBit, top]
  omega

theorem crc16Bit_mapsTo : Set.MapsTo crc16Bit (Set.Iio (2 ^ 16)) (Set.Iio (2 ^ 16)) := fun c _ => crc16Bit_lt c

/-- Equal values after a byte come from equal mixtures of value and byte. -/
theorem xor_byte_eq_of_crc16Byte_eq {x y : Nat} {a b : Byte} (hx : x < 2 ^ 16) (hy : y < 2 ^ 16) (same : crc16Byte x a = crc16Byte y b) :
    x ^^^ (a.toNat <<< 8) = y ^^^ (b.toNat <<< 8) := by
  have fits : ∀ (z : Nat) (d : Byte), z < 2 ^ 16 → z ^^^ (d.toNat <<< 8) < 2 ^ 16 := fun z d hz =>
    Nat.xor_lt_two_pow hz (by have := d.isLt; rw [Nat.shiftLeft_eq]; omega)
  exact crc16Bit_injOn.iterate crc16Bit_mapsTo 8 (fits x a hx) (fits y b hy) same

theorem crc16Byte_left_injective {x y : Nat} {b : Byte} (hx : x < 2 ^ 16) (hy : y < 2 ^ 16) (same : crc16Byte x b = crc16Byte y b) : x = y :=
  Nat.xor_left_injective (xor_byte_eq_of_crc16Byte_eq hx hy same)

theorem crc16Byte_right_injective {x : Nat} {a b : Byte} (hx : x < 2 ^ 16) (same : crc16Byte x a = crc16Byte x b) : a = b := by
  have shifted : a.toNat <<< 8 = b.toNat <<< 8 := Nat.xor_right_injective (xor_byte_eq_of_crc16Byte_eq hx hx same)
  rw [Nat.shiftLeft_eq, Nat.shiftLeft_eq] at shifted
  exact BitVec.eq_of_toNat_eq (by omega)

theorem foldl_crc16Byte_injective {x y : Nat} (hx : x < 2 ^ 16) (hy : y < 2 ^ 16) (bs : List Byte)
    (same : bs.foldl crc16Byte x = bs.foldl crc16Byte y) : x = y := by
  induction bs generalizing x y with
  | nil => exact same
  | cons b bs ih => exact crc16Byte_left_injective hx hy (ih (crc16Byte_lt x b) (crc16Byte_lt y b) same)

/-! ## One inverted bit -/

theorem bits_invert_below (t : Nat) {i lo : Nat} (below : i < lo) (hi : Nat) : bits (t ^^^ 2 ^ i) hi lo = bits t hi lo := by
  rw [bits, bits, Nat.shiftRight_xor_distrib, Nat.shiftRight_eq_div_pow (2 ^ i), Nat.div_eq_of_lt (Nat.pow_lt_pow_right (by decide) below),
    Nat.xor_zero]

theorem bits_invert_within (t : Nat) {i hi lo : Nat} (least : lo ≤ i) (most : i ≤ hi) : bits (t ^^^ 2 ^ i) hi lo ≠ bits t hi lo := by
  intro same
  have bit := congrArg (Nat.testBit · (i - lo)) same
  have inside : i - lo < hi - lo + 1 := by omega
  have place : lo + (i - lo) = i := by omega
  simp [bits, inside, place] at bit

/-- An inverted bit of a number is an inverted bit of one of its little-endian bytes, and the CRC never agrees again. -/
theorem foldl_crc16Byte_invert {n i x : Nat} (hx : x < 2 ^ 16) (t : Nat) (within : i < 8 * n) :
    (leBytes n (t ^^^ 2 ^ i)).foldl crc16Byte x ≠ (leBytes n t).foldl crc16Byte x := by
  induction n generalizing i x t with
  | zero => omega
  | succ n ih =>
    have rest : (t ^^^ 2 ^ i) / 256 = t / 256 ^^^ 2 ^ i / 256 := by
      simp only [← Nat.shiftRight_eq_div_pow _ 8, show (256 : Nat) = 2 ^ 8 from rfl, Nat.shiftRight_xor_distrib]
    rw [leBytes, leBytes, List.foldl_cons, List.foldl_cons, rest]
    by_cases first : i < 8
    · rw [Nat.div_eq_of_lt (Nat.pow_lt_pow_right (by decide) first : 2 ^ i < 2 ^ 8), Nat.xor_zero]
      intro same
      have bytes := crc16Byte_right_injective hx (foldl_crc16Byte_injective (crc16Byte_lt ..) (crc16Byte_lt ..) _ same)
      exact bits_invert_within t (Nat.zero_le i) (by omega : i ≤ 7) (congrArg BitVec.toNat bytes)
    · have byte : BitVec.ofNat 8 (t ^^^ 2 ^ i) = BitVec.ofNat 8 t := by
        refine BitVec.eq_of_toNat_eq ?_
        rw [BitVec.toNat_ofNat, BitVec.toNat_ofNat, Nat.xor_mod_two_pow, Nat.mod_eq_zero_of_dvd (Nat.pow_dvd_pow 2 (Nat.not_lt.mp first)),
          Nat.xor_zero]
      have power : 2 ^ i / 256 = 2 ^ (i - 8) := Nat.pow_div (by omega : 8 ≤ i) (by decide)
      rw [byte, power]
      exact ih (crc16Byte_lt ..) (t / 256) (by omega)

/-- `n` little-endian bytes hold the low `8n` bits. -/
theorem leBytes_congr {n x y : Nat} (same : x % 256 ^ n = y % 256 ^ n) : leBytes n x = leBytes n y := by
  induction n generalizing x y with
  | zero => rfl
  | succ n ih =>
    rw [Nat.pow_succ'] at same
    have byte : BitVec.ofNat 8 x = BitVec.ofNat 8 y := by
      have low := congrArg (· % 256) same
      simp only [Nat.mod_mul_right_mod] at low
      exact BitVec.eq_of_toNat_eq (by simpa using low)
    have above : x / 256 % 256 ^ n = y / 256 % 256 ^ n := by
      rw [← Nat.mod_mul_right_div_self, ← Nat.mod_mul_right_div_self, same]
    rw [leBytes, leBytes, byte, ih above]

/-- The check covers the tag's low 176 bits (R47). -/
theorem tagCheck_congr {x y : Nat} (same : x % 2 ^ 176 = y % 2 ^ 176) : tagCheck x = tagCheck y :=
  congrArg crc16 (leBytes_congr (n := 22) same)

theorem tagCheck_invert (t : Nat) {i : Nat} (covered : i < 176) : tagCheck (t ^^^ 2 ^ i) ≠ tagCheck t :=
  foldl_crc16Byte_invert (by decide) t covered

theorem tagPasses_eq_false {t : Nat} (wrong : bits t 191 176 ≠ tagCheck t) : tagPasses t = false := by
  simp [tagPasses, wrong]

/-- Settles O18: an inverted bit below 176 changes the check the tag should have, one above changes the check it has. -/
theorem oneInvertedBitFailsATag : Obligations.OneInvertedBitFailsATag := by
  intro t i _ within passes
  refine tagPasses_eq_false ?_
  by_cases covered : i < 176
  · rw [bits_invert_below t covered, passes]
    exact (tagCheck_invert t covered).symm
  · have same : tagCheck (t ^^^ 2 ^ i) = tagCheck t := by
      refine tagCheck_congr ?_
      rw [Nat.xor_mod_two_pow, Nat.mod_eq_zero_of_dvd (Nat.pow_dvd_pow 2 (Nat.not_lt.mp covered)), Nat.xor_zero]
    rw [same, ← passes]
    exact bits_invert_within t (Nat.not_lt.mp covered) (by omega)

/-! ## The tag of an I/O command -/

/-- A sealed tag holds the check of its fields (R50). -/
theorem bits_tagSeal_check (t : Nat) : bits (tagSeal t) 191 176 = tagCheck (tagSeal t) := by
  have whole : tagSeal t / 2 ^ 176 = tagCheck t := by
    rw [tagSeal, Nat.add_mul_div_right _ _ (by decide), Nat.div_eq_of_lt (Nat.mod_lt _ (by decide)), Nat.zero_add]
  rw [bits_eq_div_mod, whole, tagCheck_congr (tagSeal_mod t (Nat.le_refl 176))]
  exact Nat.mod_eq_of_lt (crc16_lt _)

theorem tagPasses_tagSeal {t : Nat} (kind : 0 < tagKind t ∧ tagKind t < 14) (fn : tagFn t < 4128) (key : tagKey t < 8448 ∨ tagKey t = 0x3FFF)
    (level : tagLevel t ≤ 9) (hint : tagHint t ≤ 4) : tagPasses (tagSeal t) = true := by
  simp only [tagKind, tagFn, tagKey, tagLevel, tagHint] at kind fn key level hint
  simp [tagPasses, bits_tagSeal_check, tagKind, tagFn, tagKey, tagLevel, tagHint, bits_tagSeal, kind, fn, key, level, hint,
    Nat.pos_iff_ne_zero.mp kind.1]

theorem sum_flags_above {lo : Nat} {flags : List Nat} (above : ∀ k ∈ flags, lo ≤ k) : ∃ r, (flags.eraseDups.map (2 ^ ·)).sum = 2 ^ lo * r := by
  refine dvd_sum_of_forall_dvd fun p mem => ?_
  obtain ⟨k, flag, rfl⟩ := List.mem_map.mp mem
  exact Nat.pow_dvd_pow 2 (above k (List.mem_eraseDups.mp flag))

/-- The fields of a tag below its check, as `tagMake` adds them up (R47). -/
def tagBody (kind cls epoch hint level tenant fn queue slot zone key deadline flags : Nat) : Nat :=
  deadline % 2 ^ 32 + kind * 2 ^ 32 + cls * 2 ^ 36 + epoch * 2 ^ 39 + hint * 2 ^ 43 + level * 2 ^ 46 + tenant * 2 ^ 50 + fn * 2 ^ 62 +
    queue * 2 ^ 75 + slot * 2 ^ 93 + zone * 2 ^ 109 + key * 2 ^ 127 + 2 ^ 144 * flags

section
variable {kind cls epoch hint level tenant fn queue slot zone key deadline flags : Nat}

/-- Every field of a tag keeps within its place (R47). -/
theorem bits_tagBody (kindFits : kind < 16) (clsFits : cls < 8) (epochFits : epoch < 16) (hintFits : hint < 8) (levelFits : level < 16)
    (tenantFits : tenant < 4096) (fnFits : fn < 8192) (queueFits : queue < 262144) (slotFits : slot < 65536) (zoneFits : zone < 262144)
    (keyFits : key < 16384) :
    let t := tagBody kind cls epoch hint level tenant fn queue slot zone key deadline flags
    bits t 31 0 = deadline % 2 ^ 32 ∧ tagKind t = kind ∧ bits t 38 36 = cls ∧ tagEpoch t = epoch ∧ tagHint t = hint ∧ tagLevel t = level ∧
      tagTenant t = tenant ∧ tagFn t = fn ∧ bits t 92 75 = queue ∧ tagSlot t = slot ∧ tagZone t = zone ∧ tagKey t = key := by
  have deadlineFits : deadline % 2 ^ 32 < 2 ^ 32 := Nat.mod_lt _ (by decide)
  simp only [tagKind, tagEpoch, tagHint, tagLevel, tagTenant, tagFn, tagSlot, tagZone, tagKey, tagBody, bits_eq_div_mod]
  generalize deadline % 2 ^ 32 = d at deadlineFits ⊢
  and_intros <;> omega

end

/-- The cipher key slot that the tag of a command names. -/
def Chip.cmdKey (m : Chip) (c : Cmd) : Nat := ((m.ns? (nsidOf c.entry)).map (·.keySlot)).getD 0x3FFF

theorem Chip.cmdKey_known {m : Chip} {c : Cmd} (known : ∀ n, m.ns? (nsidOf c.entry) = some n → n.keySlot < 8448 ∨ n.keySlot = 0x3FFF) :
    m.cmdKey c < 8448 ∨ m.cmdKey c = 0x3FFF := by
  unfold Chip.cmdKey
  cases found : m.ns? (nsidOf c.entry) with
  | none => exact Or.inr rfl
  | some n => exact known n found

/-- The units of an I/O command are reads, writes or appends (R48). -/
theorem Cmd.kind_io {c : Cmd} (io : c.admin = false) : 0 < c.kind ∧ c.kind < 4 := by
  simp only [Cmd.kind, io, Bool.false_eq_true, if_false]
  repeat' split
  all_goals decide

/-- The flags of an I/O command's tag begin at bit 144 (R49). -/
theorem Chip.cmdTag_io {m : Chip} {c : Cmd} (io : c.admin = false) (slot : Nat) :
    ∃ r, m.cmdTag slot c =
      tagSeal (tagBody c.kind c.cls c.epoch c.hint c.level c.tenant c.fn c.q slot (c.zone.getD 0) (m.cmdKey c) c.deadline r) := by
  have flags : ∃ l : List Nat, (∀ k ∈ l, 144 ≤ k) ∧
      m.cmdTag slot c = tagMake c.kind c.cls c.epoch c.hint c.level c.tenant c.fn c.q slot (c.zone.getD 0) (m.cmdKey c) c.deadline l := by
    simp only [Chip.cmdTag, Chip.cmdUnitTag, Chip.cmdKey, io, Bool.false_eq_true, if_false, List.nil_append]
    refine ⟨_, ?_, rfl⟩
    simp only [List.forall_mem_append, List.append_nil]
    and_intros <;> exact mem_flag_above (by decide)
  obtain ⟨l, above, tag⟩ := flags
  obtain ⟨r, sum⟩ := sum_flags_above above
  exact ⟨r, by rw [tag, tagMake, sum, tagBody]⟩

/-- Settles O19: every field lies below the check, which leaves it as it was, and keeps within its place. -/
theorem aCommandTagReadsBack : Obligations.ACommandTagReadsBack := by
  intro m slot c io slotFits queueFits fnFits tenantFits levelFits hintFits epochFits clsFits zoneFits keys
  have key := m.cmdKey_known keys
  have ⟨kindSome, kindFits⟩ := Cmd.kind_io io
  obtain ⟨r, tag⟩ := m.cmdTag_io io slot
  obtain ⟨bodyDeadline, bodyKind, bodyCls, bodyEpoch, bodyHint, bodyLevel, bodyTenant, bodyFn, bodyQueue, bodySlot, bodyZone, bodyKey⟩ :=
    bits_tagBody (deadline := c.deadline) (flags := r) (by omega : c.kind < 16) clsFits epochFits (by omega : c.hint < 8)
      (by omega : c.level < 16) tenantFits (by omega : c.fn < 8192) queueFits slotFits zoneFits (by omega : m.cmdKey c < 16384)
  have passes := tagPasses_tagSeal (by rw [bodyKind]; omega) (bodyFn.trans_lt fnFits) (by rwa [bodyKey]) (bodyLevel.trans_le levelFits)
    (bodyHint.trans_le hintFits)
  rw [tag]
  generalize tagBody c.kind c.cls c.epoch c.hint c.level c.tenant c.fn c.q slot (c.zone.getD 0) (m.cmdKey c) c.deadline r = t at *
  have below : ∀ {hi lo : Nat}, lo ≤ hi → hi < 176 → bits (tagSeal t) hi lo = bits t hi lo := bits_tagSeal t
  exact ⟨(below (by decide) (by decide)).trans bodySlot, (below (by decide) (by decide)).trans bodyQueue,
    (below (by decide) (by decide)).trans bodyFn, (below (by decide) (by decide)).trans bodyTenant,
    (below (by decide) (by decide)).trans bodyLevel, (below (by decide) (by decide)).trans bodyHint,
    (below (by decide) (by decide)).trans bodyEpoch, (below (by decide) (by decide)).trans bodyCls,
    (below (by decide) (by decide)).trans bodyDeadline, (below (by decide) (by decide)).trans bodyZone, passes⟩

end Sys2Proof.Machine
end

section
/-! PROOFS, family 02_islands_and_flow_tags. Device time (R43, R46) and the queue of barriers (R58): O2, O8 and O21. -/

namespace Sys2Proof.Machine

/-! ## Device time -/

theorem Chip.regs_tick (m : Chip) : m.tick.regs = m.regs := by
  unfold Chip.tick
  split <;> rfl

theorem Chip.dtc_tick (m : Chip) : m.tick.isl.dtc = if m.st.step = 0 then m.isl.dtc else (m.isl.dtc + 1) % 2 ^ 64 := by
  unfold Chip.tick
  split <;> rfl

theorem step_idle {s : State} (noneWaits : s.pending = []) : step s = run s Chip.tick := by
  rw [step, noneWaits]
  rfl

/-- Settles O2, by what a tick changes. -/
theorem anEmptyQueueLetsOneTickPass : Obligations.AnEmptyQueueLetsOneTickPass := fun s noneWaits =>
  ⟨_, step_idle noneWaits, noneWaits, s.chip.fresh.regs_tick, s.chip.fresh.dtc_tick⟩

/-- The distance that `earlier` and `slackAt` take between two times is their difference modulo 2^32. -/
theorem toNat_sub_eq_distance (a b : BitVec 32) : (b.toNat + 2 ^ 32 - a.toNat % 2 ^ 32) % 2 ^ 32 = (b - a).toNat := by
  have hb : b.toNat < 2 ^ 32 := b.isLt
  have ha : a.toNat < 2 ^ 32 := a.isLt
  rw [BitVec.toNat_sub]
  omega

theorem earlier_toNat (a b : BitVec 32) : earlier a.toNat b.toNat = decide (1 ≤ (b - a).toNat ∧ (b - a).toNat ≤ 2 ^ 31 - 1) := by
  rw [earlier, toNat_sub_eq_distance]

theorem slackAt_toNat (a b : BitVec 32) : slackAt a.toNat b.toNat = if (b - a).toNat < 2 ^ 31 then (b - a).toNat else 0 := by
  rw [slackAt, toNat_sub_eq_distance]

/-- The distances between two times in both directions add up to 0 modulo 2^32. -/
theorem toNat_sub_swap (a b : BitVec 32) : (a - b).toNat = (2 ^ 32 - (b - a).toNat) % 2 ^ 32 := by
  have hb : b.toNat < 2 ^ 32 := b.isLt
  have ha : a.toNat < 2 ^ 32 := a.isLt
  rw [BitVec.toNat_sub, BitVec.toNat_sub]
  omega

/-- Settles O8: neither of two times is earlier just where their distance is the same in both directions. -/
theorem deadlinesCompareModulo32Bits : Obligations.DeadlinesCompareModulo32Bits := by
  intro a b
  rw [earlier_toNat a b, earlier_toNat b a, slackAt_toNat, toNat_sub_swap a b]
  have range : (b - a).toNat < 2 ^ 32 := (b - a).isLt
  generalize (b - a).toNat = d at range ⊢
  refine ⟨decide_eq_true_iff, ?_, fun within => if_pos (by omega), ?_⟩
  · rw [decide_eq_false_iff_not, decide_eq_false_iff_not]
    omega
  · split <;> omega

/-! ## What the start of a barrier's flight leaves of the islands' state -/

theorem foldl_isl {α : Type} {g : Chip → α → Chip} (keeps : ∀ m a, (g m a).isl = m.isl) (l : List α) (m : Chip) : (l.foldl g m).isl = m.isl :=
  List.foldlRecOn l g (motive := fun n => n.isl = m.isl) rfl fun n same a _ => (keeps n a).trans same

theorem Chip.keyTurn_isl (m : Chip) (s : Nat) : (m.keyTurn s).isl = m.isl := by
  simp only [Chip.keyTurn]
  repeat' split
  all_goals simp

theorem Chip.arbCopy_isl (m : Chip) (i : Nat) : (m.arbCopy i).isl = m.isl := by
  simp only [Chip.arbCopy]
  split <;> rfl

theorem Chip.pickFrame_isl {m n : Chip} {s : Nat} {f : TxFrame} (picked : m.pickFrame s = some (f, n)) : n.isl = m.isl := by
  unfold Chip.pickFrame at picked
  split at picked
  · cases picked
  · cases picked
    rfl
  · cases picked
    simp [Chip.arbCopy_isl]

theorem Chip.transmit_isl (m : Chip) (s : Nat) (f : TxFrame) : (m.transmit s f).isl = m.isl := by
  simp only [Chip.transmit, Chip.keyDue, Chip.drawNext, Chip.sessionKey]
  split <;> simp

theorem Chip.sendAll_isl (m : Chip) (s n : Nat) : (m.sendAll s n).isl = m.isl := by
  induction n generalizing m with
  | zero => rfl
  | succ n ih =>
    rw [Chip.sendAll]
    split
    · rfl
    · next picked => rw [ih, Chip.transmit_isl, Chip.setSub_isl, Chip.pickFrame_isl picked, Chip.keyTurn_isl]

theorem Chip.sendFrame_isl (m : Chip) (type : Nat) (zone deadline : Option Nat) (args body : List Byte) (slot : Option Nat) :
    (m.sendFrame type zone deadline args body slot).isl = m.isl := by
  unfold Chip.sendFrame
  split
  · rfl
  · exact Chip.sendAll_isl ..

theorem Chip.arbLoad_isl (m : Chip) (recs : List ArbRec) : (m.arbLoad recs).isl = m.isl := by
  rw [Chip.arbLoad, foldl_isl (fun m i => m.setArb_isl i _), foldl_isl fun m inst => foldl_isl (fun m r => m.setF_isl _ _ _) _ m]

theorem Chip.applyQuota_isl (m : Chip) (old : Image) (r : TenantRec) : (m.applyQuota old r).isl = m.isl := by
  simp only [Chip.applyQuota]
  repeat' split
  all_goals rfl

theorem Chip.reconTurn_isl (m : Chip) (old new : Image) : (m.reconTurn old new).isl = m.isl :=
  foldl_isl (fun m t => m.setTen_isl t _) _ m

theorem Chip.commitStart_isl (m : Chip) : m.commitStart.isl = m.isl := by
  unfold Chip.commitStart
  split
  · rfl
  · rw [foldl_isl fun m r => m.applyQuota_isl _ r]
    split
    · rw [Chip.arbLoad_isl]
      exact m.reconTurn_isl _ _
    · exact m.reconTurn_isl _ _

theorem Chip.showBarrier_isl (m : Chip) : m.showBarrier.isl = m.isl := rfl

/-! ## The queue of barriers -/

/-- A barrier as it takes its place on chip `m`: the clusters that are off have acknowledged it. -/
def Chip.placed (m : Chip) (b : Barrier) : Barrier :=
  { b with
    start := m.isl.dtc, twin := b.twin && !m.solo, place := m.q.seq
    acks := (((List.range 12).filter fun k => !m.islServes (12 + k)).map (2 ^ ·)).sum }

/-- A barrier that starts its flight keeps its source and kind, and the barriers that wait. -/
theorem Chip.barFly_isl (m : Chip) (b : Barrier) :
    ∃ w, (m.barFly b).isl.flight = some w ∧ w.src = b.src ∧ w.snap = b.snap ∧ (m.barFly b).isl.barQueue = m.isl.barQueue := by
  have start : (if b.src = .image then m.commitStart else m).isl = m.isl := by
    split
    · exact m.commitStart_isl
    · rfl
  simp only [Chip.barFly, Chip.showBarrier_isl]
  generalize (if b.src = .image then m.commitStart else m) = n at start
  rw [← start]
  have sent : ∀ (m : Chip) (l : List Nat) (o : Chip → Nat → Out), (l.foldl (fun m k => m.send (o m k)) m).isl = m.isl := fun m l _ =>
    foldl_isl (fun m _ => m.send_isl _) l m
  refine ⟨n.placed b, ?_, rfl, rfl, ?_⟩ <;> split <;> split <;> simp [Chip.placed, Chip.sendFrame_isl, sent]

section
variable {m : Chip} {src : BarSrc} {snap twin : Bool} {mk : Option Nat}

theorem Chip.barRequest_full (flies : m.isl.flight.isSome = true) (full : 4 ≤ m.isl.barQueue.length) :
    m.barRequest src snap twin mk = if src = .cw then m.setF ISL_BARSTAT.RESULT 3 else m :=
  if_pos ⟨flies, full⟩

/-- A request that is not refused takes a number, which leaves the barriers alone, and waits or flies. -/
theorem Chip.barRequest_taken (notFull : ¬(m.isl.flight.isSome ∧ 4 ≤ m.isl.barQueue.length)) :
    ∃ (n : Chip) (w : Barrier), n.isl.flight = m.isl.flight ∧ n.isl.barQueue = m.isl.barQueue ∧ w.src = src ∧ w.snap = snap ∧
      m.barRequest src snap twin mk =
        if n.isl.flight.isSome then ({ n with isl := { n.isl with barQueue := n.isl.barQueue ++ [w] } } : Chip).showBarrier else n.barFly w := by
  rw [Chip.barRequest, if_neg notFull]
  refine ⟨_, _, ?_, ?_, ?_, ?_, rfl⟩
  · split <;> split <;> rfl
  · split <;> split <;> rfl
  · rfl
  · rfl

/-- Behind a barrier in flight a request with a place in the queue waits as the last one. -/
theorem Chip.barRequest_waits {b : Barrier} (flies : m.isl.flight = some b) (room : m.isl.barQueue.length < 4) :
    (m.barRequest src snap twin mk).isl.flight = some b ∧
      ∃ w, (m.barRequest src snap twin mk).isl.barQueue = m.isl.barQueue ++ [w] ∧ w.src = src ∧ w.snap = snap := by
  obtain ⟨n, w, flight, queue, ofSrc, ofKind, taken⟩ :=
    m.barRequest_taken (src := src) (snap := snap) (twin := twin) (mk := mk) (by omega)
  rw [taken, if_pos (by rw [flight, flies]; rfl), Chip.showBarrier_isl]
  exact ⟨flight.trans flies, w, congrArg (· ++ [w]) queue, ofSrc, ofKind⟩

/-- With none in flight and none waiting a request flies. -/
theorem Chip.barRequest_flies (free : m.isl.flight = none) (empty : m.isl.barQueue = []) :
    ∃ w, (m.barRequest src snap twin mk).isl.flight = some w ∧ w.src = src ∧ w.snap = snap ∧
      (m.barRequest src snap twin mk).isl.barQueue = [] := by
  obtain ⟨n, w, flight, queue, ofSrc, ofKind, taken⟩ :=
    m.barRequest_taken (src := src) (snap := snap) (twin := twin) (mk := mk) (by simp [free])
  obtain ⟨b, flies, sameSrc, sameKind, kept⟩ := n.barFly_isl w
  rw [taken, if_neg (by simp [flight, free])]
  exact ⟨b, flies, sameSrc.trans ofSrc, sameKind.trans ofKind, kept.trans (queue.trans empty)⟩

end

/-- Settles O21, by what is in flight and how many wait. -/
theorem oneBarrierFliesAndFourWait : Obligations.OneBarrierFliesAndFourWait := by
  refine fun m src snap twin mk => ⟨fun b flies room => Chip.barRequest_waits flies room, fun flies full => ?_,
    fun free empty => Chip.barRequest_flies free empty⟩
  rw [Chip.barRequest_full flies full]
  by_cases asked : src = .cw
  · rw [if_pos asked]
    exact ⟨rfl, fun _ => m.f_setF_same _ _ _⟩
  · rw [if_neg asked]
    exact ⟨rfl, fun cw => absurd cw asked⟩

end Sys2Proof.Machine
end

section
/-! PROOFS, family 20_power_states. In Calm the control window is shut (R42): O29. -/

namespace Sys2Proof.Machine

variable {m : Chip} {rq : Rq}

theorem Chip.cwError_calm (calm : m.f PWR_STAT.STATE = 5) (off : Nat) : m.cwError off = m := if_pos (Or.inl calm)

/-- A write ends at each register it touches, whole or in part. -/
theorem Chip.cwWrite_calm (calm : m.f PWR_STAT.STATE = 5) (off : Nat) (data : List (Option Byte)) : m.cwWrite rq off data = m := by
  refine List.foldl_fixed' (fun r => ?_) _
  cases fullWord off data r with
  | none => exact Chip.cwError_calm calm r
  | some w => exact Chip.access_calm calm _

theorem Chip.cwRead_calm (calm : m.f PWR_STAT.STATE = 5) (off n : Nat) : m.cwRead rq off n = m :=
  List.foldl_fixed' (fun _ => Chip.access_calm calm none) _

/-- Settles O29: every access of the window ends in Calm where it begins. -/
theorem calmShutsTheWindow : Obligations.CalmShutsTheWindow := fun s rq calm =>
  have shut : ∀ off data, s.chip.fresh.access rq off data = s.chip.fresh := fun _ => Chip.access_calm (m := s.chip.fresh) calm
  ⟨fun _ data => completes_of_chip rfl (Chip.cwWrite_calm (m := s.chip.fresh) calm _ data),
    fun _ n => completes_of_chip rfl (Chip.cwRead_calm (m := s.chip.fresh) calm _ n),
    fun _ _ => completes_of_chip rfl (shut _ _), fun _ => ⟨completes_of_chip rfl (shut _ _), completes_of_chip rfl (shut _ _)⟩⟩

end Sys2Proof.Machine
end

section
/-! PROOFS, family 02_islands_and_flow_tags. Writes of the control window to islands, barriers, images, ports, channels and dies (R42, R58, R72,
R98, R222, R229, R242, R474): O40. -/

namespace Sys2Proof.Machine

variable {m : Chip} {rq : Rq} {w : Nat}

/-! ## ISL (R42, R58, R474) -/

theorem fieldsAt_islCtl (i : Isl) :
    fieldsAt (ISL_CTL.RST.off i) = [ISL_CTL.RST, ISL_CTL.AUTOWAKE, ISL_CTL.PWR_REQ].map fun g => (g, i.val) := by
  revert i
  decide +kernel

theorem Fld.takes_b1 {g : Fld} (plain : oddRanges.find? (fun e => decide (e.1 = g)) = none) (least : g.vmin = 0) (most : g.vmax = 1) (b : Bool) :
    g.takes (b1 b) = true :=
  Fld.takes_of_range plain (by omega) (by cases b <;> simp [b1, most])

/-- A write of an island's ISL_CTL stores AUTOWAKE and PWR_REQ, then power is looked at, then RST acts. -/
theorem Chip.cwPut_islCtl {i : Isl} (open_ : m.writable rq (ISL_CTL.RST.off i)) (notAon : i.val ≠ 0) {rst pwrReq autowake : Bool}
    (rstBit : bitOf w 7 = rst) (autowakeBit : bits w 1 1 = b1 autowake) (pwrReqBit : bits w 0 0 = b1 pwrReq) :
    m.cwPut rq ISL_CTL.RST w i =
      (let x := ((m.setF ISL_CTL.AUTOWAKE (b1 autowake) i).setF ISL_CTL.PWR_REQ (b1 pwrReq) i).powerPoll
       (if rst then x.islandReset i else x).late) := by
  have named : ISL_CTL.RST.index? (ISL_CTL.RST.off i) = some i.val := Fld.index?_off rfl (by decide) i.isLt
  have block : ISL_CTL.RST.off i / 0x10000 = 0x1 := by simp only [Fld.off, ISL_CTL.RST]; omega
  have notBarrier : ISL_CTL.RST.off i ≠ ISL_BARCTL.GO.off 0 := by simp only [Fld.off, ISL_CTL.RST, ISL_BARCTL.GO]; omega
  have stored : m.storeReg (ISL_CTL.RST.off i) w = (m.setF ISL_CTL.AUTOWAKE (b1 autowake) i).setF ISL_CTL.PWR_REQ (b1 pwrReq) i := by
    rw [Chip.storeReg_plain _ i.val (fieldsAt_islCtl i), ← autowakeBit, ← pwrReqBit]
    · rfl
    · simpa using ⟨.inr (.inl rfl), .inl ⟨rfl, (congrArg _ autowakeBit).trans (Fld.takes_b1 (by decide) rfl rfl autowake)⟩,
        .inl ⟨rfl, (congrArg _ pwrReqBit).trans (Fld.takes_b1 (by decide) rfl rfl pwrReq)⟩⟩
  rw [Chip.cwPut_open open_.1 (by rw [fieldsAt_islCtl]; rfl), Chip.writeReg_ISL open_.2 block, Chip.cwISL, if_neg notBarrier]
  simp only [named, if_neg notAon, stored, rstBit]

section
variable {i : Isl} (open_ : m.writable rq (ISL_CTL.RST.off i)) (notAon : i.val ≠ 0) (pwrReq autowake : Bool)
include open_ notAon

theorem Chip.cwPut_pwrReq :
    m.cwPut rq ISL_CTL.RST (b1 pwrReq * 2 ^ ISL_CTL.PWR_REQ.lo + b1 autowake * 2 ^ ISL_CTL.AUTOWAKE.lo) i =
      (((m.setF ISL_CTL.AUTOWAKE (b1 autowake) i).setF ISL_CTL.PWR_REQ (b1 pwrReq) i).powerPoll).late := by
  have word : ∀ pwrReq autowake : Bool, let w := b1 pwrReq * 2 ^ ISL_CTL.PWR_REQ.lo + b1 autowake * 2 ^ ISL_CTL.AUTOWAKE.lo
      bitOf w 7 = false ∧ bits w 1 1 = b1 autowake ∧ bits w 0 0 = b1 pwrReq := by decide
  obtain ⟨rstBit, autowakeBit, pwrReqBit⟩ := word pwrReq autowake
  rw [Chip.cwPut_islCtl open_ notAon rstBit autowakeBit pwrReqBit]
  simp only [Bool.false_eq_true, if_false]

theorem Chip.cwPut_islandReset :
    m.cwPut rq ISL_CTL.RST (2 ^ ISL_CTL.RST.lo + b1 pwrReq * 2 ^ ISL_CTL.PWR_REQ.lo + b1 autowake * 2 ^ ISL_CTL.AUTOWAKE.lo) i =
      (((m.setF ISL_CTL.AUTOWAKE (b1 autowake) i).setF ISL_CTL.PWR_REQ (b1 pwrReq) i).powerPoll.islandReset i).late := by
  have word : ∀ pwrReq autowake : Bool,
      let w := 2 ^ ISL_CTL.RST.lo + b1 pwrReq * 2 ^ ISL_CTL.PWR_REQ.lo + b1 autowake * 2 ^ ISL_CTL.AUTOWAKE.lo
      bitOf w 7 = true ∧ bits w 1 1 = b1 autowake ∧ bits w 0 0 = b1 pwrReq := by decide
  obtain ⟨rstBit, autowakeBit, pwrReqBit⟩ := word pwrReq autowake
  rw [Chip.cwPut_islCtl open_ notAon rstBit autowakeBit pwrReqBit]
  simp only [if_true]

end

/-- A write of ISL_BARCTL with GO stores SNAP and TWIN and requests the barrier they describe. -/
theorem Chip.cwPut_barctl (open_ : m.writable rq (ISL_BARCTL.GO.off 0)) (snap twin : Bool) :
    m.cwPut rq ISL_BARCTL.GO (2 ^ ISL_BARCTL.GO.lo + b1 snap * 2 ^ ISL_BARCTL.SNAP.lo + b1 twin * 2 ^ ISL_BARCTL.TWIN.lo) =
      (((m.setF ISL_BARCTL.SNAP (b1 snap)).setF ISL_BARCTL.TWIN (b1 twin)).barRequest .cw snap twin none).powerPoll := by
  have word : ∀ snap twin : Bool, let w := 2 ^ ISL_BARCTL.GO.lo + b1 snap * 2 ^ ISL_BARCTL.SNAP.lo + b1 twin * 2 ^ ISL_BARCTL.TWIN.lo
      bitOf w 0 = true ∧ bitOf w 1 = twin ∧ bitOf w 2 = snap ∧ bits w 1 1 = b1 twin ∧ bits w 2 2 = b1 snap := by decide
  obtain ⟨go, twinBit, snapBit, twinField, snapField⟩ := word snap twin
  generalize 2 ^ ISL_BARCTL.GO.lo + b1 snap * 2 ^ ISL_BARCTL.SNAP.lo + b1 twin * 2 ^ ISL_BARCTL.TWIN.lo = w at *
  have stored : m.storeReg (ISL_BARCTL.GO.off 0) w = (m.setF ISL_BARCTL.SNAP (b1 snap)).setF ISL_BARCTL.TWIN (b1 twin) := by
    rw [Chip.storeReg_plain [ISL_BARCTL.SNAP, ISL_BARCTL.TWIN, ISL_BARCTL.GO] 0 (by decide), ← snapField, ← twinField]
    · rfl
    · simpa using ⟨.inl ⟨rfl, (congrArg _ snapField).trans (Fld.takes_b1 (by decide) rfl rfl snap)⟩,
        .inl ⟨rfl, (congrArg _ twinField).trans (Fld.takes_b1 (by decide) rfl rfl twin)⟩, .inr (.inl rfl)⟩
  rw [Chip.cwPut_open open_.1 (by decide), Chip.writeReg_ISL open_.2 (by decide), Chip.cwISL, if_pos rfl]
  simp only [stored, go, twinBit, snapBit, if_true]

/-! ## IMG (R72) -/

/-- With no operation running an image command stores SRC and OP, and GO starts what they name. -/
theorem Chip.imgPut_idle (open_ : m.writable rq (IMG_CMD.GO.off 0)) (idle : m.f IMG_STAT.BUSY ≠ 1) (op : Fin 5) (src : Bool) :
    m.imgPut rq op src =
      (((m.setF IMG_CMD.SRC (b1 src)).setF IMG_CMD.OP op).imgGo op (b1 src)).late := by
  have word : ∀ (op : Fin 5) (src : Bool), let w := 2 ^ IMG_CMD.GO.lo + b1 src * 2 ^ IMG_CMD.SRC.lo + op.val * 2 ^ IMG_CMD.OP.lo
      bits w 4 4 = b1 src ∧ bits w 3 0 = op ∧ IMG_CMD.OP.takes op = true ∧ op.val % IMG_CMD.OP.span = op ∧ b1 src % IMG_CMD.SRC.span = b1 src := by
    decide
  obtain ⟨srcField, opField, known, opFits, srcFits⟩ := word op src
  have go := imgWord_sets_go op src
  rw [Chip.imgPut]
  generalize 2 ^ IMG_CMD.GO.lo + b1 src * 2 ^ IMG_CMD.SRC.lo + op.val * 2 ^ IMG_CMD.OP.lo = w at *
  have stored : m.storeReg (IMG_CMD.GO.off 0) w = (m.setF IMG_CMD.SRC (b1 src)).setF IMG_CMD.OP op := by
    rw [Chip.storeReg_plain [IMG_CMD.GO, IMG_CMD.SRC, IMG_CMD.OP] 0 (by decide), ← srcField, ← opField]
    · rfl
    · simpa using ⟨.inr (.inl rfl), .inl ⟨rfl, (congrArg _ srcField).trans (Fld.takes_b1 (by decide) rfl rfl src)⟩,
        .inl ⟨rfl, (congrArg _ opField).trans known⟩⟩
  have opHeld : ((m.setF IMG_CMD.SRC (b1 src)).setF IMG_CMD.OP op).f IMG_CMD.OP = op := (Chip.f_setF_same ..).trans opFits
  have srcHeld : ((m.setF IMG_CMD.SRC (b1 src)).setF IMG_CMD.OP op).f IMG_CMD.SRC = b1 src :=
    (Chip.f_setF_ne _ _ _ _ _ _ (by decide)).trans ((Chip.f_setF_same ..).trans srcFits)
  rw [Chip.cwPut_open open_.1 (by decide), Chip.writeReg_IMG open_.2 (by decide), Chip.cwIMG, if_pos rfl, if_neg fun h => idle h.2]
  simp only [stored, go, if_true, opHeld, srcHeld]

/-- What IMG_CMD's fields leave of the other registers of the block. -/
theorem Chip.f_imgCmd {g : Fld} (other : g.key 0 ≠ IMG_CMD.SRC.key 0 ∧ g.key 0 ≠ IMG_CMD.OP.key 0) (m : Chip) (src op : Nat) :
    ((m.setF IMG_CMD.SRC src).setF IMG_CMD.OP op).f g = m.f g :=
  (Chip.f_setF_ne _ _ _ _ _ _ other.2).trans (Chip.f_setF_ne _ _ _ _ _ _ other.1)

section
variable (idle : m.f IMG_STAT.BUSY ≠ 1)
include idle

theorem Chip.imgGo_nop (src : Nat) : m.imgGo 0 src = m := (if_neg idle).trans (if_pos (Or.inl rfl))

theorem Chip.imgGo_activate (src : Nat) : m.imgGo 3 src = m.imgActivate := (if_neg idle).trans ((if_neg (by decide)).trans (if_pos rfl))

/-- From the staging area the image is checked at once. -/
theorem Chip.imgGo_staged {op : Nat} (checks : op ∈ [1, 2, 4]) :
    m.imgGo op 1 = m.imgCheck op (m.f IMG_LEN.LEN) (memGetBytes m.img.staging 0 (m.f IMG_LEN.LEN)) := by
  have known : (op ≠ 0 ∧ op ≤ 4) ∧ op ≠ 3 := by
    revert checks
    simp
    omega
  rw [Chip.imgGo, if_neg idle, if_neg (by omega), if_neg known.2, if_pos rfl]

/-- From the host's memory it is read first. -/
theorem Chip.imgGo_host {op : Nat} (checks : op ∈ [1, 2, 4]) :
    m.imgGo op 0 =
      (let n := m.f IMG_LEN.LEN
       (((m.setF IMG_STAT.BUSY 1).setF IMG_CMD.GO 1).setPhase (.dma op n)).hostRead 0 0 2
         [(2 ^ 32 * m.f IMG_SRC_HI.ADDR_HI + 4 * m.f IMG_SRC_LO.ADDR, n)]) := by
  have known : (op ≠ 0 ∧ op ≤ 4) ∧ op ≠ 3 := by
    revert checks
    simp
    omega
  rw [Chip.imgGo, if_neg idle, if_neg (by omega), if_neg known.2, if_neg (by decide)]

end

section
variable (open_ : m.writable rq (IMG_CMD.GO.off 0)) (idle : m.f IMG_STAT.BUSY ≠ 1) {op : Fin 5} (checks : op.val ∈ [1, 2, 4])
include open_ idle checks

theorem Chip.imgPut_staged :
    m.imgPut rq op true =
      (((m.setF IMG_CMD.SRC 1).setF IMG_CMD.OP op).imgCheck op (m.f IMG_LEN.LEN) (memGetBytes m.img.staging 0 (m.f IMG_LEN.LEN))).late := by
  have idleStill : ((m.setF IMG_CMD.SRC 1).setF IMG_CMD.OP op).f IMG_STAT.BUSY ≠ 1 := by rwa [Chip.f_imgCmd (by decide)]
  have go := Chip.imgGo_staged idleStill checks
  rw [Chip.f_imgCmd (by decide)] at go
  exact (Chip.imgPut_idle open_ idle op true).trans (congrArg Chip.late go)

theorem Chip.imgPut_host :
    m.imgPut rq op false =
      (let n := m.f IMG_LEN.LEN
       ((((((m.setF IMG_CMD.SRC 0).setF IMG_CMD.OP op).setF IMG_STAT.BUSY 1).setF IMG_CMD.GO 1).setPhase (.dma op n)).hostRead 0 0 2
         [(2 ^ 32 * m.f IMG_SRC_HI.ADDR_HI + 4 * m.f IMG_SRC_LO.ADDR, n)]).late) := by
  have idleStill : ((m.setF IMG_CMD.SRC 0).setF IMG_CMD.OP op).f IMG_STAT.BUSY ≠ 1 := by rwa [Chip.f_imgCmd (by decide)]
  have go := Chip.imgGo_host idleStill checks
  rw [Chip.f_imgCmd (by decide), Chip.f_imgCmd (by decide), Chip.f_imgCmd (by decide)] at go
  exact (Chip.imgPut_idle open_ idle op false).trans (congrArg Chip.late go)

end

theorem Chip.imgPut_nop (open_ : m.writable rq (IMG_CMD.GO.off 0)) (idle : m.f IMG_STAT.BUSY ≠ 1) (src : Bool) :
    m.imgPut rq 0 src = ((m.setF IMG_CMD.SRC (b1 src)).setF IMG_CMD.OP 0).late :=
  (Chip.imgPut_idle open_ idle 0 src).trans (congrArg Chip.late (Chip.imgGo_nop (by rwa [Chip.f_imgCmd (by decide)]) _))

theorem Chip.imgPut_activate (open_ : m.writable rq (IMG_CMD.GO.off 0)) (idle : m.f IMG_STAT.BUSY ≠ 1) (src : Bool) :
    m.imgPut rq 3 src = ((m.setF IMG_CMD.SRC (b1 src)).setF IMG_CMD.OP 3).imgActivate.late :=
  (Chip.imgPut_idle open_ idle 3 src).trans (congrArg Chip.late (Chip.imgGo_activate (by rwa [Chip.f_imgCmd (by decide)]) _))

/-- A word for IMG_DATA goes to the staging area, and the pointer moves on. -/
theorem Chip.imgDataPut_idle (open_ : m.writable rq (IMG_DATA.DATA.off 0)) (idle : m.f IMG_STAT.BUSY ≠ 1) (v : Nat) :
    m.cwPut rq IMG_DATA.DATA v =
      (let p := m.f IMG_DATAPTR.PTR % 2 ^ 20
       let m : Chip := { m with img := { m.img with staging := memSetBytes m.img.staging (4 * p) (leBytes 4 v) } }
       m.setF IMG_DATAPTR.PTR ((p + 1) % 2 ^ 20)) := by
  rw [Chip.cwPut_open open_.1 (by decide), Chip.writeReg_IMG open_.2 (by decide), Chip.cwIMG_data, Chip.imgData, if_neg idle]

/-! ## HPT (R97, R98) -/

/-- A write of a port's HPT_PCTL sets DISABLE, then retrains. -/
theorem Chip.cwPut_pctl {q : PSlot} (open_ : m.writable rq (HPT_PCTL.DISABLE.off q)) {retrain disable : Bool} (retrainBit : bitOf w 1 = retrain)
    (disableBit : bitOf w 0 = disable) :
    m.cwPut rq HPT_PCTL.DISABLE w q = (if retrain then (m.portDisable q disable).portRetrain q else m.portDisable q disable).late := by
  have named : ∀ q : PSlot, HPT_PCTL.DISABLE.index? (HPT_PCTL.DISABLE.off q) = some q.val ∧
      (fieldsAt (HPT_PCTL.DISABLE.off q)).isEmpty = false ∧ HPT_PCTL.DISABLE.off q / 0x10000 = 0x3 := by decide +kernel
  obtain ⟨index, listed, block⟩ := named q
  rw [Chip.cwPut_open open_.1 listed, Chip.writeReg_HPT open_.2 block]
  simp only [Chip.cwHPT, index, retrainBit, disableBit]

theorem Chip.cwPut_portRetrain {q : PSlot} (open_ : m.writable rq (HPT_PCTL.DISABLE.off q)) (disable : Bool) :
    m.cwPut rq HPT_PCTL.DISABLE (2 ^ HPT_PCTL.RETRAIN.lo + b1 disable * 2 ^ HPT_PCTL.DISABLE.lo) q =
      ((m.portDisable q disable).portRetrain q).late := by
  rw [Chip.cwPut_pctl (retrain := true) (disable := disable) open_ (by cases disable <;> decide) (by cases disable <;> decide), if_pos rfl]

theorem Chip.cwPut_portDisable {q : PSlot} (open_ : m.writable rq (HPT_PCTL.DISABLE.off q)) (disable : Bool) :
    m.cwPut rq HPT_PCTL.DISABLE (b1 disable * 2 ^ HPT_PCTL.DISABLE.lo) q = (m.portDisable q disable).late := by
  rw [Chip.cwPut_pctl (retrain := false) (disable := disable) open_ (by cases disable <;> decide) (by cases disable <;> decide),
    if_neg Bool.false_ne_true]

section
variable {q : Nat}

theorem Chip.portDisable_unused (unused : m.portUsed q = false) (v : Bool) : m.portDisable q v = m.setF HPT_PCTL.DISABLE (b1 v) q :=
  if_pos (by simp [unused])

theorem Chip.portDisable_disables (used : m.portUsed q = true) (enabled : m.f HPT_PCTL.DISABLE q = 0) :
    m.portDisable q true = ((m.setF HPT_PCTL.DISABLE 1 q).linkDown q).setF HPT_PSTAT.STATE 6 q := by
  simp [Chip.portDisable, used, enabled]

theorem Chip.portDisable_enables (used : m.portUsed q = true) (disabled : m.f HPT_PCTL.DISABLE q = 1) :
    m.portDisable q false = ((m.setF HPT_PCTL.DISABLE 0 q).setF HPT_PSTAT.STATE 0 q).startTraining q := by
  simp [Chip.portDisable, used, disabled]

end

/-! ## FCH (R222, R229) -/

section
variable {ch : Chan} {hold : Bool} (open_ : m.writable rq (FCH_CTL.HOLD.off ch)) (free : m.rwlOpen (FCH_CTL.HOLD.off ch) % 2 = 1)
include open_ free

/-- A write of a channel's FCH_CTL that may change HOLD follows it, then resets the dies, then trains. -/
theorem Chip.cwPut_fchCtl {reset train : Bool} (holdField : bits w 0 0 = b1 hold) (resetBit : bitOf w 2 = reset) (trainBit : bitOf w 1 = train) :
    m.cwPut rq FCH_CTL.HOLD w ch =
      (let x := if b1 hold = m.f FCH_CTL.HOLD ch then m else m.chanHold ch hold
       let x := if reset then x.chanReset ch else x
       (if train then x.chanTrain ch else x).late) := by
  have named : ∀ ch : Chan, FCH_CTL.HOLD.index? (FCH_CTL.HOLD.off ch) = some ch.val ∧ (fieldsAt (FCH_CTL.HOLD.off ch)).isEmpty = false ∧
      0x10 ≤ FCH_CTL.HOLD.off ch / 0x10000 ∧ FCH_CTL.HOLD.off ch / 0x10000 ≤ 0x15 := by decide +kernel
  obtain ⟨index, listed, least, most⟩ := named ch
  have asked := Chip.asked_open (m := m) (g := FCH_CTL.HOLD) (off := FCH_CTL.HOLD.off ch) rfl
    ((bits_eq_div_mod _ 0 0).trans (by rw [Nat.pow_zero, Nat.div_one]; exact free)) w ch
  have isSet : decide (b1 hold = 1) = hold := by cases hold <;> rfl
  rw [Chip.cwPut_open open_.1 listed, Chip.writeReg_FCH open_.2 least most]
  simp only [Chip.cwFCH, index, asked, resetBit, trainBit]
  rw [show bits w FCH_CTL.HOLD.hi FCH_CTL.HOLD.lo = b1 hold from holdField]
  simp only [isSet]

theorem Chip.cwPut_channelHold :
    m.cwPut rq FCH_CTL.HOLD (b1 hold * 2 ^ FCH_CTL.HOLD.lo) ch =
      (if b1 hold = m.f FCH_CTL.HOLD ch then m else m.chanHold ch hold).late := by
  have word : ∀ hold : Bool, let w := b1 hold * 2 ^ FCH_CTL.HOLD.lo
      bits w 0 0 = b1 hold ∧ bitOf w 2 = false ∧ bitOf w 1 = false := by decide
  obtain ⟨holdField, resetBit, trainBit⟩ := word hold
  rw [Chip.cwPut_fchCtl open_ free holdField resetBit trainBit]
  simp only [Bool.false_eq_true, if_false]

theorem Chip.cwPut_channelResetDies :
    m.cwPut rq FCH_CTL.HOLD (2 ^ FCH_CTL.RESETDIES.lo + b1 hold * 2 ^ FCH_CTL.HOLD.lo) ch =
      ((if b1 hold = m.f FCH_CTL.HOLD ch then m else m.chanHold ch hold).chanReset ch).late := by
  have word : ∀ hold : Bool, let w := 2 ^ FCH_CTL.RESETDIES.lo + b1 hold * 2 ^ FCH_CTL.HOLD.lo
      bits w 0 0 = b1 hold ∧ bitOf w 2 = true ∧ bitOf w 1 = false := by decide
  obtain ⟨holdField, resetBit, trainBit⟩ := word hold
  rw [Chip.cwPut_fchCtl open_ free holdField resetBit trainBit]
  simp only [Bool.false_eq_true, if_false, if_true]

theorem Chip.cwPut_channelTrain :
    m.cwPut rq FCH_CTL.HOLD (2 ^ FCH_CTL.TRAIN.lo + b1 hold * 2 ^ FCH_CTL.HOLD.lo) ch =
      ((if b1 hold = m.f FCH_CTL.HOLD ch then m else m.chanHold ch hold).chanTrain ch).late := by
  have word : ∀ hold : Bool, let w := 2 ^ FCH_CTL.TRAIN.lo + b1 hold * 2 ^ FCH_CTL.HOLD.lo
      bits w 0 0 = b1 hold ∧ bitOf w 2 = false ∧ bitOf w 1 = true := by decide
  obtain ⟨holdField, resetBit, trainBit⟩ := word hold
  rw [Chip.cwPut_fchCtl open_ free holdField resetBit trainBit]
  simp only [Bool.false_eq_true, if_false, if_true]

end

theorem b1_ne_of_eq_other {hold : Bool} {n : Nat} (other : n = 1 - b1 hold) : b1 hold ≠ n := by
  rw [other]
  cases hold <;> decide

/-! ## LDP (R242) -/

/-- A die in service that LDP_DIECMD names retires. -/
theorem Chip.cwPut_dieRetire {die : Fin 4096} (open_ : m.writable rq (LDP_DIECMD.GO.off 0)) (exists_ : die.val ≤ 3071)
    (serves : m.f FCH_DIE.STATE die = 2) :
    m.cwPut rq LDP_DIECMD.GO (2 ^ LDP_DIECMD.GO.lo + 2 ^ LDP_DIECMD.OP.lo + die.val * 2 ^ LDP_DIECMD.DIE.lo) =
      (((m.setF LDP_DIECMD.OP 1).setF LDP_DIECMD.DIE die).retireDie die 8).late := by
  obtain ⟨d, dieFits⟩ := die
  dsimp only at *
  have go : bitOf (2 ^ LDP_DIECMD.GO.lo + 2 ^ LDP_DIECMD.OP.lo + d * 2 ^ LDP_DIECMD.DIE.lo) 31 = true := by
    rw [bitOf_eq_div_mod]
    refine decide_eq_true ?_
    simp only [LDP_DIECMD.GO, LDP_DIECMD.OP, LDP_DIECMD.DIE]
    omega
  have opField : bits (2 ^ LDP_DIECMD.GO.lo + 2 ^ LDP_DIECMD.OP.lo + d * 2 ^ LDP_DIECMD.DIE.lo) 27 24 = 1 := by
    rw [bits_eq_div_mod]
    simp only [LDP_DIECMD.GO, LDP_DIECMD.OP, LDP_DIECMD.DIE]
    omega
  have dieField : bits (2 ^ LDP_DIECMD.GO.lo + 2 ^ LDP_DIECMD.OP.lo + d * 2 ^ LDP_DIECMD.DIE.lo) 11 0 = d := by
    rw [bits_eq_div_mod]
    simp only [LDP_DIECMD.GO, LDP_DIECMD.OP, LDP_DIECMD.DIE]
    omega
  generalize 2 ^ LDP_DIECMD.GO.lo + 2 ^ LDP_DIECMD.OP.lo + d * 2 ^ LDP_DIECMD.DIE.lo = w at *
  have stored : m.storeReg (LDP_DIECMD.GO.off 0) w = (m.setF LDP_DIECMD.OP 1).setF LDP_DIECMD.DIE d := by
    rw [Chip.storeReg_plain [LDP_DIECMD.GO, LDP_DIECMD.OP, LDP_DIECMD.DIE] 0 (by decide), ← opField]
    · exact congrArg (Chip.setF _ _) dieField
    · simpa using ⟨.inr (.inl rfl), .inl ⟨rfl, (congrArg _ opField).trans (by decide)⟩,
        .inl ⟨rfl, (congrArg _ dieField).trans (Fld.takes_of_range (by decide) (Nat.zero_le _) exists_)⟩⟩
  have op : ((m.setF LDP_DIECMD.OP 1).setF LDP_DIECMD.DIE d).f LDP_DIECMD.OP = 1 :=
    (Chip.f_setF_ne _ _ _ _ _ _ (by decide)).trans (m.f_setF_same _ _ _)
  have named : ((m.setF LDP_DIECMD.OP 1).setF LDP_DIECMD.DIE d).f LDP_DIECMD.DIE = d :=
    (Chip.f_setF_same ..).trans (Nat.mod_eq_of_lt dieFits)
  have servesStill : ((m.setF LDP_DIECMD.OP 1).setF LDP_DIECMD.DIE d).f FCH_DIE.STATE d = 2 := by
    rw [Chip.f_setF_ne, Chip.f_setF_ne, serves] <;> simp only [Fld.key, Fld.off, FCH_DIE.STATE, LDP_DIECMD.OP, LDP_DIECMD.DIE] <;> omega
  rw [Chip.cwPut_open open_.1 (by decide), Chip.writeReg_LDP open_.2 (by decide), Chip.cwLDP, if_neg (by decide), if_pos rfl]
  simp only [stored, go, op, named, and_self, if_true, Chip.dieCmd, servesStill]

/-- Settles O40, row by row in the order of the statement. -/
theorem islandImageAndPortWritesComplete : Obligations.IslandImageAndPortWritesComplete :=
  -- IMG_DATA_WRITE, ISLAND_PWR_REQ_WRITE, ISLAND_RESET, BARRIER_REQUEST
  ⟨fun _ _ v open_ idle => completes_of_chip rfl (Chip.imgDataPut_idle (Chip.writable_fresh open_) idle v.toNat),
    fun _ _ _ pwrReq autowake open_ notAon => completes_of_chip rfl (Chip.cwPut_pwrReq (Chip.writable_fresh open_) notAon pwrReq autowake),
    fun _ _ _ pwrReq autowake open_ notAon => completes_of_chip rfl (Chip.cwPut_islandReset (Chip.writable_fresh open_) notAon pwrReq autowake),
    fun _ _ snap twin open_ => completes_of_chip rfl (Chip.cwPut_barctl (Chip.writable_fresh open_) snap twin),
    -- IMG_NOP, VERIFY, STORE, ACTIVATE, LIVE
    fun _ _ src open_ idle => completes_of_chip rfl (Chip.imgPut_nop (Chip.writable_fresh open_) idle src),
    fun _ _ open_ idle => completes_of_chip rfl (Chip.imgPut_staged (op := 1) (Chip.writable_fresh open_) idle (by decide)),
    fun _ _ open_ idle => completes_of_chip rfl (Chip.imgPut_host (op := 1) (Chip.writable_fresh open_) idle (by decide)),
    fun _ _ open_ idle => completes_of_chip rfl (Chip.imgPut_staged (op := 2) (Chip.writable_fresh open_) idle (by decide)),
    fun _ _ open_ idle => completes_of_chip rfl (Chip.imgPut_host (op := 2) (Chip.writable_fresh open_) idle (by decide)),
    fun _ _ src open_ idle => completes_of_chip rfl (Chip.imgPut_activate (Chip.writable_fresh open_) idle src),
    fun _ _ open_ idle => completes_of_chip rfl (Chip.imgPut_staged (op := 4) (Chip.writable_fresh open_) idle (by decide)),
    fun _ _ open_ idle => completes_of_chip rfl (Chip.imgPut_host (op := 4) (Chip.writable_fresh open_) idle (by decide)),
    -- PORT_RETRAIN, PORT_DISABLE
    fun _ _ _ disable open_ => completes_of_chip rfl (Chip.cwPut_portRetrain (Chip.writable_fresh open_) disable),
    fun s _ _ open_ used enabled => completes_of_chip rfl ((Chip.cwPut_portDisable (Chip.writable_fresh open_) true).trans
      (congrArg Chip.late (Chip.portDisable_disables (m := s.chip.fresh) used enabled))),
    fun s _ _ open_ used disabled => completes_of_chip rfl ((Chip.cwPut_portDisable (Chip.writable_fresh open_) false).trans
      (congrArg Chip.late (Chip.portDisable_enables (m := s.chip.fresh) used disabled))),
    fun s _ _ disable open_ unused => completes_of_chip rfl ((Chip.cwPut_portDisable (Chip.writable_fresh open_) disable).trans
      (congrArg Chip.late (Chip.portDisable_unused (m := s.chip.fresh) unused disable))),
    -- CHANNEL_HOLD, CHANNEL_RESET_DIES, CHANNEL_TRAIN
    fun _ _ _ _ open_ free other => completes_of_chip rfl ((Chip.cwPut_channelHold (Chip.writable_fresh open_) free).trans
      (congrArg Chip.late (if_neg (b1_ne_of_eq_other other)))),
    fun _ _ ch _ open_ free other => completes_of_chip rfl ((Chip.cwPut_channelResetDies (Chip.writable_fresh open_) free).trans
      (congrArg (fun m : Chip => (m.chanReset ch).late) (if_neg (b1_ne_of_eq_other other)))),
    fun _ _ ch _ open_ free other => completes_of_chip rfl ((Chip.cwPut_channelTrain (Chip.writable_fresh open_) free).trans
      (congrArg (fun m : Chip => (m.chanTrain ch).late) (if_neg (b1_ne_of_eq_other other)))),
    fun _ _ ch _ open_ same free => completes_of_chip rfl ((Chip.cwPut_channelResetDies (Chip.writable_fresh open_) free).trans
      (congrArg (fun m : Chip => (m.chanReset ch).late) (if_pos same.symm))),
    fun _ _ ch _ open_ same free => completes_of_chip rfl ((Chip.cwPut_channelTrain (Chip.writable_fresh open_) free).trans
      (congrArg (fun m : Chip => (m.chanTrain ch).late) (if_pos same.symm))),
    -- DIE_RETIRE
    fun s _ _ open_ exists_ serves => completes_of_chip rfl (Chip.cwPut_dieRetire (m := s.chip.fresh) (Chip.writable_fresh open_) exists_ serves)⟩

end Sys2Proof.Machine
end

section
/-! PROOFS, family 05_queues_and_intake. Reads, writes and appends and their steps (R127, R131 to R135, R145, R250, R270, R273, R281 to R283, R290):
what each does in each case, and O44. -/

namespace Sys2Proof.Machine

variable {m : Chip} {i z : Nat} {c : Cmd} {n : Ns}

/-! ## Acceptance (R127, R131, R145) -/

/-- A Read of zones of which none is Offline is cut into parts by source, and each part starts. -/
theorem Chip.read_at (h : m.ioAt i 0x02 c n)
    (online : (n.ranges (slbaOf c.entry) (nlbOf c.entry)).any (fun r => decide ((m.zone r.1).state = zso)) = false) :
    m.read i =
      (let parts := (n.ranges (slbaOf c.entry) (nlbOf c.entry)).flatMap fun r => m.cutParts r.1 none (r.2.2 / 512 + 4) r.2.1 r.2.2
       let m := (m.addF QIE_WBHIT.COUNT (stretches .buffer parts)).addF QIE_OVLWAIT.COUNT (stretches .wait parts)
       let m := m.modCmd i fun c => { c with phase := .running, parts := parts }
       let m := if c.peer.isSome then m else m.askPtrs i (m.xferBytes false c.entry)
       let m := (List.range parts.length).foldl (fun (m : Chip) k => m.startPart i k) m
       m.settleRead i) :=
  (Chip.ioCmd_at h _).trans (if_neg (ne_true_of_eq_false online))

section
variable {op : Nat} {append : Bool} (h : m.ioAt i op c n) (named : c.zone = some z)
include h named

/-- A write to a conventional zone takes no range. -/
theorem Chip.write_conventional (type : (m.zone z).type = 2)
    (online : (m.cmdZones c).any (fun z => decide ((m.zone z).state = zso)) = false)
    (writable : (m.cmdZones c).any (fun z => decide ((m.zone z).state = zsro)) = false) :
    m.write i op append =
      (let m := (m.cmdZones c).foldl (fun (m : Chip) z => m.setZone z { m.zone z with lastWrite := m.now }) m
       (((m.modCmd i fun c => { c with phase := .running }).unclean).takeIn i).readBesides i c n) := by
  refine (Chip.ioCmd_at h _).trans ?_
  simp only [named]
  exact (if_pos type).trans ((if_neg (ne_true_of_eq_false online)).trans (if_neg (ne_true_of_eq_false writable)))

/-- A write that its sequential zone takes reserves its range first. -/
theorem Chip.write_sequential (type : (m.zone z).type ≠ 2) {off resv : Nat} (place : (if append then (m.zone z).rwp else c.off) = off)
    (units : (if (m.zone z).type = 1 then reserveUnits (off * 2 ^ n.lbaLog) (c.nlb * 2 ^ n.lbaLog) else 0) = resv)
    (passes : (m.zone z).checkWrite append c.off c.nlb n.zoneLbas resv = none) (taken : (m.takeZone z zsio c.hint).2 = none) :
    m.write i op append =
      (let m := (m.takeZone z zsio c.hint).1
       let m := m.setZone z { m.zone z with rwp := (m.zone z).rwp + c.nlb, rpp := (m.zone z).rpp + resv, lastWrite := m.now }
       let m := m.modCmd i fun c => { c with phase := .running, off := off, resv := resv }
       m.unclean.takeIn i) := by
  have took : m.takeZone z zsio c.hint = ((m.takeZone z zsio c.hint).1, none) := Prod.ext rfl taken
  refine (Chip.ioCmd_at h _).trans ?_
  simp only [named]
  refine (if_neg type).trans ?_
  simp only [place, units, passes]
  rw [took]

end

/-! ## Dataset Management and Flush (R94, R134, R145) -/

/-- An accepted Dataset Management is not yet at its end. -/
theorem Chip.deallocate_at (h : m.ioAt i 0x09 c n) :
    m.deallocate i = if c.peer.isSome then m.finish i (some stOk)
      else (m.modCmd i fun c => { c with phase := .running, dataOpen := true }).fetchData i c.want := by
  have io := Chip.ioCmd_at h fun c _ m => if c.peer.isSome then m.finish i (some stOk)
    else (m.modCmd i fun c => { c with phase := .running, dataOpen := true }).fetchData i c.want
  obtain ⟨found, _, accepted, _⟩ := h
  simp only [Chip.deallocate, found]
  exact (if_neg (by simp [accepted])).trans io

/-- With its ranges read it completes. -/
theorem Chip.deallocate_read (found : m.cmd? i = some c) (io : c.admin = false) (opcode : opcodeOf c.entry = 0x09) (running : c.phase = .running)
    (own : c.fwd = false) (all : c.takesData = false) : m.deallocate i = m.finish i (some stOk) := by
  simp [Chip.deallocate, found, io, opcode, running, own, all]

theorem flush_finishes {slot : SlotId} {s : State} (found : s.chip.cmd? slot = some c) (io : c.admin = false) (accepted : c.phase = .accepted)
    (opcode : opcodeOf c.entry = 0x00) (noneEarlier : s.chip.flushWaits c = false) :
    Completes (.flush slot) s fun m => m.finish slot (some stOk) := by
  have found' : s.chip.fresh.cmd? slot = some c := found
  have noneEarlier' : s.chip.fresh.flushWaits c = false := noneEarlier
  refine completes_of_chip rfl ?_
  simp [found', io, accepted, opcode, noneEarlier']

/-! ## Parity, encryption and commit (R135, R250, R290) -/

/-- Whether the controllers run as a pair depends on the registers and the twin's state alone. -/
theorem Chip.paired_congr {x m : Chip} (regs : x.regs = m.regs) (tw : x.tw = m.tw) : x.paired = m.paired := by
  unfold Chip.paired Chip.f
  rw [regs, tw]

/-- Alone, a command's data is folded and no frame goes out. -/
theorem Chip.parityFold_alone (found : m.cmd? i = some c) (named : c.zone = some z) (writing : c.writing = true) (staged : c.staged = true)
    (unfolded : c.folded = false) (own : c.fwd = false) (turn : m.inTurn z c = true) (alone : m.paired = false) :
    m.parityFold i = m.modCmd i fun c => { c with folded := true } := by
  have aloneStill : ∀ g, (m.modCmd i g).paired = false := fun g => (Chip.paired_congr (m.modCmd_regs i g) (m.modCmd_tw i g)).trans alone
  simp [Chip.parityFold, found, named, writing, staged, unfolded, own, turn, aloneStill]

/-- The last units of a write's data make it staged, and it goes to the twin. -/
theorem Chip.xtsDone_last {units : Nat} (found : m.cmd? i = some c) (named : c.zone = some z) (writing : c.writing = true) (unstaged : c.staged = false)
    (lane : m.onXts i c = true) (key : m.keyLoaded (nsidOf c.entry) = true) (stored : m.allStored c = true)
    (last : ceilDiv (m.storedPlain c).length 256 ≤ c.enc + units) :
    m.xtsDone i units =
      (let all := ceilDiv (m.storedPlain c).length 256
       let m := m.addWide CPH_XTSBYTES_LO.BYTES CPH_XTSBYTES_HI.BYTES ((all - c.enc) * 256)
       (m.modCmd i fun c => { c with enc := all, staged := true }).mirrorData i c z) := by
  have storedStill : ∀ k, (m.addWide CPH_XTSBYTES_LO.BYTES CPH_XTSBYTES_HI.BYTES k).allStored c = true := fun k =>
    (Chip.allStored_congr (m.addWide_zn _ _ _ _) c).trans stored
  simp [Chip.xtsDone, found, named, writing, unstaged, lane, key, Nat.min_eq_right last, storedStill]

section
variable (found : m.cmd? i = some c) (named : c.zone = some z) (may : m.canCommit i z c = true)
include found named may

theorem Chip.commit_lost (lost : c.parts.any (fun p => decide (p.lost ≠ [])) = true) : m.commit i = m.endCmd i (some stUnrecovered) := by
  simp only [Chip.commit, found, named]
  exact (if_neg (not_not_of_true may)).trans (if_pos lost)

variable (whole : c.parts.any (fun p => decide (p.lost ≠ [])) = false) {r : Cmd} (record : m.nextRecord z c = some r)
include whole record

/-- The first of two records leaves the command committed. -/
theorem Chip.commit_first (running : c.phase = .running) (two : 1 < ((m.commitRecord i z r).records z c).length) :
    m.commit i = ((m.commitRecord i z r).modCmd i fun c => { c with phase := .committed }).reclassify z := by
  simp only [Chip.commit, found, named]
  refine (if_neg (not_not_of_true may)).trans ((if_neg (ne_true_of_eq_false whole)).trans ?_)
  simp only [record]
  exact if_pos ⟨running, two⟩

/-- The last record ends the command, and the zone is looked at. -/
theorem Chip.commit_last (last : c.phase = .committed ∨ ((m.commitRecord i z r).records z c).length ≤ 1) :
    m.commit i =
      (let m := m.commitRecord i z r
       let x := m.zone z
       let cap := ((m.ns? x.nsid).map (·.zoneLbas)).getD 0
       let m := m.finish i (some stOk) (if opcodeOf c.entry = 0x7D then x.zidx * cap + c.off else 0)
       let m := if x.type ≠ 2 ∧ x.cwp = cap then m.makeFull z false else m.lastGranule z
       (m.checkPending z).reclassify z) := by
  have notFirst : ¬(c.phase = .running ∧ 1 < ((m.commitRecord i z r).records z c).length) := by
    rintro ⟨running, two⟩
    rcases last with committed | one
    · rw [running] at committed
      cases committed
    · omega
  simp only [Chip.commit, found, named]
  refine (if_neg (not_not_of_true may)).trans ((if_neg (ne_true_of_eq_false whole)).trans ?_)
  simp only [record]
  exact if_neg notFirst

end

/-! ## Compression (R270 to R283) -/

theorem Chip.elasticCmd_of (ns : m.ns? (nsidOf c.entry) = some n) : m.elasticCmd c = n.elastic := by
  simp [Chip.elasticCmd, ns]

/-- A compress engine ends the next block of a command with a payload it may make. -/
theorem compressBlockDone_ends {s : State} {slot : SlotId} {payload : List Byte} {e b k : Nat} (found : s.chip.cmd? slot = some c)
    (ns : s.chip.ns? (nsidOf c.entry) = some n) (elastic : n.elastic = true) (writing : c.writing = true)
    (next : (piecesOf (c.off * 2 ^ n.lbaLog) (c.nlb * 2 ^ n.lbaLog))[c.blocks.length]? = some (b, k))
    (arrived : (slice (c.payload n.lbaLog) (b - c.off * 2 ^ n.lbaLog) k).length = k) (engine : s.chip.compressEngine slot c.blocks.length = some e)
    (may : mayEmit c.level (slice (c.payload n.lbaLog) (b - c.off * 2 ^ n.lbaLog) k) payload = true) :
    Completes (.compressBlockDone slot payload) s (fun m =>
      let r := makeBlock c.level (b % 65536 / 512) (decide ((b + k) % 65536 ≠ 0)) (slice (c.payload n.lbaLog) (b - c.off * 2 ^ n.lbaLog) k) payload
      let m := if r.2 then m.incF CMP_RAWCNT.COUNT else m.incF CMP_BLKCNT.COUNT
      let m := (m.addWide CMP_INBYTES_LO.BYTES CMP_INBYTES_HI.BYTES k).addWide CMP_OUTBYTES_LO.BYTES CMP_OUTBYTES_HI.BYTES r.1.length
      let ends := if c.blocks.length + 1 = (piecesOf (c.off * 2 ^ n.lbaLog) (c.nlb * 2 ^ n.lbaLog)).length then [142] else []
      let m := m.send (.unit 26 (m.cmdUnitTag slot c c.kind ([155] ++ (if c.blocks = [] then [141] else []) ++ ends ++ (if r.2 then [156] else []))))
      let m := { m with eng := { m.eng with comp := tdel m.eng.comp e } }
      m.modCmd slot fun c => { c with blocks := c.blocks ++ [(b / 65536, r.1)] }) := by
  have found' : s.chip.fresh.cmd? slot = some c := found
  have ns' : s.chip.fresh.ns? (nsidOf c.entry) = some n := ns
  have engine' : s.chip.fresh.compressEngine slot c.blocks.length = some e := engine
  refine completes_of_chip rfl ?_
  simp only [found', engine', ns', Option.map_some, Option.getD_some, next]
  exact if_neg (by simp [writing, Chip.elasticCmd_of ns', elastic, arrived, may])

/-- A decompress engine ends its block and is idle; only a block whose command is there gives its bytes. -/
theorem Chip.decodeEnds_found {part lbaOff e : Nat} {stored : List Byte} {j : DecJob}
    (holds : m.eng.decomp.find? (fun h => decide (h.2.slot = i ∧ h.2.part = part ∧ h.2.lbaOff = lbaOff)) = some (e, j)) :
    m.decodeEnds i part lbaOff stored =
      (let m : Chip := { m with eng := { m.eng with decomp := tdel m.eng.decomp e } }
       (if j.live then m.decompressed i part lbaOff stored else m).settle) := by
  simp only [Chip.decodeEnds, holds]

/-- Settles O44, row by row in the order of the statement. -/
theorem readAndWriteCommandsComplete : Obligations.ReadAndWriteCommandsComplete :=
  -- READ, WRITE, WRITE_ZEROES, ZONE_APPEND
  ⟨fun _ _ _ _ at_ online => completes_of_chip rfl (congrArg Chip.settle (Chip.read_at (Chip.ioAt_fresh at_) online)),
    fun _ _ _ _ _ at_ named type online writable =>
      completes_of_chip rfl (congrArg Chip.settle (Chip.write_conventional (Chip.ioAt_fresh at_) named type online writable)),
    fun _ _ _ _ _ at_ named type passes taken =>
      completes_of_chip rfl (congrArg Chip.settle (Chip.write_sequential (Chip.ioAt_fresh at_) named type rfl rfl passes taken)),
    fun _ _ _ _ _ at_ named type online writable =>
      completes_of_chip rfl (congrArg Chip.settle (Chip.write_conventional (Chip.ioAt_fresh at_) named type online writable)),
    fun _ _ _ _ _ at_ named type passes taken =>
      completes_of_chip rfl (congrArg Chip.settle (Chip.write_sequential (Chip.ioAt_fresh at_) named type rfl rfl passes taken)),
    fun _ _ _ _ _ at_ named type passes taken =>
      completes_of_chip rfl (congrArg Chip.settle (Chip.write_sequential (Chip.ioAt_fresh at_) named type rfl rfl passes taken)),
    -- DATASET_MANAGEMENT, FLUSH
    fun _ _ _ _ at_ own => completes_of_chip rfl ((Chip.deallocate_at (Chip.ioAt_fresh at_)).trans (if_neg (by simp [own]))),
    fun s _ _ found io opcode running own all =>
      completes_of_chip rfl (Chip.deallocate_read (m := s.chip.fresh) found io opcode running own all),
    fun _ _ _ _ at_ forwarded => completes_of_chip rfl ((Chip.deallocate_at (Chip.ioAt_fresh at_)).trans (if_pos forwarded)),
    fun _ _ _ found io accepted opcode noneEarlier => flush_finishes found io accepted opcode noneEarlier,
    -- PARITY_FOLD, XTS_UNIT_DONE, WRITE_COMMIT
    fun s _ _ _ found named writing staged unfolded own turn alone =>
      completes_of_chip rfl (Chip.parityFold_alone (m := s.chip.fresh) found named writing staged unfolded own turn alone),
    fun s _ _ _ _ found named writing unstaged lane key stored last =>
      completes_of_chip rfl (congrArg Chip.settle
        (Chip.xtsDone_last (m := s.chip.fresh) found named writing unstaged lane key stored last)),
    fun s _ _ _ _ found named may whole record last =>
      completes_of_chip rfl (congrArg Chip.settle (Chip.commit_last (m := s.chip.fresh) found named may whole record last)),
    fun s _ _ _ _ found named may whole record running two =>
      completes_of_chip rfl (congrArg Chip.settle (Chip.commit_first (m := s.chip.fresh) found named may whole record running two)),
    fun s _ _ _ found named may lost =>
      completes_of_chip rfl (congrArg Chip.settle (Chip.commit_lost (m := s.chip.fresh) found named may lost)),
    -- COMPRESS_BLOCK_DONE, DECOMPRESS_BLOCK_DONE
    fun _ _ _ _ _ _ _ _ found ns elastic writing next arrived engine may =>
      compressBlockDone_ends found ns elastic writing next arrived engine may,
    fun s _ _ _ _ _ _ holds live =>
      completes_of_chip rfl ((Chip.decodeEnds_found (m := s.chip.fresh) holds).trans (congrArg Chip.settle (if_pos live))),
    fun s _ _ _ _ _ _ holds dead =>
      completes_of_chip rfl ((Chip.decodeEnds_found (m := s.chip.fresh) holds).trans
        (congrArg Chip.settle (if_neg (ne_true_of_eq_false dead))))⟩

end Sys2Proof.Machine
end

section
/-! PROOFS, family 02_islands_and_flow_tags. Units at the boundary of an island (R34, R50, R51), its turn-off (R40, R42), the DTC broadcast (R43,
R44), lost parts (R52), barriers (R57, R176), and the image's events (R72, R80, R97): O46. -/

namespace Sys2Proof.Machine

variable {m : Chip} {s : State} {i : Isl} {tag : Nat}

/-! ## Units (R34, R50, R51) -/

theorem Chip.ptbOn_disarmed (disarmed : m.f PTB_CTL.ARMED = 0) (en : Fld) : m.ptbOn en = false := by
  simp [Chip.ptbOn, disarmed]

/-- With no perturbation armed a beat is left alone. -/
theorem Chip.ptbBeat_disarmed (disarmed : m.f PTB_CTL.ARMED = 0) (i tag : Nat) : m.ptbBeat i tag = (false, m) := by
  simp [Chip.ptbBeat, Chip.ptbOn_disarmed disarmed]

/-- The chip with a unit kept at an island's porter. -/
def Chip.unitKept (m : Chip) (i tag : Nat) : Chip := { m with isl := { m.isl with units := m.isl.units ++ [(i, tag)] } }

theorem Chip.unitReceive_off (off : m.islState i = 0) : m.unitReceive i tag = (m.unitKept i tag).wakeFor i 1 := by
  simp [Chip.unitReceive, off, Chip.unitKept]

theorem Chip.unitReceive_waking (waking : m.islState i = 1 ∨ m.islState i = 4) : m.unitReceive i tag = m.unitKept i tag := by
  have notOff : m.islState i ≠ 0 := by omega
  simp [Chip.unitReceive, notOff, waking, Chip.unitKept]

/-- An island that is ON checks a unit's tag. -/
theorem Chip.unitReceive_on (on : m.islState i = 2) (disarmed : m.f PTB_CTL.ARMED = 0) : m.unitReceive i tag = (m.unitCheck i tag).settle := by
  simp [Chip.unitReceive, on, Chip.ptbBeat_disarmed disarmed]

/-- A tag that passes is all that an island other than CMP asks for. -/
theorem Chip.unitCheck_passes (passes : tagPasses tag = true) {i : Nat} (notCmp : i ≠ 26) : m.unitCheck i tag = m.unitServed i tag := by
  simp [Chip.unitCheck, passes, notCmp]

theorem Chip.unitCheck_fails (fails : tagPasses tag = false) (i : Nat) : m.unitCheck i tag = (m.tagErr i).failTagged tag := by
  simp [Chip.unitCheck, fails]

/-! ## Turn-off (R40, R42) -/

theorem Chip.drained_used {i : Nat} (draining : m.islState i = 3) (used : m.offBy i = none) : m.drained i = (m.setIsl i 2).showTrim := by
  simp [Chip.drained, draining, used]

theorem Chip.drained_unused {i : Nat} (draining : m.islState i = 3) (unused : m.offBy i ≠ none) :
    m.drained i =
      (let m := ((m.setIsl i 0).islandLost i).switchPoll.showTrim
       if m.f PWR_STAT.STATE = 4 then m.powerPoll else m) :=
  (if_neg (not_not_intro draining)).trans (if_neg unused)

/-! ## The DTC broadcast (R43, R44) -/

theorem dtcBroadcast_none (started : s.chip.st.step ≠ 0) :
    Completes (.dtcBroadcast []) s fun m =>
      { m with isl := { m.isl with dtc := (m.isl.dtc / 1024 + 1) * 1024 % 2 ^ 64, skew := [] } } :=
  completes_of_chip rfl (if_neg started)

/-- The chip with a replica's deviation kept as the worst so far, where it is larger (R44). -/
def Chip.deviationKept (m : Chip) (i : Isl) (d : Int) : Chip :=
  if m.f ISL_SKEW.WORST_TICKS < min d.natAbs 15 then
    (m.setF ISL_SKEW.WORST_TICKS (min d.natAbs 15)).setF ISL_SKEW.WORST_ISL i
  else m

/-- Before a start the master DTC stands, and a replica that serves is compared with it. -/
theorem dtcBroadcast_one {d : Int} (noStart : s.chip.st.step = 0) (serves : s.chip.islServes i = true) :
    Completes (.dtcBroadcast [(i, d)]) s fun m =>
      let m := m.deviationKept i d
      if 2 < d.natAbs then m.emit i 0x3002 d.natAbs else { m with isl := { m.isl with skew := tset 0 m.isl.skew i d } } := by
  have noStart' : s.chip.fresh.st.step = 0 := noStart
  have serves' : s.chip.fresh.islServes i = true := serves
  refine completes_of_chip rfl ?_
  simp only [List.foldl_cons, List.foldl_nil, noStart', if_true, serves', Chip.deviationKept]

theorem dtcBroadcast_small {d : Int} (noStart : s.chip.st.step = 0) (serves : s.chip.islServes i = true)
    (notWorst : d.natAbs ≤ s.chip.f ISL_SKEW.WORST_TICKS) (small : d.natAbs ≤ 2) :
    Completes (.dtcBroadcast [(i, d)]) s fun m => { m with isl := { m.isl with skew := tset 0 m.isl.skew i d } } := by
  have kept : s.chip.fresh.deviationKept i d = s.chip.fresh := if_neg (by
    rw [Chip.fresh_f]
    omega)
  refine (dtcBroadcast_one noStart serves).congr ?_
  simp only [kept, Nat.not_lt.mpr small, if_false]

theorem dtcBroadcast_worst {d : Int} (noStart : s.chip.st.step = 0) (serves : s.chip.islServes i = true)
    (worst : s.chip.f ISL_SKEW.WORST_TICKS < d.natAbs) (large : 2 < d.natAbs) (shown : d.natAbs ≤ 15) :
    Completes (.dtcBroadcast [(i, d)]) s fun m =>
      ((m.setF ISL_SKEW.WORST_TICKS d.natAbs).setF ISL_SKEW.WORST_ISL i).emit i 0x3002 d.natAbs := by
  have worst' : s.chip.fresh.f ISL_SKEW.WORST_TICKS < d.natAbs := worst
  have kept : s.chip.fresh.deviationKept i d = (s.chip.fresh.setF ISL_SKEW.WORST_TICKS d.natAbs).setF ISL_SKEW.WORST_ISL i := by
    rw [Chip.deviationKept, Nat.min_eq_left shown, if_pos worst']
  refine (dtcBroadcast_one noStart serves).congr ?_
  simp only [kept, large, if_true]

/-! ## Lost parts (R52), barriers (R57, R176) and the image's events (R72) -/

/-- A command that has made no progress and waits for nothing fails, or completes where it has committed. -/
theorem lostPartWatchdog_lost {slot : SlotId} {c : Cmd} (found : s.chip.cmd? slot = some c) (lost : s.chip.waiting slot c = false) :
    Completes (.lostPartWatchdog slot) s fun m =>
      let m := m.emit 10 0x3005 slot (some (m.cmdTag slot c))
      (if c.phase = .committed then m.finish slot (some stOk) else m.failSlot slot).settle := by
  have found' : s.chip.fresh.cmd? slot = some c := found
  refine completes_of_chip rfl ?_
  simp only [found']
  exact if_neg (ne_true_of_eq_false lost)

theorem Chip.barTwinLost_waiting {b : Barrier} (flies : m.isl.flight = some b) (pair : b.twin = true) (unacked : b.twinAck = false) :
    m.barTwinLost = (((m.setF TWN_FAULT.BARRIER 1).emit 27 0x690A).barEnd 2).switchPoll := by
  simp [Chip.barTwinLost, flies, pair, unacked]

theorem snapshotRecordDone_kept {k : Nat} (marker : s.chip.isl.snapMarker = some k) :
    Completes .snapshotRecordDone s fun m =>
      (({ m with isl := { m.isl with snapMarker := none } } : Chip).setF ZNE_SNAPSTAT.MARKER k).setF ZNE_SNAPSTAT.READY 1 := by
  have marker' : s.chip.fresh.isl.snapMarker = some k := marker
  refine completes_of_chip rfl ?_
  simp only [marker']

theorem imageDmaDone_checks {bytes : List Byte} {op len : Nat} (reads : s.chip.img.phase = .dma op len) :
    Completes (.imageDmaDone bytes) s fun m => m.imgCheck op len bytes := by
  have reads' : s.chip.fresh.img.phase = .dma op len := reads
  refine completes_of_chip rfl ?_
  simp only [reads']

theorem storeBankWriteDone_ends {b : List Byte} (writes : s.chip.img.phase = .bankWrite b) (supplied : s.chip.f NVA_STAT.BROWNOUT ≠ 1) :
    Completes .storeBankWriteDone s fun m =>
      let i := m.inactiveBank
      let m := (m.setBank i b).showBank i true
      ({ m with nv := { m.nv with pendErase := [] } } : Chip).imgEnd ⟨1, 0, 0⟩ := by
  have writes' : s.chip.fresh.img.phase = .bankWrite b := writes
  refine completes_of_chip rfl ?_
  simp only [writes']
  exact if_neg supplied

/-- In a brown-out the bank is not written (R314). -/
theorem storeBankWriteDone_brownout (brownout : s.chip.f NVA_STAT.BROWNOUT = 1) : Completes .storeBankWriteDone s fun m => m := by
  have brownout' : s.chip.fresh.f NVA_STAT.BROWNOUT = 1 := brownout
  refine completes_of_chip rfl ?_
  simp only [brownout', if_true]
  split <;> rfl

theorem epochDrainDone_releases (draining : s.chip.f GEN_EPOCH.DRAINING = 1) (unused : s.chip.epochUsed (s.chip.f GEN_EPOCH.OLD) = false) :
    Completes .epochDrainDone s fun m =>
      (({ m with img := { m.img with old := none } } : Chip).setF GEN_EPOCH.DRAINING 0).setF GEN_EPOCH.OLD 0 :=
  have released : (!s.chip.epochUsed (s.chip.f GEN_EPOCH.OLD)) = true := by simp [unused]
  completes_of_chip rfl (if_pos ⟨draining, released⟩)

/-- Settles O46, row by row in the order of the statement. -/
theorem islandBarrierAndImageEventsComplete : Obligations.IslandBarrierAndImageEventsComplete :=
  -- UNIT_RECEIVE
  ⟨fun s _ _ on disarmed passes notCmp => completes_of_chip rfl (((if_neg Bool.false_ne_true).trans (Chip.unitReceive_on (m := s.chip.fresh) on disarmed)).trans
      (congrArg Chip.settle (Chip.unitCheck_passes passes notCmp))),
    fun s _ _ waking => completes_of_chip rfl ((if_neg Bool.false_ne_true).trans (Chip.unitReceive_waking (m := s.chip.fresh) waking)),
    fun _ _ _ => completes_of_chip rfl (if_pos rfl),
    fun s _ _ off => completes_of_chip rfl ((if_neg Bool.false_ne_true).trans (Chip.unitReceive_off (m := s.chip.fresh) off)),
    fun s i _ on disarmed fails => completes_of_chip rfl (((if_neg Bool.false_ne_true).trans (Chip.unitReceive_on (m := s.chip.fresh) on disarmed)).trans
      (congrArg Chip.settle (Chip.unitCheck_fails fails i))),
    -- ISLAND_IDLE_TIMEOUT, ISLAND_DRAIN_DONE
    fun _ _ on trims => completes_of_chip rfl (if_pos ⟨on, trims⟩),
    fun s _ draining unused => completes_of_chip rfl (Chip.drained_unused (m := s.chip.fresh) draining unused),
    fun s _ draining used => completes_of_chip rfl (Chip.drained_used (m := s.chip.fresh) draining used),
    -- DTC_BROADCAST
    fun _ started => dtcBroadcast_none started,
    fun _ _ _ noStart serves notWorst small => dtcBroadcast_small noStart serves notWorst small,
    fun _ _ _ noStart serves worst large shown => dtcBroadcast_worst noStart serves worst large shown,
    -- LOST_PART_WATCHDOG
    fun _ _ _ found lost uncommitted => (lostPartWatchdog_lost found lost).congr (congrArg Chip.settle (if_neg uncommitted)),
    fun _ _ _ found lost committed => (lostPartWatchdog_lost found lost).congr (congrArg Chip.settle (if_pos committed)),
    -- PAIR_BARRIER_TIMEOUT, SNAPSHOT_RECORD_DONE
    fun s _ flies pair unacked => completes_of_chip rfl (Chip.barTwinLost_waiting (m := s.chip.fresh) flies pair unacked),
    fun _ _ marker => snapshotRecordDone_kept marker,
    -- IMAGE_DMA_DONE, STORE_BANK_WRITE_DONE, EPOCH_DRAIN_DONE, LIVEVER_MISMATCH_TIMEOUT
    fun _ _ _ _ reads => imageDmaDone_checks reads,
    fun _ _ writes supplied => storeBankWriteDone_ends writes supplied,
    fun _ brownout => storeBankWriteDone_brownout brownout,
    fun _ draining unused => epochDrainDone_releases draining unused,
    fun _ _ differs => completes_of_chip rfl (if_pos (decide_eq_true differs)),
    fun _ _ same => completes_of_chip rfl (if_neg fun differs => absurd same (of_decide_eq_true differs)),
    -- RETRAIN_TIMEOUT
    fun _ _ notL0 => completes_of_chip rfl (if_neg notL0)⟩

end Sys2Proof.Machine
end

section
/-! PROOFS, family 20_power_states. Lull and Calm, their wake events and exits (R481 to R488), the power sequencer's timeouts (R448 to R451), the
flush's budget (R459) and the power-fail inputs: O48. -/

namespace Sys2Proof.Machine

variable {m : Chip}

/-! ## Fields that an event leaves (R510) -/

theorem Chip.f_incF_ne (m : Chip) {g h : Fld} {n k : Nat} (other : h.key k ≠ g.key n) : (m.incF g n).f h k = m.f h k :=
  m.f_setF_ne _ _ _ _ _ other

/-! ## Power fail and the flush's budget (R451, R459) -/

section
variable (flushing : m.plp.flushing = true)
include flushing

/-- A flush past its budget is a fault event, and misses once. -/
theorem Chip.overBudget_flushing :
    m.overBudget =
      (let x := (m.setF PLP_FAULT.OVERBUDGET 1).emit 0 0x6A07
       if m.plp.late then x else ({ x with plp := { x.plp with late := true } } : Chip).countMiss 0 none) := by
  simp only [Chip.overBudget, flushing, Bool.not_true, Bool.false_eq_true, if_false, Chip.emit_plp, Chip.setF_plp]

theorem Chip.overBudget_again (late : m.plp.late = true) : m.overBudget = (m.setF PLP_FAULT.OVERBUDGET 1).emit 0 0x6A07 :=
  (Chip.overBudget_flushing flushing).trans (if_pos late)

theorem Chip.overBudget_first (inTime : m.plp.late = false) :
    m.overBudget =
      (let m := (m.setF PLP_FAULT.OVERBUDGET 1).emit 0 0x6A07
       ({ m with plp := { m.plp with late := true } } : Chip).countMiss 0 none) :=
  (Chip.overBudget_flushing flushing).trans (if_neg (ne_true_of_eq_false inTime))

end

/-- The input that came first ends its linger with its assertion. -/
theorem Chip.pfailDeassert_first {b : Bool} (first : m.f PLP_STAT.FIRST = b1 b) :
    m.pfailDeassert b = (m.setF (pfailField b) 0).setF PLP_STAT.LINGER 0 := by
  have other : PLP_STAT.FIRST.key 0 ≠ (pfailField b).key 0 := by cases b <;> decide
  exact if_pos ((m.f_setF_ne _ _ _ _ _ other).trans first)

/-! ## Lines that can wake the device (R431, R464, R487) -/

/-- Outside Calm the ports of a group whose PERST_n deasserts train. -/
theorem perstDeassert_trains {s : State} {g : Grp} (asserted : bitOf s.chip.q.perst g = true) (notCalm : s.chip.f PWR_STAT.STATE < 4) :
    Completes (.perstDeassert g) s fun m =>
      let m := { m with q := { m.q with perst := m.q.perst - 2 ^ g.val } }
      ((List.range 4).foldl (fun (m : Chip) k => m.startTraining (4 * g.val + k)) m).powerPoll := by
  have asserted' : bitOf s.chip.fresh.q.perst g = true := asserted
  refine completes_of_chip rfl ?_
  simp only [asserted', if_true]
  exact if_neg (show ¬(s.chip.f PWR_STAT.STATE = 4 ∨ s.chip.f PWR_STAT.STATE = 5) by omega)

theorem Chip.calmWake_awake (not4 : m.f PWR_STAT.STATE ≠ 4) (not5 : m.f PWR_STAT.STATE ≠ 5) (bit wh : Nat) : m.calmWake bit wh = m :=
  if_neg fun ⟨calm, _⟩ => calm.elim not4 not5

theorem Chip.calmWake_enabled {bit : Nat} (calm : m.f PWR_STAT.STATE = 4 ∨ m.f PWR_STAT.STATE = 5)
    (enabled : m.fbit PWR_CALMCFG.WAKEEN bit = true) (wh : Nat) : m.calmWake bit wh = m.wakeEvent (7 + bit) wh :=
  if_pos ⟨calm, enabled⟩

theorem Chip.state_pulseIn (m : Chip) : m.pulseIn.f PWR_STAT.STATE = m.f PWR_STAT.STATE := Chip.f_setF_ne _ _ _ _ _ _ (by decide)

/-! ## Lull (R481 to R483) -/

/-- With no wake event latched Lull is entered once its islands are off. -/
theorem Chip.lullDone_enters (entering : m.f PWR_STAT.STATE = 2) (off : m.allOff ((List.range 28).filter lullOff) = true)
    (unlatched : m.f PWR_STAT.LATCHED = 0) : m.lullDone = ((m.setF PWR_STAT.STATE 3).incF PWR_COUNT.LULLS).emit 0 0x6C01 := by
  have kept : (((m.setF PWR_STAT.STATE 3).incF PWR_COUNT.LULLS).emit 0 0x6C01).f PWR_STAT.LATCHED = 0 := by
    rw [Chip.f_emit_below _ _ _ _ _ _ _ (by decide), Chip.f_incF_ne _ (by decide), Chip.f_setF_ne _ _ _ _ _ _ (by decide), unlatched]
  refine (if_pos ⟨entering, off⟩).trans (if_neg ?_)
  rw [kept]
  decide

theorem Chip.lullWake_asleep (lull : m.f PWR_STAT.STATE = 2 ∨ m.f PWR_STAT.STATE = 3) (src wh : Nat) : m.lullWake src wh = m.wakeEvent src wh :=
  if_pos lull

theorem lullOff_of {i : Nat} (inRange : 12 ≤ i ∧ i ≤ 26) : lullOff i = true := decide_eq_true inRange

theorem Chip.timerWake_lull (armed : m.f PWR_WAKETMR.SECONDS ≠ 0) (lull : m.f PWR_STAT.STATE = 2 ∨ m.f PWR_STAT.STATE = 3) :
    m.timerWake = m.wakeEvent 11 0 :=
  (if_neg armed).trans (if_pos lull)

/-! ## Calm (R485 to R488) -/

/-- With no wake event latched Calm is entered once every island but AON is off. -/
theorem Chip.calmDone_enters (entering : m.f PWR_STAT.STATE = 4) (off : m.allOff ((List.range 27).map (· + 1)) = true)
    (unlatched : m.f PWR_STAT.LATCHED = 0) :
    m.calmDone = ((((m.setF PWR_STAT.STATE 5).setF PWR_CALMRES.RESULT 1).setF PWR_CTL.CALM 0).incF PWR_COUNT.CALMS).emit 0 0x6C02 := by
  have kept : (((((m.setF PWR_STAT.STATE 5).setF PWR_CALMRES.RESULT 1).setF PWR_CTL.CALM 0).incF PWR_COUNT.CALMS).emit 0 0x6C02).f
      PWR_STAT.LATCHED = 0 := by
    rw [Chip.f_emit_below _ _ _ _ _ _ _ (by decide), Chip.f_incF_ne _ (by decide), Chip.f_setF_ne _ _ _ _ _ _ (by decide),
      Chip.f_setF_ne _ _ _ _ _ _ (by decide), Chip.f_setF_ne _ _ _ _ _ _ (by decide), unlatched]
  refine (if_pos ⟨entering, off⟩).trans (if_neg ?_)
  rw [kept]
  decide

/-- With every island awake, DRAM and CEs trained and no twin to shake hands with, the exit completes. -/
theorem Chip.calmExitDone_completes (exiting : m.f PWR_STAT.STATE = 6) (fromCalm : m.f PWR_WAKESRC.FROM = 2)
    (awake : (List.range 28).all (fun i => decide (m.islState i ≠ 1)) = true) (dram : m.dr.runs = [])
    (flash : (List.range 12).any (fun k => m.clusterTrains k) = false) (noTwin : m.f TWN_STAT.STATE ≠ 2) :
    m.calmExitDone =
      (let m := m.calmFirmware
       if m.f TRS_STAT.ROMREC = 1 then m else
       let m := (m.setF PWR_STAT.STATE 1).setF PWR_CTL.WAKE 0
       let m := m.img.tables.pools.foldl (fun (m : Chip) r => m.grantPool r.pool) (m.setF BPM_STAT.MODE 0)
       m.showTrim.late) := by
  refine if_neg ?_
  rw [exiting, fromCalm, awake, dram, flash]
  simp [noTwin]

/-! ## The power sequencer (R448 to R451) -/

theorem Chip.seqFltIn_acts (noOwn : m.f PSQ_STAT.FLT_OUT = 0) (up : m.f PSQ_STAT.DIR < 2) :
    m.seqFltIn = ((m.setF PSQ_STAT.FLT_IN 1).psqLog PSQ_FAULT.EXTERNAL 5 0).shutdown := by
  have kept : ∀ g : Fld, g.key 0 ≠ PSQ_STAT.FLT_IN.key 0 → (m.setF PSQ_STAT.FLT_IN 1).f g = m.f g := fun g => m.f_setF_ne _ _ _ _ _
  refine if_neg ?_
  rw [kept _ (by decide), kept _ (by decide)]
  omega

theorem Chip.frontTimeout_up (up : m.f PSQ_STAT.DIR = 0) : m.frontTimeout = m.seqFault PSQ_FAULT.FRONT 3 0 := if_pos up

theorem Chip.frontTimeout_down (down : m.f PSQ_STAT.DIR = 2) (unpulled : m.f PSQ_STAT.SYNC_PULL = 0) :
    m.frontTimeout = (m.psqLog PSQ_FAULT.FRONT 3 0).seqFront :=
  (if_neg (by omega)).trans (if_pos ⟨down, unpulled⟩)

/-- Settles O48, row by row in the order of the statement. -/
theorem powerStateAndSequencerEventsComplete : Obligations.PowerStateAndSequencerEventsComplete :=
  -- FLUSH_BUDGET_TIMEOUT, PFAIL_DEASSERT, PERST_DEASSERT, TWIN_HB_PULSE_DETECT
  ⟨fun s flushing late => completes_of_chip rfl (Chip.overBudget_again (m := s.chip.fresh) flushing late),
    fun s flushing inTime => completes_of_chip rfl (Chip.overBudget_first (m := s.chip.fresh) flushing inTime),
    fun s _ first => completes_of_chip rfl (Chip.pfailDeassert_first (m := s.chip.fresh) first),
    fun _ _ asserted notCalm => perstDeassert_trains asserted notCalm,
    fun s not4 not5 =>
      have same := s.chip.fresh.state_pulseIn
      completes_of_chip rfl (Chip.calmWake_awake (same.trans_ne not4) (same.trans_ne not5) 3 0),
    -- LULL_IDLE_TIMEOUT, LULL_ENTRY_DONE, LULL_WAKE, WAKE_TIMER_EXPIRY
    fun _ enabled active started idle => completes_of_chip rfl (if_pos ⟨enabled, active, started, idle⟩),
    fun s entering off unlatched => completes_of_chip rfl (Chip.lullDone_enters (m := s.chip.fresh) entering off unlatched),
    fun s _ lull inRange =>
      completes_of_chip rfl ((if_pos (lullOff_of inRange)).trans (Chip.lullWake_asleep (m := s.chip.fresh) lull 1 _)),
    fun s _ lull inRange autowake =>
      completes_of_chip rfl ((if_pos ⟨lullOff_of inRange, autowake⟩).trans (Chip.lullWake_asleep (m := s.chip.fresh) lull 2 _)),
    fun s lull => completes_of_chip rfl (Chip.lullWake_asleep (m := s.chip.fresh) lull 4 0),
    fun s armed lull => completes_of_chip rfl (Chip.timerWake_lull (m := s.chip.fresh) armed lull),
    -- CALM_ENTRY_DONE, CALM_WAKE, CALM_EXIT_DONE, PAIR_HOLD_END
    fun s entering off unlatched => completes_of_chip rfl (Chip.calmDone_enters (m := s.chip.fresh) entering off unlatched),
    fun s calm enabled => completes_of_chip rfl (Chip.calmWake_enabled (m := s.chip.fresh) calm enabled 0),
    fun s calm enabled => completes_of_chip rfl (Chip.calmWake_enabled (m := s.chip.fresh) calm enabled 0),
    fun s g calm enabled => completes_of_chip rfl (Chip.calmWake_enabled (m := s.chip.fresh) calm enabled g.val),
    fun s calm enabled => completes_of_chip rfl (Chip.calmWake_enabled (m := s.chip.fresh) calm enabled 0),
    fun s calm enabled armed =>
      completes_of_chip rfl ((if_neg armed).trans (Chip.calmWake_enabled (m := s.chip.fresh) calm enabled 0)),
    fun s exiting fromCalm awake dram flash noTwin =>
      completes_of_chip rfl (Chip.calmExitDone_completes (m := s.chip.fresh) exiting fromCalm awake dram flash noTwin),
    fun _ held woke => completes_of_chip rfl (if_pos ⟨held, woke⟩),
    -- DISCHARGE_TIMEOUT, SEQ_FLT_ASSERT, FRONT_TIMEOUT, STANDBY_RAIL_LOSS
    fun _ _ discharging => completes_of_chip rfl (if_neg (not_not_intro discharging)),
    fun s noOwn up => completes_of_chip rfl (Chip.seqFltIn_acts (m := s.chip.fresh) noOwn up),
    fun s up => completes_of_chip rfl (Chip.frontTimeout_up (m := s.chip.fresh) up),
    fun s down unpulled => completes_of_chip rfl (Chip.frontTimeout_down (m := s.chip.fresh) down unpulled),
    fun _ => completes_of_chip rfl rfl⟩

end Sys2Proof.Machine
end

section
/-! PROOFS, family 17_twin. What the twin link receives (R405 to R441), and a barrier whose acknowledgements are in (R54 to R58): O53. -/

namespace Sys2Proof.Machine

variable {m : Chip} {s : State} {r : RxFrame} {i c : Instr} {t : Chip} {e : Chip → Chip}

/-! ## A frame that is accepted, as a command -/

/-- A row whose frame is in order and has the effect `t` acknowledges it. -/
theorem completes_of_held {clear : Bool} (takes : exec c s = run s fun m => (m.rxReliable i r clear).late) (order : s.chip.inOrder r)
    (held : (s.chip.fresh.expectNext r.sub.val).frameEffect i = (t, true)) (same : (t.sendAck r.sub.val false).late = e s.chip.fresh) :
    Completes c s e :=
  completes_of takes ((congrArg Chip.late (Chip.rxReliable_held (m := s.chip.fresh) order held)).trans same)

/-- One whose frame is in order and cannot have its effect yet keeps it back. -/
theorem completes_of_waits (takes : exec c s = run s fun m => (m.rxReliable i r false).late) (order : s.chip.inOrder r)
    (waits : (s.chip.fresh.expectNext r.sub.val).frameEffect i = (t, false))
    (same : (t.setSub r.sub.val { t.sub r.sub.val with waits := [i] }).late = e s.chip.fresh) : Completes c s e :=
  completes_of takes ((congrArg Chip.late (Chip.rxReliable_waits (m := s.chip.fresh) order waits)).trans same)

/-- One whose frame comes in the handshake, before keys, acknowledges it. -/
theorem completes_of_clear (takes : exec c s = run s fun m => (m.rxReliable i r true).late) (clear : s.chip.inClear r)
    (held : (s.chip.fresh.expectNext r.sub.val).frameEffect i = (t, true)) (same : (t.sendAck r.sub.val false).late = e s.chip.fresh) :
    Completes c s e :=
  completes_of takes ((congrArg Chip.late (Chip.rxReliable_clear (m := s.chip.fresh) clear held)).trans same)

/-! ## Barriers (R54 to R58) -/

section
variable {b : Barrier}

/-- The chip as the acknowledgements of its barrier in flight are counted. -/
def Chip.barCounted (m : Chip) (b : Barrier) : Chip := { m with isl := { m.isl with flight := some (m.barMerge b) } }

/-- A barrier of the CW has no acknowledgement of a switch to pass on. -/
theorem Chip.barComplete_cw (flies : m.isl.flight = some b) (cw : b.src = .cw) :
    m.barComplete =
      (if (m.barMerge b).acks ≠ 0xFFF ∨ (b.twin ∧ !b.twinAck) then m.barCounted b else (m.barCounted b).barEnd 1).switchPoll := by
  have notImage : (m.barMerge b).src ≠ .image := by
    rw [show (m.barMerge b).src = b.src from rfl, cw]
    decide
  unfold Chip.barComplete
  rw [flies]
  simp only [if_neg notImage]
  cases m.img.switch <;> rfl

/-- Only a barrier of the twin's hands over. -/
theorem Chip.barDone_cw (flies : m.isl.flight = some b) (cw : b.src = .cw) : m.barDone = m.barComplete := by
  simp [Chip.barDone, flies, cw]

theorem Chip.barDone_ends (flies : m.isl.flight = some b) (cw : b.src = .cw) (acked : (m.barMerge b).acks = 0xFFF)
    (twin : b.twin = false ∨ b.twinAck = true) : m.barDone = ((m.barCounted b).barEnd 1).switchPoll := by
  rw [Chip.barDone_cw flies cw, Chip.barComplete_cw flies cw, if_neg (by rcases twin with h | h <;> simp [acked, h])]

theorem Chip.barDone_waits (flies : m.isl.flight = some b) (cw : b.src = .cw)
    (waits : (m.barMerge b).acks ≠ 0xFFF ∨ (b.twin = true ∧ b.twinAck = false)) : m.barDone = (m.barCounted b).switchPoll := by
  rw [Chip.barDone_cw flies cw, Chip.barComplete_cw flies cw, if_pos (by simpa using waits)]

theorem Chip.barDone_none (noneFlies : m.isl.flight = none) : m.barDone = m := by
  simp [Chip.barDone, Chip.barComplete, noneFlies]

end

/-! ## Sub-links (R405, R407) -/

theorem Chip.flit_up {sub : SubLink} (up : (m.sub sub).up = true) (bytes : List Byte) (found : Option TwinEvidence) :
    m.flit sub bytes found =
      (let x := m.sub sub
      let b := fit 256 (Config.flitCorrect bytes)
      let first := fieldAt b 0 2
      if fieldAt b 242 8 ≠ crc64 (b.take 242) then
        let m := (m.setSub sub { x with badFlits := x.badFlits + 1, rxPart := [], rxSync := false }).incF TWN_SLERR.CRC sub
        if 16 ≤ x.badFlits + 1 then m.subDown sub else if x.rxPart ≠ [] then m.sendAck sub true else m
      else
        let m := m.setSub sub { x with badFlits := 0 }
        let m := if x.rxSync && decide (x.rxPart ≠ []) then
            m.frameBytesIn sub found 1 (if first ≤ 239 then slice b 2 first else slice b 2 240) else m
        if 239 < first then m
        else
          let m := if (m.sub sub).rxPart ≠ [] then m.loseFrame sub else m
          let y := m.sub sub
          if y.up then (m.setSub sub { y with rxPart := [], rxSync := true }).frameBytesIn sub found 8 (slice b (2 + first) (240 - first))
          else m) :=
  if_neg (by simp [up])

/-- A sub-link without keys comes up (R405): HELLO goes out in the clear. -/
theorem Chip.subUp_hello {sub : Nat} (down : (m.sub sub).up = false) (enabled : m.linkEnabled sub = true) (serves : m.islServes 27 = true)
    (awake : m.twnIdle = false) (noKey : (m.sub sub).keyNum = 0) (rate : Nat) :
    m.subUp sub rate =
      (let m := m.setSub sub { m.sub sub with up := true, badFlits := 0 }
      let m := ((m.setF TWN_SLSTAT.RATE rate sub).setBit TWN_STAT.UP sub true).emit 27 0x6902
      let m := (m.setSub sub { m.sub sub with txSeq := 0, expect := 1, replay := [], queue := [] }).sendOn sub
        (TxFrame.make 0x01 none none [] m.helloBody)
      let y := m.sub (1 - sub)
      let m := if y.up then m
        else (m.setSub sub { m.sub sub with queue := y.queue ++ (m.sub sub).queue }).setSub (1 - sub) { y with queue := [] }
      m.pumpSub sub) := by
  simp only [Chip.subUp, down, enabled, serves, awake, noKey, Bool.not_true, Bool.or_false, Bool.false_eq_true, if_false, if_true]

/-! ## Mirror data of the twin's zones (R423 to R425) -/

section
variable {z row off deadline : Nat} {body : List Byte} {x : MirRow}

theorem Chip.mirRoom_there (there : tfind m.tw.mirror (rowKey z row) = some x) : m.mirRoom z row deadline = (m, true) :=
  if_pos (by rw [there]; rfl)

/-- With no pool for mirror data a row that is not there finds no room. -/
theorem Chip.mirRoom_noPool (absent : tfind m.tw.mirror (rowKey z row) = none) (noPool : m.img.tables.poolOf 36 = none) :
    m.mirRoom z row deadline = (m, false) := by
  simp only [Chip.mirRoom, absent, noPool, Option.isSome_none, Bool.false_eq_true, if_false]

theorem Chip.mirIn_there (there : tfind m.tw.mirror (rowKey z row) = some x) :
    m.mirIn z row off deadline body =
      (({ m with tw := { m.tw with
        mirror := tput m.tw.mirror (rowKey z row)
          { x with have_ := (x.have_.filter fun e => decide (e ≠ (off, body.length))) ++ [(off, body.length)] }
        mirData := memSetBytes m.tw.mirData (2 ^ 33 * z + 4194304 * row + off) body } } : Chip).showMirror, true) := by
  simp only [Chip.mirIn, Chip.mirRoom_there there, tget_of_tfind MirRow.blank there, Bool.not_true, Bool.false_eq_true, if_false]

theorem Chip.mirIn_noPool (absent : tfind m.tw.mirror (rowKey z row) = none) (noPool : m.img.tables.poolOf 36 = none) :
    m.mirIn z row off deadline body = (m, false) := by
  simp only [Chip.mirIn, Chip.mirRoom_noPool absent noPool, Bool.not_false, if_true]

theorem Chip.parityIn_there {member : Nat} (there : tfind m.tw.mirror (rowKey z row) = some x) :
    m.parityIn z row member off deadline body =
      ({ m with tw := { m.tw with
        mirror :=
          let u := (tfind x.parity member).getD []
          tput m.tw.mirror (rowKey z row) { x with parity := tput x.parity member (fit off u ++ body ++ u.drop (off + body.length)) } } },
        true) := by
  simp only [Chip.parityIn, Chip.mirRoom_there there, tget_of_tfind MirRow.blank there, Bool.not_true, Bool.false_eq_true, if_false]

end

section
variable {z row pwp from_ : Nat}

theorem Chip.releaseIn_programmed :
    m.releaseIn z row 0 pwp from_ =
      ((m.setZone z { m.zone z with pwp := pwp, rows := max (m.zone z).rows (row + 1) }).mirFree (rowKey z row)).showMirror := by
  simp only [Chip.releaseIn, true_or, if_true]

theorem Chip.releaseIn_spilled : m.releaseIn z row 1 pwp from_ = (m.mirFree (rowKey z row)).showMirror := by
  simp only [Chip.releaseIn, or_true, Nat.one_ne_zero, if_true, if_false]

end

/-! ## Forwarded work (R424, R427, R429) -/

section
variable {q : FwdOp}

/-- The operation a FWDREQ asks for, as this controller keeps it. -/
def fwdKept (r : RxFrame) (op : Nat) (q : FwdOp) : FwdIn :=
  { id := q.req.toNat, op := op, flags := q.flags.val, zone := (frameZone r).getD 0, row := q.row.val, die := q.die.val, block := q.block.val
    page := q.page.val, cw := q.cw.val, tenant := q.tenant.val }

/-- The die unit of such an operation on chip `m`. -/
def Chip.fwdUnit (m : Chip) (r : RxFrame) (kind : UKind) (q : FwdOp) : DUnit :=
  { DUnit.make q.die.val kind (.forwarded q.req.toNat) Config.fwdClass.val (m.arriveBy r.slack) q.block.val q.row.val q.page.val with
    tenant := q.tenant.val, internal := decide (q.tenant.val = 0xFFFF), slc := bitOf q.flags.val 0
    cw := if q.page.val = 255 then 0 else q.cw.val % 4
    ncw := if q.page.val = 255 then (if bitOf q.flags.val 0 then 16 else 64) else q.cw.val / 4 + 1 }

/-- The chip with an operation of the twin's kept, and its unit in the die's queue. -/
def Chip.fwdQueued (m : Chip) (r : RxFrame) (op : Nat) (kind : UKind) (q : FwdOp) : Chip :=
  let m : Chip := { m with tw := { m.tw with fwdIns := tput m.tw.fwdIns q.req.toNat (fwdKept r op q) } }
  (m.newUnit (m.fwdUnit r kind q)).enqueueDie q.die.val

/-- The fields of a FWDREQ name what the device has, and its die is in service on a channel this controller drives (R411). -/
structure Chip.FwdFits (m : Chip) (q : FwdOp) : Prop where
  flags : q.flags.val < 16
  die : q.die.val < 3072
  block : q.block.val < m.flash.userBlocks
  row : q.row.val < 1024
  tenant : q.tenant.val < 4096
  drives : m.drives q.die = true
  inService : 2 ≤ m.f FCH_DIE.STATE q.die
  notFailed : m.f FCH_DIE.STATE q.die ≤ 5

/-- An operation that fits becomes a unit of its kind; a read names one page, or all of them. -/
theorem Chip.fwdOpIn_fits {op : Nat} (fits : m.FwdFits q)
    (pages : op = 1 → q.page.val < 16 ∧ q.cw.val < 16 ∨ q.page.val = 255 ∧ q.cw.val = 255) :
    m.fwdOpIn r op q = m.fwdQueued r op (if op = 1 then .read else if op = 2 then .program else .erase) q := by
  obtain ⟨flags, die, block, row, tenant, drives, inService, notFailed⟩ := fits
  have coded : ¬(16 ≤ q.flags.val ∨ 3072 ≤ q.die.val ∨ m.flash.userBlocks ≤ q.block.val ∨ 1024 ≤ q.row.val ∨ 4096 ≤ q.tenant.val ∨
      (op = 1 ∧ !(decide (q.page.val < 16 ∧ q.cw.val < 16) || decide (q.page.val = 255 ∧ q.cw.val = 255)))) := by
    simp only [not_or, not_le, not_and, Bool.not_eq_true', Bool.not_eq_false, Bool.or_eq_true, decide_eq_true_eq]
    exact ⟨flags, die, block, row, tenant, pages⟩
  have driven : ¬(!m.drives q.die) = true := by simp [drives]
  have served : ¬(m.f FCH_DIE.STATE q.die < 2 ∨ 5 < m.f FCH_DIE.STATE q.die) := by omega
  exact (if_neg coded).trans ((if_neg driven).trans (if_neg served))

end

/-- Data of a write of the twin's that is not whole yet is stored with what came before (R427). -/
theorem Chip.fwdData_stored {req off : Nat} {body : List Byte} {sc : Nat × Cmd} (ofTwin : req < 65536)
    (found : m.q.slots.find? (fun e => decide (e.2.peer = some req)) = some sc) (writes : sc.2.writing = true) (open_ : sc.2.staged = false) :
    m.fwdData req off body = m.fwdStored sc.1 sc.2 off body := by
  unfold Chip.fwdData
  simp only [if_pos ofTwin, found, writes, open_, Bool.not_false, Bool.and_true, if_true]

/-- The twin has programmed what was forwarded to it (R424). -/
theorem Chip.fwdAnswer_programmed {req bits_ busyUs : Nat} {f : Fwd} (asked : tfind m.tw.fwds req = some f) (program : f.unit.kind = .program) :
    m.fwdAnswer req 0 bits_ busyUs =
      ({ m with tw := { m.tw with fwds := tdel m.tw.fwds req } } : Chip).progDone f.unit (usTicks busyUs) := by
  simp only [Chip.fwdAnswer, asked, program, reduceCtorEq, if_true, if_false]

section
variable {fn : Fn} {queue : BitVec 32} {slot : SlotId} {tenant : Ten} {cls : Grp} {flags level : Fin 256} {entry : List Byte} {n : Chip}

/-- A command of the twin's that takes a device slot is held. -/
theorem Chip.frameEffect_fwdcmd_taken (taken : m.fwdCmdIn r fn queue.toNat slot tenant cls flags level entry = some n) :
    m.frameEffect (.fwdcmd r fn queue slot tenant cls flags level entry) = (n, true) := by
  rw [Chip.frameEffect_fwdcmd, taken]
  rfl

/-- With no device slot free it waits. -/
theorem Chip.frameEffect_fwdcmd_full (full : m.deviceSlot = none) :
    m.frameEffect (.fwdcmd r fn queue slot tenant cls flags level entry) = (m, false) := by
  rw [Chip.frameEffect_fwdcmd, Chip.fwdCmdIn, full]
  rfl

end

/-- The twin's completion of a forwarded command that brings no data is posted (R427). -/
theorem Chip.fwdCpl_posted {slot : Nat} {c : Cmd} (held : m.cmd? slot = some c) (forwarded : c.fwd = true) (noRead : opcodeOf c.entry ≠ 0x02)
    (status dw0 : Nat) :
    m.fwdCpl slot status dw0 =
      (m.finish slot (some { sct := bits status 10 8, sc := bits status 7 0, dnr := bitOf status 15 }) dw0).settle := by
  simp only [Chip.fwdCpl, held, forwarded, noRead, Bool.not_true, Bool.false_eq_true, false_and, if_false]

/-! ## Heartbeats, markers and fences (R57, R430, R434) -/

theorem Chip.beatIn_free (free : m.tw.heldHb = false) (dtc state : Nat) :
    m.beatIn dtc state = { m with tw := { m.tw with hbSeen := true, peerState := state, peerDtc := dtc } } :=
  if_neg (by simp [free])

theorem Chip.markerIn_acknowledges {marker : Nat} {b : Barrier} (flies : m.isl.flight = some b) (ofPair : b.twin = true)
    (same : b.marker = marker) (snap : Bool) :
    m.markerIn marker snap true = { m with isl := { m.isl with flight := some { b with twinAck := true } } } := by
  simp only [Chip.markerIn, flies, ofPair, same, and_self, if_true]

theorem Chip.fenceIn_fenced (yields : m.f TWN_LINES.FENCE_OUT = 0 ∨ m.side = 1) : m.fenceIn = m.fenced :=
  if_neg (by omega)

/-! ## CTRL frames (R425, R440) -/

/-- The owner of a row that is filled, not programmed and not spilled sends its mirror frames again. -/
theorem Chip.resendRow_held {z row : Nat} (owns : m.ownsZone z = true) (filled : 4194304 * row < m.filledBytes z)
    (notProgrammed : (m.zone z).rows ≤ row) (notSpilled : (m.row z row).spill = none) :
    m.resendRow z row = m.mirrorFrames z row (min (m.filledBytes z - 4194304 * row) 4194304) :=
  if_neg (by simp only [owns, notSpilled, Bool.not_true, Option.isSome_none, Bool.false_eq_true, false_or, or_false]; omega)

/-! ## The rows -/

/-- Settles O53, row by row in the order of the statement. -/
theorem twinLinkFramesComplete : Obligations.TwinLinkFramesComplete := by
  refine ⟨?_, ?_, ?_, ?_, ?_, ?_, ?_, ?_, ?_, ?_, ?_, ?_, ?_, ?_, ?_, ?_, ?_, ?_, ?_, ?_, ?_, ?_, ?_, ?_, ?_, ?_, ?_, ?_, ?_, ?_, ?_, ?_, ?_,
    ?_, ?_, ?_⟩
  · exact fun s b flies cw acked twin => completes_of_chip rfl
      (congrArg Chip.late (Chip.barDone_ends (m := s.chip.fresh) flies cw acked twin))
  · exact fun s b flies cw waits => completes_of_chip rfl (congrArg Chip.late (Chip.barDone_waits (m := s.chip.fresh) flies cw waits))
  · exact fun s noneFlies => completes_of_chip rfl (congrArg Chip.late (Chip.barDone_none (m := s.chip.fresh) noneFlies))
  · exact fun s sub bytes found up => completes_of_chip rfl (congrArg Chip.late (Chip.flit_up (m := s.chip.fresh) up bytes found))
  · exact fun s sub full down enabled serves awake noKey => completes_of_chip rfl
      (congrArg Chip.late (Chip.subUp_hello (m := s.chip.fresh) down enabled serves awake noKey _))
  · exact fun s sub _ => completes_of_chip rfl rfl
  · exact fun s r body clear => completes_of_clear rfl clear rfl rfl
  · exact fun s r msg index last msgLen fragLen body found clear => completes_of_clear rfl clear rfl rfl
  · exact fun s r body order => completes_of_held rfl order rfl rfl
  · exact fun s r dtc state devbaro epoch sound free => completes_of_chip rfl
      ((Chip.rxUnseq_verified (m := s.chip.fresh) sound _).trans (Chip.beatIn_free (m := s.chip.fresh) free _ _))
  · exact fun s r ackSeq credSeq nak sound => completes_of_chip rfl
      (congrArg Chip.late (Chip.rxUnseq_verified (m := s.chip.fresh) sound _))
  · exact fun s r row offset body x order there => completes_of_held rfl order (Chip.mirIn_there there) rfl
  · exact fun s r row offset body order absent noPool => completes_of_waits rfl order (Chip.mirIn_noPool absent noPool) rfl
  · exact fun s r cwp rwp pfp flags body n order committed => completes_of_held rfl order committed rfl
  · exact fun s r row pwp from_ order => completes_of_held rfl order (congrArg (·, true) Chip.releaseIn_programmed) rfl
  · exact fun s r row pwp from_ order => completes_of_held rfl order (congrArg (·, true) Chip.releaseIn_spilled) rfl
  · exact fun s r body order => completes_of_held rfl order rfl rfl
  · exact fun s r row member q offset body x order there => completes_of_held rfl order (Chip.parityIn_there there) rfl
  · exact fun s r q order flags die block row tenant drives inService notFailed pages => completes_of_held rfl order
      (congrArg (·, true) (Chip.fwdOpIn_fits ⟨flags, die, block, row, tenant, drives, inService, notFailed⟩ fun _ => pages)) rfl
  · exact fun s r q order flags die block row tenant drives inService notFailed => completes_of_held rfl order
      (congrArg (·, true) (Chip.fwdOpIn_fits ⟨flags, die, block, row, tenant, drives, inService, notFailed⟩ fun read => absurd read (by decide))) rfl
  · exact fun s r q order flags die block row tenant drives inService notFailed => completes_of_held rfl order
      (congrArg (·, true) (Chip.fwdOpIn_fits ⟨flags, die, block, row, tenant, drives, inService, notFailed⟩ fun read => absurd read (by decide))) rfl
  · exact fun s r req offset body sc order ofTwin found writes open_ => completes_of_held rfl order
      (congrArg (·, true) (Chip.fwdData_stored ofTwin found writes open_)) rfl
  · exact fun s r req status bits_ busyUs f order asked program ok => completes_of_held rfl order
      (ok ▸ congrArg (·, true) (Chip.fwdAnswer_programmed asked program)) rfl
  · exact fun s r fn queue slot tenant cls flags level entry c order taken => completes_of_held rfl order
      (Chip.frameEffect_fwdcmd_taken (m := s.chip.fresh.expectNext r.sub.val) taken) rfl
  · exact fun s r fn queue slot tenant cls flags level entry order full => completes_of_waits rfl order
      (Chip.frameEffect_fwdcmd_full (m := s.chip.fresh.expectNext r.sub.val) full) rfl
  · exact fun s r slot status dw0 c order held forwarded noRead => completes_of_held rfl order
      (congrArg (·, true) (Chip.fwdCpl_posted (m := s.chip.fresh.expectNext r.sub.val) held forwarded noRead _ _)) rfl
  · exact fun s r marker snap order => completes_of_held rfl order rfl rfl
  · exact fun s r marker snap b order flies ofPair same => completes_of_held rfl order
      (congrArg (·, true) (Chip.markerIn_acknowledges (m := s.chip.fresh.expectNext r.sub.val) flies ofPair same snap)) rfl
  · exact fun s r reason sound yields => completes_of_chip rfl
      (congrArg Chip.late ((Chip.rxUnseq_verified (m := s.chip.fresh) sound _).trans (Chip.fenceIn_fenced (m := s.chip.fresh) yields)))
  · exact fun s r sound => completes_of_chip rfl (congrArg Chip.late (Chip.rxUnseq_verified (m := s.chip.fresh) sound _))
  · exact fun s r blocks order => completes_of_held rfl order rfl rfl
  · exact fun s r row order owns filled notProgrammed notSpilled => completes_of_held rfl order
      (congrArg (·, true) (Chip.resendRow_held owns filled notProgrammed notSpilled)) rfl
  · exact fun s r order => completes_of_held rfl order rfl rfl
  · exact fun s r body order gone => completes_of_held rfl order (congrArg (·, true) (if_pos gone)) rfl
  · exact fun s r body order present => completes_of_held rfl order (congrArg (·, true) (if_neg present)) rfl
  · exact fun s r order => completes_of_held rfl order rfl rfl

end Sys2Proof.Machine
end
